-- ==== Sys2Proof/Word.lean ====
section
/-!
DEFINITION. The data sizes of the package (spec/00_scope.md R2, R3) and the sparse tables in which
the model holds every store. Words are bit vectors; positions, counts and addresses are `Nat`.
-/

namespace Sys2Proof

/-- A byte. -/
abbrev Byte := BitVec 8
/-- A 32-bit word: a bundle header, a slot word, a matrix element. -/
abbrev W32 := BitVec 32
/-- A 64-bit word: the width of an s-register. -/
abbrev Word := BitVec 64
/-- A 256-bit value: a yarn descriptor, a key, a digest, a lane-predicate register. -/
abbrev W256 := BitVec 256
/-- A vector of 2048 bits (256 bytes): one cell of a vector queue. -/
abbrev Vec := BitVec 2048
/-- A vector accumulator of 4096 bits. -/
abbrev AccVec := BitVec 4096

/-- A sparse table: positions strictly rising, each with its content. A position that is not listed
holds the default its reader names. -/
abbrev Tab (α : Type) := List (Nat × α)

end Sys2Proof
end

