-- ==== Sys2Proof/Config.lean ====
section
/-!
DEFINITION. What is fixed for one package, and the free values. A constant declared `opaque` has no
body: nothing in Lean can evaluate it or prove a value of it, so a claim that holds of the model
holds whatever the value is.
-/

namespace Sys2Proof.Config

/-! ## Fuses and what the chip is made with (spec/03_admission_and_trust.md R43-R47) -/

/-- SERIAL, the chip's serial number (DESIGN CHOICE, log entry 72). -/
opaque serial : Word
/-- IDSEED, the seed of the identity key pair (DESIGN CHOICE, log entry 72). -/
opaque idSeed : W256
/-- SEALROOT, the sealing root (DESIGN CHOICE, log entry 72). -/
opaque sealRoot : W256
/-- PROD: a production part. -/
opaque prod : Bool
/-- The fused SVN at the first reset of the model. -/
opaque svnFuse : Fin 65

/-- An RSA public key. -/
structure RsaKey where
  modulus : Nat
  exponent : Nat
  deriving DecidableEq, Repr, Inhabited

/-- An RSA key pair: its public key and the private exponent. -/
structure RsaPair where
  pub : RsaKey
  priv : Nat
  deriving DecidableEq, Repr, Inhabited

/-- R44, R435: the fixed procedure that derives an RSA-3072 key pair from 32 bytes; the spec does not give it (DESIGN CHOICE,
log entry 72). -/
opaque keyPair : W256 → RsaPair

/-- The two certificates that are the chip's own (R45); the sealing certificate allows key encipherment only. -/
inductive CertKind where
  | device
  | sealing
  deriving DecidableEq, Repr

/-- R45: the Caergan root certificate and the product CA certificate, in DER. -/
opaque rootCert : List Byte
opaque productCert : List Byte
/-- R45: what is signed of a certificate that carries a SERIAL and a public key: its DER form is X.509's (DESIGN CHOICE, log
entry 72). -/
opaque certBody : CertKind → Word → RsaKey → List Byte
/-- R45: a certificate in DER, of what is signed and the signature (DESIGN CHOICE, log entry 72). -/
opaque certFile : List Byte → List Byte → List Byte
/-- R45: the product CA's signature, which the chip was made with (DESIGN CHOICE, log entry 72). -/
opaque productSign : List Byte → List Byte
/-- R47 block 0x01: digest of the boot ROM. -/
opaque bootRomDigest : W256
/-- R47 block 0x04: digest of the Caergan service channel program. -/
opaque serviceDigest : W256
/-- R67: the firmware the package starts with: its SVN. -/
opaque firmwareSvn : Fin 65
/-- R47 blocks 0x02 and 0x03: digests of a firmware image's two parts, of the whole image's digest.
How an image is divided is not in the spec. -/
opaque spaiqueDigest : W256 → W256
/-- R47 block 0x03, of the image's digest. -/
opaque stewardDigest : W256 → W256
/-- Digest of the firmware the package starts with. -/
opaque firmwareDigest : W256

/-- A certificate of a chain: the key it is for, what is signed of it, and the signature by the next one's key. -/
structure SignedCert where
  key : RsaKey
  body : List Byte
  sig : Nat
  deriving DecidableEq, Repr, Inhabited

/-- R66: a firmware image: its SVN, what the signature covers, the signature, and the certificates from the firmware key's
to the root's. -/
structure FirmwareFile where
  svn : Nat
  signed : List Byte
  sig : Nat
  certs : List SignedCert
  deriving DecidableEq, Repr, Inhabited

/-- R66: how an image's bytes hold these is not in the spec; `none` where they do not (DEDUCED, log entry 58). -/
opaque firmwareFile : List Byte → Option FirmwareFile
/-- R66: the bytes of a public key, of which the boot ROM holds a digest (DEDUCED, log entry 58). -/
opaque keyForm : RsaKey → List Byte
/-- R66: the digest of the root public key in the boot ROM. -/
opaque rootKeyDigest : W256
/-- R50: the value of the PF's Vendor ID register. -/
opaque vendorId : Nat

/-! ## SPDM with a switch (spec/16_fabric_and_switch_trust.md R372-R374): how SPDM frames its messages is not in the spec -/

/-- What SPDM negotiates (R372): the version, the algorithms, and the capabilities the responder has. -/
structure SpdmTerms where
  version : Nat
  asym : String
  hash : String
  dhe : String
  aead : String
  caps : List String
  deriving DecidableEq, Repr, Inhabited

/-- What a switch's message says (R372, R373): that more is to come; what was negotiated; a certificate chain, with its
root certificate, and whether it holds; measurements, by index, and whether their signature holds; that the secure session
is open; a response's status; that its session has ended. -/
inductive SwitchSays where
  | more
  | negotiated (terms : SpdmTerms)
  | chain (root : List Byte) (ok : Bool)
  | measured (blocks : List (Nat × List Byte)) (signed : Bool)
  | opened
  | status (n : Nat)
  | ended
  deriving DecidableEq, Repr, Inhabited

/-- What the bytes of a message say at a step of an admission (DESIGN CHOICE, log entry 52). -/
opaque switchSays : Nat → List Byte → SwitchSays
/-- The bytes of the SPDM requests of a step; the first asks for terms (DESIGN CHOICE, log entry 52). -/
opaque spdmAsk : Nat → SpdmTerms → List Byte
/-- R50: a VENDOR_DEFINED_REQUEST under a vendor's ID, of its payload (DESIGN CHOICE, log entry 52). -/
opaque spdmVendor : Nat → List Byte → List Byte
/-- A message inside the secure session with a switch, named by world and ordinal (DESIGN CHOICE, log entry 52). -/
opaque spdmSecure : Nat → Nat → List Byte → List Byte

/-! ## Free values: each application to a fresh counter of `State` is a value the spec leaves open -/

/-- A free choice among the naturals: a time within a bound, one of several lines, a response from
outside. Its users clamp it to the bounds the spec sets (DESIGN CHOICE, log entry 3). -/
opaque freeNat : Nat → Nat
/-- A random 256-bit value: a memory key, a nonce (spec/03_admission_and_trust.md R56; spec/17_interruption_and_preemption.md R401; spec/16_fabric_and_switch_trust.md R382)
(DESIGN CHOICE, log entry 3). -/
opaque freeKey : Nat → W256

end Sys2Proof.Config
end

