-- ==== Sys2Proof/Syntax.lean ====
section
/-!
DEFINITION. The instructions of the Qualas package: one constructor of `Instr` for each row of the
opcode table. The first 185 rows are 32-bit slot words (spec/02_program_image_and_encodings.md R21-R26 and the instruction
chapters); their operands are the fields of the word. The other 132 rows have no words: they are
the steps the part takes on its own and the requests that reach it from outside
(spec/95_what_each_step_holds.md); their operands say which agent takes the step or what the request carries.
-/

namespace Sys2Proof

/-! ## Operands of the slot words. `g` is the guard predicate of R21. -/

/-- RR layout of R22: destination `d` (`q` push), sources `a` (`m` pop) and `b` (`n` pop). -/
structure RR where
  g : Nat
  d : Nat
  q : Bool
  a : Nat
  m : Bool
  b : Nat
  n : Bool
  deriving DecidableEq, Repr

/-- RR layout with B unused (R25): destination `d` (`q` push), source `a` (`m` pop). -/
structure RU where
  g : Nat
  d : Nat
  q : Bool
  a : Nat
  m : Bool
  deriving DecidableEq, Repr

/-- SEL: RR layout with the selecting predicate `p` in [3:0]. -/
structure RRP where
  g : Nat
  d : Nat
  q : Bool
  a : Nat
  m : Bool
  b : Nat
  n : Bool
  p : Nat
  deriving DecidableEq, Repr

/-- ADDS: RR layout with the shift `k` in [3:0]. -/
structure RRK where
  g : Nat
  d : Nat
  q : Bool
  a : Nat
  m : Bool
  b : Nat
  n : Bool
  k : Nat
  deriving DecidableEq, Repr

/-- CMP.cc and FCMP.cc: condition `c`, predicate pair `p`, sources `a` (`m` pop), `b` (`n` pop). -/
structure CmpRR where
  g : Nat
  c : Nat
  p : Nat
  a : Nat
  m : Bool
  b : Nat
  n : Bool
  deriving DecidableEq, Repr

/-- CMPI.cc: condition `c`, predicate pair `p`, source `a` (`m` pop), immediate `i`. -/
structure CmpRI where
  g : Nat
  c : Nat
  p : Nat
  a : Nat
  m : Bool
  i : Nat
  deriving DecidableEq, Repr

/-- RI layout of R22: register `d` (`q` its mark), source `a` (`m` pop), immediate `i`. -/
structure RI where
  g : Nat
  d : Nat
  q : Bool
  a : Nat
  m : Bool
  i : Nat
  deriving DecidableEq, Repr

/-- RL layout of R22: register `d` (`q` its mark), immediate `i` of 16 bits. -/
structure RL where
  g : Nat
  d : Nat
  q : Bool
  i : Nat
  deriving DecidableEq, Repr

/-- Predicate logic: pair `p`, source predicates `a`, `b`. -/
structure PLog where
  g : Nat
  p : Nat
  a : Nat
  b : Nat
  deriving DecidableEq, Repr

/-- PSET: pair `p`, value `v`. -/
structure PSet where
  g : Nat
  p : Nat
  v : Bool
  deriving DecidableEq, Repr

/-- FFMA: RR layout with the negations `u` (product) and `v` (addend). -/
structure RRF where
  g : Nat
  d : Nat
  q : Bool
  a : Nat
  m : Bool
  b : Nat
  n : Bool
  u : Bool
  v : Bool
  deriving DecidableEq, Repr

/-- FCVT: unary layout with the conversion `f`. -/
structure RUF where
  g : Nat
  d : Nat
  q : Bool
  a : Nat
  m : Bool
  f : Nat
  deriving DecidableEq, Repr

/-- QLEN: destination `d` (`q` push), the queue `a` whose length is read. -/
structure QLen where
  g : Nat
  d : Nat
  q : Bool
  a : Nat
  deriving DecidableEq, Repr

/-- QCLR: the queue `a`. -/
structure QReg where
  g : Nat
  a : Nat
  deriving DecidableEq, Repr

/-- CSRRD: destination `d` (`q` push), CSR number `c`. -/
structure CsrRd where
  g : Nat
  d : Nat
  q : Bool
  c : Nat
  deriving DecidableEq, Repr

/-- CSRWR: CSR number `c`, source `a` (`m` pop). -/
structure CsrWr where
  g : Nat
  c : Nat
  a : Nat
  m : Bool
  deriving DecidableEq, Repr

/-- BR: word offset `o` (22 bits, signed). -/
structure Br where
  g : Nat
  o : Nat
  deriving DecidableEq, Repr

/-- BRL: line `l` and word offset `o` (21 bits). -/
structure Brl where
  g : Nat
  l : Bool
  o : Nat
  deriving DecidableEq, Repr

/-- One scalar source `a` (`m` pop). -/
structure SA where
  g : Nat
  a : Nat
  m : Bool
  deriving DecidableEq, Repr

/-- LOOP: count in `a` (`m` pop), stages `s`. -/
structure Loop where
  g : Nat
  a : Nat
  m : Bool
  s : Nat
  deriving DecidableEq, Repr

/-- LOOPI: stages `s`, count `c`. -/
structure LoopI where
  g : Nat
  s : Nat
  c : Nat
  deriving DecidableEq, Repr

/-- No operand but the guard. -/
structure G where
  g : Nat
  deriving DecidableEq, Repr

/-- BSWAP: word offset `o` in the other half. -/
structure Bswap where
  g : Nat
  o : Nat
  deriving DecidableEq, Repr

/-- IVERIFY: pair `p`, sources `a` (`m` pop) and `b` (`n` pop). -/
structure IVer where
  g : Nat
  p : Nat
  a : Nat
  m : Bool
  b : Nat
  n : Bool
  deriving DecidableEq, Repr

/-- TRAP and BKPT: a 16-bit code `c`. -/
structure Code where
  g : Nat
  c : Nat
  deriving DecidableEq, Repr

/-- VLD: routing `t`, base `a` (`m` pop), immediate `i`. -/
structure VLd where
  g : Nat
  t : Nat
  a : Nat
  m : Bool
  i : Nat
  deriving DecidableEq, Repr

/-- VST: source queue `s` of vst (`q` pop), base `a` (`m` pop), immediate `i`. -/
structure VSt where
  g : Nat
  q : Bool
  s : Nat
  a : Nat
  m : Bool
  i : Nat
  deriving DecidableEq, Repr

/-- VSTM: as VST with the lane predicate `p`. -/
structure VStM where
  g : Nat
  q : Bool
  s : Nat
  p : Nat
  a : Nat
  m : Bool
  i : Nat
  deriving DecidableEq, Repr

/-- VLDS: routing `t`, spill immediate `i`. -/
structure VLdS where
  g : Nat
  t : Nat
  i : Nat
  deriving DecidableEq, Repr

/-- VSTS: source queue `s` (`q` pop), spill immediate `i`. -/
structure VStS where
  g : Nat
  q : Bool
  s : Nat
  i : Nat
  deriving DecidableEq, Repr

/-- LATOM: RR layout with operation `o` and `p` the pooled mark. -/
structure Latom where
  g : Nat
  d : Nat
  q : Bool
  a : Nat
  m : Bool
  b : Nat
  n : Bool
  o : Nat
  p : Bool
  deriving DecidableEq, Repr

/-- SENDT: source queue `s` (`q` pop), strand `c`. -/
structure SendT where
  g : Nat
  q : Bool
  s : Nat
  c : Nat
  deriving DecidableEq, Repr

/-- RECVT: routing `t`, `f`. -/
structure RecvT where
  g : Nat
  t : Nat
  f : Nat
  deriving DecidableEq, Repr

/-- V layout (R22): routing `t`, A queue `a` (`m` pop), B queue `b` (`n` pop), lane predicate `l`. -/
structure VAB where
  g : Nat
  t : Nat
  m : Bool
  a : Nat
  n : Bool
  b : Nat
  l : Nat
  deriving DecidableEq, Repr

/-- VACCR: routing `t`, `h`, `z`, lane predicate `l`, accumulator `k`. -/
structure VAccR where
  g : Nat
  t : Nat
  h : Bool
  z : Bool
  l : Nat
  k : Nat
  deriving DecidableEq, Repr

/-- V layout with B unused. -/
structure VA where
  g : Nat
  t : Nat
  m : Bool
  a : Nat
  l : Nat
  deriving DecidableEq, Repr

/-- V layout with the mark `i` in X[0]. -/
structure VABI where
  g : Nat
  t : Nat
  m : Bool
  a : Nat
  n : Bool
  b : Nat
  l : Nat
  i : Bool
  deriving DecidableEq, Repr

/-- VCMP.cc: V layout with the condition `c` in X. -/
structure VABC where
  g : Nat
  t : Nat
  m : Bool
  a : Nat
  n : Bool
  b : Nat
  l : Nat
  c : Nat
  deriving DecidableEq, Repr

/-- VCVT: V layout without B, `r` in X[0]. -/
structure VAR where
  g : Nat
  t : Nat
  m : Bool
  a : Nat
  l : Nat
  r : Bool
  deriving DecidableEq, Repr

/-- VROT: V layout with `u` and `i` in X. -/
structure VABUI where
  g : Nat
  t : Nat
  m : Bool
  a : Nat
  n : Bool
  b : Nat
  l : Nat
  u : Bool
  i : Bool
  deriving DecidableEq, Repr

/-- VIOTA: routing `t`, lane predicate `l`. -/
structure VT where
  g : Nat
  t : Nat
  l : Nat
  deriving DecidableEq, Repr

/-- Lane-predicate logic: routing `t`, predicates `a`, `b`, negation `n`. -/
structure VPLog where
  g : Nat
  t : Nat
  a : Nat
  b : Nat
  n : Bool
  deriving DecidableEq, Repr

/-- VPSET: routing `t`, value `v`. -/
structure VPSet where
  g : Nat
  t : Nat
  v : Bool
  deriving DecidableEq, Repr

/-- VPCNT: routing `t`, predicate `a`, `x`. -/
structure VPCnt where
  g : Nat
  t : Nat
  a : Nat
  x : Nat
  deriving DecidableEq, Repr

/-- MCALL: recipe `i`, batch `b`. -/
structure MCall where
  g : Nat
  i : Nat
  b : Nat
  deriving DecidableEq, Repr

/-- MPARM: source `a` (`m` pop), register `p`. -/
structure MParm where
  g : Nat
  a : Nat
  m : Bool
  p : Nat
  deriving DecidableEq, Repr

/-- MSTEP: table mark `t`, sources `a` (`m` pop), `b` (`n` pop). -/
structure MStep where
  g : Nat
  t : Bool
  a : Nat
  m : Bool
  b : Nat
  n : Bool
  deriving DecidableEq, Repr

/-- MSTEPRD: destination `d` (`q` push), source `a` (`m` pop), table mark `t`. -/
structure MStepRd where
  g : Nat
  d : Nat
  q : Bool
  a : Nat
  m : Bool
  t : Bool
  deriving DecidableEq, Repr

/-- MZERO: accumulator bank `k`. -/
structure MZero where
  g : Nat
  k : Nat
  deriving DecidableEq, Repr

/-- YSET: sources `a`, `b` (pops `m`, `n`), yarn `y`, half `h`. -/
structure YSet where
  g : Nat
  a : Nat
  m : Bool
  b : Nat
  n : Bool
  y : Nat
  h : Bool
  deriving DecidableEq, Repr

/-- YGET: destination `d` (`q` push), yarn `y`, word `w`. -/
structure YGet where
  g : Nat
  d : Nat
  q : Bool
  y : Nat
  w : Nat
  deriving DecidableEq, Repr

/-- YGO: sources `a`, `b` (pops `m`, `n`), yarn `y`. -/
structure YGo where
  g : Nat
  a : Nat
  m : Bool
  b : Nat
  n : Bool
  y : Nat
  deriving DecidableEq, Repr

/-- YHALT: yarn `y`. -/
structure YHalt where
  g : Nat
  y : Nat
  deriving DecidableEq, Repr

/-- CPY, CPYR, SEAL, UNSEAL: sources `a`, `b` (pops `m`, `n`), yarn `y`, destination `d`. -/
structure Cpy where
  g : Nat
  a : Nat
  m : Bool
  b : Nat
  n : Bool
  y : Nat
  d : Nat
  deriving DecidableEq, Repr

/-- HATOM: sources `a`, `b` (pops `m`, `n`), operation `o`, scope field `s`, `r`. -/
structure HAtom where
  g : Nat
  a : Nat
  m : Bool
  b : Nat
  n : Bool
  o : Nat
  s : Nat
  r : Bool
  deriving DecidableEq, Repr

/-- RED: sources `a`, `b` (pops `m`, `n`), operation `o`. -/
structure Red where
  g : Nat
  a : Nat
  m : Bool
  b : Nat
  n : Bool
  o : Nat
  deriving DecidableEq, Repr

/-- TLADD: source `b` (`n` pop), timeline `k`. -/
structure TlAdd where
  g : Nat
  b : Nat
  n : Bool
  k : Nat
  deriving DecidableEq, Repr

/-- TLWAIT, TLPOLL: source `b` (`n` pop), timeline `k`, pair `p`. -/
structure TlWait where
  g : Nat
  b : Nat
  n : Bool
  k : Nat
  p : Nat
  deriving DecidableEq, Repr

/-- TLRD: timeline `k`, selector `e`, destination `d`. -/
structure TlRd where
  g : Nat
  k : Nat
  e : Nat
  d : Nat
  deriving DecidableEq, Repr

/-- WAITA: sources `a`, `b` (pops `m`, `n`), pair `p`, condition `c`, time `t`. -/
structure WaitA where
  g : Nat
  a : Nat
  m : Bool
  b : Nat
  n : Bool
  p : Nat
  c : Nat
  t : Nat
  deriving DecidableEq, Repr

/-- FENCE: kinds `k`, scope `s`. -/
structure Fence where
  g : Nat
  k : Nat
  s : Nat
  deriving DecidableEq, Repr

/-- LAUNCH: source `a` (`m` pop), destination `d` (`q` push), pair `p`. -/
structure Launch where
  g : Nat
  a : Nat
  m : Bool
  d : Nat
  q : Bool
  p : Nat
  deriving DecidableEq, Repr

/-- KROT: sources `a`, `b` (pops `m`, `n`), destination `d`. -/
structure Krot where
  g : Nat
  a : Nat
  m : Bool
  b : Nat
  n : Bool
  d : Nat
  deriving DecidableEq, Repr

/-- SCRUB: sources `a`, `b` (pops `m`, `n`), `p`, destination `d`. -/
structure Scrub where
  g : Nat
  a : Nat
  m : Bool
  b : Nat
  n : Bool
  p : Nat
  d : Nat
  deriving DecidableEq, Repr

/-- Row command with an immediate: bank `k`, row `r`. -/
structure DRow where
  g : Nat
  k : Nat
  r : Nat
  deriving DecidableEq, Repr

/-- Row command with a register: bank `k`, row in `a` (`m` pop). -/
structure DRowReg where
  g : Nat
  k : Nat
  a : Nat
  m : Bool
  deriving DecidableEq, Repr

/-- DRD: bank `k`, count `c`, column in `a` (`m` pop), `s`, `e`. -/
structure DRd where
  g : Nat
  k : Nat
  c : Nat
  a : Nat
  m : Bool
  s : Bool
  e : Bool
  deriving DecidableEq, Repr

/-- DWR: bank `k`, count `c`, window `w`, column in `a` (`m` pop), `s`, `e`. -/
structure DWr where
  g : Nat
  k : Nat
  c : Nat
  w : Nat
  a : Nat
  m : Bool
  s : Bool
  e : Bool
  deriving DecidableEq, Repr

/-- A command on bank `k`. -/
structure DBank where
  g : Nat
  k : Nat
  deriving DecidableEq, Repr

/-- DCLEAN: bank `k`, `v`, row `r`. -/
structure DClean where
  g : Nat
  k : Nat
  v : Bool
  r : Nat
  deriving DecidableEq, Repr

/-- DCLEAN with a register: bank `k`, `v`, row in `a` (`m` pop). -/
structure DCleanReg where
  g : Nat
  k : Nat
  v : Bool
  a : Nat
  m : Bool
  deriving DecidableEq, Repr

/-- DWAIT: sources `a` (`m` pop) and `b` (`n` pop). -/
structure DWait where
  g : Nat
  a : Nat
  m : Bool
  b : Nat
  n : Bool
  deriving DecidableEq, Repr

/-! ## Operands of the steps and requests that have no words -/

/-- One execution context (spec/17_interruption_and_preemption.md R396; spec/04_launch_and_scheduling.md R74; spec/13_memory_channels_and_segmented_banks.md R298). -/
inductive Agent where
  /-- the main context of a tile core, 0-63 -/
  | tile (core : Nat)
  /-- the urgent context of a tile core -/
  | urgent (core : Nat)
  /-- a channel core, 0-255 -/
  | channel (n : Nat)
  /-- a steward core, 0-7 -/
  | steward (n : Nat)
  deriving DecidableEq, Repr

/-- The agent exists (spec/01_a_job_on_qualas.md R6). -/
def Agent.exists : Agent → Bool
  | .tile c => c < 64
  | .urgent c => c < 64
  | .channel n => n < 256
  | .steward n => n < 8

/-- The agent exists. -/
def Agent.wf (c : Agent) : Prop := c.exists = true

/-- A lost stream beat or vector and why (spec/09_spool_yarns_and_cluster_memory.md R219): `kind` 1-6 is the row of R219's table,
`send` marks the sending end, `source` the yarn or strand. -/
structure StreamLoss where
  agent : Agent
  kind : Nat
  send : Bool
  source : Nat
  deriving DecidableEq, Repr

/-- The three stages of a cycle in which a yarn engine acts. -/
inductive BeatStage where
  /-- beats that read their source in this cycle -/
  | read
  /-- beats that arrive and write their destination in this cycle -/
  | write
  deriving DecidableEq, Repr

/-- The stages of a cycle in which what is in flight takes effect: results land at its start, reads
perform before writes (spec/06_fetch_and_issue.md R125; spec/09_spool_yarns_and_cluster_memory.md R196). -/
inductive LandStage where
  | landing
  | read
  | write
  deriving DecidableEq, Repr

/-- A translation miss of one die (spec/05_placement_and_translation.md R114): `page` is VA[55:16]. -/
structure Miss where
  die : Nat
  world : Nat
  page : Nat
  deriving DecidableEq, Repr

/-- Which gang of which launch of which world. -/
structure GangKey where
  world : Nat
  launch : Nat
  gang : Nat
  deriving DecidableEq, Repr

/-- A domain instance (spec/04_launch_and_scheduling.md R87): the gang of a launch, or with `job` its job domain, numbered by DJOB
in `gang`. -/
structure DomKey where
  world : Nat
  launch : Nat
  gang : Nat
  job : Bool
  deriving DecidableEq, Repr

/-- A resource that zeroing is running over (spec/05_placement_and_translation.md R104-R106). -/
inductive ZeroRes where
  | core (c : Nat)
  | steward (n : Nat)
  | channel (n : Nat)
  | pooled (cluster : Nat) (alloc : Nat)
  deriving DecidableEq, Repr

/-- A configuration write that may touch a locked item (spec/03_admission_and_trust.md R61): `item` is the row of R61's table
(1 VF BAR0, 2 NumVFs, 3 VF Memory Space Enable, 4 Bus Master Enable, 5 IDE stream association, 6 VF BAR2/3, 7 IDE address
range). -/
structure LockedWrite where
  f : Nat
  item : Nat
  value : Nat
  deriving DecidableEq, Repr

/-- A host request to range 1 of a VF, or to the PF's window (spec/03_admission_and_trust.md R63, R437). `off` is the byte
offset in the range; a write carries `data`. -/
structure HostReq where
  f : Nat
  write : Bool
  off : Nat
  len : Nat
  data : List Byte
  trusted : Bool
  onStream : Bool
  deriving DecidableEq, Repr

/-- SPDM GET_CERTIFICATE. `version` is the SPDM version of the request, 0x13 for 1.3 (spec/03_admission_and_trust.md R46). -/
structure CertReq where
  version : Nat
  slot : Nat
  offset : Nat
  length : Nat
  deriving DecidableEq, Repr

/-- SPDM CHALLENGE or KEY_EXCHANGE: slot, the requester's nonce and, for KEY_EXCHANGE, its exchange data. -/
structure ChallengeReq where
  version : Nat
  slot : Nat
  nonce : W256
  exchange : Nat
  deriving DecidableEq, Repr

/-- SPDM GET_MEASUREMENTS: index (0xFF all, 0 their number) and whether a signature is asked for. -/
structure MeasReq where
  version : Nat
  index : Nat
  signed : Bool
  nonce : W256
  deriving DecidableEq, Repr

/-- The fields of a KEY_RELEASE or WORLD_RESUME payload (spec/03_admission_and_trust.md R51, R68). -/
structure KeyReleaseReq where
  function : Nat
  kind : Nat
  /-- the reserved byte at 0x003 -/
  resv : Nat
  keyid : Nat
  layoutGen : Nat
  minSvn : Nat
  layoutDigest : W256
  policy : W256
  mask : BitVec 64
  wrapped : BitVec 3072
  deriving DecidableEq, Repr

/-- Every field fits its width in the payload. -/
def KeyReleaseReq.fits (q : KeyReleaseReq) : Bool :=
  q.function < 2 ^ 16 && q.kind < 2 ^ 8 && q.resv < 2 ^ 8 && q.keyid < 2 ^ 32 && q.layoutGen < 2 ^ 32 && q.minSvn < 2 ^ 32

/-- Every field fits its width in the payload. -/
def KeyReleaseReq.wf (q : KeyReleaseReq) : Prop := q.fits = true

/-- CUSTODY_SET (spec/16_fabric_and_switch_trust.md R379); SET is the row of the table. -/
structure CustodyReq where
  function : Nat
  region : Nat
  first : Nat
  count : Nat
  rate : Nat
  burst : Nat
  deriving DecidableEq, Repr

/-- Every field fits its width in the payload. -/
def CustodyReq.fits (q : CustodyReq) : Bool :=
  q.function < 2 ^ 16 && q.region < 2 ^ 8 && q.first < 2 ^ 32 && q.count < 2 ^ 32 && q.rate < 2 ^ 64 &&
    q.burst < 2 ^ 64

/-- Every field fits its width in the payload. -/
def CustodyReq.wf (q : CustodyReq) : Prop := q.fits = true

/-- CONTROL_START and CHANNEL_START (spec/04_launch_and_scheduling.md R73; spec/13_memory_channels_and_segmented_banks.md R299): `unit` is STEWARD or CHANNEL. -/
structure StartReq where
  function : Nat
  unit : Nat
  image : Nat
  sid : Nat
  deriving DecidableEq, Repr

/-- Every field fits its width in the payload. -/
def StartReq.fits (q : StartReq) : Bool :=
  q.function < 2 ^ 16 && q.unit < 2 ^ 8 && q.image < 2 ^ 64 && q.sid < 2 ^ 16

/-- Every field fits its width in the payload. -/
def StartReq.wf (q : StartReq) : Prop := q.fits = true

/-- CHANNEL_STOP (spec/13_memory_channels_and_segmented_banks.md R299). -/
structure StopReq where
  f : Nat
  unit : Nat
  deriving DecidableEq, Repr

/-- JOB_JOIN (spec/16_fabric_and_switch_trust.md R364). -/
structure JobJoinReq where
  function : Nat
  leader : Nat
  djob : Nat
  layoutGen : Nat
  parties : Nat
  layoutDigest : W256
  members : BitVec 1024
  wrapped : BitVec 3072
  deriving DecidableEq, Repr

/-- Every field fits its width in the payload. -/
def JobJoinReq.fits (q : JobJoinReq) : Bool :=
  q.function < 2 ^ 16 && q.leader < 2 ^ 16 && q.djob < 2 ^ 32 && q.layoutGen < 2 ^ 32 &&
    q.parties < 2 ^ 32

/-- Every field fits its width in the payload. -/
def JobJoinReq.wf (q : JobJoinReq) : Prop := q.fits = true

/-- SWITCH_ADMIT (spec/16_fabric_and_switch_trust.md R372). -/
structure SwitchReq where
  function : Nat
  ordinal : Nat
  swid : Nat
  resv : Nat
  root : W256
  policy : W256
  mask : BitVec 256
  deriving DecidableEq, Repr

/-- Every field fits its width in the payload. -/
def SwitchReq.fits (q : SwitchReq) : Bool :=
  q.function < 2 ^ 16 && q.ordinal < 2 ^ 16 && q.swid < 2 ^ 16 && q.resv < 2 ^ 16

/-- Every field fits its width in the payload. -/
def SwitchReq.wf (q : SwitchReq) : Prop := q.fits = true

/-- The 64-byte descriptor of a reduction window (spec/16_fabric_and_switch_trust.md R374). -/
structure WinDesc where
  djob : Nat
  window : Nat
  mode : Nat
  home : Nat
  base : Nat
  size : Nat
  switches : BitVec 256
  resv : Nat
  mac : Nat
  deriving DecidableEq, Repr

/-- Every field fits its width in the descriptor. -/
def WinDesc.fits (w : WinDesc) : Bool :=
  w.djob < 2 ^ 32 && w.window < 2 ^ 8 && w.mode < 2 ^ 8 && w.home < 2 ^ 16 && w.base < 2 ^ 32 &&
    w.size < 2 ^ 32 && w.resv < 2 ^ 64 && w.mac < 2 ^ 64

/-- Every field fits its width in the descriptor. -/
def WinDesc.wf (w : WinDesc) : Prop := w.fits = true

/-- The payload of WINDOW_SET: the reserved byte and the descriptor (spec/16_fabric_and_switch_trust.md R374). -/
structure WindowReq where
  resv : Nat
  desc : WinDesc
  deriving DecidableEq, Repr

/-- Every field fits its width in the payload. -/
def WindowReq.fits (w : WindowReq) : Bool := decide (w.resv < 2 ^ 8) && w.desc.fits

/-- A key set of one sub-stream of an IDE stream (spec/03_admission_and_trust.md R64). -/
structure IdeKeySet where
  set : Nat
  sub : Nat
  deriving DecidableEq, Repr

/-- IDE_KM KEY_PROG (spec/03_admission_and_trust.md R64). -/
structure KeyProg where
  stream : Nat
  keySet : Nat
  sub : Nat
  key : W256
  deriving DecidableEq, Repr

/-- The layout descriptor (spec/03_admission_and_trust.md R48). -/
structure Layout where
  clusters : BitVec 16
  urgent : BitVec 16
  stewards : BitVec 8
  pooled : Nat
  monitors : Nat
  channels : BitVec 256
  deriving DecidableEq, Repr

/-- Every field fits its width in the descriptor. -/
def Layout.fits (y : Layout) : Bool := y.pooled < 2 ^ 8 && y.monitors < 2 ^ 16

/-- Every field fits its width in the descriptor. -/
def Layout.wf (y : Layout) : Prop := y.fits = true

/-- A message between packages (spec/16_fabric_and_switch_trust.md R366): the header's fields, the sealed body (plaintext for
MGMT) and the tag; `port` is the port it arrived on. The opcode is the row of the table. -/
structure FabMsg where
  opc : Nat
  op : Nat
  src : Nat
  dst : Nat
  nline : Nat
  status : Nat
  djob : Nat
  rid : Nat
  ctr : Nat
  addr : Nat
  body : List Byte
  tag : BitVec 128
  port : Nat
  deriving DecidableEq, Repr

/-- Every field fits its width in the header. -/
def FabMsg.fits (m : FabMsg) : Bool :=
  m.opc < 2 ^ 8 && m.op < 2 ^ 8 && m.src < 2 ^ 16 && m.dst < 2 ^ 16 && m.nline < 2 ^ 8 &&
    m.status < 2 ^ 8 && m.djob < 2 ^ 32 && m.rid < 2 ^ 32 && m.ctr < 2 ^ 64 && m.addr < 2 ^ 64 &&
    m.port < 32

/-- Every field fits its width in the header. -/
def FabMsg.wf (m : FabMsg) : Prop := m.fits = true


/-- One constructor per row of the opcode table: the rows with words in the table's order, then the steps that fall due in
the package, then what comes from outside. -/
inductive Instr where
  | add (o : RR)
  | sub (o : RR)
  | and (o : RR)
  | or (o : RR)
  | xor (o : RR)
  | andn (o : RR)
  | min (o : RR)
  | max (o : RR)
  | mins (o : RR)
  | maxs (o : RR)
  | shl (o : RR)
  | shr (o : RR)
  | sra (o : RR)
  | fsl (o : RR)
  | fsr (o : RR)
  | mul (o : RR)
  | mulh (o : RR)
  | mulhs (o : RR)
  | div (o : RR)
  | divs (o : RR)
  | rem (o : RR)
  | rems (o : RR)
  | mov (o : RU)
  | clz (o : RU)
  | ctz (o : RU)
  | popc (o : RU)
  | brev (o : RU)
  | sel (o : RRP)
  | adds (o : RRK)
  | cmp (o : CmpRR)
  | cmpi (o : CmpRI)
  | fcmp (o : CmpRR)
  | addi (o : RI)
  | andi (o : RI)
  | ori (o : RI)
  | xori (o : RI)
  | shli (o : RI)
  | shri (o : RI)
  | srai (o : RI)
  | lim (o : RL)
  | lih (o : RL)
  | pand (o : PLog)
  | por (o : PLog)
  | pxor (o : PLog)
  | pandn (o : PLog)
  | pset (o : PSet)
  | fadd (o : RR)
  | fsub (o : RR)
  | fmul (o : RR)
  | fmin (o : RR)
  | fmax (o : RR)
  | ffma (o : RRF)
  | fcvt (o : RUF)
  | qlen (o : QLen)
  | qclr (o : QReg)
  | csrrd (o : CsrRd)
  | csrwr (o : CsrWr)
  | br (o : Br)
  | brl (o : Brl)
  | bri (o : SA)
  | loop (o : Loop)
  | loopi (o : LoopI)
  | loopiK (o : G)
  | bswap (o : Bswap)
  | ifence (o : G)
  | iverify (o : IVer)
  | trap (o : Code)
  | eret (o : G)
  | texit (o : G)
  | bkpt (o : Code)
  | ldb (o : RI)
  | ldbu (o : RI)
  | ldh (o : RI)
  | ldhu (o : RI)
  | ldw (o : RI)
  | ldwu (o : RI)
  | ldd (o : RI)
  | stb (o : RI)
  | sth (o : RI)
  | stw (o : RI)
  | std (o : RI)
  | lds (o : RL)
  | sts (o : RL)
  | ldc (o : RI)
  | stc (o : RI)
  | ldk (o : RI)
  | vld (o : VLd)
  | vst (o : VSt)
  | vstm (o : VStM)
  | vlds (o : VLdS)
  | vsts (o : VStS)
  | latom (o : Latom)
  | sendt (o : SendT)
  | recvt (o : RecvT)
  | vadd (o : VAB)
  | vsub (o : VAB)
  | vmul (o : VAB)
  | vfma (o : VAB)
  | vfms (o : VAB)
  | vaccr (o : VAccR)
  | vmin (o : VAB)
  | vmax (o : VAB)
  | vabs (o : VA)
  | vneg (o : VA)
  | vand (o : VAB)
  | vor (o : VAB)
  | vxor (o : VAB)
  | vandn (o : VAB)
  | vshl (o : VABI)
  | vshr (o : VABI)
  | vsra (o : VABI)
  | vfsl (o : VAB)
  | vfsr (o : VAB)
  | vcmp (o : VABC)
  | vsel (o : VAB)
  | vcvt (o : VAR)
  | vqnt (o : VAB)
  | vdqnt (o : VAB)
  | vrmax (o : VA)
  | vrmin (o : VA)
  | vramax (o : VA)
  | vradd (o : VA)
  | vscan (o : VA)
  | vperm (o : VAB)
  | vrot (o : VABUI)
  | vbcast (o : VABI)
  | vextr (o : VABI)
  | viota (o : VT)
  | vpack (o : VA)
  | vunpk (o : VA)
  | vclz (o : VA)
  | vpopc (o : VA)
  | vexp2 (o : VA)
  | vlog2 (o : VA)
  | vrcp (o : VA)
  | vrsq (o : VA)
  | vpand (o : VPLog)
  | vpor (o : VPLog)
  | vpxor (o : VPLog)
  | vpset (o : VPSet)
  | vpcnt (o : VPCnt)
  | mcall (o : MCall)
  | mparm (o : MParm)
  | mstep (o : MStep)
  | msteprd (o : MStepRd)
  | mzero (o : MZero)
  | mzeroAll (o : G)
  | mmpc (o : SA)
  | yset (o : YSet)
  | yget (o : YGet)
  | ygo (o : YGo)
  | yhalt (o : YHalt)
  | yhaltAll (o : G)
  | cpy (o : Cpy)
  | cpyr (o : Cpy)
  | hatom (o : HAtom)
  | red (o : Red)
  | tladd (o : TlAdd)
  | tlwait (o : TlWait)
  | tlpoll (o : TlWait)
  | tlrd (o : TlRd)
  | waita (o : WaitA)
  | bar (o : G)
  | bara (o : G)
  | bard (o : G)
  | fence (o : Fence)
  | launch (o : Launch)
  | krot (o : Krot)
  | seal (o : Cpy)
  | unseal (o : Cpy)
  | scrub (o : Scrub)
  | dact (o : DRow)
  | dactReg (o : DRowReg)
  | drd (o : DRd)
  | dwr (o : DWr)
  | dpre (o : DBank)
  | dprea (o : G)
  | dref (o : G)
  | drefp (o : DBank)
  | dprom (o : DRow)
  | dpromReg (o : DRowReg)
  | dclean (o : DClean)
  | dcleanReg (o : DCleanReg)
  | dinit (o : DBank)
  | dwait (o : DWait)
  | bundleIssue (c : Agent)
  | deadlineFault (c : Agent)
  | streamFault (o : StreamLoss)
  | callFault (c : Agent)
  | yarnBeat (core : Nat) (st : BeatStage)
  | drainAtomicPerform (id : Nat)
  | pooledGrant (cl : Nat)
  | translationFill (o : Miss)
  | monitorWake (c : Agent)
  | waitaTimeout (c : Agent)
  | timelineWake (c : Agent)
  | tladdEffect (id : Nat)
  | barrierLanding (d : DomKey)
  | barrierResume (c : Agent)
  | fenceWaitEnd (c : Agent)
  | copyQueueEntryFree (c : Agent)
  | copyTake (core : Nat)
  | copyComplete (e n : Nat)
  | hatomPerform (e n : Nat)
  | krotComplete (e n : Nat)
  | sealComplete (e n : Nat)
  | unsealComplete (e n : Nat)
  | scrubComplete (e n : Nat)
  | taskRetire (c : Agent)
  | zeroingComplete (r : ZeroRes)
  | taskEntry (c : Agent)
  | sliceSave (c : Agent)
  | victimTake (core : Nat)
  | urgentEntry (k : GangKey)
  | victimResume (core : Nat)
  | refreshTick (ch : Nat)
  | drdLanding (ch : Nat)
  | dwrComplete (ch : Nat)
  | serviceRequest (ch : Nat)
  | slubWrite (u : Nat)
  | fabricTimeout (rid : Nat)
  | resultLanding (c : Agent) (st : LandStage)
  | stepExecution (c : Agent) (st : LandStage)
  | iverifyFreezeEnd (c : Agent)
  | prechargeFreezeEnd (ch : Nat)
  | bankBusyEnd (ch bank : Nat)
  | switchAdmitTimeout (ordinal : Nat)
  | channelStop (ses : Nat) (q : StopReq)
  | channelStart (ses : Nat) (q : StartReq)
  | stopInterface (ses f : Nat)
  | pageReclaim (first count : Nat)
  | dieCutOff (d : Nat)
  | portDown (p : Nat)
  | ideIntegrityFailure (f : Nat)
  | vfEnableSet (n : Nat)
  | lockedItemWrite (o : LockedWrite)
  | hostRange1Request (o : HostReq)
  | pfWindowRequest (o : HostReq)
  | getCertificate (o : CertReq)
  | challenge (o : ChallengeReq)
  | getMeasurements (o : MeasReq)
  | keyExchange (o : ChallengeReq)
  | finish (ses : Nat)
  | heartbeat (ses : Nat)
  | endSession (ses : Nat)
  | bindSession (ses f : Nat)
  | keyRelease (ses : Nat) (q : KeyReleaseReq)
  | custodySet (ses : Nat) (q : CustodyReq)
  | custodyClear (ses : Nat) (q : CustodyReq)
  | worldResume (ses : Nat) (q : KeyReleaseReq)
  | controlStart (ses : Nat) (q : StartReq)
  | jobJoin (ses : Nat) (q : JobJoinReq)
  | jobLeave (ses f djob : Nat)
  | switchAdmit (ses : Nat) (q : SwitchReq)
  | windowSetMake (ses f : Nat) (w : WindowReq)
  | windowSetInstall (ses f : Nat) (w : WindowReq)
  | debugPolicy (ses f pol : Nat)
  | lockInterface (ses f ide : Nat)
  | getDeviceInterfaceReport (ses f : Nat)
  | getDeviceInterfaceState (ses f : Nat)
  | startInterface (ses f : Nat) (nonce : BitVec 256)
  | keyProg (o : KeyProg)
  | kSetGo (stream : Nat) (keySet : IdeKeySet)
  | layoutSet (f : Nat) (y : Layout) (resv : Nat)
  | pageAssign (first count world : Nat)
  | fwStage (addr len : Nat)
  | schedSet (f w cap pdl : Nat)
  | nearSet (ch pin : Nat)
  | pageMove (src dst : Nat)
  | fabricSet (pkg ports : Nat)
  | eventSet (f : Nat) (allow mode : BitVec 256)
  | winbaseWrite (v : Word)
  | trootWrite (v : Word)
  | logbaseWrite (v : Word)
  | logsizeWrite (v : Word)
  | logackWrite (v : Word)
  | bkptpcWrite (v : Word)
  | tracectlWrite (v : Word)
  | registerWrite (off : Nat) (v : Word)
  | standardRequest (src : Nat)
  | fabWrite (m : FabMsg)
  | fabRead (m : FabMsg)
  | redMessage (m : FabMsg)
  | mergeMessage (m : FabMsg)
  | mgmt (m : FabMsg)
  | arrive (m : FabMsg)
  | completeMessage (m : FabMsg)
  | writeAck (m : FabMsg)
  | readData (m : FabMsg)
  | redAck (m : FabMsg)
  | mergeAck (m : FabMsg)
  | arriveAck (m : FabMsg)
  | completeAck (m : FabMsg)
  | portUp (p : Nat)
  | placementOpportunity
  | schedTick
  | governorTick
  | egressInterval
  | logEntryWrite
  | deviceReset
  | bringUpComplete
  | hotReset
  | linkDown
  | thermalTrip
  | vfEnableClear
  | getVersion
  | setCertificate
  | getCsr
  | fwActivate
  | fwCommit
  | logSign
  | dbgStop
  | dbgStep
  | dbgResume
  | freeze
  | getCapabilities
  | negotiateAlgorithms
  deriving DecidableEq, Repr

end Sys2Proof
end

