-- ==== Sys2Proof/WellFormed.lean ====
section
/-!
DEFINITION. Which instructions are well formed: every operand fits its field, and every field value
that spec/02_program_image_and_encodings.md R23, R28 and the instruction chapters call illegal is absent. A step or request
without words is well formed when the agent it names exists and every field it carries fits.
-/

namespace Sys2Proof

/-- The CSR numbers that spec/07_scalar_and_control_instructions.md R160, spec/13_memory_channels_and_segmented_banks.md R302, spec/17_interruption_and_preemption.md R387 and spec/20_observation_and_bring_up.md R417 list. -/
def csrListed (c : Nat) : Bool :=
  c ≤ 0x00A || (0x010 ≤ c && c ≤ 0x012) || (0x018 ≤ c && c ≤ 0x01E) || (0x020 ≤ c && c ≤ 0x027) ||
    (0x030 ≤ c && c ≤ 0x03B) || (0x040 ≤ c && c ≤ 0x045)

/-- R23: the routing code `t` names a vector queue (push or overwrite). -/
def dstQueue (t : Nat) : Bool := t / 32 ≤ 4
/-- R23: the routing code names an accumulator of the issuing unit, its zero bits zero. -/
def dstAcc (t : Nat) : Bool := t / 32 = 5 && t % 32 < 4
/-- R23: the routing code names one lane predicate, vp1-vp7. -/
def dstPred (t : Nat) : Bool := t / 32 = 6 && t % 32 < 8 && t % 8 ≠ 0
/-- R23: the routing code names a lane-predicate pair, vp2, vp4 or vp6. -/
def dstPredPair (t : Nat) : Bool := t / 32 = 6 && t % 32 < 8 && t % 8 ≠ 0 && t % 2 = 0
/-- R23: the routing code names a scalar register, pushed. -/
def dstScalar (t : Nat) : Bool := t / 32 = 7

/-! ## Every operand fits its field, layout by layout -/

/-- Every operand of the layout of ADD fits. -/
def fitsRR (o : RR) : Bool :=
  o.g < 16 && o.d < 32 && o.a < 32 && o.b < 32
/-- Every operand of the layout of MOV fits. -/
def fitsRU (o : RU) : Bool :=
  o.g < 16 && o.d < 32 && o.a < 32
/-- Every operand of the layout of SEL fits. -/
def fitsRRP (o : RRP) : Bool :=
  o.g < 16 && o.d < 32 && o.a < 32 && o.b < 32 && o.p < 16
/-- Every operand of the layout of ADDS fits. -/
def fitsRRK (o : RRK) : Bool :=
  o.g < 16 && o.d < 32 && o.a < 32 && o.b < 32 && o.k < 16
/-- Every operand of the layout of CMP_CC fits. -/
def fitsCmpRR (o : CmpRR) : Bool :=
  o.g < 16 && o.c < 16 && o.p < 4 && o.a < 32 && o.b < 32
/-- Every operand of the layout of CMPI_CC fits. -/
def fitsCmpRI (o : CmpRI) : Bool :=
  o.g < 16 && o.c < 16 && o.p < 4 && o.a < 32 && o.i < 1024
/-- Every operand of the layout of ADDI fits. -/
def fitsRI (o : RI) : Bool :=
  o.g < 16 && o.d < 32 && o.a < 32 && o.i < 1024
/-- Every operand of the layout of SHLI fits. -/
def fitsRIB (o : RI) : Bool :=
  o.g < 16 && o.d < 32 && o.a < 32 && o.i < 64
/-- Every operand of the layout of LIM fits. -/
def fitsRL (o : RL) : Bool :=
  o.g < 16 && o.d < 32 && o.i < 65536
/-- Every operand of the layout of PAND fits. -/
def fitsPLog (o : PLog) : Bool :=
  o.g < 16 && o.p < 4 && o.a < 16 && o.b < 16
/-- Every operand of the layout of PSET fits. -/
def fitsPSet (o : PSet) : Bool :=
  o.g < 16 && o.p < 4
/-- Every operand of the layout of FFMA fits. -/
def fitsRRF (o : RRF) : Bool :=
  o.g < 16 && o.d < 32 && o.a < 32 && o.b < 32
/-- Every operand of the layout of FCVT fits. -/
def fitsRUF (o : RUF) : Bool :=
  o.g < 16 && o.d < 32 && o.a < 32 && o.f < 16
/-- Every operand of the layout of QLEN fits. -/
def fitsQLen (o : QLen) : Bool :=
  o.g < 16 && o.d < 32 && o.a < 32
/-- Every operand of the layout of QCLR fits. -/
def fitsQReg (o : QReg) : Bool :=
  o.g < 16 && o.a < 32
/-- Every operand of the layout of CSRRD fits. -/
def fitsCsrRd (o : CsrRd) : Bool :=
  o.g < 16 && o.d < 32 && o.c < 4096
/-- Every operand of the layout of CSRWR fits. -/
def fitsCsrWr (o : CsrWr) : Bool :=
  o.g < 16 && o.c < 4096 && o.a < 32
/-- Every operand of the layout of BR fits. -/
def fitsBr (o : Br) : Bool :=
  o.g < 16 && o.o < 4194304
/-- Every operand of the layout of BRL fits. -/
def fitsBrl (o : Brl) : Bool :=
  o.g < 16 && o.o < 2097152
/-- Every operand of the layout of BRI fits. -/
def fitsSA (o : SA) : Bool :=
  o.g < 16 && o.a < 32
/-- Every operand of the layout of LOOP fits. -/
def fitsLoop (o : Loop) : Bool :=
  o.g < 16 && o.a < 32 && o.s < 8
/-- Every operand of the layout of LOOPI fits. -/
def fitsLoopI (o : LoopI) : Bool :=
  o.g < 16 && o.s < 8 && o.c < 65536
/-- Every operand of the layout of LOOPI_K fits. -/
def fitsG (o : G) : Bool :=
  o.g < 16
/-- Every operand of the layout of BSWAP fits. -/
def fitsBswap (o : Bswap) : Bool :=
  o.g < 16 && o.o < 262144
/-- Every operand of the layout of IFENCE fits. -/
def fitsGB (o : G) : Bool :=
  o.g < 16
/-- Every operand of the layout of IVERIFY fits. -/
def fitsIVer (o : IVer) : Bool :=
  o.g < 16 && o.p < 4 && o.a < 32 && o.b < 32
/-- Every operand of the layout of TRAP fits. -/
def fitsCode (o : Code) : Bool :=
  o.g < 16 && o.c < 65536
/-- Every operand of the layout of VLD fits. -/
def fitsVLd (o : VLd) : Bool :=
  o.g < 16 && o.t < 256 && o.a < 32 && o.i < 256
/-- Every operand of the layout of VST fits. -/
def fitsVSt (o : VSt) : Bool :=
  o.g < 16 && o.s < 16 && o.a < 32 && o.i < 256
/-- Every operand of the layout of VSTM fits. -/
def fitsVStM (o : VStM) : Bool :=
  o.g < 16 && o.s < 16 && o.p < 8 && o.a < 32 && o.i < 256
/-- Every operand of the layout of VLDS fits. -/
def fitsVLdS (o : VLdS) : Bool :=
  o.g < 16 && o.t < 256 && o.i < 2048
/-- Every operand of the layout of VSTS fits. -/
def fitsVStS (o : VStS) : Bool :=
  o.g < 16 && o.s < 16 && o.i < 2048
/-- Every operand of the layout of LATOM fits. -/
def fitsLatom (o : Latom) : Bool :=
  o.g < 16 && o.d < 32 && o.a < 32 && o.b < 32 && o.o < 8
/-- Every operand of the layout of SENDT fits. -/
def fitsSendT (o : SendT) : Bool :=
  o.g < 16 && o.s < 16 && o.c < 16
/-- Every operand of the layout of RECVT fits. -/
def fitsRecvT (o : RecvT) : Bool :=
  o.g < 16 && o.t < 256 && o.f < 4
/-- Every operand of the layout of VADD fits. -/
def fitsVAB (o : VAB) : Bool :=
  o.g < 16 && o.t < 256 && o.a < 16 && o.b < 16 && o.l < 4
/-- Every operand of the layout of VACCR fits. -/
def fitsVAccR (o : VAccR) : Bool :=
  o.g < 16 && o.t < 256 && o.l < 4 && o.k < 4
/-- Every operand of the layout of VABS fits. -/
def fitsVA (o : VA) : Bool :=
  o.g < 16 && o.t < 256 && o.a < 16 && o.l < 4
/-- Every operand of the layout of VSHL fits. -/
def fitsVABI (o : VABI) : Bool :=
  o.g < 16 && o.t < 256 && o.a < 16 && o.b < 16 && o.l < 4
/-- Every operand of the layout of VCMP_CC fits. -/
def fitsVABC (o : VABC) : Bool :=
  o.g < 16 && o.t < 256 && o.a < 16 && o.b < 16 && o.l < 4 && o.c < 4
/-- Every operand of the layout of VCVT fits. -/
def fitsVAR (o : VAR) : Bool :=
  o.g < 16 && o.t < 256 && o.a < 16 && o.l < 4
/-- Every operand of the layout of VROT fits. -/
def fitsVABUI (o : VABUI) : Bool :=
  o.g < 16 && o.t < 256 && o.a < 16 && o.b < 16 && o.l < 4
/-- Every operand of the layout of VIOTA fits. -/
def fitsVT (o : VT) : Bool :=
  o.g < 16 && o.t < 256 && o.l < 4
/-- Every operand of the layout of VPAND fits. -/
def fitsVPLog (o : VPLog) : Bool :=
  o.g < 16 && o.t < 256 && o.a < 8 && o.b < 8
/-- Every operand of the layout of VPSET fits. -/
def fitsVPSet (o : VPSet) : Bool :=
  o.g < 16 && o.t < 256
/-- Every operand of the layout of VPCNT fits. -/
def fitsVPCnt (o : VPCnt) : Bool :=
  o.g < 16 && o.t < 256 && o.a < 8 && o.x < 4
/-- Every operand of the layout of MCALL fits. -/
def fitsMCall (o : MCall) : Bool :=
  o.g < 16 && o.i < 64 && o.b < 65536
/-- Every operand of the layout of MPARM fits. -/
def fitsMParm (o : MParm) : Bool :=
  o.g < 16 && o.a < 32 && o.p < 8
/-- Every operand of the layout of MSTEP fits. -/
def fitsMStep (o : MStep) : Bool :=
  o.g < 16 && o.a < 32 && o.b < 32
/-- Every operand of the layout of MSTEPRD fits. -/
def fitsMStepRd (o : MStepRd) : Bool :=
  o.g < 16 && o.d < 32 && o.a < 32
/-- Every operand of the layout of MZERO fits. -/
def fitsMZero (o : MZero) : Bool :=
  o.g < 16 && o.k < 4
/-- Every operand of the layout of MZERO_ALL fits. -/
def fitsGC (o : G) : Bool :=
  o.g < 16
/-- Every operand of the layout of YSET fits. -/
def fitsYSet (o : YSet) : Bool :=
  o.g < 16 && o.a < 32 && o.b < 32 && o.y < 32
/-- Every operand of the layout of YGET fits. -/
def fitsYGet (o : YGet) : Bool :=
  o.g < 16 && o.d < 32 && o.y < 32 && o.w < 4
/-- Every operand of the layout of YGO fits. -/
def fitsYGo (o : YGo) : Bool :=
  o.g < 16 && o.a < 32 && o.b < 32 && o.y < 32
/-- Every operand of the layout of YHALT fits. -/
def fitsYHalt (o : YHalt) : Bool :=
  o.g < 16 && o.y < 32
/-- Every operand of the layout of YHALT_ALL fits. -/
def fitsGD (o : G) : Bool :=
  o.g < 16
/-- Every operand of the layout of CPY fits. -/
def fitsCpy (o : Cpy) : Bool :=
  o.g < 16 && o.a < 32 && o.b < 32 && o.y < 32 && o.d < 32
/-- Every operand of the layout of HATOM fits. -/
def fitsHAtom (o : HAtom) : Bool :=
  o.g < 16 && o.a < 32 && o.b < 32 && o.o < 8 && o.s < 16
/-- Every operand of the layout of RED fits. -/
def fitsRed (o : Red) : Bool :=
  o.g < 16 && o.a < 32 && o.b < 32 && o.o < 8
/-- Every operand of the layout of TLADD fits. -/
def fitsTlAdd (o : TlAdd) : Bool :=
  o.g < 16 && o.b < 32 && o.k < 8
/-- Every operand of the layout of TLWAIT fits. -/
def fitsTlWait (o : TlWait) : Bool :=
  o.g < 16 && o.b < 32 && o.k < 8 && o.p < 4
/-- Every operand of the layout of TLRD fits. -/
def fitsTlRd (o : TlRd) : Bool :=
  o.g < 16 && o.k < 8 && o.e < 4 && o.d < 32
/-- Every operand of the layout of WAITA fits. -/
def fitsWaitA (o : WaitA) : Bool :=
  o.g < 16 && o.a < 32 && o.b < 32 && o.p < 4 && o.c < 8 && o.t < 32
/-- Every operand of the layout of FENCE fits. -/
def fitsFence (o : Fence) : Bool :=
  o.g < 16 && o.k < 4 && o.s < 16
/-- Every operand of the layout of LAUNCH fits. -/
def fitsLaunch (o : Launch) : Bool :=
  o.g < 16 && o.a < 32 && o.d < 32 && o.p < 4
/-- Every operand of the layout of KROT fits. -/
def fitsKrot (o : Krot) : Bool :=
  o.g < 16 && o.a < 32 && o.b < 32 && o.d < 32
/-- Every operand of the layout of SCRUB fits. -/
def fitsScrub (o : Scrub) : Bool :=
  o.g < 16 && o.a < 32 && o.b < 32 && o.p < 4 && o.d < 32
/-- Every operand of the layout of DACT fits. -/
def fitsDRow (o : DRow) : Bool :=
  o.g < 16 && o.k < 32 && o.r < 32768
/-- Every operand of the layout of DACT_REG fits. -/
def fitsDRowReg (o : DRowReg) : Bool :=
  o.g < 16 && o.k < 32 && o.a < 32
/-- Every operand of the layout of DRD fits. -/
def fitsDRd (o : DRd) : Bool :=
  o.g < 16 && o.k < 32 && o.c < 8 && o.a < 32
/-- Every operand of the layout of DWR fits. -/
def fitsDWr (o : DWr) : Bool :=
  o.g < 16 && o.k < 32 && o.c < 8 && o.w < 16 && o.a < 32
/-- Every operand of the layout of DPRE fits. -/
def fitsDBank (o : DBank) : Bool :=
  o.g < 16 && o.k < 32
/-- Every operand of the layout of DCLEAN fits. -/
def fitsDClean (o : DClean) : Bool :=
  o.g < 16 && o.k < 32 && o.r < 32768
/-- Every operand of the layout of DCLEAN_REG fits. -/
def fitsDCleanReg (o : DCleanReg) : Bool :=
  o.g < 16 && o.k < 32 && o.a < 32
/-- Every operand of the layout of DWAIT fits. -/
def fitsDWait (o : DWait) : Bool :=
  o.g < 16 && o.a < 32 && o.b < 32

/-- Well-formedness, one arm per row of the opcode table. -/
def Instr.isWf : Instr → Bool
  | .add o => fitsRR o
  | .sub o => fitsRR o
  | .and o => fitsRR o
  | .or o => fitsRR o
  | .xor o => fitsRR o
  | .andn o => fitsRR o
  | .min o => fitsRR o
  | .max o => fitsRR o
  | .mins o => fitsRR o
  | .maxs o => fitsRR o
  | .shl o => fitsRR o
  | .shr o => fitsRR o
  | .sra o => fitsRR o
  | .fsl o => fitsRR o
  | .fsr o => fitsRR o
  | .mul o => fitsRR o
  | .mulh o => fitsRR o
  | .mulhs o => fitsRR o
  | .div o => fitsRR o
  | .divs o => fitsRR o
  | .rem o => fitsRR o
  | .rems o => fitsRR o
  | .mov o => fitsRU o
  | .clz o => fitsRU o
  | .ctz o => fitsRU o
  | .popc o => fitsRU o
  | .brev o => fitsRU o
  | .sel o => fitsRRP o
  | .adds o => fitsRRK o
  | .cmp o => fitsCmpRR o && decide (o.c < 8 ∧ 1 ≤ o.p)
  | .cmpi o => fitsCmpRI o && decide (o.c < 8 ∧ 1 ≤ o.p)
  | .fcmp o => fitsCmpRR o && decide (o.c < 8 ∧ 1 ≤ o.p)
  | .addi o => fitsRI o
  | .andi o => fitsRI o
  | .ori o => fitsRI o
  | .xori o => fitsRI o
  | .shli o => fitsRIB o
  | .shri o => fitsRIB o
  | .srai o => fitsRIB o
  | .lim o => fitsRL o
  | .lih o => fitsRL o
  | .pand o => fitsPLog o && decide (1 ≤ o.p)
  | .por o => fitsPLog o && decide (1 ≤ o.p)
  | .pxor o => fitsPLog o && decide (1 ≤ o.p)
  | .pandn o => fitsPLog o && decide (1 ≤ o.p)
  | .pset o => fitsPSet o && decide (1 ≤ o.p)
  | .fadd o => fitsRR o
  | .fsub o => fitsRR o
  | .fmul o => fitsRR o
  | .fmin o => fitsRR o
  | .fmax o => fitsRR o
  | .ffma o => fitsRRF o
  | .fcvt o => fitsRUF o && decide (o.f < 7)
  | .qlen o => fitsQLen o
  | .qclr o => fitsQReg o
  | .csrrd o => fitsCsrRd o && decide (csrListed o.c = true)
  | .csrwr o => fitsCsrWr o && decide (csrListed o.c = true)
  | .br o => fitsBr o
  | .brl o => fitsBrl o
  | .bri o => fitsSA o
  | .loop o => fitsLoop o
  | .loopi o => fitsLoopI o
  | .loopiK o => fitsG o
  | .bswap o => fitsBswap o
  | .ifence o => fitsGB o
  | .iverify o => fitsIVer o && decide (1 ≤ o.p)
  | .trap o => fitsCode o
  | .eret o => fitsGB o
  | .texit o => fitsGB o
  | .bkpt o => fitsCode o
  | .ldb o => fitsRI o
  | .ldbu o => fitsRI o
  | .ldh o => fitsRI o
  | .ldhu o => fitsRI o
  | .ldw o => fitsRI o
  | .ldwu o => fitsRI o
  | .ldd o => fitsRI o
  | .stb o => fitsRI o
  | .sth o => fitsRI o
  | .stw o => fitsRI o
  | .std o => fitsRI o
  | .lds o => fitsRL o
  | .sts o => fitsRL o
  | .ldc o => fitsRI o
  | .stc o => fitsRI o
  | .ldk o => fitsRI o
  | .vld o => fitsVLd o && decide (dstQueue o.t = true)
  | .vst o => fitsVSt o
  | .vstm o => fitsVStM o
  | .vlds o => fitsVLdS o && decide (dstQueue o.t = true)
  | .vsts o => fitsVStS o
  | .latom o => fitsLatom o
  | .sendt o => fitsSendT o && decide (1 ≤ o.c)
  | .recvt o => fitsRecvT o && decide (dstQueue o.t = true)
  | .vadd o => fitsVAB o && decide (dstQueue o.t = true)
  | .vsub o => fitsVAB o && decide (dstQueue o.t = true)
  | .vmul o => fitsVAB o && decide (dstQueue o.t = true)
  | .vfma o => fitsVAB o && decide (dstAcc o.t = true)
  | .vfms o => fitsVAB o && decide (dstAcc o.t = true)
  | .vaccr o => fitsVAccR o && decide (dstQueue o.t = true ∨ (dstAcc o.t = true ∧ o.t % 4 = o.k ∧ o.z = true))
  | .vmin o => fitsVAB o && decide (dstQueue o.t = true)
  | .vmax o => fitsVAB o && decide (dstQueue o.t = true)
  | .vabs o => fitsVA o && decide (dstQueue o.t = true)
  | .vneg o => fitsVA o && decide (dstQueue o.t = true)
  | .vand o => fitsVAB o && decide (dstQueue o.t = true)
  | .vor o => fitsVAB o && decide (dstQueue o.t = true)
  | .vxor o => fitsVAB o && decide (dstQueue o.t = true)
  | .vandn o => fitsVAB o && decide (dstQueue o.t = true)
  | .vshl o => fitsVABI o && decide (dstQueue o.t = true)
  | .vshr o => fitsVABI o && decide (dstQueue o.t = true)
  | .vsra o => fitsVABI o && decide (dstQueue o.t = true)
  | .vfsl o => fitsVAB o && decide (dstQueue o.t = true)
  | .vfsr o => fitsVAB o && decide (dstQueue o.t = true)
  | .vcmp o => fitsVABC o && decide (dstPredPair o.t = true)
  | .vsel o => fitsVAB o && decide (dstQueue o.t = true)
  | .vcvt o => fitsVAR o && decide (dstQueue o.t = true)
  | .vqnt o => fitsVAB o && decide (dstQueue o.t = true)
  | .vdqnt o => fitsVAB o && decide (dstQueue o.t = true)
  | .vrmax o => fitsVA o && decide (dstQueue o.t = true ∨ dstScalar o.t = true)
  | .vrmin o => fitsVA o && decide (dstQueue o.t = true ∨ dstScalar o.t = true)
  | .vramax o => fitsVA o && decide (dstQueue o.t = true ∨ dstScalar o.t = true)
  | .vradd o => fitsVA o && decide (dstQueue o.t = true ∨ dstScalar o.t = true)
  | .vscan o => fitsVA o && decide (dstQueue o.t = true)
  | .vperm o => fitsVAB o && decide (dstQueue o.t = true)
  | .vrot o => fitsVABUI o && decide (dstQueue o.t = true)
  | .vbcast o => fitsVABI o && decide (dstQueue o.t = true)
  | .vextr o => fitsVABI o && decide (dstQueue o.t = true ∨ dstScalar o.t = true)
  | .viota o => fitsVT o && decide (dstQueue o.t = true)
  | .vpack o => fitsVA o && decide (dstQueue o.t = true)
  | .vunpk o => fitsVA o && decide (dstQueue o.t = true)
  | .vclz o => fitsVA o && decide (dstQueue o.t = true)
  | .vpopc o => fitsVA o && decide (dstQueue o.t = true)
  | .vexp2 o => fitsVA o && decide (dstQueue o.t = true)
  | .vlog2 o => fitsVA o && decide (dstQueue o.t = true)
  | .vrcp o => fitsVA o && decide (dstQueue o.t = true)
  | .vrsq o => fitsVA o && decide (dstQueue o.t = true)
  | .vpand o => fitsVPLog o && decide (dstPred o.t = true)
  | .vpor o => fitsVPLog o && decide (dstPred o.t = true)
  | .vpxor o => fitsVPLog o && decide (dstPred o.t = true)
  | .vpset o => fitsVPSet o && decide (dstPred o.t = true)
  | .vpcnt o => fitsVPCnt o && decide (dstScalar o.t = true ∧ o.x < 2)
  | .mcall o => fitsMCall o && decide (1 ≤ o.b)
  | .mparm o => fitsMParm o
  | .mstep o => fitsMStep o
  | .msteprd o => fitsMStepRd o
  | .mzero o => fitsMZero o
  | .mzeroAll o => fitsGC o
  | .mmpc o => fitsSA o
  | .yset o => fitsYSet o
  | .yget o => fitsYGet o
  | .ygo o => fitsYGo o
  | .yhalt o => fitsYHalt o
  | .yhaltAll o => fitsGD o
  | .cpy o => fitsCpy o
  | .cpyr o => fitsCpy o
  | .hatom o => fitsHAtom o && decide (o.s < 10 ∧ (o.o = 7 → o.r = true))
  | .red o => fitsRed o
  | .tladd o => fitsTlAdd o
  | .tlwait o => fitsTlWait o && decide (1 ≤ o.p)
  | .tlpoll o => fitsTlWait o && decide (1 ≤ o.p)
  | .tlrd o => fitsTlRd o
  | .waita o => fitsWaitA o && decide (1 ≤ o.p ∧ o.c < 5 ∧ o.t < 31)
  | .bar o => fitsGB o
  | .bara o => fitsGB o
  | .bard o => fitsGB o
  | .fence o => fitsFence o && decide (1 ≤ o.k ∧ o.s < 10)
  | .launch o => fitsLaunch o && decide (1 ≤ o.p)
  | .krot o => fitsKrot o
  | .seal o => fitsCpy o
  | .unseal o => fitsCpy o
  | .scrub o => fitsScrub o && decide (o.p < 3)
  | .dact o => fitsDRow o
  | .dactReg o => fitsDRowReg o
  | .drd o => fitsDRd o && decide (o.c < 7)
  | .dwr o => fitsDWr o && decide (o.c < 7 ∧ 1 ≤ o.w)
  | .dpre o => fitsDBank o
  | .dprea o => fitsGB o
  | .dref o => fitsGB o
  | .drefp o => fitsDBank o
  | .dprom o => fitsDRow o
  | .dpromReg o => fitsDRowReg o
  | .dclean o => fitsDClean o
  | .dcleanReg o => fitsDCleanReg o
  | .dinit o => fitsDBank o
  | .dwait o => fitsDWait o
  | .bundleIssue c => c.exists
  | .deadlineFault c => c.exists
  | .streamFault o => o.agent.exists && decide (1 ≤ o.kind) && decide (o.kind ≤ 6) && decide (o.source < 32)
  | .callFault c => c.exists
  | .yarnBeat core _ => decide (core < 64)
  | .drainAtomicPerform _ => true
  | .pooledGrant cl => decide (cl < 16)
  | .translationFill o => decide (o.die < 5) && decide (o.world < 33) && decide (o.page < 2 ^ 40)
  | .monitorWake c => c.exists
  | .waitaTimeout c => c.exists
  | .timelineWake c => c.exists
  | .tladdEffect _ => true
  | .barrierLanding _ => true
  | .barrierResume c => c.exists
  | .fenceWaitEnd c => c.exists
  | .copyQueueEntryFree c => c.exists
  | .copyTake core => decide (core < 64)
  | .copyComplete e _ => decide (e < 72)
  | .hatomPerform e _ => decide (e < 72)
  | .krotComplete e _ => decide (e < 72)
  | .sealComplete e _ => decide (e < 72)
  | .unsealComplete e _ => decide (e < 72)
  | .scrubComplete e _ => decide (e < 72)
  | .taskRetire c => c.exists
  | .zeroingComplete _ => true
  | .placementOpportunity => true
  | .taskEntry c => c.exists
  | .schedTick => true
  | .sliceSave c => c.exists
  | .victimTake core => decide (core < 64)
  | .urgentEntry _ => true
  | .victimResume core => decide (core < 64)
  | .refreshTick ch => decide (ch < 256)
  | .drdLanding ch => decide (ch < 256)
  | .dwrComplete ch => decide (ch < 256)
  | .serviceRequest ch => decide (ch < 256)
  | .governorTick => true
  | .egressInterval => true
  | .logEntryWrite => true
  | .slubWrite u => decide (u < 328)
  | .deviceReset => true
  | .bringUpComplete => true
  | .hotReset => true
  | .linkDown => true
  | .thermalTrip => true
  | .dieCutOff d => decide (d < 4)
  | .portDown p => decide (p < 32)
  | .ideIntegrityFailure f => decide (f < 32)
  | .vfEnableSet n => decide (n < 32)
  | .vfEnableClear => true
  | .lockedItemWrite o => decide (o.f < 32)
  | .hostRange1Request o => decide (o.f < 32) && decide (1 ≤ o.len) && decide (o.len ≤ 4096) && decide (o.off % 4096 + o.len ≤ 4096)
  | .pfWindowRequest o => decide (o.f = 0) && decide (1 ≤ o.len) && decide (o.len ≤ 4096) && decide (o.off % 4096 + o.len ≤ 4096)
  | .getVersion => true
  | .getCertificate o => decide (o.slot < 16) && decide (o.version < 256)
  | .challenge o => decide (o.slot < 16) && decide (o.version < 256)
  | .getMeasurements o => decide (o.index < 256) && decide (o.version < 256)
  | .keyExchange o => decide (o.slot < 16) && decide (o.version < 256)
  | .finish ses => decide (ses < 65536)
  | .heartbeat ses => decide (ses < 65536)
  | .endSession ses => decide (ses < 65536)
  | .setCertificate => true
  | .getCsr => true
  | .bindSession ses f => decide (ses < 65536) && decide (f < 65536)
  | .keyRelease ses q => decide (ses < 65536) && q.fits
  | .custodySet ses q => decide (ses < 65536) && q.fits
  | .custodyClear ses q => decide (ses < 65536) && q.fits
  | .worldResume ses q => decide (ses < 65536) && q.fits
  | .controlStart ses q => decide (ses < 65536) && q.fits
  | .channelStart ses q => decide (ses < 65536) && q.fits
  | .channelStop ses q => decide (ses < 65536) && decide (q.f < 65536) && decide (q.unit < 256)
  | .jobJoin ses q => decide (ses < 65536) && q.fits
  | .jobLeave ses f djob => decide (ses < 65536) && decide (f < 65536) && decide (djob < 2 ^ 32)
  | .switchAdmit ses q => decide (ses < 65536) && q.fits
  | .windowSetMake ses f w => decide (ses < 65536) && decide (f < 65536) && w.fits
  | .windowSetInstall ses f w => decide (ses < 65536) && decide (f < 65536) && w.fits
  | .debugPolicy ses f pol => decide (ses < 65536) && decide (f < 65536) && decide (pol < 256)
  | .lockInterface ses f ide => decide (ses < 65536) && decide (f < 65536) && decide (ide < 256)
  | .getDeviceInterfaceReport ses f => decide (ses < 65536) && decide (f < 65536)
  | .getDeviceInterfaceState ses f => decide (ses < 65536) && decide (f < 65536)
  | .startInterface ses f _ => decide (ses < 65536) && decide (f < 65536)
  | .stopInterface ses f => decide (ses < 65536) && decide (f < 65536)
  | .keyProg o => decide (o.stream < 256) && decide (o.keySet < 2) && decide (o.sub < 8)
  | .kSetGo stream keySet => decide (stream < 256) && decide (keySet.set < 2) && decide (keySet.sub < 8)
  | .layoutSet f y _ => decide (f < 65536) && y.fits
  | .pageAssign first count world => decide (first < 2 ^ 32) && decide (count < 2 ^ 32) && decide (world < 256)
  | .pageReclaim first count => decide (first < 2 ^ 32) && decide (count < 2 ^ 32)
  | .fwStage addr len => decide (addr < 2 ^ 64) && decide (len < 2 ^ 64)
  | .fwActivate => true
  | .fwCommit => true
  | .schedSet f w cap pdl => decide (f < 65536) && decide (w < 256) && decide (cap < 256) && decide (pdl < 65536)
  | .nearSet ch pin => decide (ch < 256) && decide (pin < 256)
  | .pageMove src dst => decide (src < 2 ^ 32) && decide (dst < 2 ^ 32)
  | .fabricSet pkg ports => decide (pkg < 65536) && decide (ports < 2 ^ 32)
  | .logSign => true
  | .eventSet f _ _ => decide (f < 65536)
  | .winbaseWrite _ => true
  | .trootWrite _ => true
  | .logbaseWrite _ => true
  | .logsizeWrite _ => true
  | .logackWrite _ => true
  | .dbgStop => true
  | .dbgStep => true
  | .dbgResume => true
  | .freeze => true
  | .bkptpcWrite _ => true
  | .tracectlWrite _ => true
  | .registerWrite off _ => decide (off < 65536)
  | .standardRequest src => decide (src < 65536)
  | .fabWrite m => m.fits
  | .fabRead m => m.fits
  | .redMessage m => m.fits
  | .mergeMessage m => m.fits
  | .mgmt m => m.fits
  | .arrive m => m.fits
  | .completeMessage m => m.fits
  | .writeAck m => m.fits
  | .readData m => m.fits
  | .redAck m => m.fits
  | .mergeAck m => m.fits
  | .arriveAck m => m.fits
  | .completeAck m => m.fits
  | .fabricTimeout _ => true
  | .resultLanding c _ => c.exists
  | .stepExecution c _ => c.exists
  | .iverifyFreezeEnd c => c.exists
  | .prechargeFreezeEnd ch => decide (ch < 256)
  | .bankBusyEnd ch bank => decide (ch < 256) && decide (bank < 32)
  | .portUp p => decide (p < 32)
  | .switchAdmitTimeout ordinal => decide (ordinal < 256)
  | .getCapabilities => true
  | .negotiateAlgorithms => true

/-- The instruction is well formed. -/
def Instr.wf (i : Instr) : Prop := i.isWf = true

end Sys2Proof
end

