-- ==== Sys2Proof/Decode.lean ====
section
/-!
DEFINITION. Decoding and encoding (spec/02_program_image_and_encodings.md R18-R29). The decoder is total on any bytes and
rejects by name. Both directions are written from the layouts of the spec: a candidate is read field by
field, and it is accepted exactly when the word written for it is the word read (so no reserved bit is
lost) and it is well formed.
-/

namespace Sys2Proof

/-- Bits `hi` down to `lo` of `w`. -/
def bf (w hi lo : Nat) : Nat := w / 2 ^ lo % 2 ^ (hi + 1 - lo)

/-- Bit `k` of `w` as a mark. -/
def bm (w k : Nat) : Bool := w / 2 ^ k % 2 == 1

/-! ## The layouts: words from operands and operands from words.
`mj` is the major opcode of R21; `x` is the value of the layout's fixed bits of [21:0]. -/

/-- The word of the layout of ADD. -/
def encRR (mj x : Nat) (o : RR) : Nat :=
  mj * 4194304 + x + o.g * 268435456 + o.d * 131072 + o.q.toNat * 65536 + o.a * 2048 + o.m.toNat * 1024 + o.b * 32 + o.n.toNat * 16
/-- The operands of the layout of ADD. -/
def decRR (w : Nat) : RR where
    g := bf w 31 28
    d := bf w 21 17
    q := bm w 16
    a := bf w 15 11
    m := bm w 10
    b := bf w 9 5
    n := bm w 4

/-- The word of the layout of MOV. -/
def encRU (mj x : Nat) (o : RU) : Nat :=
  mj * 4194304 + x + o.g * 268435456 + o.d * 131072 + o.q.toNat * 65536 + o.a * 2048 + o.m.toNat * 1024
/-- The operands of the layout of MOV. -/
def decRU (w : Nat) : RU where
    g := bf w 31 28
    d := bf w 21 17
    q := bm w 16
    a := bf w 15 11
    m := bm w 10

/-- The word of the layout of SEL. -/
def encRRP (mj x : Nat) (o : RRP) : Nat :=
  mj * 4194304 + x + o.g * 268435456 + o.d * 131072 + o.q.toNat * 65536 + o.a * 2048 + o.m.toNat * 1024 + o.b * 32 + o.n.toNat * 16 + o.p * 1
/-- The operands of the layout of SEL. -/
def decRRP (w : Nat) : RRP where
    g := bf w 31 28
    d := bf w 21 17
    q := bm w 16
    a := bf w 15 11
    m := bm w 10
    b := bf w 9 5
    n := bm w 4
    p := bf w 3 0

/-- The word of the layout of ADDS. -/
def encRRK (mj x : Nat) (o : RRK) : Nat :=
  mj * 4194304 + x + o.g * 268435456 + o.d * 131072 + o.q.toNat * 65536 + o.a * 2048 + o.m.toNat * 1024 + o.b * 32 + o.n.toNat * 16 + o.k * 1
/-- The operands of the layout of ADDS. -/
def decRRK (w : Nat) : RRK where
    g := bf w 31 28
    d := bf w 21 17
    q := bm w 16
    a := bf w 15 11
    m := bm w 10
    b := bf w 9 5
    n := bm w 4
    k := bf w 3 0

/-- The word of the layout of CMP_CC. -/
def encCmpRR (mj x : Nat) (o : CmpRR) : Nat :=
  mj * 4194304 + x + o.g * 268435456 + o.c * 262144 + o.p * 65536 + o.a * 2048 + o.m.toNat * 1024 + o.b * 32 + o.n.toNat * 16
/-- The operands of the layout of CMP_CC. -/
def decCmpRR (w : Nat) : CmpRR where
    g := bf w 31 28
    c := bf w 21 18
    p := bf w 17 16
    a := bf w 15 11
    m := bm w 10
    b := bf w 9 5
    n := bm w 4

/-- The word of the layout of CMPI_CC. -/
def encCmpRI (mj x : Nat) (o : CmpRI) : Nat :=
  mj * 4194304 + x + o.g * 268435456 + o.c * 262144 + o.p * 65536 + o.a * 2048 + o.m.toNat * 1024 + o.i * 1
/-- The operands of the layout of CMPI_CC. -/
def decCmpRI (w : Nat) : CmpRI where
    g := bf w 31 28
    c := bf w 21 18
    p := bf w 17 16
    a := bf w 15 11
    m := bm w 10
    i := bf w 9 0

/-- The word of the layout of ADDI. -/
def encRI (mj x : Nat) (o : RI) : Nat :=
  mj * 4194304 + x + o.g * 268435456 + o.d * 131072 + o.q.toNat * 65536 + o.a * 2048 + o.m.toNat * 1024 + o.i * 1
/-- The operands of the layout of ADDI. -/
def decRI (w : Nat) : RI where
    g := bf w 31 28
    d := bf w 21 17
    q := bm w 16
    a := bf w 15 11
    m := bm w 10
    i := bf w 9 0

/-- The word of the layout of SHLI. -/
def encRIB (mj x : Nat) (o : RI) : Nat :=
  mj * 4194304 + x + o.g * 268435456 + o.d * 131072 + o.q.toNat * 65536 + o.a * 2048 + o.m.toNat * 1024 + o.i * 1
/-- The operands of the layout of SHLI. -/
def decRIB (w : Nat) : RI where
    g := bf w 31 28
    d := bf w 21 17
    q := bm w 16
    a := bf w 15 11
    m := bm w 10
    i := bf w 5 0

/-- The word of the layout of LIM. -/
def encRL (mj x : Nat) (o : RL) : Nat :=
  mj * 4194304 + x + o.g * 268435456 + o.d * 131072 + o.q.toNat * 65536 + o.i * 1
/-- The operands of the layout of LIM. -/
def decRL (w : Nat) : RL where
    g := bf w 31 28
    d := bf w 21 17
    q := bm w 16
    i := bf w 15 0

/-- The word of the layout of PAND. -/
def encPLog (mj x : Nat) (o : PLog) : Nat :=
  mj * 4194304 + x + o.g * 268435456 + o.p * 65536 + o.a * 256 + o.b * 16
/-- The operands of the layout of PAND. -/
def decPLog (w : Nat) : PLog where
    g := bf w 31 28
    p := bf w 17 16
    a := bf w 11 8
    b := bf w 7 4

/-- The word of the layout of PSET. -/
def encPSet (mj x : Nat) (o : PSet) : Nat :=
  mj * 4194304 + x + o.g * 268435456 + o.p * 65536 + o.v.toNat * 1
/-- The operands of the layout of PSET. -/
def decPSet (w : Nat) : PSet where
    g := bf w 31 28
    p := bf w 17 16
    v := bm w 0

/-- The word of the layout of FFMA. -/
def encRRF (mj x : Nat) (o : RRF) : Nat :=
  mj * 4194304 + x + o.g * 268435456 + o.d * 131072 + o.q.toNat * 65536 + o.a * 2048 + o.m.toNat * 1024 + o.b * 32 + o.n.toNat * 16 + o.u.toNat * 2 + o.v.toNat * 1
/-- The operands of the layout of FFMA. -/
def decRRF (w : Nat) : RRF where
    g := bf w 31 28
    d := bf w 21 17
    q := bm w 16
    a := bf w 15 11
    m := bm w 10
    b := bf w 9 5
    n := bm w 4
    u := bm w 1
    v := bm w 0

/-- The word of the layout of FCVT. -/
def encRUF (mj x : Nat) (o : RUF) : Nat :=
  mj * 4194304 + x + o.g * 268435456 + o.d * 131072 + o.q.toNat * 65536 + o.a * 2048 + o.m.toNat * 1024 + o.f * 1
/-- The operands of the layout of FCVT. -/
def decRUF (w : Nat) : RUF where
    g := bf w 31 28
    d := bf w 21 17
    q := bm w 16
    a := bf w 15 11
    m := bm w 10
    f := bf w 3 0

/-- The word of the layout of QLEN. -/
def encQLen (mj x : Nat) (o : QLen) : Nat :=
  mj * 4194304 + x + o.g * 268435456 + o.d * 131072 + o.q.toNat * 65536 + o.a * 2048
/-- The operands of the layout of QLEN. -/
def decQLen (w : Nat) : QLen where
    g := bf w 31 28
    d := bf w 21 17
    q := bm w 16
    a := bf w 15 11

/-- The word of the layout of QCLR. -/
def encQReg (mj x : Nat) (o : QReg) : Nat :=
  mj * 4194304 + x + o.g * 268435456 + o.a * 2048
/-- The operands of the layout of QCLR. -/
def decQReg (w : Nat) : QReg where
    g := bf w 31 28
    a := bf w 15 11

/-- The word of the layout of CSRRD. -/
def encCsrRd (mj x : Nat) (o : CsrRd) : Nat :=
  mj * 4194304 + x + o.g * 268435456 + o.d * 131072 + o.q.toNat * 65536 + o.c * 1
/-- The operands of the layout of CSRRD. -/
def decCsrRd (w : Nat) : CsrRd where
    g := bf w 31 28
    d := bf w 21 17
    q := bm w 16
    c := bf w 11 0

/-- The word of the layout of CSRWR. -/
def encCsrWr (mj x : Nat) (o : CsrWr) : Nat :=
  mj * 4194304 + x + o.g * 268435456 + o.c * 1024 + o.a * 32 + o.m.toNat * 16
/-- The operands of the layout of CSRWR. -/
def decCsrWr (w : Nat) : CsrWr where
    g := bf w 31 28
    c := bf w 21 10
    a := bf w 9 5
    m := bm w 4

/-- The word of the layout of BR. -/
def encBr (mj x : Nat) (o : Br) : Nat :=
  mj * 4194304 + x + o.g * 268435456 + o.o * 1
/-- The operands of the layout of BR. -/
def decBr (w : Nat) : Br where
    g := bf w 31 28
    o := bf w 21 0

/-- The word of the layout of BRL. -/
def encBrl (mj x : Nat) (o : Brl) : Nat :=
  mj * 4194304 + x + o.g * 268435456 + o.l.toNat * 2097152 + o.o * 1
/-- The operands of the layout of BRL. -/
def decBrl (w : Nat) : Brl where
    g := bf w 31 28
    l := bm w 21
    o := bf w 20 0

/-- The word of the layout of BRI. -/
def encSA (mj x : Nat) (o : SA) : Nat :=
  mj * 4194304 + x + o.g * 268435456 + o.a * 2048 + o.m.toNat * 1024
/-- The operands of the layout of BRI. -/
def decSA (w : Nat) : SA where
    g := bf w 31 28
    a := bf w 15 11
    m := bm w 10

/-- The word of the layout of LOOP. -/
def encLoop (mj x : Nat) (o : Loop) : Nat :=
  mj * 4194304 + x + o.g * 268435456 + o.a * 2048 + o.m.toNat * 1024 + o.s * 1
/-- The operands of the layout of LOOP. -/
def decLoop (w : Nat) : Loop where
    g := bf w 31 28
    a := bf w 15 11
    m := bm w 10
    s := bf w 2 0

/-- The word of the layout of LOOPI. -/
def encLoopI (mj x : Nat) (o : LoopI) : Nat :=
  mj * 4194304 + x + o.g * 268435456 + o.s * 65536 + o.c * 1
/-- The operands of the layout of LOOPI. -/
def decLoopI (w : Nat) : LoopI where
    g := bf w 31 28
    s := bf w 18 16
    c := bf w 15 0

/-- The word of the layout of LOOPI_K. -/
def encG (mj x : Nat) (o : G) : Nat :=
  mj * 4194304 + x + o.g * 268435456
/-- The operands of the layout of LOOPI_K. -/
def decG (w : Nat) : G where
    g := bf w 31 28

/-- The word of the layout of BSWAP. -/
def encBswap (mj x : Nat) (o : Bswap) : Nat :=
  mj * 4194304 + x + o.g * 268435456 + o.o * 1
/-- The operands of the layout of BSWAP. -/
def decBswap (w : Nat) : Bswap where
    g := bf w 31 28
    o := bf w 17 0

/-- The word of the layout of IFENCE. -/
def encGB (mj x : Nat) (o : G) : Nat :=
  mj * 4194304 + x + o.g * 268435456
/-- The operands of the layout of IFENCE. -/
def decGB (w : Nat) : G where
    g := bf w 31 28

/-- The word of the layout of IVERIFY. -/
def encIVer (mj x : Nat) (o : IVer) : Nat :=
  mj * 4194304 + x + o.g * 268435456 + o.p * 65536 + o.a * 2048 + o.m.toNat * 1024 + o.b * 32 + o.n.toNat * 16
/-- The operands of the layout of IVERIFY. -/
def decIVer (w : Nat) : IVer where
    g := bf w 31 28
    p := bf w 17 16
    a := bf w 15 11
    m := bm w 10
    b := bf w 9 5
    n := bm w 4

/-- The word of the layout of TRAP. -/
def encCode (mj x : Nat) (o : Code) : Nat :=
  mj * 4194304 + x + o.g * 268435456 + o.c * 1
/-- The operands of the layout of TRAP. -/
def decCode (w : Nat) : Code where
    g := bf w 31 28
    c := bf w 15 0

/-- The word of the layout of VLD. -/
def encVLd (mj x : Nat) (o : VLd) : Nat :=
  mj * 4194304 + x + o.g * 268435456 + o.t * 16384 + o.a * 512 + o.m.toNat * 256 + o.i * 1
/-- The operands of the layout of VLD. -/
def decVLd (w : Nat) : VLd where
    g := bf w 31 28
    t := bf w 21 14
    a := bf w 13 9
    m := bm w 8
    i := bf w 7 0

/-- The word of the layout of VST. -/
def encVSt (mj x : Nat) (o : VSt) : Nat :=
  mj * 4194304 + x + o.g * 268435456 + o.q.toNat * 2097152 + o.s * 131072 + o.a * 512 + o.m.toNat * 256 + o.i * 1
/-- The operands of the layout of VST. -/
def decVSt (w : Nat) : VSt where
    g := bf w 31 28
    q := bm w 21
    s := bf w 20 17
    a := bf w 13 9
    m := bm w 8
    i := bf w 7 0

/-- The word of the layout of VSTM. -/
def encVStM (mj x : Nat) (o : VStM) : Nat :=
  mj * 4194304 + x + o.g * 268435456 + o.q.toNat * 2097152 + o.s * 131072 + o.p * 16384 + o.a * 512 + o.m.toNat * 256 + o.i * 1
/-- The operands of the layout of VSTM. -/
def decVStM (w : Nat) : VStM where
    g := bf w 31 28
    q := bm w 21
    s := bf w 20 17
    p := bf w 16 14
    a := bf w 13 9
    m := bm w 8
    i := bf w 7 0

/-- The word of the layout of VLDS. -/
def encVLdS (mj x : Nat) (o : VLdS) : Nat :=
  mj * 4194304 + x + o.g * 268435456 + o.t * 16384 + o.i * 1
/-- The operands of the layout of VLDS. -/
def decVLdS (w : Nat) : VLdS where
    g := bf w 31 28
    t := bf w 21 14
    i := bf w 10 0

/-- The word of the layout of VSTS. -/
def encVStS (mj x : Nat) (o : VStS) : Nat :=
  mj * 4194304 + x + o.g * 268435456 + o.q.toNat * 2097152 + o.s * 131072 + o.i * 1
/-- The operands of the layout of VSTS. -/
def decVStS (w : Nat) : VStS where
    g := bf w 31 28
    q := bm w 21
    s := bf w 20 17
    i := bf w 10 0

/-- The word of the layout of LATOM. -/
def encLatom (mj x : Nat) (o : Latom) : Nat :=
  mj * 4194304 + x + o.g * 268435456 + o.d * 131072 + o.q.toNat * 65536 + o.a * 2048 + o.m.toNat * 1024 + o.b * 32 + o.n.toNat * 16 + o.o * 2 + o.p.toNat * 1
/-- The operands of the layout of LATOM. -/
def decLatom (w : Nat) : Latom where
    g := bf w 31 28
    d := bf w 21 17
    q := bm w 16
    a := bf w 15 11
    m := bm w 10
    b := bf w 9 5
    n := bm w 4
    o := bf w 3 1
    p := bm w 0

/-- The word of the layout of SENDT. -/
def encSendT (mj x : Nat) (o : SendT) : Nat :=
  mj * 4194304 + x + o.g * 268435456 + o.q.toNat * 2097152 + o.s * 131072 + o.c * 1
/-- The operands of the layout of SENDT. -/
def decSendT (w : Nat) : SendT where
    g := bf w 31 28
    q := bm w 21
    s := bf w 20 17
    c := bf w 3 0

/-- The word of the layout of RECVT. -/
def encRecvT (mj x : Nat) (o : RecvT) : Nat :=
  mj * 4194304 + x + o.g * 268435456 + o.t * 16384 + o.f * 1
/-- The operands of the layout of RECVT. -/
def decRecvT (w : Nat) : RecvT where
    g := bf w 31 28
    t := bf w 21 14
    f := bf w 1 0

/-- The word of the layout of VADD. -/
def encVAB (mj x : Nat) (o : VAB) : Nat :=
  mj * 4194304 + x + o.g * 268435456 + o.t * 16384 + o.m.toNat * 8192 + o.a * 512 + o.n.toNat * 256 + o.b * 16 + o.l * 4
/-- The operands of the layout of VADD. -/
def decVAB (w : Nat) : VAB where
    g := bf w 31 28
    t := bf w 21 14
    m := bm w 13
    a := bf w 12 9
    n := bm w 8
    b := bf w 7 4
    l := bf w 3 2

/-- The word of the layout of VACCR. -/
def encVAccR (mj x : Nat) (o : VAccR) : Nat :=
  mj * 4194304 + x + o.g * 268435456 + o.t * 16384 + o.h.toNat * 1024 + o.z.toNat * 512 + o.l * 4 + o.k * 1
/-- The operands of the layout of VACCR. -/
def decVAccR (w : Nat) : VAccR where
    g := bf w 31 28
    t := bf w 21 14
    h := bm w 10
    z := bm w 9
    l := bf w 3 2
    k := bf w 1 0

/-- The word of the layout of VABS. -/
def encVA (mj x : Nat) (o : VA) : Nat :=
  mj * 4194304 + x + o.g * 268435456 + o.t * 16384 + o.m.toNat * 8192 + o.a * 512 + o.l * 4
/-- The operands of the layout of VABS. -/
def decVA (w : Nat) : VA where
    g := bf w 31 28
    t := bf w 21 14
    m := bm w 13
    a := bf w 12 9
    l := bf w 3 2

/-- The word of the layout of VSHL. -/
def encVABI (mj x : Nat) (o : VABI) : Nat :=
  mj * 4194304 + x + o.g * 268435456 + o.t * 16384 + o.m.toNat * 8192 + o.a * 512 + o.n.toNat * 256 + o.b * 16 + o.l * 4 + o.i.toNat * 1
/-- The operands of the layout of VSHL. -/
def decVABI (w : Nat) : VABI where
    g := bf w 31 28
    t := bf w 21 14
    m := bm w 13
    a := bf w 12 9
    n := bm w 8
    b := bf w 7 4
    l := bf w 3 2
    i := bm w 0

/-- The word of the layout of VCMP_CC. -/
def encVABC (mj x : Nat) (o : VABC) : Nat :=
  mj * 4194304 + x + o.g * 268435456 + o.t * 16384 + o.m.toNat * 8192 + o.a * 512 + o.n.toNat * 256 + o.b * 16 + o.l * 4 + o.c * 1
/-- The operands of the layout of VCMP_CC. -/
def decVABC (w : Nat) : VABC where
    g := bf w 31 28
    t := bf w 21 14
    m := bm w 13
    a := bf w 12 9
    n := bm w 8
    b := bf w 7 4
    l := bf w 3 2
    c := bf w 1 0

/-- The word of the layout of VCVT. -/
def encVAR (mj x : Nat) (o : VAR) : Nat :=
  mj * 4194304 + x + o.g * 268435456 + o.t * 16384 + o.m.toNat * 8192 + o.a * 512 + o.l * 4 + o.r.toNat * 1
/-- The operands of the layout of VCVT. -/
def decVAR (w : Nat) : VAR where
    g := bf w 31 28
    t := bf w 21 14
    m := bm w 13
    a := bf w 12 9
    l := bf w 3 2
    r := bm w 0

/-- The word of the layout of VROT. -/
def encVABUI (mj x : Nat) (o : VABUI) : Nat :=
  mj * 4194304 + x + o.g * 268435456 + o.t * 16384 + o.m.toNat * 8192 + o.a * 512 + o.n.toNat * 256 + o.b * 16 + o.l * 4 + o.u.toNat * 2 + o.i.toNat * 1
/-- The operands of the layout of VROT. -/
def decVABUI (w : Nat) : VABUI where
    g := bf w 31 28
    t := bf w 21 14
    m := bm w 13
    a := bf w 12 9
    n := bm w 8
    b := bf w 7 4
    l := bf w 3 2
    u := bm w 1
    i := bm w 0

/-- The word of the layout of VIOTA. -/
def encVT (mj x : Nat) (o : VT) : Nat :=
  mj * 4194304 + x + o.g * 268435456 + o.t * 16384 + o.l * 4
/-- The operands of the layout of VIOTA. -/
def decVT (w : Nat) : VT where
    g := bf w 31 28
    t := bf w 21 14
    l := bf w 3 2

/-- The word of the layout of VPAND. -/
def encVPLog (mj x : Nat) (o : VPLog) : Nat :=
  mj * 4194304 + x + o.g * 268435456 + o.t * 16384 + o.a * 512 + o.b * 16 + o.n.toNat * 1
/-- The operands of the layout of VPAND. -/
def decVPLog (w : Nat) : VPLog where
    g := bf w 31 28
    t := bf w 21 14
    a := bf w 11 9
    b := bf w 6 4
    n := bm w 0

/-- The word of the layout of VPSET. -/
def encVPSet (mj x : Nat) (o : VPSet) : Nat :=
  mj * 4194304 + x + o.g * 268435456 + o.t * 16384 + o.v.toNat * 1
/-- The operands of the layout of VPSET. -/
def decVPSet (w : Nat) : VPSet where
    g := bf w 31 28
    t := bf w 21 14
    v := bm w 0

/-- The word of the layout of VPCNT. -/
def encVPCnt (mj x : Nat) (o : VPCnt) : Nat :=
  mj * 4194304 + x + o.g * 268435456 + o.t * 16384 + o.a * 512 + o.x * 1
/-- The operands of the layout of VPCNT. -/
def decVPCnt (w : Nat) : VPCnt where
    g := bf w 31 28
    t := bf w 21 14
    a := bf w 11 9
    x := bf w 1 0

/-- The word of the layout of MCALL. -/
def encMCall (mj x : Nat) (o : MCall) : Nat :=
  mj * 4194304 + x + o.g * 268435456 + o.i * 65536 + o.b * 1
/-- The operands of the layout of MCALL. -/
def decMCall (w : Nat) : MCall where
    g := bf w 31 28
    i := bf w 21 16
    b := bf w 15 0

/-- The word of the layout of MPARM. -/
def encMParm (mj x : Nat) (o : MParm) : Nat :=
  mj * 4194304 + x + o.g * 268435456 + o.a * 2048 + o.m.toNat * 1024 + o.p * 1
/-- The operands of the layout of MPARM. -/
def decMParm (w : Nat) : MParm where
    g := bf w 31 28
    a := bf w 15 11
    m := bm w 10
    p := bf w 2 0

/-- The word of the layout of MSTEP. -/
def encMStep (mj x : Nat) (o : MStep) : Nat :=
  mj * 4194304 + x + o.g * 268435456 + o.t.toNat * 2097152 + o.a * 2048 + o.m.toNat * 1024 + o.b * 32 + o.n.toNat * 16
/-- The operands of the layout of MSTEP. -/
def decMStep (w : Nat) : MStep where
    g := bf w 31 28
    t := bm w 21
    a := bf w 15 11
    m := bm w 10
    b := bf w 9 5
    n := bm w 4

/-- The word of the layout of MSTEPRD. -/
def encMStepRd (mj x : Nat) (o : MStepRd) : Nat :=
  mj * 4194304 + x + o.g * 268435456 + o.d * 131072 + o.q.toNat * 65536 + o.a * 2048 + o.m.toNat * 1024 + o.t.toNat * 512
/-- The operands of the layout of MSTEPRD. -/
def decMStepRd (w : Nat) : MStepRd where
    g := bf w 31 28
    d := bf w 21 17
    q := bm w 16
    a := bf w 15 11
    m := bm w 10
    t := bm w 9

/-- The word of the layout of MZERO. -/
def encMZero (mj x : Nat) (o : MZero) : Nat :=
  mj * 4194304 + x + o.g * 268435456 + o.k * 1
/-- The operands of the layout of MZERO. -/
def decMZero (w : Nat) : MZero where
    g := bf w 31 28
    k := bf w 1 0

/-- The word of the layout of MZERO_ALL. -/
def encGC (mj x : Nat) (o : G) : Nat :=
  mj * 4194304 + x + o.g * 268435456
/-- The operands of the layout of MZERO_ALL. -/
def decGC (w : Nat) : G where
    g := bf w 31 28

/-- The word of the layout of YSET. -/
def encYSet (mj x : Nat) (o : YSet) : Nat :=
  mj * 4194304 + x + o.g * 268435456 + o.a * 131072 + o.m.toNat * 65536 + o.b * 2048 + o.n.toNat * 1024 + o.y * 32 + o.h.toNat * 16
/-- The operands of the layout of YSET. -/
def decYSet (w : Nat) : YSet where
    g := bf w 31 28
    a := bf w 21 17
    m := bm w 16
    b := bf w 15 11
    n := bm w 10
    y := bf w 9 5
    h := bm w 4

/-- The word of the layout of YGET. -/
def encYGet (mj x : Nat) (o : YGet) : Nat :=
  mj * 4194304 + x + o.g * 268435456 + o.d * 131072 + o.q.toNat * 65536 + o.y * 32 + o.w * 8
/-- The operands of the layout of YGET. -/
def decYGet (w : Nat) : YGet where
    g := bf w 31 28
    d := bf w 21 17
    q := bm w 16
    y := bf w 9 5
    w := bf w 4 3

/-- The word of the layout of YGO. -/
def encYGo (mj x : Nat) (o : YGo) : Nat :=
  mj * 4194304 + x + o.g * 268435456 + o.a * 131072 + o.m.toNat * 65536 + o.b * 2048 + o.n.toNat * 1024 + o.y * 32
/-- The operands of the layout of YGO. -/
def decYGo (w : Nat) : YGo where
    g := bf w 31 28
    a := bf w 21 17
    m := bm w 16
    b := bf w 15 11
    n := bm w 10
    y := bf w 9 5

/-- The word of the layout of YHALT. -/
def encYHalt (mj x : Nat) (o : YHalt) : Nat :=
  mj * 4194304 + x + o.g * 268435456 + o.y * 32
/-- The operands of the layout of YHALT. -/
def decYHalt (w : Nat) : YHalt where
    g := bf w 31 28
    y := bf w 9 5

/-- The word of the layout of YHALT_ALL. -/
def encGD (mj x : Nat) (o : G) : Nat :=
  mj * 4194304 + x + o.g * 268435456
/-- The operands of the layout of YHALT_ALL. -/
def decGD (w : Nat) : G where
    g := bf w 31 28

/-- The word of the layout of CPY. -/
def encCpy (mj x : Nat) (o : Cpy) : Nat :=
  mj * 4194304 + x + o.g * 268435456 + o.a * 131072 + o.m.toNat * 65536 + o.b * 2048 + o.n.toNat * 1024 + o.y * 32 + o.d * 1
/-- The operands of the layout of CPY. -/
def decCpy (w : Nat) : Cpy where
    g := bf w 31 28
    a := bf w 21 17
    m := bm w 16
    b := bf w 15 11
    n := bm w 10
    y := bf w 9 5
    d := bf w 4 0

/-- The word of the layout of HATOM. -/
def encHAtom (mj x : Nat) (o : HAtom) : Nat :=
  mj * 4194304 + x + o.g * 268435456 + o.a * 131072 + o.m.toNat * 65536 + o.b * 2048 + o.n.toNat * 1024 + o.o * 128 + o.s * 8 + o.r.toNat * 4
/-- The operands of the layout of HATOM. -/
def decHAtom (w : Nat) : HAtom where
    g := bf w 31 28
    a := bf w 21 17
    m := bm w 16
    b := bf w 15 11
    n := bm w 10
    o := bf w 9 7
    s := bf w 6 3
    r := bm w 2

/-- The word of the layout of RED. -/
def encRed (mj x : Nat) (o : Red) : Nat :=
  mj * 4194304 + x + o.g * 268435456 + o.a * 131072 + o.m.toNat * 65536 + o.b * 2048 + o.n.toNat * 1024 + o.o * 128
/-- The operands of the layout of RED. -/
def decRed (w : Nat) : Red where
    g := bf w 31 28
    a := bf w 21 17
    m := bm w 16
    b := bf w 15 11
    n := bm w 10
    o := bf w 9 7

/-- The word of the layout of TLADD. -/
def encTlAdd (mj x : Nat) (o : TlAdd) : Nat :=
  mj * 4194304 + x + o.g * 268435456 + o.b * 2048 + o.n.toNat * 1024 + o.k * 128
/-- The operands of the layout of TLADD. -/
def decTlAdd (w : Nat) : TlAdd where
    g := bf w 31 28
    b := bf w 15 11
    n := bm w 10
    k := bf w 9 7

/-- The word of the layout of TLWAIT. -/
def encTlWait (mj x : Nat) (o : TlWait) : Nat :=
  mj * 4194304 + x + o.g * 268435456 + o.b * 2048 + o.n.toNat * 1024 + o.k * 128 + o.p * 32
/-- The operands of the layout of TLWAIT. -/
def decTlWait (w : Nat) : TlWait where
    g := bf w 31 28
    b := bf w 15 11
    n := bm w 10
    k := bf w 9 7
    p := bf w 6 5

/-- The word of the layout of TLRD. -/
def encTlRd (mj x : Nat) (o : TlRd) : Nat :=
  mj * 4194304 + x + o.g * 268435456 + o.k * 128 + o.e * 32 + o.d * 1
/-- The operands of the layout of TLRD. -/
def decTlRd (w : Nat) : TlRd where
    g := bf w 31 28
    k := bf w 9 7
    e := bf w 6 5
    d := bf w 4 0

/-- The word of the layout of WAITA. -/
def encWaitA (mj x : Nat) (o : WaitA) : Nat :=
  mj * 4194304 + x + o.g * 268435456 + o.a * 131072 + o.m.toNat * 65536 + o.b * 2048 + o.n.toNat * 1024 + o.p * 256 + o.c * 32 + o.t * 1
/-- The operands of the layout of WAITA. -/
def decWaitA (w : Nat) : WaitA where
    g := bf w 31 28
    a := bf w 21 17
    m := bm w 16
    b := bf w 15 11
    n := bm w 10
    p := bf w 9 8
    c := bf w 7 5
    t := bf w 4 0

/-- The word of the layout of FENCE. -/
def encFence (mj x : Nat) (o : Fence) : Nat :=
  mj * 4194304 + x + o.g * 268435456 + o.k * 256 + o.s * 16
/-- The operands of the layout of FENCE. -/
def decFence (w : Nat) : Fence where
    g := bf w 31 28
    k := bf w 9 8
    s := bf w 7 4

/-- The word of the layout of LAUNCH. -/
def encLaunch (mj x : Nat) (o : Launch) : Nat :=
  mj * 4194304 + x + o.g * 268435456 + o.a * 131072 + o.m.toNat * 65536 + o.d * 32 + o.q.toNat * 16 + o.p * 4
/-- The operands of the layout of LAUNCH. -/
def decLaunch (w : Nat) : Launch where
    g := bf w 31 28
    a := bf w 21 17
    m := bm w 16
    d := bf w 9 5
    q := bm w 4
    p := bf w 3 2

/-- The word of the layout of KROT. -/
def encKrot (mj x : Nat) (o : Krot) : Nat :=
  mj * 4194304 + x + o.g * 268435456 + o.a * 131072 + o.m.toNat * 65536 + o.b * 2048 + o.n.toNat * 1024 + o.d * 1
/-- The operands of the layout of KROT. -/
def decKrot (w : Nat) : Krot where
    g := bf w 31 28
    a := bf w 21 17
    m := bm w 16
    b := bf w 15 11
    n := bm w 10
    d := bf w 4 0

/-- The word of the layout of SCRUB. -/
def encScrub (mj x : Nat) (o : Scrub) : Nat :=
  mj * 4194304 + x + o.g * 268435456 + o.a * 131072 + o.m.toNat * 65536 + o.b * 2048 + o.n.toNat * 1024 + o.p * 256 + o.d * 1
/-- The operands of the layout of SCRUB. -/
def decScrub (w : Nat) : Scrub where
    g := bf w 31 28
    a := bf w 21 17
    m := bm w 16
    b := bf w 15 11
    n := bm w 10
    p := bf w 9 8
    d := bf w 4 0

/-- The word of the layout of DACT. -/
def encDRow (mj x : Nat) (o : DRow) : Nat :=
  mj * 4194304 + x + o.g * 268435456 + o.k * 131072 + o.r * 1
/-- The operands of the layout of DACT. -/
def decDRow (w : Nat) : DRow where
    g := bf w 31 28
    k := bf w 21 17
    r := bf w 14 0

/-- The word of the layout of DACT_REG. -/
def encDRowReg (mj x : Nat) (o : DRowReg) : Nat :=
  mj * 4194304 + x + o.g * 268435456 + o.k * 131072 + o.a * 1024 + o.m.toNat * 512
/-- The operands of the layout of DACT_REG. -/
def decDRowReg (w : Nat) : DRowReg where
    g := bf w 31 28
    k := bf w 21 17
    a := bf w 14 10
    m := bm w 9

/-- The word of the layout of DRD. -/
def encDRd (mj x : Nat) (o : DRd) : Nat :=
  mj * 4194304 + x + o.g * 268435456 + o.k * 131072 + o.c * 16384 + o.a * 64 + o.m.toNat * 32 + o.s.toNat * 16 + o.e.toNat * 8
/-- The operands of the layout of DRD. -/
def decDRd (w : Nat) : DRd where
    g := bf w 31 28
    k := bf w 21 17
    c := bf w 16 14
    a := bf w 10 6
    m := bm w 5
    s := bm w 4
    e := bm w 3

/-- The word of the layout of DWR. -/
def encDWr (mj x : Nat) (o : DWr) : Nat :=
  mj * 4194304 + x + o.g * 268435456 + o.k * 131072 + o.c * 16384 + o.w * 1024 + o.a * 32 + o.m.toNat * 16 + o.s.toNat * 8 + o.e.toNat * 4
/-- The operands of the layout of DWR. -/
def decDWr (w : Nat) : DWr where
    g := bf w 31 28
    k := bf w 21 17
    c := bf w 16 14
    w := bf w 13 10
    a := bf w 9 5
    m := bm w 4
    s := bm w 3
    e := bm w 2

/-- The word of the layout of DPRE. -/
def encDBank (mj x : Nat) (o : DBank) : Nat :=
  mj * 4194304 + x + o.g * 268435456 + o.k * 131072
/-- The operands of the layout of DPRE. -/
def decDBank (w : Nat) : DBank where
    g := bf w 31 28
    k := bf w 21 17

/-- The word of the layout of DCLEAN. -/
def encDClean (mj x : Nat) (o : DClean) : Nat :=
  mj * 4194304 + x + o.g * 268435456 + o.k * 131072 + o.v.toNat * 32768 + o.r * 1
/-- The operands of the layout of DCLEAN. -/
def decDClean (w : Nat) : DClean where
    g := bf w 31 28
    k := bf w 21 17
    v := bm w 15
    r := bf w 14 0

/-- The word of the layout of DCLEAN_REG. -/
def encDCleanReg (mj x : Nat) (o : DCleanReg) : Nat :=
  mj * 4194304 + x + o.g * 268435456 + o.k * 131072 + o.v.toNat * 32768 + o.a * 1024 + o.m.toNat * 512
/-- The operands of the layout of DCLEAN_REG. -/
def decDCleanReg (w : Nat) : DCleanReg where
    g := bf w 31 28
    k := bf w 21 17
    v := bm w 15
    a := bf w 14 10
    m := bm w 9

/-- The word of the layout of DWAIT. -/
def encDWait (mj x : Nat) (o : DWait) : Nat :=
  mj * 4194304 + x + o.g * 268435456 + o.a * 2048 + o.m.toNat * 1024 + o.b * 32 + o.n.toNat * 16
/-- The operands of the layout of DWAIT. -/
def decDWait (w : Nat) : DWait where
    g := bf w 31 28
    a := bf w 15 11
    m := bm w 10
    b := bf w 9 5
    n := bm w 4

/-- The slot word of an instruction; 0 for a step that has no word. -/
def encodeWord : Instr → Nat
  | .add o => encRR 0x0 0x0 o
  | .sub o => encRR 0x0 0x1 o
  | .and o => encRR 0x0 0x2 o
  | .or o => encRR 0x0 0x3 o
  | .xor o => encRR 0x0 0x4 o
  | .andn o => encRR 0x0 0x5 o
  | .min o => encRR 0x0 0x6 o
  | .max o => encRR 0x0 0x7 o
  | .mins o => encRR 0x0 0x8 o
  | .maxs o => encRR 0x0 0x9 o
  | .shl o => encRR 0x0 0xa o
  | .shr o => encRR 0x0 0xb o
  | .sra o => encRR 0x0 0xc o
  | .fsl o => encRR 0x0 0xd o
  | .fsr o => encRR 0x0 0xe o
  | .mul o => encRR 0x1 0x0 o
  | .mulh o => encRR 0x1 0x1 o
  | .mulhs o => encRR 0x1 0x2 o
  | .div o => encRR 0x1 0x3 o
  | .divs o => encRR 0x1 0x4 o
  | .rem o => encRR 0x1 0x5 o
  | .rems o => encRR 0x1 0x6 o
  | .mov o => encRU 0x2 0x0 o
  | .clz o => encRU 0x2 0x1 o
  | .ctz o => encRU 0x2 0x2 o
  | .popc o => encRU 0x2 0x3 o
  | .brev o => encRU 0x2 0x4 o
  | .sel o => encRRP 0x3 0x0 o
  | .adds o => encRRK 0x4 0x0 o
  | .cmp o => encCmpRR 0x5 0x0 o
  | .cmpi o => encCmpRI 0x6 0x0 o
  | .fcmp o => encCmpRR 0x7 0x0 o
  | .addi o => encRI 0x8 0x0 o
  | .andi o => encRI 0x9 0x0 o
  | .ori o => encRI 0xa 0x0 o
  | .xori o => encRI 0xb 0x0 o
  | .shli o => encRIB 0xc 0x0 o
  | .shri o => encRIB 0xd 0x0 o
  | .srai o => encRIB 0xe 0x0 o
  | .lim o => encRL 0xf 0x0 o
  | .lih o => encRL 0x10 0x0 o
  | .pand o => encPLog 0x11 0x0 o
  | .por o => encPLog 0x11 0x1 o
  | .pxor o => encPLog 0x11 0x2 o
  | .pandn o => encPLog 0x11 0x3 o
  | .pset o => encPSet 0x12 0x0 o
  | .fadd o => encRR 0x13 0x0 o
  | .fsub o => encRR 0x13 0x1 o
  | .fmul o => encRR 0x13 0x2 o
  | .fmin o => encRR 0x13 0x3 o
  | .fmax o => encRR 0x13 0x4 o
  | .ffma o => encRRF 0x14 0x0 o
  | .fcvt o => encRUF 0x15 0x0 o
  | .qlen o => encQLen 0x16 0x0 o
  | .qclr o => encQReg 0x16 0x1 o
  | .csrrd o => encCsrRd 0x17 0x0 o
  | .csrwr o => encCsrWr 0x18 0x0 o
  | .br o => encBr 0x30 0x0 o
  | .brl o => encBrl 0x31 0x0 o
  | .bri o => encSA 0x32 0x0 o
  | .loop o => encLoop 0x33 0x0 o
  | .loopi o => encLoopI 0x34 0x0 o
  | .loopiK o => encG 0x34 0x200000 o
  | .bswap o => encBswap 0x35 0x0 o
  | .ifence o => encGB 0x36 0x0 o
  | .iverify o => encIVer 0x37 0x0 o
  | .trap o => encCode 0x38 0x0 o
  | .eret o => encGB 0x39 0x0 o
  | .texit o => encGB 0x3a 0x0 o
  | .bkpt o => encCode 0x3b 0x0 o
  | .ldb o => encRI 0x1 0x0 o
  | .ldbu o => encRI 0x2 0x0 o
  | .ldh o => encRI 0x3 0x0 o
  | .ldhu o => encRI 0x4 0x0 o
  | .ldw o => encRI 0x5 0x0 o
  | .ldwu o => encRI 0x6 0x0 o
  | .ldd o => encRI 0x7 0x0 o
  | .stb o => encRI 0x8 0x0 o
  | .sth o => encRI 0x9 0x0 o
  | .stw o => encRI 0xa 0x0 o
  | .std o => encRI 0xb 0x0 o
  | .lds o => encRL 0xc 0x0 o
  | .sts o => encRL 0xd 0x0 o
  | .ldc o => encRI 0xe 0x0 o
  | .stc o => encRI 0xf 0x0 o
  | .ldk o => encRI 0x10 0x0 o
  | .vld o => encVLd 0x11 0x0 o
  | .vst o => encVSt 0x12 0x0 o
  | .vstm o => encVStM 0x13 0x0 o
  | .vlds o => encVLdS 0x14 0x0 o
  | .vsts o => encVStS 0x15 0x0 o
  | .latom o => encLatom 0x16 0x0 o
  | .sendt o => encSendT 0x17 0x0 o
  | .recvt o => encRecvT 0x18 0x0 o
  | .vadd o => encVAB 0x1 0x0 o
  | .vsub o => encVAB 0x2 0x0 o
  | .vmul o => encVAB 0x3 0x0 o
  | .vfma o => encVAB 0x4 0x0 o
  | .vfms o => encVAB 0x5 0x0 o
  | .vaccr o => encVAccR 0x6 0x0 o
  | .vmin o => encVAB 0x7 0x0 o
  | .vmax o => encVAB 0x8 0x0 o
  | .vabs o => encVA 0x9 0x0 o
  | .vneg o => encVA 0xa 0x0 o
  | .vand o => encVAB 0xb 0x0 o
  | .vor o => encVAB 0xc 0x0 o
  | .vxor o => encVAB 0xd 0x0 o
  | .vandn o => encVAB 0xe 0x0 o
  | .vshl o => encVABI 0xf 0x0 o
  | .vshr o => encVABI 0x10 0x0 o
  | .vsra o => encVABI 0x11 0x0 o
  | .vfsl o => encVAB 0x12 0x0 o
  | .vfsr o => encVAB 0x13 0x0 o
  | .vcmp o => encVABC 0x14 0x0 o
  | .vsel o => encVAB 0x15 0x0 o
  | .vcvt o => encVAR 0x16 0x0 o
  | .vqnt o => encVAB 0x17 0x0 o
  | .vdqnt o => encVAB 0x18 0x0 o
  | .vrmax o => encVA 0x19 0x0 o
  | .vrmin o => encVA 0x1a 0x0 o
  | .vramax o => encVA 0x1b 0x0 o
  | .vradd o => encVA 0x1c 0x0 o
  | .vscan o => encVA 0x1d 0x0 o
  | .vperm o => encVAB 0x1e 0x0 o
  | .vrot o => encVABUI 0x1f 0x0 o
  | .vbcast o => encVABI 0x20 0x0 o
  | .vextr o => encVABI 0x21 0x0 o
  | .viota o => encVT 0x22 0x0 o
  | .vpack o => encVA 0x23 0x0 o
  | .vunpk o => encVA 0x24 0x0 o
  | .vclz o => encVA 0x25 0x0 o
  | .vpopc o => encVA 0x26 0x0 o
  | .vexp2 o => encVA 0x27 0x0 o
  | .vlog2 o => encVA 0x28 0x0 o
  | .vrcp o => encVA 0x29 0x0 o
  | .vrsq o => encVA 0x2a 0x0 o
  | .vpand o => encVPLog 0x2b 0x0 o
  | .vpor o => encVPLog 0x2c 0x0 o
  | .vpxor o => encVPLog 0x2d 0x0 o
  | .vpset o => encVPSet 0x2e 0x0 o
  | .vpcnt o => encVPCnt 0x2f 0x0 o
  | .mcall o => encMCall 0x1 0x0 o
  | .mparm o => encMParm 0x2 0x0 o
  | .mstep o => encMStep 0x3 0x0 o
  | .msteprd o => encMStepRd 0x4 0x0 o
  | .mzero o => encMZero 0x5 0x0 o
  | .mzeroAll o => encGC 0x5 0x4 o
  | .mmpc o => encSA 0x6 0x0 o
  | .yset o => encYSet 0x1 0x0 o
  | .yget o => encYGet 0x2 0x0 o
  | .ygo o => encYGo 0x3 0x0 o
  | .yhalt o => encYHalt 0x4 0x0 o
  | .yhaltAll o => encGD 0x4 0x10 o
  | .cpy o => encCpy 0x5 0x0 o
  | .cpyr o => encCpy 0x6 0x0 o
  | .hatom o => encHAtom 0x7 0x0 o
  | .red o => encRed 0x8 0x0 o
  | .tladd o => encTlAdd 0x9 0x0 o
  | .tlwait o => encTlWait 0xa 0x0 o
  | .tlpoll o => encTlWait 0xb 0x0 o
  | .tlrd o => encTlRd 0xc 0x0 o
  | .waita o => encWaitA 0xd 0x0 o
  | .bar o => encGB 0xe 0x0 o
  | .bara o => encGB 0xf 0x0 o
  | .bard o => encGB 0x10 0x0 o
  | .fence o => encFence 0x11 0x0 o
  | .launch o => encLaunch 0x12 0x0 o
  | .krot o => encKrot 0x13 0x0 o
  | .seal o => encCpy 0x14 0x0 o
  | .unseal o => encCpy 0x15 0x0 o
  | .scrub o => encScrub 0x16 0x0 o
  | .dact o => encDRow 0x1 0x0 o
  | .dactReg o => encDRowReg 0x1 0x10000 o
  | .drd o => encDRd 0x2 0x0 o
  | .dwr o => encDWr 0x3 0x0 o
  | .dpre o => encDBank 0x4 0x0 o
  | .dprea o => encGB 0x5 0x0 o
  | .dref o => encGB 0x6 0x0 o
  | .drefp o => encDBank 0x7 0x0 o
  | .dprom o => encDRow 0x8 0x0 o
  | .dpromReg o => encDRowReg 0x8 0x10000 o
  | .dclean o => encDClean 0x9 0x0 o
  | .dcleanReg o => encDCleanReg 0x9 0x10000 o
  | .dinit o => encDBank 0xa 0x0 o
  | .dwait o => encDWait 0xb 0x0 o
  | .bundleIssue _ => 0
  | .deadlineFault _ => 0
  | .streamFault _ => 0
  | .callFault _ => 0
  | .yarnBeat _ _ => 0
  | .drainAtomicPerform _ => 0
  | .pooledGrant _ => 0
  | .translationFill _ => 0
  | .monitorWake _ => 0
  | .waitaTimeout _ => 0
  | .timelineWake _ => 0
  | .tladdEffect _ => 0
  | .barrierLanding _ => 0
  | .barrierResume _ => 0
  | .fenceWaitEnd _ => 0
  | .copyQueueEntryFree _ => 0
  | .copyTake _ => 0
  | .copyComplete _ _ => 0
  | .hatomPerform _ _ => 0
  | .krotComplete _ _ => 0
  | .sealComplete _ _ => 0
  | .unsealComplete _ _ => 0
  | .scrubComplete _ _ => 0
  | .taskRetire _ => 0
  | .zeroingComplete _ => 0
  | .placementOpportunity => 0
  | .taskEntry _ => 0
  | .schedTick => 0
  | .sliceSave _ => 0
  | .victimTake _ => 0
  | .urgentEntry _ => 0
  | .victimResume _ => 0
  | .refreshTick _ => 0
  | .drdLanding _ => 0
  | .dwrComplete _ => 0
  | .serviceRequest _ => 0
  | .governorTick => 0
  | .egressInterval => 0
  | .logEntryWrite => 0
  | .slubWrite _ => 0
  | .deviceReset => 0
  | .bringUpComplete => 0
  | .hotReset => 0
  | .linkDown => 0
  | .thermalTrip => 0
  | .dieCutOff _ => 0
  | .portDown _ => 0
  | .ideIntegrityFailure _ => 0
  | .vfEnableSet _ => 0
  | .vfEnableClear => 0
  | .lockedItemWrite _ => 0
  | .hostRange1Request _ => 0
  | .pfWindowRequest _ => 0
  | .getVersion => 0
  | .getCertificate _ => 0
  | .challenge _ => 0
  | .getMeasurements _ => 0
  | .keyExchange _ => 0
  | .finish _ => 0
  | .heartbeat _ => 0
  | .endSession _ => 0
  | .setCertificate => 0
  | .getCsr => 0
  | .bindSession _ _ => 0
  | .keyRelease _ _ => 0
  | .custodySet _ _ => 0
  | .custodyClear _ _ => 0
  | .worldResume _ _ => 0
  | .controlStart _ _ => 0
  | .channelStart _ _ => 0
  | .channelStop _ _ => 0
  | .jobJoin _ _ => 0
  | .jobLeave _ _ _ => 0
  | .switchAdmit _ _ => 0
  | .windowSetMake _ _ _ => 0
  | .windowSetInstall _ _ _ => 0
  | .debugPolicy _ _ _ => 0
  | .lockInterface _ _ _ => 0
  | .getDeviceInterfaceReport _ _ => 0
  | .getDeviceInterfaceState _ _ => 0
  | .startInterface _ _ _ => 0
  | .stopInterface _ _ => 0
  | .keyProg _ => 0
  | .kSetGo _ _ => 0
  | .layoutSet _ _ _ => 0
  | .pageAssign _ _ _ => 0
  | .pageReclaim _ _ => 0
  | .fwStage _ _ => 0
  | .fwActivate => 0
  | .fwCommit => 0
  | .schedSet _ _ _ _ => 0
  | .nearSet _ _ => 0
  | .pageMove _ _ => 0
  | .fabricSet _ _ => 0
  | .logSign => 0
  | .eventSet _ _ _ => 0
  | .winbaseWrite _ => 0
  | .trootWrite _ => 0
  | .logbaseWrite _ => 0
  | .logsizeWrite _ => 0
  | .logackWrite _ => 0
  | .dbgStop => 0
  | .dbgStep => 0
  | .dbgResume => 0
  | .freeze => 0
  | .bkptpcWrite _ => 0
  | .tracectlWrite _ => 0
  | .registerWrite _ _ => 0
  | .standardRequest _ => 0
  | .fabWrite _ => 0
  | .fabRead _ => 0
  | .redMessage _ => 0
  | .mergeMessage _ => 0
  | .mgmt _ => 0
  | .arrive _ => 0
  | .completeMessage _ => 0
  | .writeAck _ => 0
  | .readData _ => 0
  | .redAck _ => 0
  | .mergeAck _ => 0
  | .arriveAck _ => 0
  | .completeAck _ => 0
  | .fabricTimeout _ => 0
  | .resultLanding _ _ => 0
  | .stepExecution _ _ => 0
  | .iverifyFreezeEnd _ => 0
  | .prechargeFreezeEnd _ => 0
  | .bankBusyEnd _ _ => 0
  | .portUp _ => 0
  | .switchAdmitTimeout _ => 0
  | .getCapabilities => 0
  | .negotiateAlgorithms => 0

/-- The instruction has a word: it is one of the 185 rows of the slot maps. -/
def Instr.hasWord : Instr → Bool
  | .add _ => true
  | .sub _ => true
  | .and _ => true
  | .or _ => true
  | .xor _ => true
  | .andn _ => true
  | .min _ => true
  | .max _ => true
  | .mins _ => true
  | .maxs _ => true
  | .shl _ => true
  | .shr _ => true
  | .sra _ => true
  | .fsl _ => true
  | .fsr _ => true
  | .mul _ => true
  | .mulh _ => true
  | .mulhs _ => true
  | .div _ => true
  | .divs _ => true
  | .rem _ => true
  | .rems _ => true
  | .mov _ => true
  | .clz _ => true
  | .ctz _ => true
  | .popc _ => true
  | .brev _ => true
  | .sel _ => true
  | .adds _ => true
  | .cmp _ => true
  | .cmpi _ => true
  | .fcmp _ => true
  | .addi _ => true
  | .andi _ => true
  | .ori _ => true
  | .xori _ => true
  | .shli _ => true
  | .shri _ => true
  | .srai _ => true
  | .lim _ => true
  | .lih _ => true
  | .pand _ => true
  | .por _ => true
  | .pxor _ => true
  | .pandn _ => true
  | .pset _ => true
  | .fadd _ => true
  | .fsub _ => true
  | .fmul _ => true
  | .fmin _ => true
  | .fmax _ => true
  | .ffma _ => true
  | .fcvt _ => true
  | .qlen _ => true
  | .qclr _ => true
  | .csrrd _ => true
  | .csrwr _ => true
  | .br _ => true
  | .brl _ => true
  | .bri _ => true
  | .loop _ => true
  | .loopi _ => true
  | .loopiK _ => true
  | .bswap _ => true
  | .ifence _ => true
  | .iverify _ => true
  | .trap _ => true
  | .eret _ => true
  | .texit _ => true
  | .bkpt _ => true
  | .ldb _ => true
  | .ldbu _ => true
  | .ldh _ => true
  | .ldhu _ => true
  | .ldw _ => true
  | .ldwu _ => true
  | .ldd _ => true
  | .stb _ => true
  | .sth _ => true
  | .stw _ => true
  | .std _ => true
  | .lds _ => true
  | .sts _ => true
  | .ldc _ => true
  | .stc _ => true
  | .ldk _ => true
  | .vld _ => true
  | .vst _ => true
  | .vstm _ => true
  | .vlds _ => true
  | .vsts _ => true
  | .latom _ => true
  | .sendt _ => true
  | .recvt _ => true
  | .vadd _ => true
  | .vsub _ => true
  | .vmul _ => true
  | .vfma _ => true
  | .vfms _ => true
  | .vaccr _ => true
  | .vmin _ => true
  | .vmax _ => true
  | .vabs _ => true
  | .vneg _ => true
  | .vand _ => true
  | .vor _ => true
  | .vxor _ => true
  | .vandn _ => true
  | .vshl _ => true
  | .vshr _ => true
  | .vsra _ => true
  | .vfsl _ => true
  | .vfsr _ => true
  | .vcmp _ => true
  | .vsel _ => true
  | .vcvt _ => true
  | .vqnt _ => true
  | .vdqnt _ => true
  | .vrmax _ => true
  | .vrmin _ => true
  | .vramax _ => true
  | .vradd _ => true
  | .vscan _ => true
  | .vperm _ => true
  | .vrot _ => true
  | .vbcast _ => true
  | .vextr _ => true
  | .viota _ => true
  | .vpack _ => true
  | .vunpk _ => true
  | .vclz _ => true
  | .vpopc _ => true
  | .vexp2 _ => true
  | .vlog2 _ => true
  | .vrcp _ => true
  | .vrsq _ => true
  | .vpand _ => true
  | .vpor _ => true
  | .vpxor _ => true
  | .vpset _ => true
  | .vpcnt _ => true
  | .mcall _ => true
  | .mparm _ => true
  | .mstep _ => true
  | .msteprd _ => true
  | .mzero _ => true
  | .mzeroAll _ => true
  | .mmpc _ => true
  | .yset _ => true
  | .yget _ => true
  | .ygo _ => true
  | .yhalt _ => true
  | .yhaltAll _ => true
  | .cpy _ => true
  | .cpyr _ => true
  | .hatom _ => true
  | .red _ => true
  | .tladd _ => true
  | .tlwait _ => true
  | .tlpoll _ => true
  | .tlrd _ => true
  | .waita _ => true
  | .bar _ => true
  | .bara _ => true
  | .bard _ => true
  | .fence _ => true
  | .launch _ => true
  | .krot _ => true
  | .seal _ => true
  | .unseal _ => true
  | .scrub _ => true
  | .dact _ => true
  | .dactReg _ => true
  | .drd _ => true
  | .dwr _ => true
  | .dpre _ => true
  | .dprea _ => true
  | .dref _ => true
  | .drefp _ => true
  | .dprom _ => true
  | .dpromReg _ => true
  | .dclean _ => true
  | .dcleanReg _ => true
  | .dinit _ => true
  | .dwait _ => true
  | .bundleIssue _ => false
  | .deadlineFault _ => false
  | .streamFault _ => false
  | .callFault _ => false
  | .yarnBeat _ _ => false
  | .drainAtomicPerform _ => false
  | .pooledGrant _ => false
  | .translationFill _ => false
  | .monitorWake _ => false
  | .waitaTimeout _ => false
  | .timelineWake _ => false
  | .tladdEffect _ => false
  | .barrierLanding _ => false
  | .barrierResume _ => false
  | .fenceWaitEnd _ => false
  | .copyQueueEntryFree _ => false
  | .copyTake _ => false
  | .copyComplete _ _ => false
  | .hatomPerform _ _ => false
  | .krotComplete _ _ => false
  | .sealComplete _ _ => false
  | .unsealComplete _ _ => false
  | .scrubComplete _ _ => false
  | .taskRetire _ => false
  | .zeroingComplete _ => false
  | .placementOpportunity => false
  | .taskEntry _ => false
  | .schedTick => false
  | .sliceSave _ => false
  | .victimTake _ => false
  | .urgentEntry _ => false
  | .victimResume _ => false
  | .refreshTick _ => false
  | .drdLanding _ => false
  | .dwrComplete _ => false
  | .serviceRequest _ => false
  | .governorTick => false
  | .egressInterval => false
  | .logEntryWrite => false
  | .slubWrite _ => false
  | .deviceReset => false
  | .bringUpComplete => false
  | .hotReset => false
  | .linkDown => false
  | .thermalTrip => false
  | .dieCutOff _ => false
  | .portDown _ => false
  | .ideIntegrityFailure _ => false
  | .vfEnableSet _ => false
  | .vfEnableClear => false
  | .lockedItemWrite _ => false
  | .hostRange1Request _ => false
  | .pfWindowRequest _ => false
  | .getVersion => false
  | .getCertificate _ => false
  | .challenge _ => false
  | .getMeasurements _ => false
  | .keyExchange _ => false
  | .finish _ => false
  | .heartbeat _ => false
  | .endSession _ => false
  | .setCertificate => false
  | .getCsr => false
  | .bindSession _ _ => false
  | .keyRelease _ _ => false
  | .custodySet _ _ => false
  | .custodyClear _ _ => false
  | .worldResume _ _ => false
  | .controlStart _ _ => false
  | .channelStart _ _ => false
  | .channelStop _ _ => false
  | .jobJoin _ _ => false
  | .jobLeave _ _ _ => false
  | .switchAdmit _ _ => false
  | .windowSetMake _ _ _ => false
  | .windowSetInstall _ _ _ => false
  | .debugPolicy _ _ _ => false
  | .lockInterface _ _ _ => false
  | .getDeviceInterfaceReport _ _ => false
  | .getDeviceInterfaceState _ _ => false
  | .startInterface _ _ _ => false
  | .stopInterface _ _ => false
  | .keyProg _ => false
  | .kSetGo _ _ => false
  | .layoutSet _ _ _ => false
  | .pageAssign _ _ _ => false
  | .pageReclaim _ _ => false
  | .fwStage _ _ => false
  | .fwActivate => false
  | .fwCommit => false
  | .schedSet _ _ _ _ => false
  | .nearSet _ _ => false
  | .pageMove _ _ => false
  | .fabricSet _ _ => false
  | .logSign => false
  | .eventSet _ _ _ => false
  | .winbaseWrite _ => false
  | .trootWrite _ => false
  | .logbaseWrite _ => false
  | .logsizeWrite _ => false
  | .logackWrite _ => false
  | .dbgStop => false
  | .dbgStep => false
  | .dbgResume => false
  | .freeze => false
  | .bkptpcWrite _ => false
  | .tracectlWrite _ => false
  | .registerWrite _ _ => false
  | .standardRequest _ => false
  | .fabWrite _ => false
  | .fabRead _ => false
  | .redMessage _ => false
  | .mergeMessage _ => false
  | .mgmt _ => false
  | .arrive _ => false
  | .completeMessage _ => false
  | .writeAck _ => false
  | .readData _ => false
  | .redAck _ => false
  | .mergeAck _ => false
  | .arriveAck _ => false
  | .completeAck _ => false
  | .fabricTimeout _ => false
  | .resultLanding _ _ => false
  | .stepExecution _ _ => false
  | .iverifyFreezeEnd _ => false
  | .prechargeFreezeEnd _ => false
  | .bankBusyEnd _ _ => false
  | .portUp _ => false
  | .switchAdmitTimeout _ => false
  | .getCapabilities => false
  | .negotiateAlgorithms => false

/-- The words of an instruction: one slot word, or none for a step that has no words. -/
def encode (i : Instr) : List Nat := if i.hasWord then [encodeWord i] else []

/-- How many bits of its word a row of the opcode table fixes. -/
def Instr.fixedBits : Instr → Nat
  | .add _ => 10
  | .sub _ => 10
  | .and _ => 10
  | .or _ => 10
  | .xor _ => 10
  | .andn _ => 10
  | .min _ => 10
  | .max _ => 10
  | .mins _ => 10
  | .maxs _ => 10
  | .shl _ => 10
  | .shr _ => 10
  | .sra _ => 10
  | .fsl _ => 10
  | .fsr _ => 10
  | .mul _ => 10
  | .mulh _ => 10
  | .mulhs _ => 10
  | .div _ => 10
  | .divs _ => 10
  | .rem _ => 10
  | .rems _ => 10
  | .mov _ => 16
  | .clz _ => 16
  | .ctz _ => 16
  | .popc _ => 16
  | .brev _ => 16
  | .sel _ => 6
  | .adds _ => 6
  | .cmp _ => 10
  | .cmpi _ => 6
  | .fcmp _ => 10
  | .addi _ => 6
  | .andi _ => 6
  | .ori _ => 6
  | .xori _ => 6
  | .shli _ => 10
  | .shri _ => 10
  | .srai _ => 10
  | .lim _ => 6
  | .lih _ => 6
  | .pand _ => 18
  | .por _ => 18
  | .pxor _ => 18
  | .pandn _ => 18
  | .pset _ => 25
  | .fadd _ => 10
  | .fsub _ => 10
  | .fmul _ => 10
  | .fmin _ => 10
  | .fmax _ => 10
  | .ffma _ => 8
  | .fcvt _ => 12
  | .qlen _ => 17
  | .qclr _ => 23
  | .csrrd _ => 10
  | .csrwr _ => 10
  | .br _ => 6
  | .brl _ => 6
  | .bri _ => 22
  | .loop _ => 19
  | .loopi _ => 9
  | .loopiK _ => 28
  | .bswap _ => 10
  | .ifence _ => 28
  | .iverify _ => 14
  | .trap _ => 12
  | .eret _ => 28
  | .texit _ => 28
  | .bkpt _ => 12
  | .ldb _ => 6
  | .ldbu _ => 6
  | .ldh _ => 6
  | .ldhu _ => 6
  | .ldw _ => 6
  | .ldwu _ => 6
  | .ldd _ => 6
  | .stb _ => 6
  | .sth _ => 6
  | .stw _ => 6
  | .std _ => 6
  | .lds _ => 6
  | .sts _ => 6
  | .ldc _ => 6
  | .stc _ => 6
  | .ldk _ => 6
  | .vld _ => 6
  | .vst _ => 9
  | .vstm _ => 6
  | .vlds _ => 9
  | .vsts _ => 12
  | .latom _ => 6
  | .sendt _ => 19
  | .recvt _ => 18
  | .vadd _ => 8
  | .vsub _ => 8
  | .vmul _ => 8
  | .vfma _ => 8
  | .vfms _ => 8
  | .vaccr _ => 14
  | .vmin _ => 8
  | .vmax _ => 8
  | .vabs _ => 13
  | .vneg _ => 13
  | .vand _ => 8
  | .vor _ => 8
  | .vxor _ => 8
  | .vandn _ => 8
  | .vshl _ => 7
  | .vshr _ => 7
  | .vsra _ => 7
  | .vfsl _ => 8
  | .vfsr _ => 8
  | .vcmp _ => 6
  | .vsel _ => 8
  | .vcvt _ => 12
  | .vqnt _ => 8
  | .vdqnt _ => 8
  | .vrmax _ => 13
  | .vrmin _ => 13
  | .vramax _ => 13
  | .vradd _ => 13
  | .vscan _ => 13
  | .vperm _ => 8
  | .vrot _ => 6
  | .vbcast _ => 7
  | .vextr _ => 7
  | .viota _ => 18
  | .vpack _ => 13
  | .vunpk _ => 13
  | .vclz _ => 13
  | .vpopc _ => 13
  | .vexp2 _ => 13
  | .vlog2 _ => 13
  | .vrcp _ => 13
  | .vrsq _ => 13
  | .vpand _ => 13
  | .vpor _ => 13
  | .vpxor _ => 13
  | .vpset _ => 19
  | .vpcnt _ => 15
  | .mcall _ => 6
  | .mparm _ => 19
  | .mstep _ => 15
  | .msteprd _ => 15
  | .mzero _ => 26
  | .mzeroAll _ => 28
  | .mmpc _ => 22
  | .yset _ => 10
  | .yget _ => 15
  | .ygo _ => 11
  | .yhalt _ => 23
  | .yhaltAll _ => 28
  | .cpy _ => 6
  | .cpyr _ => 6
  | .hatom _ => 8
  | .red _ => 13
  | .tladd _ => 19
  | .tlwait _ => 17
  | .tlpoll _ => 17
  | .tlrd _ => 18
  | .waita _ => 6
  | .bar _ => 28
  | .bara _ => 28
  | .bard _ => 28
  | .fence _ => 22
  | .launch _ => 14
  | .krot _ => 11
  | .seal _ => 6
  | .unseal _ => 6
  | .scrub _ => 9
  | .dact _ => 8
  | .dactReg _ => 17
  | .drd _ => 12
  | .dwr _ => 8
  | .dpre _ => 23
  | .dprea _ => 28
  | .dref _ => 28
  | .drefp _ => 23
  | .dprom _ => 8
  | .dpromReg _ => 17
  | .dclean _ => 7
  | .dcleanReg _ => 16
  | .dinit _ => 23
  | .dwait _ => 16
  | .bundleIssue _ => 0
  | .deadlineFault _ => 0
  | .streamFault _ => 0
  | .callFault _ => 0
  | .yarnBeat _ _ => 0
  | .drainAtomicPerform _ => 0
  | .pooledGrant _ => 0
  | .translationFill _ => 0
  | .monitorWake _ => 0
  | .waitaTimeout _ => 0
  | .timelineWake _ => 0
  | .tladdEffect _ => 0
  | .barrierLanding _ => 0
  | .barrierResume _ => 0
  | .fenceWaitEnd _ => 0
  | .copyQueueEntryFree _ => 0
  | .copyTake _ => 0
  | .copyComplete _ _ => 0
  | .hatomPerform _ _ => 0
  | .krotComplete _ _ => 0
  | .sealComplete _ _ => 0
  | .unsealComplete _ _ => 0
  | .scrubComplete _ _ => 0
  | .taskRetire _ => 0
  | .zeroingComplete _ => 0
  | .placementOpportunity => 0
  | .taskEntry _ => 0
  | .schedTick => 0
  | .sliceSave _ => 0
  | .victimTake _ => 0
  | .urgentEntry _ => 0
  | .victimResume _ => 0
  | .refreshTick _ => 0
  | .drdLanding _ => 0
  | .dwrComplete _ => 0
  | .serviceRequest _ => 0
  | .governorTick => 0
  | .egressInterval => 0
  | .logEntryWrite => 0
  | .slubWrite _ => 0
  | .deviceReset => 0
  | .bringUpComplete => 0
  | .hotReset => 0
  | .linkDown => 0
  | .thermalTrip => 0
  | .dieCutOff _ => 0
  | .portDown _ => 0
  | .ideIntegrityFailure _ => 0
  | .vfEnableSet _ => 0
  | .vfEnableClear => 0
  | .lockedItemWrite _ => 0
  | .hostRange1Request _ => 0
  | .pfWindowRequest _ => 0
  | .getVersion => 0
  | .getCertificate _ => 0
  | .challenge _ => 0
  | .getMeasurements _ => 0
  | .keyExchange _ => 0
  | .finish _ => 0
  | .heartbeat _ => 0
  | .endSession _ => 0
  | .setCertificate => 0
  | .getCsr => 0
  | .bindSession _ _ => 0
  | .keyRelease _ _ => 0
  | .custodySet _ _ => 0
  | .custodyClear _ _ => 0
  | .worldResume _ _ => 0
  | .controlStart _ _ => 0
  | .channelStart _ _ => 0
  | .channelStop _ _ => 0
  | .jobJoin _ _ => 0
  | .jobLeave _ _ _ => 0
  | .switchAdmit _ _ => 0
  | .windowSetMake _ _ _ => 0
  | .windowSetInstall _ _ _ => 0
  | .debugPolicy _ _ _ => 0
  | .lockInterface _ _ _ => 0
  | .getDeviceInterfaceReport _ _ => 0
  | .getDeviceInterfaceState _ _ => 0
  | .startInterface _ _ _ => 0
  | .stopInterface _ _ => 0
  | .keyProg _ => 0
  | .kSetGo _ _ => 0
  | .layoutSet _ _ _ => 0
  | .pageAssign _ _ _ => 0
  | .pageReclaim _ _ => 0
  | .fwStage _ _ => 0
  | .fwActivate => 0
  | .fwCommit => 0
  | .schedSet _ _ _ _ => 0
  | .nearSet _ _ => 0
  | .pageMove _ _ => 0
  | .fabricSet _ _ => 0
  | .logSign => 0
  | .eventSet _ _ _ => 0
  | .winbaseWrite _ => 0
  | .trootWrite _ => 0
  | .logbaseWrite _ => 0
  | .logsizeWrite _ => 0
  | .logackWrite _ => 0
  | .dbgStop => 0
  | .dbgStep => 0
  | .dbgResume => 0
  | .freeze => 0
  | .bkptpcWrite _ => 0
  | .tracectlWrite _ => 0
  | .registerWrite _ _ => 0
  | .standardRequest _ => 0
  | .fabWrite _ => 0
  | .fabRead _ => 0
  | .redMessage _ => 0
  | .mergeMessage _ => 0
  | .mgmt _ => 0
  | .arrive _ => 0
  | .completeMessage _ => 0
  | .writeAck _ => 0
  | .readData _ => 0
  | .redAck _ => 0
  | .mergeAck _ => 0
  | .arriveAck _ => 0
  | .completeAck _ => 0
  | .fabricTimeout _ => 0
  | .resultLanding _ _ => 0
  | .stepExecution _ _ => 0
  | .iverifyFreezeEnd _ => 0
  | .prechargeFreezeEnd _ => 0
  | .bankBusyEnd _ _ => 0
  | .portUp _ => 0
  | .switchAdmitTimeout _ => 0
  | .getCapabilities => 0
  | .negotiateAlgorithms => 0

/-- The row that a word names in the scalar map without the control majors (R24, R25), before its reserved bits are checked. -/
def candidateScalar (w : Nat) : Option Instr :=
  match bf w 27 22 with
  | 0x0 =>
    match bf w 3 0 with
    | 0 => some (.add (decRR w))
    | 1 => some (.sub (decRR w))
    | 2 => some (.and (decRR w))
    | 3 => some (.or (decRR w))
    | 4 => some (.xor (decRR w))
    | 5 => some (.andn (decRR w))
    | 6 => some (.min (decRR w))
    | 7 => some (.max (decRR w))
    | 8 => some (.mins (decRR w))
    | 9 => some (.maxs (decRR w))
    | 10 => some (.shl (decRR w))
    | 11 => some (.shr (decRR w))
    | 12 => some (.sra (decRR w))
    | 13 => some (.fsl (decRR w))
    | 14 => some (.fsr (decRR w))
    | _ => none
  | 0x1 =>
    match bf w 3 0 with
    | 0 => some (.mul (decRR w))
    | 1 => some (.mulh (decRR w))
    | 2 => some (.mulhs (decRR w))
    | 3 => some (.div (decRR w))
    | 4 => some (.divs (decRR w))
    | 5 => some (.rem (decRR w))
    | 6 => some (.rems (decRR w))
    | _ => none
  | 0x2 =>
    match bf w 3 0 with
    | 0 => some (.mov (decRU w))
    | 1 => some (.clz (decRU w))
    | 2 => some (.ctz (decRU w))
    | 3 => some (.popc (decRU w))
    | 4 => some (.brev (decRU w))
    | _ => none
  | 0x3 => some (.sel (decRRP w))
  | 0x4 => some (.adds (decRRK w))
  | 0x5 => some (.cmp (decCmpRR w))
  | 0x6 => some (.cmpi (decCmpRI w))
  | 0x7 => some (.fcmp (decCmpRR w))
  | 0x8 => some (.addi (decRI w))
  | 0x9 => some (.andi (decRI w))
  | 0xa => some (.ori (decRI w))
  | 0xb => some (.xori (decRI w))
  | 0xc => some (.shli (decRIB w))
  | 0xd => some (.shri (decRIB w))
  | 0xe => some (.srai (decRIB w))
  | 0xf => some (.lim (decRL w))
  | 0x10 => some (.lih (decRL w))
  | 0x11 =>
    match bf w 3 0 with
    | 0 => some (.pand (decPLog w))
    | 1 => some (.por (decPLog w))
    | 2 => some (.pxor (decPLog w))
    | 3 => some (.pandn (decPLog w))
    | _ => none
  | 0x12 => some (.pset (decPSet w))
  | 0x13 =>
    match bf w 3 0 with
    | 0 => some (.fadd (decRR w))
    | 1 => some (.fsub (decRR w))
    | 2 => some (.fmul (decRR w))
    | 3 => some (.fmin (decRR w))
    | 4 => some (.fmax (decRR w))
    | _ => none
  | 0x14 => some (.ffma (decRRF w))
  | 0x15 => some (.fcvt (decRUF w))
  | 0x16 =>
    match bf w 3 0 with
    | 0 => some (.qlen (decQLen w))
    | 1 => some (.qclr (decQReg w))
    | _ => none
  | 0x17 => some (.csrrd (decCsrRd w))
  | 0x18 => some (.csrwr (decCsrWr w))
  | _ => none

/-- The row that a word names in the control majors of the A slot (R24), before its reserved bits are checked. -/
def candidateControl (w : Nat) : Option Instr :=
  match bf w 27 22 with
  | 0x30 => some (.br (decBr w))
  | 0x31 => some (.brl (decBrl w))
  | 0x32 => some (.bri (decSA w))
  | 0x33 => some (.loop (decLoop w))
  | 0x34 =>
    match bf w 21 21 with
    | 0 => some (.loopi (decLoopI w))
    | 1 => some (.loopiK (decG w))
    | _ => none
  | 0x35 => some (.bswap (decBswap w))
  | 0x36 => some (.ifence (decGB w))
  | 0x37 => some (.iverify (decIVer w))
  | 0x38 => some (.trap (decCode w))
  | 0x39 => some (.eret (decGB w))
  | 0x3a => some (.texit (decGB w))
  | 0x3b => some (.bkpt (decCode w))
  | _ => none

/-- The row that a word names in the L map (R26), before its reserved bits are checked. -/
def candidateL (w : Nat) : Option Instr :=
  match bf w 27 22 with
  | 0x1 => some (.ldb (decRI w))
  | 0x2 => some (.ldbu (decRI w))
  | 0x3 => some (.ldh (decRI w))
  | 0x4 => some (.ldhu (decRI w))
  | 0x5 => some (.ldw (decRI w))
  | 0x6 => some (.ldwu (decRI w))
  | 0x7 => some (.ldd (decRI w))
  | 0x8 => some (.stb (decRI w))
  | 0x9 => some (.sth (decRI w))
  | 0xa => some (.stw (decRI w))
  | 0xb => some (.std (decRI w))
  | 0xc => some (.lds (decRL w))
  | 0xd => some (.sts (decRL w))
  | 0xe => some (.ldc (decRI w))
  | 0xf => some (.stc (decRI w))
  | 0x10 => some (.ldk (decRI w))
  | 0x11 => some (.vld (decVLd w))
  | 0x12 => some (.vst (decVSt w))
  | 0x13 => some (.vstm (decVStM w))
  | 0x14 => some (.vlds (decVLdS w))
  | 0x15 => some (.vsts (decVStS w))
  | 0x16 => some (.latom (decLatom w))
  | 0x17 => some (.sendt (decSendT w))
  | 0x18 => some (.recvt (decRecvT w))
  | _ => none

/-- The row that a word names in the V map (R26), before its reserved bits are checked. -/
def candidateV (w : Nat) : Option Instr :=
  match bf w 27 22 with
  | 0x1 => some (.vadd (decVAB w))
  | 0x2 => some (.vsub (decVAB w))
  | 0x3 => some (.vmul (decVAB w))
  | 0x4 => some (.vfma (decVAB w))
  | 0x5 => some (.vfms (decVAB w))
  | 0x6 => some (.vaccr (decVAccR w))
  | 0x7 => some (.vmin (decVAB w))
  | 0x8 => some (.vmax (decVAB w))
  | 0x9 => some (.vabs (decVA w))
  | 0xa => some (.vneg (decVA w))
  | 0xb => some (.vand (decVAB w))
  | 0xc => some (.vor (decVAB w))
  | 0xd => some (.vxor (decVAB w))
  | 0xe => some (.vandn (decVAB w))
  | 0xf => some (.vshl (decVABI w))
  | 0x10 => some (.vshr (decVABI w))
  | 0x11 => some (.vsra (decVABI w))
  | 0x12 => some (.vfsl (decVAB w))
  | 0x13 => some (.vfsr (decVAB w))
  | 0x14 => some (.vcmp (decVABC w))
  | 0x15 => some (.vsel (decVAB w))
  | 0x16 => some (.vcvt (decVAR w))
  | 0x17 => some (.vqnt (decVAB w))
  | 0x18 => some (.vdqnt (decVAB w))
  | 0x19 => some (.vrmax (decVA w))
  | 0x1a => some (.vrmin (decVA w))
  | 0x1b => some (.vramax (decVA w))
  | 0x1c => some (.vradd (decVA w))
  | 0x1d => some (.vscan (decVA w))
  | 0x1e => some (.vperm (decVAB w))
  | 0x1f => some (.vrot (decVABUI w))
  | 0x20 => some (.vbcast (decVABI w))
  | 0x21 => some (.vextr (decVABI w))
  | 0x22 => some (.viota (decVT w))
  | 0x23 => some (.vpack (decVA w))
  | 0x24 => some (.vunpk (decVA w))
  | 0x25 => some (.vclz (decVA w))
  | 0x26 => some (.vpopc (decVA w))
  | 0x27 => some (.vexp2 (decVA w))
  | 0x28 => some (.vlog2 (decVA w))
  | 0x29 => some (.vrcp (decVA w))
  | 0x2a => some (.vrsq (decVA w))
  | 0x2b => some (.vpand (decVPLog w))
  | 0x2c => some (.vpor (decVPLog w))
  | 0x2d => some (.vpxor (decVPLog w))
  | 0x2e => some (.vpset (decVPSet w))
  | 0x2f => some (.vpcnt (decVPCnt w))
  | _ => none

/-- The row that a word names in the M map (R26), before its reserved bits are checked. -/
def candidateM (w : Nat) : Option Instr :=
  match bf w 27 22 with
  | 0x1 => some (.mcall (decMCall w))
  | 0x2 => some (.mparm (decMParm w))
  | 0x3 => some (.mstep (decMStep w))
  | 0x4 => some (.msteprd (decMStepRd w))
  | 0x5 => if bm w 2 then some (.mzeroAll (decGC w))
    else some (.mzero (decMZero w))
  | 0x6 => some (.mmpc (decSA w))
  | _ => none

/-- The row that a word names in the Y map (R26), before its reserved bits are checked. -/
def candidateY (w : Nat) : Option Instr :=
  match bf w 27 22 with
  | 0x1 => some (.yset (decYSet w))
  | 0x2 => some (.yget (decYGet w))
  | 0x3 => some (.ygo (decYGo w))
  | 0x4 =>
    match bf w 4 4 with
    | 0 => some (.yhalt (decYHalt w))
    | 1 => some (.yhaltAll (decGD w))
    | _ => none
  | 0x5 => some (.cpy (decCpy w))
  | 0x6 => some (.cpyr (decCpy w))
  | 0x7 => some (.hatom (decHAtom w))
  | 0x8 => some (.red (decRed w))
  | 0x9 => some (.tladd (decTlAdd w))
  | 0xa => some (.tlwait (decTlWait w))
  | 0xb => some (.tlpoll (decTlWait w))
  | 0xc => some (.tlrd (decTlRd w))
  | 0xd => some (.waita (decWaitA w))
  | 0xe => some (.bar (decGB w))
  | 0xf => some (.bara (decGB w))
  | 0x10 => some (.bard (decGB w))
  | 0x11 => some (.fence (decFence w))
  | 0x12 => some (.launch (decLaunch w))
  | 0x13 => some (.krot (decKrot w))
  | 0x14 => some (.seal (decCpy w))
  | 0x15 => some (.unseal (decCpy w))
  | 0x16 => some (.scrub (decScrub w))
  | _ => none

/-- The row that a word names in the D map (R26), before its reserved bits are checked. -/
def candidateD (w : Nat) : Option Instr :=
  match bf w 27 22 with
  | 0x1 =>
    match bf w 16 16 with
    | 0 => some (.dact (decDRow w))
    | 1 => some (.dactReg (decDRowReg w))
    | _ => none
  | 0x2 => some (.drd (decDRd w))
  | 0x3 => some (.dwr (decDWr w))
  | 0x4 => some (.dpre (decDBank w))
  | 0x5 => some (.dprea (decGB w))
  | 0x6 => some (.dref (decGB w))
  | 0x7 => some (.drefp (decDBank w))
  | 0x8 =>
    match bf w 16 16 with
    | 0 => some (.dprom (decDRow w))
    | 1 => some (.dpromReg (decDRowReg w))
    | _ => none
  | 0x9 =>
    match bf w 16 16 with
    | 0 => some (.dclean (decDClean w))
    | 1 => some (.dcleanReg (decDCleanReg w))
    | _ => none
  | 0xa => some (.dinit (decDBank w))
  | 0xb => some (.dwait (decDWait w))
  | _ => none

/-! ## Slots and bundles -/

/-- The three core kinds that execute bundles (R20). -/
inductive CoreKind where
  | tile
  | channel
  | steward
  deriving DecidableEq, Repr

/-- The positions of a bundle: the FAULTSLOT values of R20; slot 2 is L or D. -/
inductive Slot where
  | a
  | b
  | l
  | v0
  | v1
  | m
  | y
  deriving DecidableEq, Repr

/-- FAULTSLOT of a slot (R20). -/
def Slot.num : Slot → Nat
  | .a => 0
  | .b => 1
  | .l => 2
  | .v0 => 3
  | .v1 => 4
  | .m => 5
  | .y => 6

/-- The slots in order, from the most significant presence bit down (R18, R20). -/
def Slot.all : List Slot := [.a, .b, .l, .v0, .v1, .m, .y]

/-- Why a word or a bundle is not an instruction (R28). -/
inductive BadWord where
  /-- a reserved field of the header is not zero -/
  | headerReserved
  /-- a presence bit that R20 marks as absent for the core kind -/
  | absentSlot
  /-- the major, or the function field, is unassigned in this slot's map for this core kind (R24-R27) -/
  | unassigned
  /-- a reserved field is not zero, or a field value the instruction does not accept -/
  | illegalField
  /-- the bundle runs past the end of its code region -/
  | pastEnd
  deriving DecidableEq, Repr

/-- R20: the slots of a core kind. -/
def CoreKind.hasSlot : CoreKind → Slot → Bool
  | .tile, _ => true
  | .channel, .a => true
  | .channel, .b => true
  | .channel, .l => true
  | .channel, _ => false
  | .steward, .a => true
  | .steward, .b => true
  | .steward, .l => true
  | .steward, .y => true
  | .steward, _ => false

/-- The word names an instruction of the maps of R24-R26 in this slot of this core kind. -/
def candidate (k : CoreKind) (sl : Slot) (w : Nat) : Option Instr :=
  match sl, k with
  | .a, _ => if bf w 27 22 < 0x30 then candidateScalar w else candidateControl w
  | .b, _ => candidateScalar w
  | .l, .channel => candidateD w
  | .l, _ => candidateL w
  | .v0, _ => candidateV w
  | .v1, _ => candidateV w
  | .m, _ => candidateM w
  | .y, _ => candidateY w

/-- R27: the majors a core kind treats as unassigned. -/
def unassignedOn (k : CoreKind) (sl : Slot) (mj : Nat) : Bool :=
  match k, sl with
  | .tile, .y => mj == 0x12
  | .channel, .a => [0x07, 0x13, 0x14, 0x15, 0x35, 0x36, 0x37, 0x3A].elem mj
  | .channel, .b => [0x07, 0x13, 0x14, 0x15].elem mj
  | .steward, .a => mj == 0x35
  | .steward, .l => decide (0x0C ≤ mj) && decide (mj ≤ 0x18)
  | .steward, .y => [1, 2, 3, 4, 6, 8, 0x0E, 0x0F, 0x10, 0x13, 0x14, 0x15, 0x16].elem mj
  | _, _ => false

/-- A candidate stands when its word is the word read and it is well formed (R23, R28). -/
def checkWord (w : Nat) (c : Option Instr) : Except BadWord Instr :=
  match c with
  | none => .error .unassigned
  | some i => if encodeWord i == w && i.isWf then .ok i else .error .illegalField

/-- R349: on a steward core HATOM with a return word is illegal. -/
def allowedOn (k : CoreKind) (i : Instr) : Bool :=
  match k, i with
  | .steward, .hatom o => !o.r
  | _, _ => true

/-- The instruction of a slot word (R24-R28). -/
def decodeSlot (k : CoreKind) (sl : Slot) (w : Nat) : Except BadWord Instr :=
  if k.hasSlot sl && !unassignedOn k sl (bf w 27 22) then
    match checkWord w (candidate k sl w) with
    | .error e => .error e
    | .ok i => if allowedOn k i then .ok i else .error .illegalField
  else .error .unassigned

/-- The fields of a bundle header (R19). -/
structure Header where
  pres : Nat
  q : Bool
  e : Bool
  idle : Nat
  deriving DecidableEq, Repr

/-- R19: the header's fields. -/
def decodeHeader (w : Nat) : Header where
  pres := bf w 31 25
  q := bm w 24
  e := bm w 23
  idle := bf w 22 15

/-- R19: the word of a header. -/
def encodeHeader (h : Header) : Nat :=
  h.pres * 33554432 + h.q.toNat * 16777216 + h.e.toNat * 8388608 + h.idle * 32768

/-- R18, R20: the slot's presence bit is set. -/
def Header.has (h : Header) (sl : Slot) : Bool := bm h.pres (6 - sl.num)

/-- R18: the length of the bundle in bytes. -/
def Header.bytes (h : Header) : Nat := 4 + 4 * (Slot.all.filter h.has).length

/-- The header is legal for the core kind (R19, R20). -/
def checkHeader (k : CoreKind) (w : Nat) : Except BadWord Header :=
  let h := decodeHeader w
  if bf w 14 0 != 0 then .error .headerReserved
  else if Slot.all.all (fun sl => !h.has sl || k.hasSlot sl) then .ok h
  else .error .absentSlot

/-- One slot of a decoded bundle. -/
structure SlotWord where
  slot : Slot
  word : Nat
  instr : Instr
  deriving DecidableEq, Repr

/-- Pairs the slots that are present with their words; `none` when the words run out (R18). -/
def pairSlots : List Slot → List Nat → Option (List (Slot × Nat))
  | [], _ => some []
  | _ :: _, [] => none
  | sl :: sls, w :: ws => (pairSlots sls ws).map ((sl, w) :: ·)

/-- Decodes the paired words in slot order; the first offending slot is named (R29). -/
def decodeSlots (k : CoreKind) : List (Slot × Nat) → Except (Option Slot × Nat × BadWord) (List SlotWord)
  | [] => .ok []
  | (sl, w) :: rest =>
    match decodeSlot k sl w with
    | .error e => .error (some sl, w, e)
    | .ok i =>
      match decodeSlots k rest with
      | .error e => .error e
      | .ok l => .ok ({ slot := sl, word := w, instr := i } :: l)

/-- Decodes a bundle from the words from its start to the end of its region (R18-R29). An error names
the slot (`none`: the header), the word and the reason. -/
def decodeBundle (k : CoreKind) (ws : List Nat) :
    Except (Option Slot × Nat × BadWord) (Header × List SlotWord) :=
  match ws with
  | [] => .error (none, 0, .pastEnd)
  | hw :: rest =>
    match checkHeader k hw with
    | .error e => .error (none, hw, e)
    | .ok h =>
      match pairSlots (Slot.all.filter h.has) rest with
      | none => .error (none, hw, .pastEnd)
      | some ps =>
        match decodeSlots k ps with
        | .error e => .error e
        | .ok l => .ok (h, l)

/-- Little-endian words of a byte list (R2); a rest of fewer than four bytes is no word. -/
def wordsOfBytes : List Byte → List Nat
  | b0 :: b1 :: b2 :: b3 :: rest =>
    (b0.toNat + 256 * b1.toNat + 65536 * b2.toNat + 16777216 * b3.toNat) :: wordsOfBytes rest
  | _ => []

/-- The bytes of a word, least significant first (R2). -/
def bytesOfWord (w : Nat) : List Byte :=
  [BitVec.ofNat 8 w, BitVec.ofNat 8 (w / 256), BitVec.ofNat 8 (w / 65536),
    BitVec.ofNat 8 (w / 16777216)]

/-- Decodes a bundle from bytes. -/
def decodeBytes (k : CoreKind) (bs : List Byte) :
    Except (Option Slot × Nat × BadWord) (Header × List SlotWord) :=
  decodeBundle k (wordsOfBytes bs)

/-! ## The opcode table's words -/

/-- The places where a word can stand: a slot of a core kind, in the order in which `tableSlot`
prefers them among equals. -/
def tableSlots : List (CoreKind × Slot) :=
  [(.tile, .a), (.channel, .l), (.tile, .v0), (.tile, .m), (.tile, .y), (.steward, .y), (.tile, .l)]

/-- The better of two readings of a word: the row that fixes more bits, the first among equals. -/
def moreSpecific (x : Option (CoreKind × Slot × Instr)) (y : Option (CoreKind × Slot × Instr)) :
    Option (CoreKind × Slot × Instr) :=
  match x, y with
  | none, y => y
  | x, none => x
  | some p, some q => if p.2.2.fixedBits < q.2.2.fixedBits then some q else some p

/-- Where a word of the opcode table stands and what it is. The maps of different slots give
the same word different meanings, and a word alone does not say its slot: the reading whose row fixes most bits is
taken (DESIGN CHOICE, log entry 10; only the host's questions about table words rest on it) (DESIGN CHOICE, log entry 10). -/
def tableSlot (w : Nat) : Option (CoreKind × Slot × Instr) :=
  tableSlots.foldl (fun acc ks =>
    moreSpecific acc ((decodeSlot ks.1 ks.2 w).toOption.map (fun i => (ks.1, ks.2, i)))) none

/-- The instruction the decoder reads from a table word of `nbits` bits (DESIGN CHOICE, log entry 10). -/
def decodeTableWord (nbits w : Nat) : Option Instr :=
  if nbits == 32 && decide (w < 2 ^ 32) then (tableSlot w).map (·.2.2) else none

end Sys2Proof
end

