-- ==== Sys2Proof/Machine/State.lean ====
section
/-!
DEFINITION. The state of the package: every piece of state the spec gives the machine, as plain data,
and the state after device reset. Stores are sparse tables (`Tab`): what is not listed holds the
reset content that its reader names. INVENTORY.md lists each field with its rule and reset value.
-/

namespace Sys2Proof.Machine

/-- Bytes of one store: addresses strictly rising, no entry equal to 0, which is what an unlisted
address reads as. -/
abbrev Mem := List Host.Cell

/-- Spans of positions (first, count) with a content; the first span that covers a position counts
(DESIGN CHOICE, log entry 60). -/
abbrev Spans (α : Type) := List (Nat × Nat × α)

/-- A queue register: a ring of four cells with a head index and a length of 0-4 (R127); `gone` counts the values that
have ever left it, which tells a cell from its later uses (log entry 75). -/
structure Ring (α : Type) where
  c0 : α
  c1 : α
  c2 : α
  c3 : α
  head : Nat
  len : Nat
  gone : Nat
  deriving DecidableEq, Repr

/-- The vector queue files of R23, by routing target. -/
inductive VFile where
  | v0a
  | v0b
  | v1a
  | v1b
  | vst
  deriving DecidableEq, Repr

/-- Why a context is frozen: the slub causes of spec/20_observation_and_bring_up.md R423 (DESIGN CHOICE, log entry 21). -/
inductive Freeze where
  | pooled
  | monitor
  | timeline
  | barrier
  | fence
  | copyQueue
  | governor
  | sibling
  | urgent
  | handler
  | rekey
  | rollover
  | debug
  /-- LAUNCH of a held world (R68); no slub code -/
  | launchHold
  deriving DecidableEq, Repr

/-- The stores that a slot, a yarn or a copy can write locally (R107). -/
inductive Space where
  | spool
  | spill
  /-- pooled local offset in the gang's allocation of the issuer's cluster -/
  | pooled
  /-- the landing slice of the channel `n` -/
  | landing (n : Nat)
  /-- the instruction scratchpad, by instruction address -/
  | imem
  | afile
  | bfile
  | dfile
  deriving DecidableEq, Repr

/-- What a slot did to the scalar queues at issue, so that a trap after its issue can take it back (R5): the
registers popped with the values they gave, in order, and the register whose queue grew with the cell it chose and the place
of that cell among all that the queue has ever held; and where the slot stands (R202, R390): its bundle, its word, and the DONE bits of the bundle's other slots. -/
structure Undo where
  pops : List (Nat × Word)
  push : Option (Nat × Nat × Nat)
  pc : Nat
  word : Nat
  done : Nat
  deriving DecidableEq, Repr

/-- What comes about when something in flight of a context falls due. -/
inductive Pend where
  /-- a scalar result lands in the cell chosen at issue (R128) -/
  | sreg (r cell : Nat) (v : Word)
  /-- a vector result lands -/
  | vreg (f : VFile) (q cell : Nat) (v : Vec)
  /-- the predicate pair (p2k, p2k+1) := (v, not v) -/
  | pair (k : Nat) (v : Bool)
  /-- the stage predicates p15-p8 -/
  | stage (g : BitVec 8)
  /-- LC (R167) -/
  | lc (v : Word)
  /-- a CSR write takes effect (R159) -/
  | csr (n : Nat) (v : Word)
  /-- a lane predicate lands -/
  | vp (k : Nat) (v : W256)
  /-- the lanes of `mask` of a unit's accumulator land (R236) -/
  | vacc (unit k : Nat) (mask : BitVec 128) (v : AccVec)
  /-- bytes of a store perform -/
  | store (sp : Space) (l : List Host.Cell)
  /-- LATOM on the Spool reads, operates and writes (R209); the old word lands in the cell `land` cycles later -/
  | latom (addr op : Nat) (b x : Word) (r cell land : Nat)
  /-- a word of yarn register `y` pair `h` takes its value (R220) -/
  | yset (y : Nat) (h : Bool) (lo hi : Word)
  /-- mp register `p` (R280) -/
  | mparm (p : Nat) (v : Word)
  /-- recipe step or table entry (R281) -/
  | mstep (t : Bool) (i : Nat) (v : Word)
  /-- LDC waits for its bank (R201) -/
  | ldc (addr r cell : Nat) (u : Undo)
  /-- STC waits for its bank -/
  | stc (addr : Nat) (v : Word)
  /-- LATOM.p waits for its bank -/
  | latomPool (addr op : Nat) (b x : Word) (r cell : Nat) (u : Undo)
  /-- LATOM.p reads and writes 15 cycles after it wins (R201) -/
  | latomPerform (addr op : Nat) (b x : Word) (r cell : Nat) (u : Undo)
  /-- a SENDT vector crosses its links (R210); the core mask and the vector -/
  | sendt (cm : Nat) (v : Vec)
  /-- RECVT expects a delivery of core `c` (R211) -/
  | recvt (c : Nat) (f : VFile) (q cell : Nat)
  deriving DecidableEq, Repr

/-- Something in flight: due in the context's own clock, issued at `iss` in slot `slot` (R125). -/
structure InFlight where
  due : Nat
  iss : Nat
  slot : Nat
  act : Pend
  deriving DecidableEq, Repr

/-- A taken branch whose target is still to issue (R122). -/
structure Branch where
  target : Nat
  due : Nat
  /-- BSWAP: the idle half becomes active at `due` (R173) -/
  swap : Bool
  /-- ERET: the suspended state resumes at `due` (R394) -/
  eret : Bool
  deriving DecidableEq, Repr

/-- One step execution of a matrix call's plan (R274): the store index, the substituted step word, the
execution number `n`, the start cycle within the call, and the number of the first K-block. -/
structure PlanItem where
  idx : Nat
  step : Nat
  n : Nat
  start : Nat
  nb : Nat
  deriving DecidableEq, Repr

/-- A running matrix call (R260): issue cycle, total cycles, the latched M-stream word and parameters,
the plan, and the address v of each AMX. -/
structure MatCall where
  t0 : Nat
  cycles : Nat
  mw : Nat
  params : List Word
  plan : List PlanItem
  /-- the fault record of a K-block whose tag does not fit (R279) -/
  fault : Option Nat
  deriving DecidableEq, Repr

/-- A deferred trap waiting for the next bundle (R390). `rank` orders those of one cycle (R219). -/
structure Deferred where
  cause : Nat
  slot : Nat
  word : Nat
  at_ : Nat
  rank : Nat
  deriving DecidableEq, Repr

/-- What a waiting context waits for. `until_` is the GCYC cycle in which it resumes, once known. -/
inductive WaitFor where
  /-- WAITA: the line watched, the word's physical address, the condition, the comparand, the pair,
  the GCYC of arming, the timeout, whether a new write was observed, the die's table (R78) -/
  | monitor (pa cond : Nat) (cmp : Word) (k t0 tmo : Nat) (seen : Bool) (die : Nat)
  /-- TLWAIT: the timeline identifier, the value, the pair, and Ok as it was when Met first held (R352, R360) -/
  | timeline (tlid : Nat) (n : Nat) (k : Nat) (ok : Bool)
  /-- a WAITA (true) or LAUNCH waits for translations: the slot's fields WAITA needs, (COND, PP, TMO), and the misses (R114) -/
  | xlate (waita : Bool) (cond k tmo : Nat) (l : List Miss)
  /-- BAR or BARA: the phase number awaited (R355); `again`: BARA arrives in the next phase -/
  | barrier (phase : Nat) (again : Bool)
  /-- FENCE: the engine operations awaited, as (engine, number), and the scope (R331) -/
  | fence (ops : List (Nat × Nat)) (scope : Nat) (acq : Bool)
  /-- IFENCE: transfers into the idle half awaited; then the descriptor is latched (R171) -/
  | ifence (ops : List (Nat × Nat)) (yarns : List Nat)
  /-- IVERIFY: freeze until the time; the pair is then seen (R172) -/
  | iverify (k : Nat) (v : Bool)
  /-- CPY or CPYR, HATOM, RED and the like wait for a free queue entry (R346) -/
  | queue (num : Nat)
  /-- LAUNCH of a held world stalls (R68); it issues again -/
  | held
  /-- a channel core's DWAIT (R317) -/
  | dwait (tlid n : Nat)
  /-- a channel core frozen while a precharge is stretched (R294, R295) -/
  | precharge
  deriving DecidableEq, Repr

/-- A wait in progress: what for, its Y slot word, the operands it read at its first issue (R395), and
the GCYC cycle of resumption. -/
structure Wait where
  what : WaitFor
  word : Nat
  opA : Word
  opB : Word
  /-- what the slot did to the queues; whether it had issued before (R395) -/
  undo : Undo
  reissued : Bool
  /-- the last frozen cycle, once it is known -/
  until_ : Option Nat
  deriving DecidableEq, Repr

/-- One execution of a branch of the yarn engine: a started yarn (R215, R218). `t` is the issuing
context's clock at YGO; beats from `next` on have not been read; `last` is the last beat not cancelled. -/
structure OpenYarn where
  y : Nat
  ag : Agent
  desc : W256
  x : Nat
  z : Nat
  t : Nat
  next : Nat
  last : Nat
  deriving DecidableEq, Repr

/-- A beat in flight (R214-R218): times in the issuing context's clock. -/
structure Beat where
  y : Nat
  ag : Agent
  b : Nat
  /-- the YGO cycle of the run it belongs to -/
  run : Nat
  /-- cycle in which it is read -/
  read : Nat
  /-- cycle in which it enters the source strand; in which it crosses its links; of delivery -/
  enter : Nat
  cross : Nat
  deliver : Nat
  /-- global core of the source strand; destination cores still to receive it -/
  src : Nat
  dsts : List Nat
  net : Bool
  anti : Bool
  strand : Nat
  srcPos : Nat
  srcDist : Nat
  /-- where a network beat enters the destination strand -/
  inPos : Nat
  dstDist : Nat
  data : List Byte
  /-- lines not yet granted by their pooled banks; lines granted in this cycle and not yet written -/
  wantRead : List Nat
  wantWrite : List Nat
  granted : List Nat
  /-- tags of the 16-byte granules for DK 5 or 6 -/
  tags : List (BitVec 14)
  desc : W256
  srcAddr : Nat
  dstAddr : Nat
  deriving DecidableEq, Repr

/-- A half's latched descriptor (R170, R171). -/
structure HalfDesc where
  sid : Nat
  ngran : Nat
  nonce : Word
  deriving DecidableEq, Repr

/-- What a running handler suspended (R392): the events due after the start of `tau`, the branch and
loop-end still to come, the call and the yarns with their distance kept, the interrupted bundle's schedule. -/
structure Susp where
  tau : Nat
  pend : List InFlight
  branch : Option Branch
  call : Option MatCall
  ttime : Nat
  /-- TEXIT had issued in the interrupted bundle -/
  texit : Bool
  /-- the stream that goes on after a slot that issues again on its own: next bundle and its distance
  from `tau` (R395) -/
  cont : Option (Nat × Nat)
  /-- the operands kept for a Y slot that issues again (R395) -/
  kept : Option (Word × Word)
  deriving DecidableEq, Repr

/-- The bundle a context is issuing: slots still to issue under DONEMASK, and what the bundle has done
so far (R128, R129). -/
structure Issue where
  ag : Agent
  /-- address of the bundle -/
  pc : Nat
  /-- address after the bundle -/
  succ : Nat
  /-- issue cycle in the context's clock -/
  t : Nat
  hdr : Header
  hword : Nat
  /-- slot being issued -/
  slot : Slot
  word : Nat
  /-- slots still to issue -/
  rest : List SlotWord
  /-- slots present before the current one (DONE bits) -/
  before : Nat
  /-- resumed DONEMASK -/
  mask : Nat
  /-- the event counters before the bundle (R392, R424) -/
  ev : Tab Word
  shadow : Bool
  /-- a branch of this bundle was taken -/
  taken : Bool
  /-- the bundle ended by a trap, a stop or a wait that makes no step at its end -/
  trapped : Bool
  deriving DecidableEq, Repr

/-- A deviation in progress (R135, R438). -/
structure Deviation where
  cause : Freeze
  first : Nat
  cycles : Nat
  slot : Nat
  deriving DecidableEq, Repr

/-- What a placed task was launched with (R86, R87). -/
structure Task where
  world : Nat
  launch : Nat
  tile : Nat
  gang : Nat
  member : Nat
  level : Nat
  ncores : Nat
  djob : Nat
  tile0 : Nat
  tile1 : Nat
  tile2 : Nat
  budget : Nat
  restartable : Bool
  saveable : Bool
  timed : Bool
  reduced : Bool
  urgent : Bool
  control : Bool
  spill : Nat
  poolbanks : Nat
  /-- TLBIND: identifiers of tl1-tl7 -/
  tlbind : List Nat
  cls : Nat
  deriving DecidableEq, Repr

/-- Keys and identities of the image a context runs (R14). `kenc` and `kmac` are the keys derived from
the image key. -/
structure Image where
  keyid : Nat
  nonce : Word
  kenc : W256
  kmac : W256
  codeSid : Nat
  msid : Nat
  csid : Nat
  /-- words of the mstream section; bytes of the const section -/
  mwords : Nat
  kbytes : Nat
  /-- urgent code granules, or bytes of a steward or channel section -/
  codeLen : Nat
  /-- the image key itself: IVERIFY derives the KMAC of the latched NONCE from it (R172) -/
  key : W256
  deriving DecidableEq, Repr

/-- One execution context: the banked state of R396 and what is in flight (DESIGN CHOICE, log entry 73). -/
structure Ctx where
  /-- a task, control task or static program runs here -/
  live : Bool
  task : Task
  image : Image
  sregs : Tab (Ring Word)
  /-- p15-p0; p0 and p1 are read as constants -/
  preds : BitVec 16
  lc : Word
  /-- next bundle in stream order and the cycle (own clock) in which it would issue -/
  seqPc : Nat
  seqAt : Nat
  branch : Option Branch
  /-- issue goes on: cleared by TEXIT, termination, a stop -/
  issuing : Bool
  rmode : Nat
  seed : Word
  lfsr : Word
  vtype0 : Word
  vtype1 : Word
  vps : Tab W256
  vaccs : Tab AccVec
  mpc : Nat
  mps : Tab Word
  mstream : Mem
  ktab : Mem
  faultCause : Nat
  faultPc : Nat
  faultSlot : Nat
  faultWord : Nat
  doneMask : Nat
  tvec : Nat
  estatH : Bool
  estatStage : BitVec 8
  elc : Word
  fence : Bool
  half0 : HalfDesc
  half1 : HalfDesc
  activeHalf : Nat
  evsel : Tab Word
  evcnt : Tab Word
  phase : Nat
  /-- the context's own clock (unfrozen cycles, cc or chc); its value at the entry bundle; cycles of
  handlers, which TTIME leaves out -/
  clk : Nat
  start : Nat
  ttOff : Nat
  charge : Nat
  started : Bool
  pend : List InFlight
  call : Option MatCall
  susp : Option Susp
  wait : Option Wait
  causes : List Freeze
  frozen : Bool
  dev : Option Deviation
  resumeMask : Nat
  /-- a wait or debug stop is re-issued: the operands kept for the Y slot (R395) -/
  kept : Option (Word × Word)
  deferred : List Deferred
  /-- TEXIT has issued; the task waits for its work (R96) -/
  texit : Bool
  /-- the task is terminated with this cause: the bundle's end ends it (R391, R97) -/
  ended : Option Nat
  /-- the task has left its domain (R355) -/
  dropped : Bool
  /-- fail record of the copy-engine context for this task (R338) -/
  failRec : Option (Nat × Nat)
  /-- bundle last issued, its slots and words, for slubs and for traps after issue (R202) -/
  lastPc : Nat
  lastSlots : List (Nat × Nat)
  /-- after the bundle that issues again, the stream goes on with this bundle at this cycle (R395) -/
  cont : Option (Nat × Nat)
  /-- VICSEL of a channel core (R302) -/
  vicsel : Nat
  /-- GCYC of the entry bundle -/
  entryAt : Nat
  /-- the breakpoint register stopped the core at the slot that issues next (R430) -/
  bkSkip : Bool
  /-- STEP: one bundle may issue, then the core stops again -/
  stepOne : Bool
  /-- SENDT vectors that the network delivers in this cycle: sending core and vector (R211) -/
  inbox : List (Nat × Vec)
  /-- the cycle, in the own clock, in which a bundle last issued -/
  lastAt : Nat
  /-- a slice end has chosen this task: 1 save, 2 forced save (R399, R400) -/
  saveDue : Nat
  /-- the placed task's fill runs; GCYC of its end (R439) -/
  fillUntil : Option Nat
  deriving DecidableEq, Repr

/-- A kind of numbered engine operation (R340, R404). -/
inductive EngKind where
  | cpy
  | cpyr
  | hatom
  | red
  | krot
  | seal
  | unseal
  | scrub
  deriving DecidableEq, Repr

/-- What an engine has read: the bytes; the ranges of them (first, count) that are written as zeros, poisoned where the
destination carries poison (R345, R348); and the custody page of each range that comes from one (R380). -/
structure Got where
  data : List Byte
  bad : List (Nat × Nat)
  pages : List (Nat × Nat × Nat)
  deriving DecidableEq, Repr

/-- What a copy has read for a unit and not yet written, with the cause to record. -/
structure HeldUnit where
  unit : Nat
  got : Got
  cause : Option Nat
  deriving DecidableEq, Repr

/-- A numbered operation of a copy-engine context in flight. -/
structure EngOp where
  num : Nat
  kind : EngKind
  ag : Agent
  world : Nat
  /-- the issuing task: (launch, tile), and the GCYC of its entry bundle, which tells it from a later task of its agent -/
  tid : Nat × Nat
  entry : Nat
  /-- latched descriptor and operands -/
  desc : W256
  x : Word
  z : Word
  op : Nat
  scope : Nat
  ret : Bool
  /-- comparand read at issue (R349) -/
  cmp : Word
  /-- holds a queue entry; started; taken by a sibling's engine -/
  queued : Bool
  started : Bool
  taken : Option Nat
  /-- units (lines, granules, groups) not yet performed -/
  todo : List Nat
  todoSet : Bool
  /-- GCYC of the next unit -/
  at_ : Nat
  fail : Option Nat
  /-- issues no further lines -/
  stopped : Bool
  /-- units waiting at the governor -/
  governed : Bool
  /-- NUMBER and NONCE of a checkpoint; the message's RID for a RED -/
  aux : Nat
  nonce : W256
  /-- the operation has performed its access; only the answer is outstanding -/
  performed : Bool
  /-- gang of the issuing task -/
  gang : Nat
  /-- page (VA[55:16]) whose translation it waits for -/
  waitPage : Option Nat
  /-- lines of peer packages that have arrived: physical line, bytes as a number, poison (R366) -/
  fetched : List (Nat × Nat × Bool)
  /-- lines of peer packages whose READ has failed, with the cause (R369) -/
  lost : List (Nat × Nat)
  /-- custody pages of what a SEAL or UNSEAL has read: first byte, count, page (R380) -/
  pages : List (Nat × Nat × Nat)
  /-- prepared bytes of a SEAL or UNSEAL, and granules whose check failed (R405, R406) -/
  data : List Byte
  bad : List Nat
  /-- a unit that has been read and waits for its destination -/
  held : Option HeldUnit
  /-- it has written host memory; GCYC at which the device read issued after its last write completes (R336) -/
  wroteHost : Bool
  hostRead : Option Nat
  deriving DecidableEq, Repr

/-- A copy-engine context (R337, R340): VALUE, last number issued, completed out of order, in flight. -/
structure Engine where
  value : Nat
  issued : Nat
  done : List Nat
  ops : List EngOp
  deriving DecidableEq, Repr

/-- A drain atomic in flight (R272). -/
structure DrainAtomic where
  id : Nat
  ag : Agent
  world : Nat
  launch : Nat
  gang : Nat
  amx : Nat
  addr : Nat
  value : Nat
  at_ : Nat
  /-- the call that made it is still busy: it has not been issued yet, for fences and releases (R272, R329) -/
  running : Bool
  deriving DecidableEq, Repr

/-- A waiting slub record (R422). -/
structure Slub where
  gcyc : Nat
  taskid : Nat
  loss : Nat
  pc : Nat
  cause : Nat
  kind : Nat
  unit : Nat
  ctx : Nat
  world : Nat
  deriving DecidableEq, Repr

/-- Sources of slub records, or an agent's count of dropped records. -/
structure SlubBuf where
  recs : List Slub
  lost : Nat
  deriving DecidableEq, Repr

/-- One tile core's partitioned and shared state. -/
structure Core where
  spool : Mem
  spill : Mem
  imem : Mem
  vqs : Tab (Ring Vec)
  yarns : Tab W256
  open_ : List OpenYarn
  beats : List Beat
  afile : Mem
  bfile : Mem
  /-- tags of the operand files by granule: FMT, GEOM, scale (R257) -/
  atags : Tab (BitVec 14)
  btags : Tab (BitVec 14)
  dfile : Mem
  /-- accumulator banks: element bank * 24576 + row * 256 + col -/
  accs : Tab W32
  steps : Tab Word
  table : Tab W32
  /-- Spool blocks clean, and written since the task started (R399, R408) -/
  clean : List Nat
  written : List Nat
  /-- zeroing after the owner left: GCYC of its end; only the urgent partition -/
  zeroUntil : Option Nat
  zeroUrgent : Bool
  /-- the urgent section's half and granules (R397) -/
  urgentHalf : Nat
  urgentGran : Nat
  /-- the main context is a frozen victim of urgent pre-emption; GCYC at which it was taken -/
  victim : Option Nat
  deriving DecidableEq, Repr

/-- A pooled allocation of a gang in one cluster (R102). -/
structure Alloc where
  world : Nat
  launch : Nat
  gang : Nat
  banks : List Nat
  deriving DecidableEq, Repr

/-- One cluster. -/
structure Cluster where
  /-- pooled banks: bank * 983040 + byte -/
  pooled : Mem
  /-- poisoned lines: bank * 15360 + line -/
  poison : List Nat
  allocs : List Alloc
  /-- banks being zeroed: bank and GCYC of the end -/
  zeroing : List (Nat × Nat)
  /-- banks reserved for functions' partitions: (function, banks) (R102) -/
  parts : List (Nat × List Nat)
  /-- pre-emption pointer (spec/18_programs_gemm_and_overlay.md R410) -/
  prePtr : Nat
  /-- banks that have granted an access in the cycle `busyAt` (R200) -/
  busyAt : Nat
  busyBanks : List Nat
  /-- functions whose tasks drain here (R400) -/
  drain : List Nat
  deriving DecidableEq, Repr

/-- State of a DRAM bank (R308). -/
inductive Bank where
  | idle
  /-- open row (row in bank), columns written, lines moved, modified -/
  | opened (row : Nat) (cols : List Nat) (moved : List Nat) (modified : Bool)
  | busy (until_ : Nat)
  deriving DecidableEq, Repr

/-- The metadata column of a row (R290). -/
structure RowMeta where
  macs : Tab Word
  major : Nat
  minors : Tab Nat
  kg : Nat
  tag : Nat
  /-- bit 255 of the counter block -/
  top : Bool
  deriving DecidableEq, Repr

/-- A D command sent, for the distances of R307: kind, bank, near class, chc. -/
structure DCmd where
  kind : Nat
  bank : Nat
  near : Bool
  at_ : Nat
  deriving DecidableEq, Repr

/-- A DRD landing or a DWR burst in flight (R303, R311, R318). `at_` is in cc of the core's own time; `num` is its
number on the channel timeline, 0 without S; `row` is the global number of the open row, and `step` the next of its lines. -/
structure DBurst where
  num : Nat
  write : Bool
  /-- the chc, in the core's own clock, in which it issued -/
  issued : Nat
  at_ : Nat
  /-- DRD: line data with poison, and where they land; DWR: lines gathered so far -/
  lines : List (Nat × Bool)
  row : Nat
  col : Nat
  mask : Nat
  ds : Bool
  addr : Nat
  step : Nat
  /-- its lines are in the row already: a later command of the row had to find them there (log entry 64) -/
  inRow : Bool
  deriving DecidableEq, Repr

/-- A request queued at a channel's service program (R305): a usable byte address, a length, and for a
write its bytes. -/
structure SvcReq where
  write : Bool
  world : Nat
  addr : Nat
  len : Nat
  data : List Byte
  poison : Bool
  tag : Nat
  /-- place in the order of arrival -/
  seq : Nat
  deriving DecidableEq, Repr

/-- One memory channel with its controller. -/
structure Chan where
  owner : Nat
  func : Nat
  pin : BitVec 4
  banks : Tab Bank
  cmds : List DCmd
  debt : Tab Int
  /-- chc of the program's first cycle, and ticks taken since -/
  refBase : Nat
  ticks : Nat
  victims : Tab Nat
  valid : List Nat
  dirty : List Nat
  tlValue : Nat
  tlIssued : Nat
  tlDone : List Nat
  dead : Bool
  slice : Mem
  slicePoison : List Nat
  istore : Mem
  faultRec : Option (Nat × Nat)
  reqs : List SvcReq
  bursts : List DBurst
  /-- the metadata columns, by bank, of cleared rows that are open and written: as they are stored (R300) -/
  kept : Tab RowMeta
  /-- a CHANNEL_START waits for the program's first bundle (R299) -/
  starting : Bool
  stopping : Bool
  refreshFault : Bool
  zeroUntil : Option Nat
  deriving DecidableEq, Repr

/-- A level-1 node (R291), its CLR apart. -/
structure Node where
  nmaj : Nat
  epochs : Tab Nat
  deriving DecidableEq, Repr

/-- An installed key (R55). -/
structure Key where
  keyid : Nat
  kind : Nat
  key : W256
  deriving DecidableEq, Repr

/-- Dependence of a launch (R81). -/
structure Dep where
  tlid : Nat
  value : Nat
  deriving DecidableEq, Repr

/-- The fields of a launch record (R81). -/
structure LaunchRec where
  image : Nat
  tsid : Nat
  cls : Nat
  flags : Nat
  ncores : Nat
  dlevel : Nat
  ext0 : Nat
  ext1 : Nat
  ext2 : Nat
  budget : Nat
  seedBase : Word
  djob : Nat
  clmask : Nat
  poolbanks : Nat
  chmask : BitVec 256
  tlbind : List Nat
  deps : List Dep
  deriving DecidableEq, Repr

/-- A section-table entry (R12). -/
structure Section where
  kind : Nat
  sid : Nat
  offset : Nat
  size : Nat
  target : Nat
  link : Nat
  deriving DecidableEq, Repr

/-- A task record (R15). -/
structure TaskRec where
  entry : Nat
  flags : Nat
  tiledims : Nat
  nvar : Nat
  budget : Nat
  spill : Nat
  mstart : Nat
  ncval : List Nat
  codesid : List Nat
  msid : Nat
  rsid : Nat
  csid : Nat
  ymask : Nat
  yinit : List W256
  deriving DecidableEq, Repr

/-- How a task of a launch ended unretired (R419). -/
structure Ended where
  tile : Nat
  cause : Nat
  slot : Nat
  word : Nat
  pc : Nat
  gcyc : Nat
  deriving DecidableEq, Repr

/-- A launch accepted and not yet over (R84). -/
structure Launch where
  n : Nat
  record : LaunchRec
  trec : TaskRec
  image : Image
  sections : List Section
  /-- next tile in order that has not been placed; discarded tiles that return unplaced -/
  nextTile : Nat
  requeue : List Nat
  resident : List Nat
  retired : List Nat
  failed : Bool
  ended : List Ended
  startAt : Nat
  endAt : Nat
  charge : Nat
  /-- the consecutive ticks for which its first unit, named by its first tile, has been passed over (R89) -/
  passed : Nat
  passedOf : Option Nat
  /-- the engine operations that its release waits for before any task starts (R330), under their engine's number -/
  after : List (Nat × Nat)
  deriving DecidableEq, Repr

/-- A custody region (R379). -/
structure Region where
  idx : Nat
  first : Nat
  count : Nat
  rate : Nat
  burst : Nat
  tokens : Nat
  deriving DecidableEq, Repr

/-- Membership of a job domain (R364, R365). -/
structure Job where
  djob : Nat
  leader : Nat
  parties : Nat
  members : BitVec 1024
  kt : W256
  kd : W256
  ctr : Nat
  /-- last CTR accepted from each SRC -/
  lastCtr : Tab Nat
  /-- admitted switches: ordinal, session open -/
  switches : List (Nat × Bool)
  windows : List WinDesc
  deriving DecidableEq, Repr

/-- A timeline with a fail record. -/
structure Timeline where
  value : Nat
  fail : Option (Nat × Nat)
  deriving DecidableEq, Repr

/-- The saved image of a core (R403): what it was, and the NUMBER and NONCE of its checkpoint. -/
structure Saved where
  core : Nat
  number : Nat
  nonce : W256
  ctx : Ctx
  data : Core
  deriving DecidableEq, Repr

/-- The saved image of a gang's pooled banks in a cluster (R403): bytes and poisoned lines by their position in the
allocation, and the NUMBER and NONCE of its checkpoint. -/
structure SavedPool where
  cluster : Nat
  launch : Nat
  gang : Nat
  number : Nat
  nonce : W256
  data : Mem
  poison : List Nat
  deriving DecidableEq, Repr

/-- One world. -/
structure World where
  key : W256
  keys : List Key
  troot : Nat
  cmplBase : Nat
  slubBase : Nat
  saveBase : Nat
  held : Bool
  signals : Tab Nat
  launchTl : Timeline
  nextLaunch : Nat
  launches : List Launch
  /-- launch numbers that are over but not yet counted by the launch timeline -/
  closed : List Nat
  slubSeq : Nat
  ckptCtr : Nat
  saved : List Saved
  savedPools : List SavedPool
  policy : BitVec 3
  regions : List Region
  job : Option Job
  /-- a teardown with this cause waits for the world's channel programs to stop (R322); its pages then pass to world 1 -/
  tearing : Option Nat
  leaving : Bool
  deriving DecidableEq, Repr

/-- TDISP states (R60). -/
inductive Tdi where
  | unlocked
  | locked
  | run
  | error
  deriving DecidableEq, Repr

/-- One function: PF 0, VF 1-31. -/
structure Func where
  vfEnabled : Bool
  layout : Layout
  layoutGen : Nat
  tdi : Tdi
  nonce : W256
  ideStream : Option Nat
  /-- the address range of its IDE association, in the PF's IDE capability (R61) -/
  ideRange : Nat
  weight : Nat
  cap : Nat
  pdl : Nat
  allowance : Int
  boost : Nat
  boostB : Nat
  idleTicks : Nat
  wokeTicks : Nat
  active : Bool
  allow : BitVec 256
  mode : BitVec 256
  bme : Bool
  /-- core-cycles its tasks have held since the last tick (R92) -/
  heldCc : Nat
  /-- a SCHED_SET that takes effect at the next tick: weight, cap, PDL (R91) -/
  sched : Option (Nat × Nat × Nat)
  deriving DecidableEq, Repr

/-- An IDE stream (R64): keys programmed per key set and sub-stream, and the set each sub-stream uses. -/
structure Ide where
  keys : List (Nat × Nat × W256)
  current : List (Nat × Nat)
  deriving DecidableEq, Repr

/-- An arrival or a drop that has not landed (R355): the first GCYC cycle in which it can, the engine
operations that must have performed within `scope` first, the party, and whether it is a drop and withdraws. -/
structure DomDue where
  at_ : Nat
  ops : List (Nat × Nat)
  scope : Nat
  ag : Agent
  drop : Bool
  withdraw : Bool
  deriving DecidableEq, Repr

/-- A domain instance (R354): who has an arrival pending, what is still to land, and, at the leader of a job domain, how
many arrivals of its open phase have come from each package (R356). -/
structure Dom where
  key : DomKey
  level : Nat
  expect : Nat
  arrived : Nat
  phase : Nat
  pending : List Agent
  due : List DomDue
  came : Tab Nat
  /-- the last phase failed by a fabric failure (R378) -/
  failed : Bool
  deriving DecidableEq, Repr

/-- An armed address monitor entry: the die's table (4 is the I/O die), the world, the line, the waiter, and the GCYC cycle
of the first write to the line since it was armed or the word was last read (R77, R79). -/
structure Monitor where
  die : Nat
  world : Nat
  line : Nat
  ag : Agent
  hit : Option Nat
  deriving DecidableEq, Repr

/-- A TLADD that has not taken effect (R351): what must complete first. -/
structure TlAddOp where
  id : Nat
  ag : Agent
  /-- the issuing task, as in `EngOp` -/
  tid : Nat × Nat
  entry : Nat
  world : Nat
  idx : Nat
  amount : Nat
  ops : List (Nat × Nat)
  due : Nat
  deriving DecidableEq, Repr

/-- A cached translation (R112). -/
structure TransEnt where
  frame : Nat
  w : Bool
  deriving DecidableEq, Repr

/-- A custody-log entry (R382), in order of SEQ. -/
structure LogEntry where
  seq : Nat
  gcyc : Nat
  type : Nat
  world : Nat
  data : BitVec 112
  prev : W256
  deriving DecidableEq, Repr

/-- A fabric request in flight (R366, R369). -/
structure FabReq where
  rid : Nat
  world : Nat
  dst : Nat
  port : Nat
  /-- 1 WRITE, 2 READ, 3 RED, 6 ARRIVE, 7 COMPLETE -/
  opc : Nat
  deadline : Nat
  /-- the engine operation (engine, number) or the domain instance it belongs to -/
  eng : Nat
  num : Nat
  unit : Nat
  dom : Option DomKey
  /-- the offset in the peer's fabric space -/
  addr : Nat
  deriving DecidableEq, Repr

/-- The registers and SRAM cells of one owner (R431): contexts by agent, cores, banks of pooled memory by cluster, channel cores
with their slices, stewards' stores. What is not listed reads as zero. -/
structure Cells where
  ctxs : Tab Ctx
  cores : Tab Core
  pooled : Tab Mem
  chans : Tab Chan
  stewMem : Tab Mem
  stewCode : Tab Mem
  deriving DecidableEq, Repr

/-- What leaves the package: response payloads of requests, TLPs, fabric messages. -/
inductive Output where
  /-- a one-byte status with a payload, to the request named by its mnemonic -/
  | status (req : String) (st : Nat) (payload : List Byte)
  /-- an SPDM error response -/
  | spdmError (req : String) (err : String)
  /-- a configuration request, the named one, answered with Request Retry Status (spec/20_observation_and_bring_up.md R432) -/
  | retry (req : String)
  /-- an SPDM or TDISP response with its payload -/
  | response (req : String) (payload : List Byte)
  /-- completion of a host read: bytes and the EP bit -/
  | completion (f : Nat) (data : List Byte) (ep : Bool)
  /-- Unsupported Request -/
  | unsupported (f : Nat)
  /-- a write TLP to host memory: address, bytes, trusted bit, EP bit -/
  | dmaWrite (f : Nat) (addr : Nat) (data : List Byte) (trusted ep : Bool)
  /-- a read TLP to host memory, issued after the last write of an engine operation (R336) -/
  | dmaRead (f : Nat) (trusted : Bool)
  /-- a fabric message -/
  | fabric (m : FabMsg)
  /-- UALink unsupported-request error response -/
  | fabricUnsupported (dst : Nat)
  /-- a trace record of 16 bytes (R429) -/
  | trace (l : List Byte)
  /-- lines of a world's cells in a scan readout, with what they read as (R431) -/
  | scan (world lines : Nat) (cells : Cells)
  deriving DecidableEq, Repr

/-- Lines waiting at the governor, in arrival order (R380): world, region, port (R383), lines still to be admitted,
what then leaves, and the engine operation and unit it is part of, with the DJOB of a fabric message. -/
structure Governed where
  world : Nat
  region : Nat
  port : Nat
  lines : Nat
  out : Output
  op : Option (Nat × Nat × Nat)
  /-- the message, where its lines come from several regions; 0 otherwise -/
  id : Nat
  deriving DecidableEq, Repr

/-- A debug stop (R430): whether the core is stopped, and whether one bundle may issue. -/
structure Debug where
  core : Nat
  stat : Nat
  bkptpc : Word
  tracectl : Word
  tracebase : Word
  tracehead : Nat
  traceDrop : Bool
  stateidx : Word
  evdeny : Word
  /-- contexts (agent numbers) that are stopped; contexts to be stopped before their next bundle -/
  stopped : List Nat
  stopNext : List Nat
  deriving DecidableEq, Repr

/-- An SPDM session (R46, R50). -/
structure Session where
  id : Nat
  finished : Bool
  func : Option Nat
  deriving DecidableEq, Repr

/-- Host-side placement of the log and other PF registers. -/
structure LogRegs where
  base : Nat
  size : Nat
  head : Nat
  ack : Nat
  headAddr : Nat
  nextSeq : Nat
  held : List LogEntry
  last : W256
  deriving DecidableEq, Repr

/-- An egress count of one interval (R383). -/
structure Egress where
  world : Nat
  region : Nat
  port : Nat
  bytes : Nat
  stalled : Nat
  deriving DecidableEq, Repr

/-- A switch admission in progress (R372): the ordinal, the step reached, its deadline. -/
structure Admission where
  world : Nat
  ordinal : Nat
  swid : Nat
  step : Nat
  deadline : Nat
  /-- what SWITCH_ADMIT asks for, and the switch's measurement digest once it is known -/
  root : W256
  policy : W256
  mask : BitVec 256
  digest : Nat
  deriving DecidableEq, Repr

/-- The whole package and what the model needs to take the steps of a cycle one at a time. -/
structure State where
  gcyc : Nat
  /-- which group of the cycle's steps is on the agenda (log entry 1) -/
  phase : Nat
  /-- steps of this cycle still to be taken (log entry 1) -/
  agenda : List Instr
  /-- the bundle being issued -/
  cur : Option Issue
  /-- requests from outside still to come, with the cycle from which they can be taken (log entry 2) -/
  inputs : List (Nat × Instr)
  outbox : List Output
  /-- counter applied to the free values of Config (log entry 3) -/
  freeCtr : Nat
  /-- GCYC at which bring-up ends; none when it has -/
  bringUp : Option Nat
  ready : Bool
  failedBring : Bool
  failCode : BitVec 16
  frozenPkg : Bool
  poweredOff : Bool
  cutDies : List Nat
  /-- GCYC up to which VFs answer with Request Retry Status (R70) -/
  retryUntil : Nat
  ctxs : Tab Ctx
  cores : Tab Core
  clusters : Tab Cluster
  chans : Tab Chan
  engines : Tab Engine
  /-- steward stores: local store and instruction store of each steward (R76) -/
  stewMem : Tab Mem
  stewCode : Tab Mem
  stewZero : List (Nat × Nat)
  worlds : Tab World
  funcs : Tab Func
  ides : Tab Ide
  numVfs : Nat
  vfEnable : Bool
  vfMse : Bool
  /-- VF BAR0, and VF BAR2/3 (R61) -/
  vfBar0 : Nat
  vfBar2 : Nat
  layoutGen : Nat
  /-- usable HBM: ciphertext by usable byte address -/
  hbm : Mem
  rows : Tab RowMeta
  nodes : Tab Node
  /-- clearings that incremented CLR: node spans since reset (R297) -/
  clrs : List (Nat × Nat)
  cleared : Spans Bool
  eccLines : List Nat
  /-- rows with an uncorrectable ECC error in their metadata column (R293) -/
  eccMeta : List Nat
  /-- what the stored check entries of the upper levels and the root differ by from the CRC-8 of their children (R291) -/
  treeErr : Tab Nat
  badNodes : List Nat
  softErrors : Tab Nat
  pageWorld : Spans Nat
  pagePoison : Tab Nat
  pageCustody : Spans Bool
  trans : Tab TransEnt
  misses : List Miss
  /-- the walks that have begun, each with the GCYC cycle in which it ends (R114) -/
  walks : List (Miss × Nat)
  /-- the CONTROL_START whose pages are walked (R73, R114) -/
  control : Option StartReq
  monitors : List Monitor
  /-- lines (usable address / 64) written in this cycle, which a monitor armed in it observes (R79) -/
  monWrites : List Nat
  monFail : Tab Nat
  /-- requests of hosts that wait for a translation, oldest first (R114) -/
  hostWaits : List HostReq
  /-- the collective contexts of the package (R377) -/
  colls : Tab Timeline
  doms : List Dom
  tladds : List TlAddOp
  atomics : List DrainAtomic
  slubs : Tab SlubBuf
  nextId : Nat
  winbase : Word
  sessions : List Session
  svn : Nat
  activeSvn : Nat
  activeDigest : W256
  staged : Option (Nat × W256)
  log : LogRegs
  egress : List Egress
  /-- counts of ended intervals that wait for room in the log (R381, R383) -/
  egressDone : List Egress
  governed : List Governed
  pkg : Option Nat
  ports : BitVec 32
  portsUp : BitVec 32
  windowMem : Mem
  nextRid : Nat
  fabReqs : List FabReq
  admissions : List Admission
  /-- the SPDM version that the message in the PF's DOE mailbox carries, as its requester has written it, for the requests
  whose row has no operand (R46) (DESIGN CHOICE, log entry 86) -/
  mailVersion : Nat
  /-- memberships that have ended here, with the windows they had installed (R365, R386) -/
  leftJobs : List Job
  dbg : Debug
  /-- memory of the host, reached by DMA (log entry 9) -/
  host : Mem
  deriving DecidableEq, Repr

/-- Where the machine stops for good. -/
inductive Fault where
  /-- The package is powered off (spec/20_observation_and_bring_up.md R434) and nothing from outside is waiting: `step`
  raises it. Safe: the spec gives no further step. -/
  | poweredOff
  deriving DecidableEq, Repr

/-- Why an instruction has no meaning. -/
inductive Refusal where
  /-- The instruction is not modelled yet: raised by its arm of `exec`. Safe. -/
  | notModelled (mnemonic : String)
  deriving DecidableEq, Repr

/-! ## Reset -/

/-- R127: an empty queue. -/
def Ring.empty (z : α) : Ring α := ⟨z, z, z, z, 0, 0, 0⟩

/-- No task (R104: zeroed). -/
def Task.none : Task := ⟨0, 0, 0, 0, 0, 0, 0, 0, 0, 0, 0, 0, false, false, false, false, false, false, 0, 0, [], 0⟩

/-- No image. -/
def Image.none : Image := ⟨0, 0, 0, 0, 0, 0, 0, 0, 0, 0, 0⟩

/-- No code held. -/
def HalfDesc.none : HalfDesc := ⟨0, 0, 0⟩

/-- A context that runs nothing: every register zero, queues empty, each predicate pair (0,1) (R104,
R161). -/
def Ctx.reset : Ctx where
  live := false
  task := Task.none
  image := Image.none
  sregs := []
  preds := 0x00A8#16
  lc := 0
  seqPc := 0
  seqAt := 0
  branch := none
  issuing := false
  rmode := 0
  seed := 0
  lfsr := 0
  vtype0 := 0
  vtype1 := 0
  vps := []
  vaccs := []
  mpc := 0
  mps := []
  mstream := []
  ktab := []
  faultCause := 0
  faultPc := 0
  faultSlot := 0
  faultWord := 0
  doneMask := 0
  tvec := 0
  estatH := false
  estatStage := 0
  elc := 0
  fence := false
  half0 := HalfDesc.none
  half1 := HalfDesc.none
  activeHalf := 0
  evsel := []
  evcnt := []
  phase := 0
  clk := 0
  start := 0
  ttOff := 0
  charge := 0
  started := false
  pend := []
  call := none
  susp := none
  wait := none
  causes := []
  frozen := false
  dev := none
  resumeMask := 0
  kept := none
  deferred := []
  texit := false
  ended := none
  dropped := false
  failRec := none
  lastPc := 0
  lastSlots := []
  cont := none
  vicsel := 0
  entryAt := 0
  bkSkip := false
  stepOne := false
  inbox := []
  lastAt := 0
  saveDue := 0
  fillUntil := none

/-- A zeroed core (R104). -/
def Core.reset : Core where
  spool := []
  spill := []
  imem := []
  vqs := []
  yarns := []
  open_ := []
  beats := []
  afile := []
  bfile := []
  atags := []
  btags := []
  dfile := []
  accs := []
  steps := []
  table := []
  clean := []
  written := []
  zeroUntil := none
  zeroUrgent := false
  urgentHalf := 0
  urgentGran := 0
  victim := none

/-- A cluster with every bank free and zero. -/
def Cluster.reset : Cluster := ⟨[], [], [], [], [], 0, 0, [], []⟩

/-- A copy-engine context at device reset (R337). -/
def Engine.reset : Engine := ⟨0, 0, [], []⟩

/-- A channel under the service program at device reset (R287, R298). -/
def Chan.reset : Chan where
  owner := 0
  func := 0
  pin := 0
  banks := []
  cmds := []
  debt := []
  refBase := 0
  ticks := 0
  victims := []
  valid := []
  dirty := []
  tlValue := 0
  tlIssued := 0
  tlDone := []
  dead := false
  slice := []
  slicePoison := []
  istore := []
  faultRec := none
  reqs := []
  bursts := []
  kept := []
  starting := false
  stopping := false
  refreshFault := false
  zeroUntil := none

/-- Metadata of a row that has never been written. -/
def RowMeta.reset : RowMeta := ⟨[], 0, [], 0, 0, false⟩

/-- A zeroed node (R297). -/
def Node.reset : Node := ⟨0, []⟩

/-- A world without keys, work or membership (R55, R84, R337). -/
def World.reset : World where
  key := 0
  keys := []
  troot := 0
  cmplBase := 0
  slubBase := 0
  saveBase := 0
  held := false
  signals := []
  launchTl := ⟨0, none⟩
  nextLaunch := 1
  launches := []
  closed := []
  slubSeq := 0
  ckptCtr := 0
  saved := []
  savedPools := []
  policy := 0
  regions := []
  job := none
  tearing := none
  leaving := false

/-- The empty layout (R49). -/
def Layout.empty : Layout := ⟨0, 0, 0, 0, 0, 0⟩

/-- R426: events 0x01-0x07 are allowed. -/
def defaultAllow : BitVec 256 := 0xFE#256

/-- A function after device reset, or a VF when VF Enable is set (R49, R91, R426). -/
def Func.reset : Func where
  vfEnabled := false
  layout := Layout.empty
  layoutGen := 0
  tdi := .unlocked
  nonce := 0
  ideStream := none
  ideRange := 0
  weight := 1
  cap := 64
  pdl := 1000
  allowance := 0
  boost := 0
  boostB := 0
  idleTicks := 0
  wokeTicks := 0
  active := false
  allow := defaultAllow
  mode := 0
  bme := false
  heldCc := 0
  sched := none

/-- An IDE stream without keys. -/
def Ide.reset : Ide := ⟨[], []⟩

/-- The custody log with nothing placed (R381). -/
def LogRegs.reset : LogRegs := ⟨0, 0, 0, 0, 0, 0, [], 0⟩

/-- The debug registers at reset (R428). -/
def Debug.reset : Debug := ⟨0, 0, 0, 0, 0, 0, false, 0, 0, [], []⟩

/-- R432: bring-up lasts at most 800 ms, 3,200,000,000 cc. -/
def bringUpBound : Nat := 3200000000

/-- The package right after device reset, before the bring-up steps of R432 have been taken: the PF
answers with Request Retry Status, nothing runs, memory reads as R432 leaves it. -/
def State.reset : State where
  gcyc := 0
  phase := 0
  agenda := []
  cur := none
  inputs := []
  outbox := []
  freeCtr := 8
  bringUp := some (1 + Config.freeNat 2 % bringUpBound)
  ready := false
  failedBring := false
  failCode := 0
  frozenPkg := false
  poweredOff := false
  cutDies := []
  retryUntil := 0
  ctxs := []
  cores := []
  clusters := []
  chans := []
  engines := []
  stewMem := []
  stewCode := []
  stewZero := []
  worlds := [(0, { World.reset with key := Config.freeKey 0 }),
    (1, { World.reset with key := Config.freeKey 1, policy := 7 })]
  funcs := []
  ides := []
  numVfs := 0
  vfEnable := false
  vfMse := false
  vfBar0 := 0
  vfBar2 := 0
  layoutGen := 0
  hbm := []
  rows := []
  nodes := []
  clrs := []
  cleared := []
  eccLines := []
  eccMeta := []
  treeErr := []
  badNodes := []
  softErrors := []
  pageWorld := []
  pagePoison := []
  pageCustody := []
  trans := []
  misses := []
  walks := []
  control := none
  monitors := []
  monWrites := []
  monFail := []
  hostWaits := []
  colls := []
  doms := []
  tladds := []
  atomics := []
  slubs := []
  nextId := 0
  winbase := 0
  sessions := []
  svn := Config.svnFuse.val
  activeSvn := Config.firmwareSvn.val
  activeDigest := Config.firmwareDigest
  staged := none
  log := LogRegs.reset
  egress := []
  egressDone := []
  governed := []
  pkg := none
  ports := 0
  portsUp := 0
  windowMem := []
  nextRid := 0
  fabReqs := []
  admissions := []
  mailVersion := 0x13
  leftJobs := []
  dbg := Debug.reset
  host := []

end Sys2Proof.Machine
end

