-- ==== Sys2Proof/Machine/Tab.lean ====
section
/-!
DEFINITION. Operations on the sparse tables of the state: tables of records, byte memories in canonical
form (spec/00_scope.md R2: little-endian), and spans. Every access of the model to memory goes through
these.
-/

namespace Sys2Proof.Machine

/-! ## Tables of records -/

/-- The content at position `k`, `d` where none is listed. -/
def tabGet (d : α) : Tab α → Nat → α
  | [], _ => d
  | (i, v) :: t, k => if i = k then v else if k < i then d else tabGet d t k

/-- Puts `v` at position `k`. -/
def tabSet : Tab α → Nat → α → Tab α
  | [], k, v => [(k, v)]
  | (i, x) :: t, k, v =>
    if i = k then (k, v) :: t else if k < i then (k, v) :: (i, x) :: t else (i, x) :: tabSet t k v

/-- Changes the content at position `k`. -/
def tabMod (d : α) (t : Tab α) (k : Nat) (f : α → α) : Tab α := tabSet t k (f (tabGet d t k))

/-- Unlists position `k`. -/
def tabDel : Tab α → Nat → Tab α
  | [], _ => []
  | (i, x) :: t, k => if i = k then t else (i, x) :: tabDel t k

/-! ## Byte memories -/

/-- The byte at address `a`; an unlisted address reads as 0. -/
def memGet : Mem → Nat → Byte
  | [], _ => 0
  | (k, v) :: t, a => if k = a then v else if a < k then 0 else memGet t a

/-- Writes the byte at address `a`; writing 0 unlists it, which keeps the canonical form. -/
def memSet : Mem → Nat → Byte → Mem
  | [], a, b => if b = 0 then [] else [(a, b)]
  | (k, v) :: t, a, b =>
    if k = a then (if b = 0 then t else (a, b) :: t)
    else if a < k then (if b = 0 then (k, v) :: t else (a, b) :: (k, v) :: t)
    else (k, v) :: memSet t a b

/-- The canonical form from address `lo` on: addresses strictly rising, no entry 0. -/
def memWfFrom : Nat → Mem → Bool
  | _, [] => true
  | lo, (k, v) :: t => decide (lo ≤ k) && v != 0 && memWfFrom (k + 1) t

/-- The canonical form of a memory. -/
def Memory.wf (m : Mem) : Bool := memWfFrom 0 m

/-- Writes cells in order. -/
def memPuts (m : Mem) (l : List Host.Cell) : Mem := l.foldl (fun m c => memSet m c.1 c.2) m

/-- The `n` bytes from address `a` on, of a memory that lists nothing below `a`. -/
def memWalk : Nat → Nat → Mem → List Byte
  | 0, _, _ => []
  | n + 1, a, [] => 0 :: memWalk n (a + 1) []
  | n + 1, a, (k, v) :: t => if k = a then v :: memWalk n (a + 1) t else 0 :: memWalk n (a + 1) ((k, v) :: t)

/-- The `n` bytes from address `a` on. -/
def memBytes (m : Mem) (a n : Nat) : List Byte := memWalk n a (m.dropWhile (fun c => decide (c.1 < a)))

/-- Bytes with their addresses from `a` on. -/
def cellsAt : Nat → List Byte → List Host.Cell
  | _, [] => []
  | a, b :: bs => (a, b) :: cellsAt (a + 1) bs

/-- Writes the bytes from address `a` on: what is listed below and above stays, and of the new bytes those
that are not 0 are listed. -/
def memWrite (m : Mem) (a : Nat) (l : List Byte) : Mem :=
  m.filter (fun c => decide (c.1 < a)) ++ (cellsAt a l).filter (fun c => c.2 != 0) ++
    m.filter (fun c => decide (a + l.length ≤ c.1))

/-- Zeroes the addresses from `lo` to `hi - 1`. -/
def memZero (m : Mem) (lo hi : Nat) : Mem := m.filter (fun c => decide (c.1 < lo) || decide (hi ≤ c.1))

/-- The number a byte list holds, least significant byte first (R2). -/
def leNat : List Byte → Nat
  | [] => 0
  | b :: bs => b.toNat + 256 * leNat bs

/-- The `n` bytes of a number, least significant first. -/
def leBytes : Nat → Nat → List Byte
  | 0, _ => []
  | n + 1, v => BitVec.ofNat 8 v :: leBytes n (v / 256)

/-- The `n`-byte little-endian number at address `a`. -/
def memNat (m : Mem) (a n : Nat) : Nat := leNat (memBytes m a n)

/-- Writes an `n`-byte little-endian number. -/
def memPutNat (m : Mem) (a n v : Nat) : Mem := memWrite m a (leBytes n v)

/-! ## Spans -/

/-- The content at position `k`: that of the first span that covers it. -/
def spanGet (d : α) : Spans α → Nat → α
  | [], _ => d
  | (first, count, v) :: t, k => if first ≤ k ∧ k < first + count then v else spanGet d t k

/-- Gives `count` positions from `first` on the content `v`. -/
def spanSet (t : Spans α) (first count : Nat) (v : α) : Spans α := (first, count, v) :: t

/-! ## Bits -/

/-- Bits `hi` to `lo` of a bit vector, as a number. -/
def bits (w : BitVec n) (hi lo : Nat) : Nat := bf w.toNat hi lo

/-- A 64-bit word from a number, modulo 2^64. -/
def wd (n : Nat) : Word := BitVec.ofNat 64 n

/-- The two's-complement value of the low `k` bits of `n`. -/
def sext (k n : Nat) : Int :=
  let m := n % 2 ^ k
  if m < 2 ^ (k - 1) then (m : Int) else (m : Int) - (2 ^ k : Nat)

/-- An address plus a signed displacement, modulo 2^64. -/
def addInt (a : Word) (d : Int) : Word := a + BitVec.ofInt 64 d

/-- Replaces bits `hi` to `lo` of the word `w` by `v`. -/
def setBits (w : Nat) (hi lo v : Nat) : Nat :=
  w - bf w hi lo * 2 ^ lo + (v % 2 ^ (hi + 1 - lo)) * 2 ^ lo

/-- Rounds up a quotient. -/
def ceilDiv (a b : Nat) : Nat := (a + b - 1) / b

/-- Keeps the first of each run of equal elements out of order: removes repeats. -/
def dedup [BEq α] : List α → List α
  | [] => []
  | x :: xs => if xs.elem x then dedup xs else x :: dedup xs

/-- Puts `x` before the first element of no lesser rank. -/
def insertBy (rank : α → Nat) (x : α) : List α → List α
  | [] => [x]
  | y :: ys => if rank x ≤ rank y then x :: y :: ys else y :: insertBy rank x ys

/-- Sorts by a rank, stable. -/
def sortBy (rank : α → Nat) : List α → List α
  | [] => []
  | x :: xs => insertBy rank x (sortBy rank xs)

end Sys2Proof.Machine
end

