-- ==== Sys2Proof/Machine/Ops.lean ====
section
/-!
DEFINITION. The named operations every meaning is written with: who is who, reading and writing a
context, queues (spec/06_fetch_and_issue.md R127-R129), what is in flight (R125), freezes (R135), free values, and taking a
trap and returning from one (spec/17_interruption_and_preemption.md R390-R394).
-/

namespace Sys2Proof.Machine

/-- The outcome of a step or of a meaning. -/
abbrev Out := Host.Outcome State Fault Refusal

/-! ## Agents -/

/-- The position of an agent's context in `State.ctxs`. -/
def agentId : Agent → Nat
  | .tile c => c
  | .urgent c => 64 + c
  | .channel n => 128 + n
  | .steward n => 384 + n

/-- The agent at a position. -/
def agentOf (i : Nat) : Agent :=
  if i < 64 then .tile i else if i < 128 then .urgent (i - 64)
  else if i < 384 then .channel (i - 128) else .steward (i - 384)

/-- R20: the core kind of an agent. -/
def kindOf : Agent → CoreKind
  | .tile _ => .tile
  | .urgent _ => .tile
  | .channel _ => .channel
  | .steward _ => .steward

/-- The index of the core, channel or steward. -/
def agIdx : Agent → Nat
  | .tile c => c
  | .urgent c => c
  | .channel n => n
  | .steward n => n

/-- The agent is a context of a tile core. -/
def agTile : Agent → Bool
  | .tile _ => true
  | .urgent _ => true
  | _ => false

/-- The agent is an urgent context (R396). -/
def agUrgent : Agent → Bool
  | .urgent _ => true
  | _ => false

/-- R1: core cycles in one cycle of the agent's clock. -/
def agUnit : Agent → Nat
  | .tile _ => 1
  | .urgent _ => 1
  | _ => 2

/-- The copy-engine context of an agent: that of its core, or its steward's (R339, R340). -/
def agEngine : Agent → Nat
  | .tile c => c
  | .urgent c => c
  | .steward n => 64 + n
  | .channel _ => 72

/-- The cluster (global number) of a tile core. -/
def clusterOfCore (c : Nat) : Nat := c / 4

/-- The die of an agent; stewards are on the I/O die, 4. -/
def dieOf : Agent → Nat
  | .tile c => c / 16
  | .urgent c => c / 16
  | .channel n => n / 64
  | .steward _ => 4

/-! ## Reading and changing parts of the state -/

/-- The context of an agent. -/
def ctxOf (s : State) (a : Agent) : Ctx := tabGet Ctx.reset s.ctxs (agentId a)
/-- Replaces a context. -/
def setCtx (s : State) (a : Agent) (x : Ctx) : State := { s with ctxs := tabSet s.ctxs (agentId a) x }
/-- Changes a context. -/
def modCtx (s : State) (a : Agent) (f : Ctx → Ctx) : State := setCtx s a (f (ctxOf s a))
/-- A tile core. -/
def coreOf (s : State) (c : Nat) : Core := tabGet Core.reset s.cores c
/-- Changes a tile core. -/
def modCore (s : State) (c : Nat) (f : Core → Core) : State :=
  { s with cores := tabSet s.cores c (f (coreOf s c)) }
/-- A cluster. -/
def clusterOf (s : State) (k : Nat) : Cluster := tabGet Cluster.reset s.clusters k
/-- Changes a cluster. -/
def modCluster (s : State) (k : Nat) (f : Cluster → Cluster) : State :=
  { s with clusters := tabSet s.clusters k (f (clusterOf s k)) }
/-- A channel. -/
def chanOf (s : State) (n : Nat) : Chan := tabGet Chan.reset s.chans n
/-- Changes a channel. -/
def modChan (s : State) (n : Nat) (f : Chan → Chan) : State :=
  { s with chans := tabSet s.chans n (f (chanOf s n)) }
/-- A world. -/
def worldOf (s : State) (w : Nat) : World := tabGet World.reset s.worlds w
/-- Changes a world. -/
def modWorld (s : State) (w : Nat) (f : World → World) : State :=
  { s with worlds := tabSet s.worlds w (f (worldOf s w)) }
/-- A function. -/
def funcOf (s : State) (f : Nat) : Func := tabGet Func.reset s.funcs f
/-- Changes a function. -/
def modFunc (s : State) (f : Nat) (g : Func → Func) : State :=
  { s with funcs := tabSet s.funcs f (g (funcOf s f)) }
/-- A copy-engine context. -/
def engineOf (s : State) (e : Nat) : Engine := tabGet Engine.reset s.engines e
/-- Changes a copy-engine context. -/
def modEngine (s : State) (e : Nat) (f : Engine → Engine) : State :=
  { s with engines := tabSet s.engines e (f (engineOf s e)) }

/-- R56: the function of a world; world 0 counts with the PF. -/
def funcOfWorld (w : Nat) : Nat := w - 1
/-- R56: the world of a function. -/
def worldOfFunc (f : Nat) : Nat := f + 1

/-- Sends something out (DESIGN CHOICE, log entry 2). -/
def emit (s : State) (o : Output) : State := { s with outbox := s.outbox ++ [o] }

/-- Answers with a one-byte status. -/
def answer (name : String) (st : Nat) (s : State) : State := emit s (.status name st [])

/-- A free value: the counter is used once (log entry 3). -/
def free (s : State) : Nat × State := (Config.freeNat s.freeCtr, { s with freeCtr := s.freeCtr + 1 })
/-- A free value in `lo`-`hi`. -/
def freeIn (s : State) (lo hi : Nat) : Nat × State :=
  (lo + Config.freeNat s.freeCtr % (hi + 1 - lo), { s with freeCtr := s.freeCtr + 1 })
/-- A random 256-bit value. -/
def freeRandom (s : State) : W256 × State :=
  (Config.freeKey s.freeCtr, { s with freeCtr := s.freeCtr + 1 })

/-- The agent whose bundle is being issued; tile core 0 when none is. -/
def curAgent (s : State) : Agent :=
  match s.cur with
  | some u => u.ag
  | none => .tile 0
/-- The context that is issuing. -/
def curCtx (s : State) : Ctx := ctxOf s (curAgent s)
/-- Changes the context that is issuing. -/
def modCur (s : State) (f : Ctx → Ctx) : State := modCtx s (curAgent s) f
/-- Changes the record of the bundle being issued. -/
def modIssue (s : State) (f : Issue → Issue) : State := { s with cur := s.cur.map f }
/-- The issue cycle of the bundle being issued. -/
def curT (s : State) : Nat :=
  match s.cur with
  | some u => u.t
  | none => 0
/-- FAULTSLOT of the slot being issued. -/
def curSlot (s : State) : Nat :=
  match s.cur with
  | some u => u.slot.num
  | none => 0
/-- The word of the slot being issued. -/
def curWord (s : State) : Nat :=
  match s.cur with
  | some u => u.word
  | none => 0

/-! ## Queues (R127-R129) -/

/-- The cell at an index. -/
def ringCell (r : Ring α) (i : Nat) : α :=
  if i % 4 = 0 then r.c0 else if i % 4 = 1 then r.c1 else if i % 4 = 2 then r.c2 else r.c3

/-- Puts a value in the cell at an index. -/
def ringPut (r : Ring α) (i : Nat) (v : α) : Ring α :=
  if i % 4 = 0 then { r with c0 := v } else if i % 4 = 1 then { r with c1 := v }
  else if i % 4 = 2 then { r with c2 := v } else { r with c3 := v }

/-- R128 Source: the value, and the queue after a pop or a peek; trap 0x03 when empty. -/
def ringSource (r : Ring α) (pop : Bool) : Except Nat (α × Ring α) :=
  if r.len = 0 then .error 0x03
  else
    let v := ringCell r r.head
    if pop then .ok (v, { r with head := (r.head + 1) % 4, len := r.len - 1, gone := r.gone + 1 }) else .ok (v, r)

/-- R128 Dest: the cell the result lands in, and the queue; trap 0x02 when a push finds it full. -/
def ringDest (r : Ring α) (push : Bool) : Except Nat (Nat × Ring α) :=
  if push || r.len = 0 then
    if r.len = 4 then .error 0x02
    else .ok ((r.head + r.len) % 4, { r with len := r.len + 1 })
  else .ok ((r.head + r.len + 3) % 4, r)

/-- The queue of a scalar register. -/
def sregOf (x : Ctx) (r : Nat) : Ring Word := tabGet (Ring.empty 0) x.sregs r

/-- Source on a scalar register of a context: s0 yields zero (R127). -/
def sourceIn (x : Ctx) (r : Nat) (pop : Bool) : Except Nat (Word × Ctx) :=
  if r = 0 then .ok (0, x)
  else
    match ringSource (sregOf x r) pop with
    | .error c => .error c
    | .ok (v, q) => .ok (v, { x with sregs := tabSet x.sregs r q })

/-- Dest on a scalar register of a context: s0 discards. -/
def destIn (x : Ctx) (r : Nat) (push : Bool) : Except Nat (Option Nat × Ctx) :=
  if r = 0 then .ok (none, x)
  else
    match ringDest (sregOf x r) push with
    | .error c => .error c
    | .ok (c, q) => .ok (some c, { x with sregs := tabSet x.sregs r q })

/-- The Source step of the slot being issued. -/
def source (r : Nat) (pop : Bool) (s : State) : Except Nat (Word × State) :=
  match sourceIn (curCtx s) r pop with
  | .error c => .error c
  | .ok (v, x) => .ok (v, setCtx s (curAgent s) x)

/-- The Dest step of the slot being issued. -/
def dest (r : Nat) (push : Bool) (s : State) : Except Nat (Option Nat × State) :=
  match destIn (curCtx s) r push with
  | .error c => .error c
  | .ok (c, x) => .ok (c, setCtx s (curAgent s) x)

/-! ## What is in flight (R125) -/

/-- Puts a result in flight: it falls due at cycle `due` of the issuing context's clock. -/
def landAt (due : Nat) (act : Pend) (s : State) : State :=
  modCur s (fun x => { x with pend := x.pend ++ [⟨due, curT s, curSlot s, act⟩] })

/-- A result with latency `L`. -/
def land (L : Nat) (act : Pend) (s : State) : State := landAt (curT s + L) act s

/-- A scalar result with latency `L` in the cell that Dest chose; none for s0. -/
def landReg (L r : Nat) (c : Option Nat) (v : Word) (s : State) : State :=
  match c with
  | none => s
  | some c => land L (.sreg r c v) s

/-- Dest, then a scalar result with latency `L` (R141). -/
def writeReg (L r : Nat) (push : Bool) (v : Word) (s : State) : Except Nat State :=
  match dest r push s with
  | .error e => .error e
  | .ok (c, s) => .ok (landReg L r c v s)

/-- A predicate pair with latency 1 (R148). -/
def writePair (k : Nat) (v : Bool) (s : State) : State := land 1 (.pair k v) s

/-! ## Predicates (R148) -/

/-- A predicate of a context: p0 reads 1, p1 reads 0. -/
def predOf (x : Ctx) (p : Nat) : Bool :=
  if p = 0 then true else if p = 1 then false else bm x.preds.toNat p

/-- Sets predicate p (2-15). -/
def setPred (b : BitVec 16) (p : Nat) (v : Bool) : BitVec 16 :=
  BitVec.ofNat 16 (setBits b.toNat p p v.toNat)

/-- Stage predicates p15-p8 as a number. -/
def stageOf (x : Ctx) : Nat := bits x.preds 15 8

/-- Puts the stage predicates. -/
def setStage (x : Ctx) (g : Nat) : Ctx :=
  { x with preds := BitVec.ofNat 16 (setBits x.preds.toNat 15 8 g) }

/-! ## Event counters (R424, R425) -/

/-- Adds to the counters of a context whose selected event is `e` and allowed for its function; cycles
that are frozen, those of a handler among them (R392), do not count, but for event 0x03 (DEDUCED, log entry 20). -/
def countIn (s : State) (x : Ctx) (e n : Nat) : Ctx :=
  let f := funcOf s (funcOfWorld x.task.world)
  if bm f.allow.toNat e && e != 0 && (!x.frozen && !x.causes.elem .handler || e == 3) then
    { x with evcnt := [0, 1, 2, 3].foldl (fun t k =>
        if (tabGet 0 x.evsel k).toNat % 256 = e then tabMod 0 t k (· + wd n) else t) x.evcnt }
  else x

/-- Counts event `e` of a context. -/
def countEvent (a : Agent) (e n : Nat) (s : State) : State :=
  let x := ctxOf s a
  if x.evsel.isEmpty then s else setCtx s a (countIn s x e n)

/-- Counts a die event of every context on die `d` (R425). -/
def countDie (d e n : Nat) (s : State) : State :=
  { s with ctxs := s.ctxs.map (fun p =>
      if dieOf (agentOf p.1) = d && p.2.live && !p.2.evsel.isEmpty then (p.1, countIn s p.2 e n) else p) }

/-! ## Freezes (R135, R438) -/

/-- A cause begins to hold of a context: it is frozen from the next cycle on. -/
def addCause (a : Agent) (c : Freeze) (s : State) : State :=
  modCtx s a (fun x => if x.causes.elem c then x else { x with causes := x.causes ++ [c] })

/-- A cause ceases to hold: the cycle is still frozen, the next is not unless another cause holds. -/
def dropCause (a : Agent) (c : Freeze) (s : State) : State :=
  modCtx s a (fun x => { x with causes := x.causes.filter (· != c) })

/-- The context waits; it is frozen from the next cycle with the given cause (DESIGN CHOICE, log entry 19). -/
def beginWait (a : Agent) (c : Freeze) (w : Wait) (s : State) : State :=
  addCause a c (modCtx s a (fun x => { x with wait := some w }))

/-- The context's wait is over. -/
def endWait (a : Agent) (c : Freeze) (s : State) : State :=
  dropCause a c (modCtx s a (fun x => { x with wait := none }))

/-! ## Time (R138) -/

/-- TTIME of a context for its current cycle (R138, R392). -/
def ttimeOf (x : Ctx) : Nat :=
  match x.susp with
  | some p => p.ttime
  | none => x.clk - x.start - x.ttOff

/-- The context's cycle number of the package clock, in its own unit. -/
def unitNow (s : State) (a : Agent) : Nat := s.gcyc / agUnit a

/-! ## Lockstep gangs (R136) -/

/-- R136: the other members of a lockstep gang. -/
def siblings (s : State) (a : Agent) : List Agent :=
  let t := (ctxOf s a).task
  if t.level ≠ 1 then []
  else (s.ctxs.filter (fun p => p.1 != agentId a && p.2.live && p.2.task.level == 1 &&
    p.2.task.world == t.world && p.2.task.launch == t.launch && p.2.task.gang == t.gang)).map
      (fun p => agentOf p.1)

/-- R438: a context's deviation with the present cycle in it; a cycle that was frozen from its start is counted already. -/
def devWith (c : Freeze) (g slot : Nat) (x : Ctx) : Option Deviation :=
  match x.dev with
  | none => some ⟨c, g, 1, slot⟩
  | some d => some (if x.frozen then d else { d with cycles := d.cycles + 1 })

/-- R425: the cycle in progress of a context becomes a frozen one, and event 0x03 counts it; `n` is 1, or -1 where it is
none after all. -/
def countFrozen (s : State) (x : Ctx) (n : Nat) : Ctx := if x.evsel.isEmpty || x.frozen then x else countIn s x 0x03 n

/-- The cycle in progress of a context is undone: it stands again when the context goes on. Its events
have not been taken, or are suspended. -/
def undoCycle (a : Agent) (c : Freeze) (slot : Nat) (s : State) : State :=
  modCtx s a (fun x => { countFrozen s x 1 with
    clk := x.clk - 1
    lastAt := 0
    frozen := true
    dev := devWith c s.gcyc slot x })

/-- The cycle that was undone stands after all. -/
def redoCycle (a : Agent) (s : State) : State :=
  modCtx s a (fun x => { countFrozen s { x with frozen := false } (2 ^ 64 - 1) with
    clk := x.clk + 1
    dev := x.dev.bind (fun d => if d.cycles ≤ 1 then none else some { d with cycles := d.cycles - 1 }) })

/-- The cycle in progress of a context can still be undone: it runs, the reads of the cycle have not begun, and no bundle
of it has issued. -/
def undoable (s : State) (x : Ctx) : Bool :=
  x.live && x.started && !x.frozen && !x.causes.elem .handler && decide (s.phase ≤ 2) && x.lastAt != x.clk

/-- R136: the lockstep siblings of a context freeze in the cycle in progress. -/
def freezeSiblings (a : Agent) (s : State) : State :=
  (siblings s a).foldl (fun s b => if undoable s (ctxOf s b) then undoCycle b .sibling 7 s else s) s

/-! ## Taking a trap and returning from one (R390-R394) -/

/-- R391: the trap terminates the task. Channel cores have no handler (R298). -/
def terminates (x : Ctx) (a : Agent) (cause : Nat) (deferredAfterExit : Bool) : Bool :=
  cause == 0x06 || x.tvec == 0 || x.estatH || deferredAfterExit || kindOf a == .channel

/-- R392 TrapEntry: logs the fault registers; terminates the task, or suspends what is due after the
start of the trapping cycle and issues the handler at `tau + 4`; the cycle is one of the deviation, and of those of its
lockstep siblings (DEDUCED, log entry 17). `cont` is the stream that goes on after a slot that issues again on its own. -/
def trapEntry (a : Agent) (cause pc slot word done : Nat) (deferredAfterExit : Bool)
    (cont : Option (Nat × Nat)) (s : State) : State :=
  let x := ctxOf s a
  let tau := x.clk
  let x1 := { countFrozen s x (!terminates x a cause deferredAfterExit).toNat with
    faultCause := cause
    faultPc := pc
    faultSlot := slot
    faultWord := word
    doneMask := done }
  if terminates x a cause deferredAfterExit then
    setCtx s a { x1 with ended := some cause, issuing := false }
  else
    freezeSiblings a (addCause a .handler (setCtx s a { setStage x1 0 with
      dev := devWith .handler s.gcyc 7 x
      susp := some
        { tau := tau
          pend := x.pend
          branch := x.branch
          call := x.call
          ttime := ttimeOf x
          texit := x.texit
          cont := cont
          kept := x.kept }
      pend := []
      branch := none
      call := none
      texit := false
      cont := none
      resumeMask := 0
      kept := none
      elc := x.lc
      estatStage := BitVec.ofNat 8 (stageOf x)
      lc := 0
      estatH := true
      seqPc := x.tvec
      seqAt := tau + 4 }))

/-- R394: shifts what is in flight by the cycles the handler took. -/
def shiftPend (d : Nat) (l : List InFlight) : List InFlight := l.map (fun p => { p with due := p.due + d })

/-- A yarn moves on by `d` cycles of its issuer's clock. -/
def shiftYarn (d : Nat) (o : OpenYarn) : OpenYarn := { o with t := o.t + d }

/-- A beat moves on by `d` cycles of its issuer's clock. -/
def shiftBeat (d : Nat) (b : Beat) : Beat :=
  { b with run := b.run + d, read := b.read + d, enter := b.enter + d, cross := b.cross + d, deliver := b.deliver + d }

/-- R135, R394: the yarns of a context among `p` move on by `d` cycles. -/
def shiftYarns (a : Agent) (d : Nat) (p : Nat → Bool) (s : State) : State :=
  modCore s (agIdx a) (fun k => { k with
    open_ := k.open_.map (fun o => if o.ag = a ∧ p o.y then shiftYarn d o else o)
    beats := k.beats.map (fun b => if b.ag = a ∧ p b.y then shiftBeat d b else b) })

/-- R394: shifts a branch still to issue. -/
def shiftBranch (d : Nat) (b : Option Branch) : Option Branch :=
  b.map (fun b => { b with due := b.due + d })

/-- R394, the return at `t + 3`: the suspended state resumes so that this cycle stands for `tau`, and the
bundle at FAULTPC issues under DONEMASK. -/
def trapReturn (a : Agent) (s : State) : State :=
  let x := ctxOf s a
  match x.susp with
  | none => s
  | some p =>
    let d := x.clk - p.tau
    let x1 := setStage x x.estatStage.toNat
    let s1 := setCtx s a { x1 with
      susp := none
      estatH := false
      lc := x.elc
      pend := shiftPend d p.pend ++ x.pend
      branch := shiftBranch d p.branch
      call := p.call.map (fun c => { c with t0 := c.t0 + d })
      texit := p.texit
      cont := p.cont.map (fun c => (c.1, x.clk + c.2))
      kept := p.kept
      ttOff := x.ttOff + d
      seqPc := x.faultPc
      seqAt := x.clk
      resumeMask := x.doneMask }
    let s2 := dropCause a .handler s1
    if agTile a then shiftYarns a d (fun _ => true) s2 else s2

/-- R390: a slot trap of the slot being issued. The slot changes nothing else; the bundle issues no
further slot. `self` adds the slot itself to DONE (TRAP and BKPT). Where a handler is entered, the cycle is a frozen one
(R392), and no event of its bundle counts in it (R424); where the task is terminated it is none, and the slot counts (R425). -/
def slotTrapWith (self : Nat) (cause : Nat) (s : State) : State :=
  match s.cur with
  | none => s
  | some u =>
    let x := ctxOf s u.ag
    let s0 := if terminates x u.ag cause false then countEvent u.ag 0x02 1 s
      else modCtx s u.ag (fun x => { x with evcnt := u.ev })
    let s1 := trapEntry u.ag cause u.pc u.slot.num u.word (u.mask ||| u.before ||| self) false
      (x.cont.map (fun p => (p.1, p.2 - x.clk))) s0
    { s1 with cur := some { u with rest := [], trapped := true } }

/-- R390: a slot trap. -/
def slotTrap (cause : Nat) (s : State) : State := slotTrapWith 0 cause s

/-- R219, R279, R390: records a deferred trap of a context; it is taken before the first bundle that
issues in a later cycle. -/
def deferTrap (a : Agent) (cause slot word rank : Nat) (s : State) : State :=
  modCtx s a (fun x => { x with deferred := x.deferred ++ [⟨cause, slot, word, x.clk, rank⟩] })

/-- The place of a cell in a queue, counted from its head. -/
def ringPos (q : Ring α) (cell : Nat) : Nat := (cell + 4 - q.head) % 4

/-- Takes a cell out of a queue: the cells behind it move up. -/
def ringRemove (q : Ring α) (cell : Nat) : Ring α :=
  let p := ringPos q cell
  let q1 := [0, 1, 2].foldl (fun q i => if p ≤ i then ringPut q (q.head + i) (ringCell q (q.head + i + 1)) else q) q
  { q1 with len := q.len - 1 }

/-- The slot's reservation moves up by one cell, where it stands behind place `n` of the queue of register `r`. -/
def pushUp (r n : Nat) (u : Undo) : Undo :=
  { u with push := u.push.map (fun p => if p.1 = r ∧ n < p.2.2 then (p.1, (p.2.1 + 3) % 4, p.2.2 - 1) else p) }

/-- What is to land in a cell behind place `n` of the queue `q` of register `r` follows its cell up by one. -/
def moveUp (q : Ring Word) (r n : Nat) (act : Pend) : Pend :=
  let up := fun (r' c : Nat) => if r' = r ∧ n < q.gone + ringPos q c ∧ ringPos q c < q.len then (c + 3) % 4 else c
  match act with
  | .sreg r' c v => .sreg r' (up r' c) v
  | .ldc addr r' c u => .ldc addr r' (up r' c) (pushUp r n u)
  | .latomPool addr op b v r' c u => .latomPool addr op b v r' (up r' c) (pushUp r n u)
  | .latomPerform addr op b v r' c u => .latomPerform addr op b v r' (up r' c) (pushUp r n u)
  | act => act

/-- Takes back a reservation that still stands at its place `n` in its queue: neither popped nor cleared since. What is to
land in a cell behind it follows its cell. -/
def unreserve (r cell n : Nat) (x : Ctx) : Ctx :=
  let q := sregOf x r
  if q.gone ≤ n ∧ n < q.gone + q.len then
    { x with
      sregs := tabSet x.sregs r (ringRemove q cell)
      pend := x.pend.map (fun f => { f with act := moveUp q r n f.act }) }
  else x

/-- Puts a popped value back at the head of its queue. Where later bundles have filled the queue it cannot stand there,
and the slot that issues again reads the head as it is (DEDUCED, log entry 75). -/
def unpop (r : Nat) (v : Word) (x : Ctx) : Ctx :=
  let q := sregOf x r
  if r = 0 ∨ q.len = 4 then x
  else { x with sregs := tabSet x.sregs r { ringPut q (q.head + 3) v with head := (q.head + 3) % 4, len := q.len + 1, gone := q.gone - 1 } }

/-- Takes back what a slot did to the scalar queues: its reservation is not in its queue any longer, its pops are in the
queues again. -/
def undoSlot (u : Undo) (x : Ctx) : Ctx :=
  let x := match u.push with
    | none => x
    | some p => unreserve p.1 p.2.1 p.2.2 x
  u.pops.foldr (fun p x => unpop p.1 p.2 x) x

/-- What the slot being issued has done to the queues, with where it stands: the DONE bits of the other slots of its
bundle. -/
def curUndo (pops : List (Nat × Word)) (push : Option (Nat × Nat × Nat)) (s : State) : Undo :=
  let slot := curSlot s
  ⟨pops, push, s.cur.elim 0 (·.pc), curWord s,
    (curCtx s).lastSlots.foldl (fun m p => if p.1 = slot then m else m ||| 2 ^ p.1) 0⟩

/-- A trap of slot `sl`, taken after its issue (R78, R202): the other slots of its bundle have committed, the slot alone
issues again, and the stream then goes on, at the earliest in the cycle after (DEDUCED, log entry 75). After TEXIT it
terminates the task. -/
def lateSlotTrap (a : Agent) (sl cause : Nat) (u : Undo) (s : State) : State :=
  let s := modCtx s a (undoSlot u)
  let x := ctxOf s a
  trapEntry a cause u.pc sl u.word u.done x.texit (some (x.seqPc, x.seqAt - x.clk)) s

/-! ## Guards and slots -/

/-- R21: the guard predicate of the slot being issued is true. -/
def guardTrue (g : Nat) (s : State) : Bool := predOf (curCtx s) g

/-- One slot (R21, R5): with a false guard it has no effect; a trap in its body leaves the state as it
was but for taking the trap. -/
def execSlot (g : Nat) (body : State → Except Nat State) (s : State) : Out :=
  match s.cur with
  | none => .next s
  | some u =>
    if guardTrue g s then
      match body s with
      | .ok s' => .next (countEvent u.ag 0x02 1 s')
      | .error c => .next (slotTrap c s)
    else .next s

/-- R393: the context runs a trap handler. -/
def inHandler (s : State) : Bool := (curCtx s).estatH

/-- R393: traps 0x0D when a handler runs. -/
def notInHandler (s : State) : Except Nat Unit := if inHandler s then .error 0x0D else .ok ()

/-- A check that traps with `c` unless it holds. -/
def need (c : Nat) (b : Bool) : Except Nat Unit := if b then .ok () else .error c

/-! ## What a task holds (R41, R103, R198, R199, R259) -/

/-- R198: the Spool blocks a task holds. -/
def heldBlock (t : Task) (b : Nat) : Bool :=
  if t.urgent then b == 15 else if t.reduced then decide (b < 15) else decide (b < 16)

/-- Bytes of a Spool block. -/
def blockBytes : Nat := 0x140000

/-- R198 SpoolCheck of `n` bytes at `a` with alignment `g`. -/
def spoolCheck (t : Task) (a : Word) (n g : Nat) : Except Nat Nat :=
  let u := a.toNat
  if 0x1400000 ≤ u then .error 0x09
  else if u % g ≠ 0 then .error 0x07
  else if (u + n - 1) / blockBytes ≠ u / blockBytes then .error 0x07
  else if heldBlock t (u / blockBytes) then .ok u else .error 0x09

/-- R199: the base of a task's spill window. -/
def spillBase (t : Task) : Nat := if t.urgent then 0x70000 else 0

/-- R199, R41, R42: the bytes of a task's spill window: SPILL, as far as its profile's part of the store goes. -/
def spillSize (t : Task) : Nat :=
  min t.spill (if t.urgent then 0x10000 else if t.reduced then 0x70000 else 0x80000)

/-- R199: checks `n` bytes at a spill offset. -/
def spillCheck (t : Task) (off n : Nat) : Except Nat Nat :=
  if off + n ≤ spillSize t then .ok (spillBase t + off) else .error 0x09

/-- Bytes of a pooled bank (R103). -/
def bankBytes : Nat := 983040

/-- The allocation of a task's gang in a cluster: its banks, ascending (R102). -/
def allocOf (s : State) (k : Nat) (t : Task) : List Nat :=
  ((clusterOf s k).allocs.find? (fun a => a.world = t.world && a.launch = t.launch && a.gang = t.gang)).elim
    [] (·.banks)

/-- R103: the place (bank * 983040 + byte) of offset `o` in an allocation's banks; none beyond it. -/
def pooledPlace (banks : List Nat) (o : Nat) : Option Nat :=
  let n := banks.length
  if o < n * bankBytes then
    let line := o / 64
    some ((banks.getD (line % n) 0) * bankBytes + line / n * 64 + o % 64)
  else none

/-- R206: checks an 8-byte pooled access at `a`; answers the offset. -/
def pooledCheck (s : State) (core : Nat) (t : Task) (a : Word) : Except Nat Nat :=
  let o := a.toNat
  if (allocOf s (clusterOfCore core) t).length * bankBytes ≤ o then .error 0x09
  else if o % 8 ≠ 0 then .error 0x07 else .ok o

/-- R41: the vector queues of a task's profile. -/
def queueHeld (t : Task) (q : Nat) : Bool :=
  if t.urgent then decide (12 ≤ q) else if t.reduced then decide (q < 12) else true

/-- R41, R440: the yarns of a task's profile (DEDUCED, log entry 31). -/
def yarnHeld (t : Task) (y : Nat) : Bool :=
  if t.urgent then decide (28 ≤ y) else if t.reduced then decide (y < 28) else true

/-- R259: the accumulator banks of a task. -/
def bankHeld (t : Task) (k : Nat) : Bool :=
  if t.urgent then k == 3 else if t.reduced then decide (k < 3) else true

end Sys2Proof.Machine
end

