-- ==== Sys2Proof/Machine/Numbers.lean ====
section
/-!
DEFINITION. Number formats and rounding (spec/08_number_formats.md). A code decodes to an exact value; arithmetic is done
exactly on values; one rounding (R183) brings a value back to a code.
-/

namespace Sys2Proof.Machine

/-- The element formats, in the order of the FMT codes 0-8 (R175; spec/09_spool_yarns_and_cluster_memory.md R212). -/
inductive Fmt where
  | fp32
  | bf16
  | e4m3
  | e5m2
  | e2m1
  | t8
  | t6
  | int8
  | int32
  deriving DecidableEq, Repr

/-- The format of an FMT code. -/
def fmtOf (n : Nat) : Option Fmt :=
  if n = 0 then some .fp32 else if n = 1 then some .bf16 else if n = 2 then some .e4m3
  else if n = 3 then some .e5m2 else if n = 4 then some .e2m1 else if n = 5 then some .t8
  else if n = 6 then some .t6 else if n = 7 then some .int8 else if n = 8 then some .int32 else none

/-- R175: bits of an element. -/
def Fmt.width : Fmt → Nat
  | .fp32 => 32
  | .bf16 => 16
  | .e4m3 => 8
  | .e5m2 => 8
  | .e2m1 => 4
  | .t8 => 8
  | .t6 => 6
  | .int8 => 8
  | .int32 => 32

/-- R175: mantissa bits and bias of the formats with fields. -/
def Fmt.shape : Fmt → Nat × Nat
  | .fp32 => (23, 127)
  | .bf16 => (7, 127)
  | .e4m3 => (3, 7)
  | .e5m2 => (2, 15)
  | .e2m1 => (1, 1)
  | _ => (0, 0)

/-- R175: the format has infinities. -/
def Fmt.hasInf : Fmt → Bool
  | .fp32 => true
  | .bf16 => true
  | .e5m2 => true
  | _ => false

/-- R175: the magnitude code of the largest finite value. -/
def Fmt.maxCode : Fmt → Nat
  | .fp32 => 0x7F7FFFFF
  | .bf16 => 0x7F7F
  | .e4m3 => 0x7E
  | .e5m2 => 0x7B
  | .e2m1 => 0x7
  | .t8 => 0x7E
  | .t6 => 0x1E
  | .int8 => 127
  | .int32 => 2147483647

/-- R188: the integer formats. -/
def Fmt.isInt : Fmt → Bool
  | .int8 => true
  | .int32 => true
  | _ => false

/-- An exact value: `fin s m e` is (-1)^s * m * 2^e, with m = 0 a zero of that sign; a NaN carries its
FP32 image (R186). -/
inductive Val where
  | nan (img : Nat)
  | inf (s : Bool)
  | fin (s : Bool) (m : Nat) (e : Int)
  deriving DecidableEq, Repr

/-- R155: the canonical NaN. -/
def canonNaN : Nat := 0x7FC00000

/-- R178: the length of the opening run of bits equal to `b`, looking at `n` more bits below `pos`. -/
def runLen (m : Nat) (b : Bool) : Nat → Nat
  | 0 => 0
  | pos + 1 => if bm m pos == b then runLen m b pos + 1 else 0

/-- R178: the value (significand, exponent) of a tapered magnitude of `w` bits, not 0. -/
def taperMag (w m : Nat) : Nat × Int :=
  let b := bm m (w - 1)
  let k := runLen m b w
  let r : Int := if b then (k : Int) - 1 else -(k : Int)
  let rest := w - k - 1
  if w ≤ k + 1 then (1, 2 * r)
  else
    let fw := rest - 1
    (2 ^ fw + m % 2 ^ fw, 2 * r + (bm m fw).toNat - fw)

/-- R176, R178: the value (significand, exponent) of a magnitude code; the code after the largest of a
format with infinities stands for the bound Omega of R183. -/
def Fmt.magVal (f : Fmt) (c : Nat) : Nat × Int :=
  match f with
  | .t8 => if c = 0 then (0, 0) else taperMag 7 c
  | .t6 => if c = 0 then (0, 0) else taperMag 5 c
  | .int8 => (c, 0)
  | .int32 => (c, 0)
  | _ =>
    let (mb, bias) := f.shape
    let e := c / 2 ^ mb
    let m := c % 2 ^ mb
    if e = 0 then (m, 1 - (bias : Int) - mb) else (2 ^ mb + m, (e : Int) - bias - mb)

/-- R186: the FP32 image of a NaN code, and `none` for other codes. -/
def nanImage (f : Fmt) (c : Nat) : Option Nat :=
  let s := c / 2 ^ (f.width - 1) * 2 ^ 31
  let m := c % 2 ^ (f.width - 1)
  match f with
  | .fp32 => if 0x7F800000 < m then some c else none
  | .bf16 => if 0x7F80 < m then some (c * 65536) else none
  | .e5m2 => if 0x7C < m then some (s + 0x7F800000 + m % 4 * 2 ^ 21) else none
  | .e4m3 => if m = 0x7F then some (s + canonNaN) else none
  | .t8 => if m = 0x7F then some (s + canonNaN) else none
  | .t6 => if m = 0x1F then some (s + canonNaN) else none
  | _ => none

/-- R176-R180, R188: the exact value of a code. -/
def Fmt.decode (f : Fmt) (code : Nat) : Val :=
  let c := code % 2 ^ f.width
  if f.isInt then
    let v := sext f.width c
    .fin (decide (v < 0)) v.natAbs 0
  else
    match nanImage f c with
    | some i => .nan i
    | none =>
      let s := bm c (f.width - 1)
      let m := c % 2 ^ (f.width - 1)
      if f.hasInf && m == f.maxCode + 1 then .inf s
      else
        let (x, e) := f.magVal m
        .fin s x e

/-- Compares m1 * 2^e1 with m2 * 2^e2: less or equal. -/
def leMag (m1 : Nat) (e1 : Int) (m2 : Nat) (e2 : Int) : Bool :=
  if e1 ≤ e2 then decide (m1 ≤ m2 * 2 ^ (e2 - e1).toNat) else decide (m1 * 2 ^ (e1 - e2).toNat ≤ m2)

/-- The exact signed sum of integers scaled by powers of two. -/
def addDy (a : Int) (ea : Int) (b : Int) (eb : Int) : Int × Int :=
  if ea ≤ eb then (a + b * (2 ^ (eb - ea).toNat : Nat), ea) else (a * (2 ^ (ea - eb).toNat : Nat) + b, eb)

/-- The largest magnitude code not above `x` whose value does not exceed m * 2^e, by bits from `i` down. -/
def floorCode (f : Fmt) (m : Nat) (e : Int) : Nat → Nat → Nat
  | 0, c => c
  | i + 1, c =>
    let c' := c + 2 ^ i
    let v := f.magVal c'
    if c' ≤ f.maxCode && leMag v.1 v.2 m e then floorCode f m e i c' else floorCode f m e i c

/-- R183: the rounding decision between lo and hi for m strictly between, all scaled by powers of two. -/
def roundsUp (mode : Nat) (s : Bool) (m : Nat) (e : Int) (lo hi : Nat × Int) (hiEven : Bool)
    (draw : Nat) : Bool :=
  let d1 := addDy m e (-(lo.1 : Int)) lo.2       -- m - lo
  let d2 := addDy hi.1 hi.2 (-(m : Int)) e       -- hi - m
  let w := addDy hi.1 hi.2 (-(lo.1 : Int)) lo.2  -- hi - lo
  match mode with
  | 0 =>
    if leMag d1.1.toNat d1.2 d2.1.toNat d2.2 then
      leMag d2.1.toNat d2.2 d1.1.toNat d1.2 && hiEven
    else true
  | 1 => false
  | 2 => !s
  | 3 => s
  | _ =>
    let q := if d1.2 ≤ w.2 then 2 ^ 32 * d1.1.toNat / (w.1.toNat * 2 ^ (w.2 - d1.2).toNat)
      else 2 ^ 32 * (d1.1.toNat * 2 ^ (d1.2 - w.2).toNat) / w.1.toNat
    decide (2 ^ 32 ≤ q + draw)

/-- The code with a sign. -/
def signed (f : Fmt) (s : Bool) (mag : Nat) : Nat := s.toNat * 2 ^ (f.width - 1) + mag

/-- R186: the code an FP32 NaN narrows to. -/
def nanTo (f : Fmt) (img : Nat) : Nat :=
  let s := bm img 31
  match f with
  | .fp32 => img
  | .bf16 => if bf img 22 16 = 0 then setBits (img / 65536) 6 0 0x40 else img / 65536
  | .e5m2 => signed .e5m2 s (0x7C + (if bf img 22 21 = 0 then 2 else bf img 22 21))
  | .e4m3 => signed .e4m3 s 0x7F
  | .t8 => signed .t8 s 0x7F
  | .t6 => signed .t6 s 0x1F
  | _ => 0

/-- R188: a finite value rounded to an integer. -/
def roundInt (mode : Nat) (draw : Nat) (s : Bool) (m : Nat) (e : Int) : Int :=
  let sg : Int → Int := fun v => if s then -v else v
  if 0 ≤ e then sg ((m * 2 ^ e.toNat : Nat) : Int)
  else
    let d := 2 ^ (-e).toNat
    let q := m / d
    if m % d = 0 then sg q
    else
      let up := roundsUp mode s m e (q, 0) (q + 1, 0) ((q + 1) % 2 == 0) draw
      sg ((if up then q + 1 else q : Nat) : Int)

/-- Saturates an integer. -/
def clampInt (lo hi v : Int) : Int := if v < lo then lo else if hi < v then hi else v

/-- A two's-complement code of `w` bits. -/
def intCode (w : Nat) (v : Int) : Nat := (BitVec.ofInt w v).toNat

/-- R183, R186-R188: one rounding of an exact value to a format. -/
def roundTo (f : Fmt) (mode : Nat) (sat : Bool) (draw : Nat) (x : Val) : Nat :=
  match f.isInt, x with
  | true, .nan _ => 0
  | true, .inf s => intCode f.width (if s then -(f.maxCode : Int) - 1 else f.maxCode)
  | true, .fin s m e =>
    intCode f.width (clampInt (-(f.maxCode : Int) - 1) f.maxCode (roundInt mode draw s m e))
  | false, .nan i => nanTo f i
  | false, .inf s => signed f s (if f.hasInf then f.maxCode + 1 else f.maxCode)
  | false, .fin s m e =>
    let c := floorCode f m e (f.width - 1) 0
    let lo := f.magVal c
    if leMag m e lo.1 lo.2 then signed f s c
    else if c = f.maxCode && (!f.hasInf || sat) then signed f s f.maxCode
    else if roundsUp mode s m e lo (f.magVal (c + 1)) ((c + 1) % 2 == 0) draw then signed f s (c + 1)
    else signed f s c

/-! ## Exact arithmetic (R155) -/

/-- The sign changed. -/
def negV : Val → Val
  | .nan i => .nan i
  | .inf s => .inf (!s)
  | .fin s m e => .fin (!s) m e

/-- The exact product. -/
def mulV : Val → Val → Val
  | .nan _, _ => .nan canonNaN
  | _, .nan _ => .nan canonNaN
  | .inf s, .inf t => .inf (s != t)
  | .inf s, .fin t m _ => if m = 0 then .nan canonNaN else .inf (s != t)
  | .fin t m _, .inf s => if m = 0 then .nan canonNaN else .inf (s != t)
  | .fin s m e, .fin t n d => .fin (s != t) (m * n) (e + d)

/-- A sign applied to a magnitude. -/
def signedInt (s : Bool) (m : Nat) : Int := if s then -(m : Int) else m

/-- The exact sum; an exact zero of unlike signs is +0, or -0 when rounding down (R155). -/
def addV (rdn : Bool) : Val → Val → Val
  | .nan _, _ => .nan canonNaN
  | _, .nan _ => .nan canonNaN
  | .inf s, .inf t => if s = t then .inf s else .nan canonNaN
  | .inf s, _ => .inf s
  | _, .inf t => .inf t
  | .fin s m e, .fin t n d =>
    if m = 0 && n = 0 then .fin (if s = t then s else rdn) 0 0
    else
      let r := addDy (signedInt s m) e (signedInt t n) d
      if r.1 = 0 then .fin rdn 0 0 else .fin (decide (r.1 < 0)) r.1.natAbs r.2

/-- A value times 2^k. -/
def scaleV (k : Int) : Val → Val
  | .nan i => .nan i
  | .inf s => .inf s
  | .fin s m e => .fin s m (e + k)

/-- a < b of ordered values; zeros are equal. -/
def ltV : Val → Val → Bool
  | .nan _, _ => false
  | _, .nan _ => false
  | .inf s, .inf t => s && !t
  | .inf s, _ => s
  | _, .inf t => !t
  | .fin s m e, .fin t n d => decide ((addDy (signedInt s m) e (-(signedInt t n)) d).1 < 0)

/-- a = b of ordered values; zeros are equal. -/
def eqV : Val → Val → Bool
  | .nan _, _ => false
  | _, .nan _ => false
  | .inf s, .inf t => s == t
  | .inf _, _ => false
  | _, .inf _ => false
  | .fin s m e, .fin t n d => decide ((addDy (signedInt s m) e (-(signedInt t n)) d).1 = 0)

/-- The value is a NaN. -/
def isNaN : Val → Bool
  | .nan _ => true
  | _ => false

/-- The sign of a value. -/
def signV : Val → Bool
  | .nan i => bm i 31
  | .inf s => s
  | .fin s _ _ => s

/-- R155: minimumNumber; -0 is below +0; canonical NaN when both are NaN. -/
def minNum (a b : Val) : Val :=
  if isNaN a then (if isNaN b then .nan canonNaN else b)
  else if isNaN b then a
  else if eqV a b then (if signV a then a else b)
  else if ltV a b then a else b

/-- R155: maximumNumber. -/
def maxNum (a b : Val) : Val :=
  if isNaN a then (if isNaN b then .nan canonNaN else b)
  else if isNaN b then a
  else if eqV a b then (if signV a then b else a)
  else if ltV a b then b else a

/-! ## Random bits (R184) -/

/-- R184 LfsrStep. -/
def lfsrStep (l : Word) : Word :=
  let m := l >>> 1
  if bm l.toNat 0 then m ^^^ 0xD800000000000000#64 else m

/-- `n` steps of the LFSR. -/
def lfsrSteps : Nat → Word → Word
  | 0, l => l
  | n + 1, l => lfsrSteps n (lfsrStep l)

/-- R184 Draw: 32 steps; the low 32 bits are the draw. -/
def lfsrDraw (l : Word) : Nat × Word :=
  let m := lfsrSteps 32 l
  (m.toNat % 2 ^ 32, m)

/-- R184 Reseed. -/
def lfsrSeed (v : Word) : Word := if v = 0 then 1 else v

/-- `n` draws in order. -/
def lfsrDraws : Nat → Word → List Nat × Word
  | 0, l => ([], l)
  | n + 1, l =>
    let d := lfsrDraw l
    let r := lfsrDraws n d.2
    (d.1 :: r.1, r.2)

/-- R185: the draw of one rounding in the mode given: one draw in SR, none otherwise. -/
def drawFor (mode : Nat) (l : Word) : Nat × Word := if mode = 4 then lfsrDraw l else (0, l)

/-- R185: `n` draws in SR, in ascending element order. -/
def drawsFor (mode n : Nat) (l : Word) : List Nat × Word :=
  if mode = 4 then lfsrDraws n l else ([], l)

end Sys2Proof.Machine
end

