-- ==== Sys2Proof/Machine/Crypto.lean ====
section
/-!
DEFINITION. The cryptography the spec names, concretely: AES-256 (counter mode and Galois/counter mode), SHA-256, HMAC,
HKDF (spec/00_scope.md R435), RSA with OAEP and PKCS #1 v1.5 (spec/03_admission_and_trust.md R44-R52). Byte strings are lists of `Nat` below
256; a 256-bit value holds its bytes least significant first (spec/00_scope.md R2).
-/

namespace Sys2Proof.Machine

/-- The AES substitution box, 64 bytes in each part, entry 0 in the low byte of the first. -/
def sboxPart : Nat → Nat
  | 0 => 0x75b227ebe28012079a059618c323c7041531d871f1e5a534ccf73f362693fdb7c072a49cafa2d4adf04759fa7dc982ca76abd7fe2b670130c56f6bf27b777c63
  | 1 => 0xd2f3ff1021dab6bcf5389d928f40a351a89f3c507f02f94585334d43fbaaefd0cf584c4a39becb6a5bb1fc20ed00d153842fe329b3d63b52a05a6e1b1a2c8309
  | 2 => 0x08ae7a65eaf4566ca94ed58d6d37c8e779e4959162acd3c25c2406490a3a32e0db0b5ede14b8ee4688902a22dc4f816073195d643d7ea7c41744975fec130ccd
  | _ => 0x16bb54b00f2d99416842e6bf0d89a18cdf2855cee9871e9b948ed9691198f8e19e1dc186b95735610ef6034866b53e708a8bbd4b1f74dde8c6b4a61c2e2578ba

/-- AES SubBytes of one byte. -/
def sbox (b : Nat) : Nat := (sboxPart (b / 64) >>> (8 * (b % 64))) % 256

/-- Multiplication by x in the field of AES. -/
def xtime (b : Nat) : Nat := if b < 128 then 2 * b else (2 * b) ^^^ 0x11B

/-- The exclusive-or of two byte strings, as long as the shorter. -/
def xorBytes : List Nat → List Nat → List Nat
  | a :: as, b :: bs => (a ^^^ b) :: xorBytes as bs
  | _, _ => []

/-- The 60 words of the AES-256 key schedule, four bytes each, from the last eight backwards; `n` more to
make, `i` made, `rc` the round constant. -/
def keyWords : Nat → Nat → Nat → List (List Nat) → List (List Nat)
  | 0, _, _, ws => ws
  | n + 1, i, rc, ws =>
    let prev := ws.headD []
    let old := ws.getD 7 []
    if i % 8 = 0 then
      let t := match prev with
        | [a, b, c, d] => [sbox b ^^^ rc, sbox c, sbox d, sbox a]
        | l => l
      keyWords n (i + 1) (xtime rc) (xorBytes old t :: ws)
    else if i % 8 = 4 then keyWords n (i + 1) rc (xorBytes old (prev.map sbox) :: ws)
    else keyWords n (i + 1) rc (xorBytes old prev :: ws)

/-- Cuts a byte string into pieces of `n`; `fuel` pieces at most. -/
def chunks (n : Nat) : Nat → List α → List (List α)
  | 0, _ => []
  | _ + 1, [] => []
  | fuel + 1, l => l.take n :: chunks n fuel (l.drop n)

/-- The 15 round keys of AES-256, 16 bytes each. -/
def roundKeys (key : List Nat) : List (List Nat) :=
  chunks 16 15 ((keyWords 52 8 1 (chunks 4 8 key).reverse).reverse.flatten)

/-- AES ShiftRows on 16 bytes in column order. -/
def shiftRows (l : List Nat) : List Nat :=
  [0, 5, 10, 15, 4, 9, 14, 3, 8, 13, 2, 7, 12, 1, 6, 11].map (fun i => l.getD i 0)

/-- AES MixColumns. -/
def mixColumns : List Nat → List Nat
  | a :: b :: c :: d :: rest =>
    (xtime a ^^^ xtime b ^^^ b ^^^ c ^^^ d) :: (a ^^^ xtime b ^^^ xtime c ^^^ c ^^^ d) ::
      (a ^^^ b ^^^ xtime c ^^^ xtime d ^^^ d) :: (xtime a ^^^ a ^^^ b ^^^ c ^^^ xtime d) ::
      mixColumns rest
  | _ => []

/-- The rounds of AES after the first key addition. -/
def aesRounds : List (List Nat) → List Nat → List Nat
  | [], st => st
  | [k], st => xorBytes (shiftRows (st.map sbox)) k
  | k :: ks, st => aesRounds ks (xorBytes (mixColumns (shiftRows (st.map sbox))) k)

/-- AES-256 of one 16-byte block under expanded keys. -/
def aesBlock (ks : List (List Nat)) (block : List Nat) : List Nat :=
  aesRounds (ks.drop 1) (xorBytes block (ks.headD []))

/-- The `n` bytes of a number, least significant first. -/
def natBytes : Nat → Nat → List Nat
  | 0, _ => []
  | n + 1, v => v % 256 :: natBytes n (v / 256)

/-- The number of a byte string, least significant byte first. -/
def bytesNat : List Nat → Nat
  | [] => 0
  | b :: bs => b + 256 * bytesNat bs

/-- The number of a byte string, most significant byte first. -/
def beNat (l : List Nat) : Nat := bytesNat l.reverse

/-- The `n` bytes of a number, most significant first. -/
def beBytes (n v : Nat) : List Nat := (natBytes n v).reverse

/-- The bytes of a 256-bit key or digest. -/
def keyBytes (k : W256) : List Nat := natBytes 32 k.toNat

/-- A 256-bit value from its 32 bytes. -/
def keyOf (l : List Nat) : W256 := BitVec.ofNat 256 (bytesNat l)

/-- The bytes of a store as numbers. -/
def toNats (l : List Byte) : List Nat := l.map (·.toNat)
/-- Numbers as the bytes of a store. -/
def toBytes (l : List Nat) : List Byte := l.map (BitVec.ofNat 8 ·)

/-- AES-256 of a 128-bit number, least significant byte first. -/
def aesNat (k : W256) (v : Nat) : Nat := bytesNat (aesBlock (roundKeys (keyBytes k)) (natBytes 16 v))

/-! ## SHA-256, HMAC, HKDF -/

/-- The round constants of SHA-256, sixteen in each number, the first in its low 32 bits: the first 32 bits of the fractions of
the cube roots of the first 64 primes. -/
def shaConst : Nat → Nat
  | 0 => 0xc19bf1749bdc06a780deb1fe72be5d74550c7dc3243185be12835b01d807aa98ab1c5ed5923f82a459f111f13956c25be9b5dba5b5c0fbcf71374491428a2f98
  | 1 => 0x1429296706ca6351d5a79147c6e00bf3bf597fc7b00327c8a831c66d983e515276f988da5cb0a9dc4a7484aa2de92c6f240ca1cc0fc19dc6efbe4786e49b69c1
  | 2 => 0x106aa070f40e3585d6990624d192e819c76c51a3c24b8b70a81a664ba2bfe8a192722c8581c2c92e766a0abb650a735453380d134d2c6dfc2e1b213827b70a85
  | _ => 0xc67178f2bef9a3f7a4506ceb90befffa8cc7020884c8781478a5636f748f82ee682e6ff35b9cca4f4ed8aa4a391c0cb334b0bcb52748774c1e376c0819a4c116

/-- The first chaining value, its first word in the low 32 bits: the same bits of the square roots of the first 8 primes. -/
def shaStart : Nat := 0x5be0cd191f83d9ab9b05688c510e527fa54ff53a3c6ef372bb67ae856a09e667

/-- Word `i` of 32 bits of a number. -/
def word32 (v i : Nat) : Nat := v >>> (32 * i) % 2 ^ 32

/-- The exclusive-or of three right rotations of a 32-bit word; a rotation is a shift of the word written twice. -/
def spin (x i j k : Nat) : Nat :=
  let xx := x + x <<< 32
  (xx >>> i ^^^ xx >>> j ^^^ xx >>> k) % 2 ^ 32

/-- As `spin`, with a shift in place of the third rotation. -/
def spinShift (x i j k : Nat) : Nat :=
  let xx := x + x <<< 32
  (xx >>> i ^^^ xx >>> j) % 2 ^ 32 ^^^ x >>> k

/-- The sixteen words that follow sixteen words of the message schedule, one after the other: `n` of them to come. -/
def shaExtend : Nat → List Nat → List Nat
  | 0, w => w
  | n + 1, w => shaExtend n (w.drop 1 ++
      [(w.headD 0 + spinShift (w.getD 1 0) 7 18 3 + w.getD 9 0 + spinShift (w.getD 14 0) 17 19 10) % 2 ^ 32])

/-- What the eight working words carry from round to round: the last four values of `a` and of `e`, newest first. -/
structure ShaWork where
  as : List Nat
  es : List Nat

/-- A round takes the sum of a constant and a schedule word, and makes one new `a` and one new `e`. -/
def shaRound (x : ShaWork) (kw : Nat) : ShaWork :=
  match x.as, x.es with
  | [a, b, c, d], [e, f, g, h] =>
    let t := h + spin e 6 11 25 + (g ^^^ (e &&& (f ^^^ g))) + kw
    ⟨[(t + spin a 2 13 22 + ((a &&& (b ||| c)) ||| (b &&& c))) % 2 ^ 32, a, b, c], [(d + t) % 2 ^ 32, e, f, g]⟩
  | _, _ => x

/-- Rounds 16 `p` to 16 `p` + 15 with sixteen schedule words; then the next part, `n` parts in all. -/
def shaParts : Nat → Nat → List Nat → ShaWork → ShaWork
  | 0, _, _, x => x
  | n + 1, p, w, x =>
    shaParts n (p + 1) (shaExtend 16 w) ((w.zipIdx).foldl (fun x e => shaRound x (e.1 + word32 (shaConst p) e.2)) x)

/-- The chaining value after one block of 64 bytes. -/
def shaBlock (st : List Nat) (blk : List Nat) : List Nat :=
  let x := shaParts 4 0 ((chunks 4 16 blk).map beNat) ⟨st.take 4, st.drop 4⟩
  List.zipWith (fun u v => (u + v) % 2 ^ 32) st (x.as ++ x.es)

/-- A message with what SHA-256 adds: a 1 bit, zeros, and its length in bits as a 64-bit number. -/
def shaPad (l : List Nat) : List Nat :=
  l ++ [0x80] ++ List.replicate ((119 - l.length % 64) % 64) 0 ++ beBytes 8 (8 * l.length)

/-- SHA-256 of a byte string, as 32 bytes. -/
def sha256 (l : List Nat) : List Nat :=
  ((chunks 64 (l.length / 64 + 2) (shaPad l)).foldl shaBlock ((List.range 8).map (word32 shaStart))).flatMap (beBytes 4)

/-- A digest as a 256-bit value. -/
def sha256W (l : List Nat) : W256 := keyOf (sha256 l)

/-- HMAC-SHA-256. -/
def hmac (key msg : List Nat) : List Nat :=
  let k := if 64 < key.length then sha256 key else key
  let k := k ++ List.replicate (64 - k.length) 0
  sha256 (k.map (· ^^^ 0x5C) ++ sha256 (k.map (· ^^^ 0x36) ++ msg))

/-- The first 8 bytes of an HMAC, as a number: a MAC of 64 bits. -/
def mac8 (key : W256) (msg : List Nat) : Nat := bytesNat ((hmac (keyBytes key) msg).take 8)

/-- HKDF-SHA-256 with an output of 32 bytes (R435). -/
def hkdf (key salt info : List Nat) : W256 := keyOf (hmac (hmac salt key) (info ++ [1]))

/-- The ASCII bytes of a string. -/
def ascii (t : String) : List Nat := t.toList.map (·.toNat)

/-! ## Counter mode and Galois/counter mode -/

/-- The key stream of counter-mode blocks. -/
def ctrStream (k : W256) (blocks : List (List Nat)) : List Nat :=
  let ks := roundKeys (keyBytes k)
  blocks.flatMap (aesBlock ks)

/-- Multiplication in the field of GHASH, by the `n` low bits of `y` from its most significant down; `v` starts
as the other factor. Bit 127 of a number is the first bit of its block. -/
def gmul : Nat → Nat → Nat → Nat → Nat
  | 0, _, _, z => z
  | n + 1, y, v, z =>
    let z := if bm y n then z ^^^ v else z
    let v := if v % 2 = 1 then (v / 2) ^^^ (0xE1 * 2 ^ 120) else v / 2
    gmul n y v z

/-- GHASH of blocks given as byte strings. -/
def ghash (h : Nat) (blocks : List (List Nat)) : Nat :=
  blocks.foldl (fun z b => gmul 128 (z ^^^ beNat b) h 0) 0

/-- Pads a byte string with zeros to whole blocks of 16. -/
def pad16 (l : List Nat) : List (List Nat) :=
  chunks 16 (l.length / 16 + 1) (l ++ List.replicate ((16 - l.length % 16) % 16) 0)

/-- The blocks GHASH takes of associated data and ciphertext. -/
def ghashInput (ad ct : List Nat) : List (List Nat) :=
  pad16 ad ++ pad16 ct ++ [beBytes 8 (8 * ad.length) ++ beBytes 8 (8 * ct.length)]

/-- Galois/counter mode: the key stream for `n` bytes from a 12-byte nonce. -/
def gcmStream (k : W256) (nonce : List Nat) (n : Nat) : List Nat :=
  (ctrStream k ((List.range (n / 16 + 1)).map (fun i => nonce ++ beBytes 4 (i + 2)))).take n

/-- Galois/counter mode: the 16-byte tag. -/
def gcmTag (k : W256) (nonce ad ct : List Nat) : List Nat :=
  let ks := roundKeys (keyBytes k)
  let h := beNat (aesBlock ks (List.replicate 16 0))
  xorBytes (beBytes 16 (ghash h (ghashInput ad ct))) (aesBlock ks (nonce ++ [0, 0, 0, 1]))

/-! ## RSA -/

/-- b^e mod n, over the `k` low bits of `e`. -/
def modPow (b n : Nat) : Nat → Nat → Nat
  | 0, _ => 1 % n
  | k + 1, e =>
    let r := modPow b n k (e / 2)
    let r2 := r * r % n
    if e % 2 = 1 then r2 * b % n else r2

/-- MGF1 with SHA-256. -/
def mgf1 (seed : List Nat) (n : Nat) : List Nat :=
  ((List.range (n / 32 + 1)).flatMap (fun i => sha256 (seed ++ beBytes 4 i))).take n

/-- What follows the first 1 after zeros; none when something else comes first. -/
def afterOne : List Nat → Option (List Nat)
  | [] => none
  | 0 :: l => afterOne l
  | 1 :: l => some l
  | _ :: _ => none

/-- R44: the identity key pair IK, from IDSEED. -/
def idKey : Config.RsaPair := Config.keyPair Config.idSeed

/-- R44, R435: the sealing key pair SK, from SEALROOT. -/
def sealKey : Config.RsaPair := Config.keyPair (hkdf (keyBytes Config.sealRoot) [] (ascii "qualas sealing key"))

/-- R52: RSAES-OAEP decryption with SHA-256 and a label, under the sealing key; a ciphertext at or above the modulus fails. -/
def oaepDecrypt (label : String) (wrapped : Nat) : Option (List Nat) :=
  if sealKey.pub.modulus ≤ wrapped then none
  else
    let em := beBytes 384 (modPow wrapped sealKey.pub.modulus 3072 sealKey.priv)
    let masked := (em.drop 1).take 32
    let db := em.drop 33
    let seed := xorBytes masked (mgf1 db 32)
    let plain := xorBytes db (mgf1 seed 351)
    if em.headD 1 = 0 && plain.take 32 = sha256 (ascii label) then afterOne (plain.drop 32) else none

/-- RSASSA-PKCS1-v1_5 with SHA-256: the 384 bytes that are signed for a message. -/
def pkcsForm (msg : List Nat) : List Nat :=
  [0, 1] ++ List.replicate 330 0xFF ++ [0, 0x30, 0x31, 0x30, 0x0D, 0x06, 0x09, 0x60, 0x86, 0x48, 0x01, 0x65, 0x03, 0x04, 0x02,
    0x01, 0x05, 0x00, 0x04, 0x20] ++ sha256 msg

/-- RSASSA-PKCS1-v1_5 signature with SHA-256 by the identity key, 384 bytes. -/
def rsaSign (msg : List Nat) : List Nat := beBytes 384 (modPow (beNat (pkcsForm msg)) idKey.pub.modulus 3072 idKey.priv)

/-- A signature of a message verifies under a public key. -/
def rsaVerify (k : Config.RsaKey) (msg : List Nat) (sig : Nat) : Bool :=
  decide (sig < k.modulus) && modPow sig k.modulus 3072 k.exponent == beNat (pkcsForm msg)

/-! ## Image sections (spec/02_program_image_and_encodings.md R14) -/

/-- R14: KENC and KMAC of an image key and NONCE. -/
def imageKeys (key : W256) (nonce : Word) : W256 × W256 :=
  (hkdf (keyBytes key) (natBytes 8 nonce.toNat) (ascii "krytong code enc"),
    hkdf (keyBytes key) (natBytes 8 nonce.toNat) (ascii "krytong code mac"))

/-- R14: the counter block of 16-byte block `j` of a section. -/
def sectionCtr (nonce : Word) (sid j : Nat) : List Nat :=
  natBytes 8 nonce.toNat ++ natBytes 2 sid ++ natBytes 6 j

/-- R14: opens (or seals) `l`, which starts at byte `off` of its section. -/
def sectionOpen (kenc : W256) (nonce : Word) (sid off : Nat) (l : List Nat) : List Nat :=
  let j0 := off / 16
  let n := (off % 16 + l.length + 15) / 16
  let ks := ctrStream kenc ((List.range n).map (fun i => sectionCtr nonce sid (j0 + i)))
  xorBytes l (ks.drop (off % 16))

/-- R14: the MAC of granule `g` of a section. -/
def granuleMac (kmac : W256) (sid g : Nat) (ct : List Nat) : Nat :=
  mac8 kmac (natBytes 2 sid ++ natBytes 4 g ++ ct)

end Sys2Proof.Machine
end

