-- ==== Sys2Proof/Machine/Hbm.lean ====
section
/-!
DEFINITION. HBM: addresses, page ownership, row metadata, line encryption and authentication, and the
accesses of the service program (spec/13_memory_channels_and_segmented_banks.md R284-R297, R305; spec/03_admission_and_trust.md R57, R58).
-/

namespace Sys2Proof.Machine

/-- The usable HBM address bound, 448 GiB (R285). -/
def hbmBytes : Nat := 0x7000000000
/-- Usable bytes of a row (R284). -/
def rowBytes : Nat := 1792

/-- R285: global row number of a usable address. -/
def rowOfAddr (u : Nat) : Nat := u / 458752 * 256 + u % 458752 / rowBytes
/-- R285: line of a usable address in its row. -/
def lineInRow (u : Nat) : Nat := u % 458752 % rowBytes / 64
/-- The usable address of line `i` of row `q`. -/
def rowLineAddr (q i : Nat) : Nat := q * rowBytes + i * 64
/-- R285: the channel of a row. -/
def chanOfRow (q : Nat) : Nat := bf q 23 16
/-- R285: the bank of a row. -/
def bankOfRow (q : Nat) : Nat := bf q 4 0
/-- R285: the slab of a row; 0 is the near segment. -/
def slabOfRow (q : Nat) : Nat := bf q 27 24
/-- R285: the subarray of a row. -/
def subOfRow (q : Nat) : Nat := bf q 15 10
/-- R285: the row within its slab. -/
def slabRow (q : Nat) : Nat := bf q 9 8 * 8 + bf q 7 5
/-- R285: the row in bank of a row. -/
def rowInBank (q : Nat) : Nat := 512 * subOfRow q + 32 * slabOfRow q + slabRow q
/-- R285: the global row number of a row in a bank of a channel. -/
def rowNumber (ch bank rib : Nat) : Nat :=
  let w := rib % 32
  rib % 512 / 32 * 2 ^ 24 + ch * 2 ^ 16 + rib / 512 * 2 ^ 10 + w / 8 * 2 ^ 8 + w % 8 * 2 ^ 5 + bank
/-- R286: the row group of a row. -/
def groupOfRow (q : Nat) : Nat := q / 256
/-- R286: the first page of a row group; a group has 7 pages. -/
def pageOfAddr (u : Nat) : Nat := u / 65536
/-- R323: the die of a row's stack. -/
def dieOfRow (q : Nat) : Nat := chanOfRow q / 64

/-! ## Page ownership (R57, R58) -/

/-- Usable pages (R57). -/
def pageCount : Nat := 7340032

/-- R58: at device reset the page is in world 0's reserved region: the device area, or a near group (PIN is 0). -/
def pageReserved (p : Nat) : Bool :=
  let g := p / 7
  (g / 65536 == 15 && g / 4 % 64 == 63) || g / 65536 == 0

/-- R57: the owning world of a page (DESIGN CHOICE, log entry 46). -/
def pageOwner (s : State) (p : Nat) : Nat := spanGet (if pageReserved p then 0 else 1) s.pageWorld p
/-- R57: the CUSTODY bit of a page (DESIGN CHOICE, log entry 46). -/
def pageCustody (s : State) (p : Nat) : Bool := spanGet false s.pageCustody p
/-- The owner of the group of a row (R286). -/
def rowOwner (s : State) (q : Nat) : Nat := pageOwner s (groupOfRow q * 7)
/-- R57: counts a line marked poisoned, saturating at 15. -/
def bumpPoison (s : State) (p : Nat) : State :=
  { s with pagePoison := tabMod 0 s.pagePoison p (fun n => if n < 15 then n + 1 else n) }

/-! ## Row metadata (R290, R291) -/

/-- A row as stored (`qm`) and the row it stands for (`ql`): they differ for a valid cache row (R288). -/
structure RowRef where
  qm : Nat
  ql : Nat
  deriving DecidableEq, Repr

/-- The row's metadata column. -/
def metaOf (s : State) (r : RowRef) : RowMeta := tabGet RowMeta.reset s.rows r.qm
/-- Changes a row's metadata column. -/
def modMeta (s : State) (r : RowRef) (f : RowMeta → RowMeta) : State :=
  { s with rows := tabSet s.rows r.qm (f (metaOf s r)) }
/-- R291: the level-1 node of a row. -/
def nodeOf (s : State) (q : Nat) : Node := tabGet Node.reset s.nodes (q / 64)
/-- R291: the epoch of a row. -/
def epochOf (s : State) (q : Nat) : Nat := tabGet 0 (nodeOf s q).epochs (q % 64)
/-- R291, R297: CLR of a row's node: the clearings that covered it. -/
def clrOf (s : State) (q : Nat) : Nat :=
  (s.clrs.filter (fun p => decide (p.1 ≤ q / 64) && decide (q / 64 < p.1 + p.2))).length
/-! ## The integrity tree (R291) -/

/-- R291: CRC-8 with polynomial 0x07, from an initial value of 0, each byte from its most significant bit (DESIGN CHOICE, log
entry 6). -/
def crc8 (l : List Nat) : Nat :=
  l.foldl (fun c b => (List.range 8).foldl (fun c _ => if c < 128 then 2 * c else (2 * c) % 256 ^^^ 7) (c ^^^ b)) 0

/-- R291: E of a row in its node: its epoch; for a cache row VALID and DIRTY. -/
def rowEntry (s : State) (q : Nat) : Nat :=
  let c := chanOf s (chanOfRow q)
  if slabOfRow q == 0 && !bm c.pin.toNat (slabRow q / 8) then 2 * (c.valid.elem q).toNat + (c.dirty.elem q).toNat else epochOf s q

/-- R291: the 512 bits of node `n`. -/
def nodeBits (s : State) (n : Nat) : Nat :=
  clrOf s (64 * n) * 2 ^ 488 + (tabGet Node.reset s.nodes n).nmaj % 2 ^ 40 * 2 ^ 448 +
    (List.range 64).foldl (fun v i => v + rowEntry s (64 * n + i) * 2 ^ (7 * i)) 0

/-- R291: the place of a level-1 node among those of all stacks: its stack, then its slab, then its place there; 2^19 in each
stack (DESIGN CHOICE, log entry 6). -/
def treePlace (n : Nat) : Nat := bf n 17 15 * 2 ^ 19 + bf n 21 18 * 2 ^ 15 + bf n 14 0

/-- The level-1 node of a place. -/
def placeNode (k : Nat) : Nat := bf k 18 15 * 2 ^ 18 + bf k 21 19 * 2 ^ 15 + bf k 14 0

/-- R291: the 64 bytes of node `i` of level `k + 1`: of a level-1 node its bits; of one above, for each child the CRC-8 of its
bytes, as stored. -/
def treeBytes (s : State) : Nat → Nat → List Nat
  | 0, i => natBytes 64 (nodeBits s (placeNode i))
  | k + 1, i => (List.range 64).map (fun j =>
      crc8 (treeBytes s k (64 * i + j)) ^^^ tabGet 0 s.treeErr (k * 2 ^ 22 + 64 * i + j))

/-- R291: the two check bytes of the root of a stack, of its two level-4 nodes. -/
def treeRoot (s : State) (stack : Nat) : List Nat :=
  [0, 1].map (fun j => crc8 (treeBytes s 3 (2 * stack + j)) ^^^ tabGet 0 s.treeErr (3 * 2 ^ 22 + 2 * stack + j))

/-- R291: a check on the path of node `n` to the root fails, or has failed since its rows were last cleared. -/
def nodeFails (s : State) (n : Nat) : Bool :=
  s.badNodes.elem n || (List.range 4).any (fun k => tabGet 0 s.treeErr (k * 2 ^ 22 + treePlace n / 64 ^ k) != 0)

/-- R291: the cleared bit of a row (DESIGN CHOICE, log entry 5) (DESIGN CHOICE, log entry 60). -/
def isCleared (s : State) (q : Nat) : Bool := spanGet true s.cleared q
/-- Sets the cleared bit of one row. -/
def setCleared (s : State) (q : Nat) (v : Bool) : State := { s with cleared := spanSet s.cleared q 1 v }

/-! ## Line keys, encryption, tags (R292) -/

/-- The keys of a world's memory in one key generation. -/
structure LineKeys where
  enc : List (List Nat)
  mac : List (List Nat)
  h : Nat

/-- R292: KE, KM (expanded) and H of a memory key and generation. -/
def lineKeys (k : W256) (kg : Nat) : LineKeys :=
  let ke := hkdf (keyBytes k) [] (ascii "qualas hbm enc" ++ [kg])
  let km := hkdf (keyBytes k) [] (ascii "qualas hbm mac" ++ [kg])
  let ks := roundKeys (keyBytes km)
  ⟨roundKeys (keyBytes ke), ks, beNat (aesBlock ks (List.replicate 16 0))⟩

/-- The keys of a row: its owner's memory key under its generation. -/
def keysOfRow (s : State) (r : RowRef) : LineKeys :=
  lineKeys (worldOf s (rowOwner s r.ql)).key (metaOf s r).kg

/-- R292: the usable line address of line `i` of a row. -/
def lineAddr (r : RowRef) (i : Nat) : Nat := r.ql * 28 + i

/-- R292: the key stream of a line under counters (M, m) (DEDUCED, log entry 63). -/
def lineStream (k : LineKeys) (s : State) (r : RowRef) (i major minor : Nat) : List Nat :=
  [0, 1, 2, 3].flatMap (fun j => aesBlock k.enc (natBytes 16
    (lineAddr r i * 2 ^ 95 + clrOf s r.ql * 2 ^ 71 + major * 2 ^ 23 + minor * 2 ^ 16 + j * 2 ^ 14)))

/-- R292: the pad of a line's tag under the row's present epoch (DEDUCED, log entry 63). -/
def linePad (k : LineKeys) (s : State) (r : RowRef) (i : Nat) : Nat :=
  bytesNat (aesBlock k.mac (natBytes 16 (lineAddr r i * 2 ^ 95 + (nodeOf s r.ql).nmaj * 2 ^ 55 +
    clrOf s r.ql * 2 ^ 31 + epochOf s r.ql * 2 ^ 24))) % 2 ^ 64

/-- R292: the tag of a line's ciphertext under counters (M, m). -/
def lineTag (k : LineKeys) (s : State) (r : RowRef) (i major minor : Nat) (ct : List Nat) : Nat :=
  let ad := natBytes 11 (lineAddr r i * 2 ^ 55 + major * 2 ^ 7 + minor)
  (ghash k.h (ghashInput ad ct) % 2 ^ 64) ^^^ linePad k s r i

/-- The counters under which line `i` stands: a moved line counts under M + 1 (R295). -/
def lineCounters (s : State) (r : RowRef) (moved : List Nat) (i : Nat) : Nat × Nat :=
  let x := metaOf s r
  ((if moved.elem i then x.major + 1 else x.major), tabGet 0 x.minors i)

/-- R293: a line as read: its 64 bytes, and whether it is delivered poisoned (DESIGN CHOICE, log entry 5)
(DESIGN CHOICE, log entry 6). -/
def readLine (s : State) (r : RowRef) (moved : List Nat) (i : Nat) : List Byte × Bool :=
  if isCleared s r.ql then (List.replicate 64 0, false)
  else
    let k := keysOfRow s r
    let c := lineCounters s r moved i
    let ct := toNats (memBytes s.hbm (rowLineAddr r.qm i) 64)
    let x := metaOf s r
    let bad := s.eccLines.elem (rowLineAddr r.qm i / 64) || s.eccMeta.elem r.qm ||
      (tabGet 0 x.macs i).toNat != lineTag k s r i c.1 c.2 ct ||
      (r.qm == r.ql && (x.tag != 0 || x.top)) || nodeFails s (r.ql / 64)
    (toBytes (xorBytes ct (lineStream k s r i c.1 c.2)), bad)

/-- Stores a line under counters (M, m); a poisoned line's tag is stored inverted (R311). An ECC error of the line's
old bits goes with them. -/
def storeLine (s : State) (r : RowRef) (i major minor : Nat) (l : List Byte) (poison : Bool) : State :=
  let k := keysOfRow s r
  let ct := xorBytes (toNats l) (lineStream k s r i major minor)
  let tag := wd (lineTag k s r i major minor ct)
  let a := rowLineAddr r.qm i
  modMeta { s with hbm := memWrite s.hbm a (toBytes ct), eccLines := s.eccLines.filter (· != a / 64) } r (fun x =>
    { x with macs := tabSet x.macs i (if poison then ~~~tag else tag), minors := tabSet x.minors i minor })

/-- R295: the counter a write of line `i` takes next, and the moved lines after it; none when a moved line
would pass 127. -/
def nextCounter (s : State) (r : RowRef) (moved : List Nat) (i : Nat) : Option (Nat × Nat × List Nat) :=
  let x := metaOf s r
  let m := tabGet 0 x.minors i
  if moved.elem i then (if m = 127 then none else some (x.major + 1, m + 1, moved))
  else if m = 127 then some (x.major + 1, 0, i :: moved)
  else some (x.major, m + 1, moved)

/-- Writes line `i` of an open row that is not cleared (R295). -/
def writeLine (s : State) (r : RowRef) (moved : List Nat) (i : Nat) (l : List Byte) (poison : Bool) :
    State × List Nat :=
  match nextCounter s r moved i with
  | none => (s, moved)
  | some (mj, mn, mv) => (storeLine s r i mj mn l poison, mv)

/-- The lines of a row. -/
def allLines : List Nat := List.range 28

/-- R290, R296, R316: the metadata column with which a cleared row begins: M = 0, every counter 0, KG 0, and TAG zero unless
the row is a cache row. -/
def freshMeta (s : State) (r : RowRef) : State :=
  modMeta { s with eccMeta := s.eccMeta.filter (· != r.qm) } r (fun x =>
    { RowMeta.reset with tag := if r.qm = r.ql then 0 else x.tag })

/-- R316: every line of a cleared row as zeros under M = 0 and m_i = 0. -/
def zeroRow (s : State) (r : RowRef) : State :=
  allLines.foldl (fun s i => storeLine s r i 0 0 (List.replicate 64 0) false) (freshMeta s r)

/-- R305, R316: a cleared row takes zero lines as DINIT gives, and its cleared bit clears. -/
def initRow (s : State) (r : RowRef) : State := zeroRow (setCleared s r.ql false) r

/-- R292: moves a row's tags from the old pads to the present ones. -/
def repad (old new : State) (r : RowRef) : State :=
  if isCleared new r.ql then new
  else
    let k := keysOfRow new r
    modMeta new r (fun x => { x with macs := allLines.foldl (fun t i =>
      tabMod 0 t i (fun m => m ^^^ wd (linePad k old r i) ^^^ wd (linePad k new r i))) x.macs })

/-- R289, R291: VALID of a cache row. -/
def cacheValid (s : State) (q : Nat) : Bool := (chanOf s (chanOfRow q)).valid.elem q

/-- R288: the row is a cache row: near, in a quarter whose PIN bit is 0. -/
def isCacheRow (s : State) (q : Nat) : Bool :=
  slabOfRow q == 0 && !bm (chanOf s (chanOfRow q)).pin.toNat (slabRow q / 8)

/-- R289: the lowest-numbered cache row of a subarray. -/
def lowestCacheRow (pin : BitVec 4) : Nat := ((List.range 32).find? (fun r => !bm pin.toNat (r / 8))).getD 0

/-- The victim pointer of a subarray of a bank. -/
def victimOf (c : Chan) (bank sub : Nat) : Nat := tabGet (lowestCacheRow c.pin) c.victims (bank * 64 + sub)

/-- R288: the far row a cache row's TAG names. -/
def farRow (s : State) (q : Nat) : Nat :=
  rowNumber (chanOfRow q) (bankOfRow q) (512 * subOfRow q + 32 + (metaOf s ⟨q, q⟩).tag)

/-- The row as a command names it: a valid cache row stands for its far row (R288). -/
def rowRef (s : State) (q : Nat) : RowRef := if cacheValid s q then ⟨q, farRow s q⟩ else ⟨q, q⟩

/-- R294: closes a modified row's epoch; answers whether the node rolled over. -/
def advanceEpoch (s : State) (r : RowRef) : State × Bool :=
  let n := nodeOf s r.ql
  let e := epochOf s r.ql
  if e = 127 then
    let base := r.ql / 64 * 64
    let keep := n.epochs.filter (fun p => isCacheRow s (base + p.1))
    let s1 := { s with nodes := tabSet s.nodes (r.ql / 64) ⟨n.nmaj + 1, keep⟩ }
    let rows := (List.range 64).map (fun i => (⟨base + i, base + i⟩ : RowRef))
    let caches := ((chanOf s (chanOfRow r.ql)).valid.map (rowRef s)).filter (fun c => c.ql / 64 == r.ql / 64)
    (rows.foldl (fun t x => if isCacheRow s x.qm then t else repad s t x)
      (caches.foldl (fun t x => repad s t x) s1), true)
  else
    let s1 := { s with nodes := tabSet s.nodes (r.ql / 64) { n with epochs := tabSet n.epochs (r.ql % 64) (e + 1) } }
    (repad s s1 r, false)

/-- R295: the row has moved lines and an M that can grow. -/
def rekeys (s : State) (r : RowRef) (moved : List Nat) : Bool := !moved.isEmpty && (metaOf s r).major != 2 ^ 48 - 1

/-- R295: every line of a row is stored poisoned, and counts on its page (R57, R311). -/
def poisonRow (s : State) (r : RowRef) : State :=
  let k := keysOfRow s r
  let bad := fun (x : RowMeta) (i : Nat) =>
    ~~~(wd (lineTag k s r i x.major (tabGet 0 x.minors i) (toNats (memBytes s.hbm (rowLineAddr r.qm i) 64))))
  let s1 := allLines.foldl (fun s i => bumpPoison s (pageOfAddr (rowLineAddr r.ql i))) s
  modMeta s1 r (fun x => { x with macs := allLines.foldl (fun t i => tabSet t i (bad x i)) x.macs })

/-- R295: rekeys a row with moved lines; one whose M cannot grow is stored poisoned. -/
def rekeyRow (s : State) (r : RowRef) (moved : List Nat) : State :=
  let x := metaOf s r
  if x.major = 2 ^ 48 - 1 then poisonRow s r
  else
    let s1 := allLines.foldl (fun t i =>
      if moved.elem i then t
      else
        let d := readLine s r moved i
        storeLine t r i (x.major + 1) 0 d.1 d.2) s
    modMeta s1 r (fun y => { y with major := x.major + 1 })

/-- R294, R295: what the precharge of a row does; answers whether it rekeyed and rolled over. -/
def closeRow (s : State) (r : RowRef) (moved : List Nat) (modified : Bool) : State × Bool × Bool :=
  let s1 := if moved.isEmpty then s else rekeyRow s r moved
  if modified then
    let e := advanceEpoch s1 r
    (e.1, rekeys s r moved, e.2)
  else (s1, rekeys s r moved, false)

/-! ## Clearing (R297) -/

/-- R297: clears the rows of `count` groups from `first` on; `bump` increments CLR of their nodes. -/
def clearGroups (s : State) (first count : Nat) (bump : Bool) : State :=
  let n0 := first * 4
  let nn := count * 4
  { s with
    cleared := spanSet s.cleared (first * 256) (count * 256) true
    nodes := s.nodes.map (fun p => if n0 ≤ p.1 ∧ p.1 < n0 + nn then (p.1, { p.2 with epochs := [] }) else p)
    badNodes := s.badNodes.filter (fun n => decide (n < n0) || decide (n0 + nn ≤ n))
    treeErr := s.treeErr.filter (fun p => !(List.range (64 ^ (p.1 / 2 ^ 22))).any (fun j =>
      let n := placeNode (p.1 % 2 ^ 22 * 64 ^ (p.1 / 2 ^ 22) + j)
      decide (n0 ≤ n) && decide (n < n0 + nn)))
    clrs := if bump then (n0, nn) :: s.clrs else s.clrs }

/-! ## The service program (R305) -/

/-- A static program holds the channel, or the channel is being zeroed and belongs to no one (R105, R301). -/
def chanTaken (c : Chan) : Bool := c.owner != 0 || c.zeroUntil.isSome

/-- The service program does not serve the channel of a usable address (R301). -/
def chanHeld (s : State) (u : Nat) : Bool := chanTaken (chanOf s (chanOfRow (rowOfAddr u)))

/-- R301, R305: whether world `w` may reach the usable address now: 0, or the cause. -/
def svcCheck (s : State) (w u : Nat) : Nat :=
  if hbmBytes ≤ u then 0x08
  else if chanHeld s u then 0x09
  else if s.cutDies.elem (dieOfRow (rowOfAddr u)) then 0x0C
  else if rowOwner s (rowOfAddr u) != w then 0x09 else 0

/-- R291: an access that reads the node of row `q`: a failed check counts a soft error of the stack, and stays (DESIGN CHOICE,
log entry 6). -/
def noteNode (s : State) (q : Nat) : State :=
  if nodeFails s (q / 64) then
    countDie (dieOfRow q) 0x12 1 { s with
      softErrors := tabMod 0 s.softErrors (chanOfRow q / 32) (· + 1)
      badNodes := if s.badNodes.elem (q / 64) then s.badNodes else q / 64 :: s.badNodes }
  else s

/-- R291: as `noteNode`, of the row of a usable address. -/
def noteSoft (s : State) (u : Nat) : State := noteNode s (rowOfAddr u)

/-- R291: an access of bytes from `u` on, `n` of them, reads the node of every row that it touches. -/
def noteRows (s : State) (u n : Nat) : State :=
  (List.range (rowOfAddr (u + n - 1) - rowOfAddr u + 1)).foldl (fun s i => noteNode s (rowOfAddr u + i)) s

/-! ## The page ownership table as memory (R57, R58) -/

/-- R57: the 16-bit entry of a page: POISON, CUSTODY, WORLD. -/
def pageEntry (s : State) (p : Nat) : Nat :=
  tabGet 0 s.pagePoison p % 16 * 2 ^ 12 + (pageCustody s p).toNat * 2 ^ 11 + pageOwner s p % 64

/-- R58: the offset in the device area of a usable address, where it lies there: the area's pages in ascending order. -/
def areaOffset (u : Nat) : Option Nat :=
  let g := u / 458752
  if g / 65536 = 15 ∧ g / 4 % 64 = 63 then some (((g % 65536 / 256 * 4 + g % 4) * 7 + u / 65536 % 7) * 65536 + u % 65536) else none

/-- R58: bytes 0 to 14 MiB - 1 of the device area hold the page ownership table: the 64 bytes at an offset. -/
def tableLine (s : State) (o : Nat) : List Byte :=
  (List.range 32).flatMap (fun i => leBytes 2 (pageEntry s (o / 64 * 32 + i)))

/-- R305: the line that holds a usable address, read through the service program. What the table of R57 says stands once, in
the tables of State; its memory shows it (log entry 46). -/
def svcLine (s : State) (u : Nat) : List Byte × Bool :=
  let q := rowOfAddr u
  match areaOffset u with
  | some o => if o < 0xE00000 then (tableLine s o, false) else readLine s ⟨q, q⟩ [] (lineInRow u)
  | none => readLine s ⟨q, q⟩ [] (lineInRow u)

/-- The lines that `n` bytes at `u` touch, by their first address. -/
def linesOf (u n : Nat) : List Nat :=
  if n = 0 then [] else (List.range ((u + n - 1) / 64 - u / 64 + 1)).map (fun i => (u / 64 + i) * 64)

/-- The ranges (first, count) of `n` bytes at `a`, counted from `a`, whose line satisfies `p`. -/
def lineRanges (a n : Nat) (p : Nat → Bool) : List (Nat × Nat) :=
  ((linesOf a n).filter p).map (fun l => (max a l - a, min (l + 64) (a + n) - max a l))

/-- R305: `n` bytes at a usable address, and whether any line of them is delivered poisoned. -/
def svcRead (s : State) (u n : Nat) : List Byte × Bool :=
  let ls := (linesOf u n).map (fun a => svcLine s a)
  (((ls.flatMap (·.1)).drop (u % 64)).take n, ls.any (·.2))

/-- R77, R79: a write performs on a line (usable address / 64): every monitor that watches it observes it. -/
def noteWrite (line : Nat) (s : State) : State :=
  { s with
    monWrites := if s.monWrites.elem line then s.monWrites else line :: s.monWrites
    monitors := s.monitors.map (fun m => if m.line = line && m.hit.isNone then { m with hit := some s.gcyc } else m) }

/-- Puts new bytes, with their offsets in a line, into the line's bytes. -/
def mergeLine (old : List Byte) (off : Nat) (new : List Byte) : List Byte :=
  old.take off ++ new ++ old.drop (off + new.length)

/-- R305: writes the line of a usable address through the service program, which activates the row, initializes a
cleared row first, merges, and precharges. `whole` says that every byte is new, and `merge` gives the new line from the
old one. Monitors observe the write (R77) (DESIGN CHOICE, log entry 67). -/
def svcMergeLine (s : State) (u : Nat) (whole : Bool) (merge : List Byte → List Byte) (poison : Bool) : State :=
  let q := rowOfAddr u
  let r : RowRef := ⟨q, q⟩
  let i := lineInRow u
  let s0 := noteSoft s u
  let old := readLine s0 r [] i
  let stays := poison || (old.2 && !whole)
  let s1 := if isCleared s0 q then initRow s0 r else s0
  let w := writeLine s1 r [] i (merge old.1) stays
  let c := closeRow w.1 r w.2 true
  let s2 := if poison && !(old.2 && !whole) then bumpPoison c.1 (pageOfAddr u) else c.1
  noteWrite (u / 64) s2

/-- R305: writes bytes within one line. -/
def svcWriteLine (s : State) (u : Nat) (l : List Byte) (poison : Bool) : State :=
  svcMergeLine s u (l.length == 64) (fun old => mergeLine old (u % 64) l) poison

/-- Cuts bytes at `u` into the parts of each 64-byte line. -/
def splitLines : Nat → Nat → List Byte → List (Nat × List Byte)
  | 0, _, _ => []
  | _ + 1, _, [] => []
  | fuel + 1, u, l =>
    let n := 64 - u % 64
    (u, l.take n) :: splitLines fuel (u + n) (l.drop n)

/-- R305: writes bytes at a usable address. -/
def svcWrite (s : State) (u : Nat) (l : List Byte) (poison : Bool) : State :=
  (splitLines (l.length + 1) u l).foldl (fun s p => svcWriteLine s p.1 p.2 poison) s

end Sys2Proof.Machine
end

