-- ==== Sys2Proof/Machine/Translate.lean ====
section
/-!
DEFINITION. Address translation (spec/05_placement_and_translation.md R107-R116): the walk, the check of a fill, the caches of the five dies.
-/

namespace Sys2Proof.Machine

/-- R108: TARGET of a physical address. -/
def targetOf (pa : Nat) : Nat := bf pa 55 52
/-- R108: the package of a peer address. -/
def peerOf (pa : Nat) : Nat := bf pa 51 42
/-- R108: the offset in fabric space of a peer address. -/
def fabOffset (pa : Nat) : Nat := pa % 2 ^ 42

/-- R112: the table node lies in a page of the world's HBM (DEDUCED, log entry 62). -/
def ownedTable (s : State) (w t : Nat) : Bool :=
  targetOf t == 0 && decide (t % 2 ^ 52 < hbmBytes) && pageOwner s (pageOfAddr (t % 2 ^ 52)) == w

/-- R111, R112 ReservedNonZero at a level. -/
def badEntry (pte lv : Nat) : Bool :=
  let leaf := bm pte 2
  bf pte 63 56 != 0 || bf pte 7 3 != 0 || (lv == 0 && leaf) || (lv == 3 && !leaf) ||
    (leaf && (bf pte 15 8 != 0 || (lv == 2 && bf pte 20 16 != 0) || (lv == 1 && bf pte 29 16 != 0))) ||
    (!leaf && decide (lv ≤ 1) && bf pte 11 8 != 0)

/-- R112: the bits of a page at a level. -/
def pageBits (lv : Nat) : Nat := if lv = 1 then 30 else if lv = 2 then 21 else 16

/-- R110: the index of a level. -/
def walkIndex (va lv : Nat) : Nat :=
  if lv = 0 then bf va 55 39 else if lv = 1 then bf va 38 30 else if lv = 2 then bf va 29 21 else bf va 20 16

/-- R112: the walk from table `t` at level `4 - n`; each read of an entry checks its node (R291). -/
def walkFrom (w va : Nat) : Nat → Nat → State → Except Nat TransEnt × State
  | 0, _, s => (.error 0x08, s)
  | n + 1, t, s =>
    let lv := 3 - n
    let at_ := t + 8 * walkIndex va lv
    if !ownedTable s w t then (.error 0x09, s)
    else if svcCheck s w (at_ % 2 ^ 52) != 0 then (.error (svcCheck s w (at_ % 2 ^ 52)), s)
    else
      let d := svcRead s (at_ % 2 ^ 52) 8
      let s := noteSoft s (at_ % 2 ^ 52)
      if d.2 then (.error 0x0B, s)
      else
        let pte := leNat d.1
        if !bm pte 0 || badEntry pte lv then (.error 0x08, s)
        else if bm pte 2 then
          let f := bf pte 55 8 * 256 + va % 2 ^ pageBits lv
          (.ok ⟨f / 65536 % 2 ^ 40, bm pte 1⟩, s)
        else walkFrom w va n (bf pte 55 8 * 256) s

/-- R112 FillCheck: ownership of the frame (HBM), the TDI (host), a fabric session (peer) (DEDUCED, log entry 62). -/
def fillCheck (s : State) (w : Nat) (e : TransEnt) : Except Nat TransEnt :=
  let pa := e.frame * 65536
  match targetOf pa with
  | 0 => if decide (pa < hbmBytes) && pageOwner s (pageOfAddr pa) == w then .ok e else .error 0x09
  | 1 => if w == 1 || (funcOf s (funcOfWorld w)).tdi == .run then .ok e else .error 0x09
  | 2 =>
    match (worldOf s w).job with
    | some j => if decide (2 ≤ w) && bm j.members.toNat (peerOf pa) then .ok e else .error 0x09
    | none => .error 0x09
  | _ => .error 0x08

/-- R112: a fill: the walk from the world's root and its check. -/
def walk (s : State) (w va : Nat) : Except Nat TransEnt × State :=
  let t := (worldOf s w).troot
  if t = 0 || t % 2 ^ 20 != 0 || 2 ^ 56 ≤ t then (.error 0x08, s)
  else
    match walkFrom w va 4 t s with
    | (.error c, s) => (.error c, s)
    | (.ok e, s) => (fillCheck s w e, s)

/-- The place of a translation in the caches (R114). -/
def transKey (die w va : Nat) : Nat := (die * 64 + w) * 2 ^ 40 + bf va 55 16

/-- R112: the cached entry (DESIGN CHOICE, log entry 61). -/
def transLookup (s : State) (die w va : Nat) : Option TransEnt :=
  (s.trans.find? (fun p => p.1 = transKey die w va)).map (·.2)

/-- R114: puts an entry into a die's cache; a full cache of 65,536 entries gives one of free choice up (DESIGN CHOICE, log entry
61). -/
def cacheTrans (s : State) (die w va : Nat) (e : TransEnt) : State :=
  let mine := s.trans.filter (fun p => p.1 / 2 ^ 46 = die)
  if 65536 ≤ mine.length then
    let v := free s
    let gone := (mine.getD (v.1 % mine.length) (0, e)).1
    { v.2 with trans := tabSet (tabDel v.2.trans gone) (transKey die w va) e }
  else { s with trans := tabSet s.trans (transKey die w va) e }

/-- R112 Translate: the physical address or the cause, and the state with the cache after a fill (DESIGN CHOICE, log entry 61). -/
def translate (s : State) (die w va : Nat) (write : Bool) : Except Nat Nat × State :=
  if 2 ^ 56 ≤ va then (.error 0x08, s)
  else
    let use := fun (e : TransEnt) =>
      if write && !e.w then (.error 0x08 : Except Nat Nat) else .ok (e.frame * 65536 + va % 65536)
    match transLookup s die w va with
    | some e => (use e, s)
    | none =>
      let s := countDie die 0x10 1 s
      match walk s w va with
      | (.error c, s) => (.error c, s)
      | (.ok e, s) => (use e, cacheTrans s die w va e)

/-- R114: the pages that a state's caches of a die hold beyond those of another: what an access had to wait for. -/
def missesOf (die : Nat) (s t : State) : List Miss :=
  (t.trans.filter (fun p => p.1 / 2 ^ 46 = die && !s.trans.any (fun q => q.1 = p.1))).map (fun p =>
    ⟨die, p.1 / 2 ^ 40 % 64, p.1 % 2 ^ 40⟩)

/-- R114: the misses of a die that are outstanding: its first 4096; the others wait in order of arrival. -/
def walking (s : State) (m : Miss) : Bool := ((s.misses.filter (fun q => q.die = m.die)).take 4096).elem m

/-- R114: misses join those of their die; one for the same world and page is shared. -/
def addMisses (l : List Miss) (s : State) : State :=
  l.foldl (fun s m => if s.misses.elem m then s else countDie m.die 0x10 1 { s with misses := s.misses ++ [m] }) s

/-- R114: what a step reads or writes of virtual memory from `s` on, with `t` for its outcome, needs translations of a die that no
cache holds: it waits for them, and nothing of it happens before. -/
def walksFirst (die : Nat) (s t : State) : Bool := !(missesOf die s t).isEmpty

/-- R114: those translations join the misses of the die. -/
def awaitWalks (die : Nat) (s t : State) : State := addMisses (missesOf die s t) s

/-- R114: when the walk of a miss ends: a free number of cycles after it has begun, which is the first time that this is asked. -/
def walkEnd (m : Miss) (s : State) : Nat × State :=
  match s.walks.find? (fun p => p.1 = m) with
  | some p => (p.2, s)
  | none => let f := free s; (s.gcyc + f.1, { f.2 with walks := s.walks ++ [(m, s.gcyc + f.1)] })

/-- R109, R115: removes the cached translations of a world. -/
def dropWorldTrans (s : State) (w : Nat) : State :=
  { s with trans := s.trans.filter (fun p => p.1 / 2 ^ 40 % 64 != w) }

/-- R115: removes the cached translations of the pages from `first`, `count` of them. -/
def dropPageTrans (s : State) (first count : Nat) : State :=
  { s with trans := s.trans.filter (fun p =>
      !(targetOf (p.2.frame * 65536) == 0 && decide (first ≤ p.2.frame) && decide (p.2.frame < first + count))) }

/-- Reads `n` bytes of world memory at a virtual address, translated and checked line by line as a
synchronous access is (R113): the bytes, or the cause. -/
def readVirt (s : State) (die w va n : Nat) : Except Nat (List Byte) × State :=
  (linesOf va n).foldl (fun (acc : Except Nat (List Byte) × State) a =>
    match acc.1 with
    | .error _ => acc
    | .ok l =>
      let lo := max a va
      let len := min (a + 64) (va + n) - lo
      match translate acc.2 die w lo false with
      | (.error c, s) => (.error c, s)
      | (.ok pa, s) =>
        if targetOf pa != 0 then (.error 0x08, s)
        else if svcCheck s w pa != 0 then (.error (svcCheck s w pa), s)
        else
          let s := noteSoft s pa
          let d := svcRead s pa len
          if d.2 then (.error 0x0B, s) else (.ok (l ++ d.1), s)) (.ok [], s)

end Sys2Proof.Machine
end

