-- ==== Sys2Proof/Machine/Sync.lean ====
section
/-!
DEFINITION. Timelines, numbered engine operations, what a release waits for, and domain barriers (spec/15_async_and_synchronisation_instructions.md
R337-R340, R354-R358; spec/14_memory_model.md R326-R331).
-/

namespace Sys2Proof.Machine

/-! ## Fields of a copy descriptor (R342) -/

/-- Source space. -/
def cpSsp (d : W256) : Nat := bits d 255 252
/-- Destination space. -/
def cpDsp (d : W256) : Nat := bits d 251 248
/-- Mode. -/
def cpMode (d : W256) : Nat := bits d 247 244
/-- Row count minus 1. -/
def cpRows (d : W256) : Nat := bits d 239 224
/-- Bytes per row. -/
def cpLen (d : W256) : Nat := bits d 223 192 + 1
/-- Signed source row stride. -/
def cpSstride (d : W256) : Int := sext 32 (bits d 191 160)
/-- Signed destination row stride. -/
def cpDstride (d : W256) : Int := sext 32 (bits d 159 128)
/-- Weight key identifier. -/
def cpKeyid (d : W256) : Nat := bits d 127 96
/-- Sealed object identifier. -/
def cpObj (d : W256) : Nat := bits d 95 64
/-- MAC address. -/
def cpMac (d : W256) : Nat := bits d 55 0

/-- R345: the address of row `r`, modulo 2^64. -/
def rowAddr (base : Word) (stride : Int) (r : Nat) : Nat := (addInt base (stride * r)).toNat

/-! ## Units of an engine operation: what performs indivisibly (R324, R345) -/

/-- One unit of a copy: source address, destination address, bytes. -/
structure CopyUnit where
  src : Nat
  dst : Nat
  len : Nat
  deriving DecidableEq, Repr

/-- A unit's number: the row and the first byte in it. -/
def unitNo (r start : Nat) : Nat := r * 2 ^ 33 + start

/-- R345, R324: the unit numbers of one row: its destination cut at 64-byte lines. -/
def rowUnits (dst len r : Nat) : List Nat := (linesOf dst len).map (fun a => unitNo r (max a dst - dst))

/-- The units of a copy, row by row (R345). -/
def copyUnits (d : W256) (z : Word) : List Nat :=
  (List.range (cpRows d + 1)).flatMap (fun r =>
    rowUnits (rowAddr z (cpDstride d) r) (cpLen d) r)

/-- The unit of a number. -/
def copyUnit (d : W256) (x z : Word) (n : Nat) : CopyUnit :=
  let r := n / 2 ^ 33
  let o := n % 2 ^ 33
  let dst := rowAddr z (cpDstride d) r + o
  let src := rowAddr x (cpSstride d) r + o
  ⟨src, dst, min (64 - dst % 64) (cpLen d - o)⟩

/-! ## Scopes (R323, R326) -/

/-- R323, R327: the smallest scope whose instance at `a` reaches an address of the package's HBM; a steward's .di reaches
nothing. -/
def hbmScope (a : Agent) (u : Nat) : Nat := if kindOf a != .steward && dieOfRow (rowOfAddr u) == dieOf a then 4 else 5

/-- First fabric offset of window memory (R363). -/
def windowBase : Nat := 0x10000000000
/-- Bytes of window memory. -/
def windowBytes : Nat := 0x400000

/-- R323, R326: the smallest scope that reaches an offset of a peer's fabric space: the home words of the world's windows are
in .wi, a package with which it holds fabric sessions is in .jb. -/
def peerScope (s : State) (w n off : Nat) : Nat :=
  match (worldOf s w).job with
  | none => 8
  | some j =>
    if j.windows.any (fun d => d.home == n && decide (windowBase + d.base ≤ off) && decide (off < windowBase + d.base + d.size)) then 6
    else if bm j.members.toNat n then 7 else 8

/-- R323: the smallest scope whose instance at `a` reaches a physical address. -/
def physScope (s : State) (a : Agent) (w pa : Nat) : Nat :=
  match targetOf pa with
  | 0 => hbmScope a pa
  | 1 => 9
  | _ =>
    if some (peerOf pa) = s.pkg then (if fabOffset pa < hbmBytes then hbmScope a (fabOffset pa) else 5)
    else peerScope s w (peerOf pa) (fabOffset pa)

/-- R323: the smallest scope whose instance at `a` reaches a device virtual address; none for an address that has no
translation, which is no location. -/
def virtScope (s : State) (a : Agent) (w va : Nat) : List Nat :=
  match (translate s (dieOf a) w va false).1 with
  | .error _ => []
  | .ok pa => [physScope s a w pa]

/-- The smallest scope that reaches a place of a space of R342; none for the instruction half, which is no
location (R323). -/
def spaceScope (s : State) (a : Agent) (w sp addr : Nat) : List Nat :=
  match sp with
  | 0 => virtScope s a w addr
  | 1 => [1]
  | 2 => [3]
  | 3 => [1]
  | _ => []

/-- R323, R349: the smallest scope that reaches a global cluster from an agent. -/
def clusterScope (a : Agent) (k : Nat) : Nat :=
  if agTile a && clusterOfCore (agIdx a) = k then 3 else if k / 4 = dieOf a then 4 else 5

/-- The units of a copy still to perform; before the copy starts, all of them. -/
def opUnits (op : EngOp) : List Nat :=
  if op.todoSet then op.todo else copyUnits op.desc op.z

/-- The start of the pieces in which `n` bytes from `a` on are read or written: each lies in one line. -/
def pieces (a n : Nat) : List Nat := (linesOf a n).map (fun l => max l a - a)

/-- The scopes of the pages that a KROT has still to rotate. -/
def krotScopes (s : State) (op : EngOp) : List Nat :=
  dedup ((List.range (op.z.toNat - op.aux)).flatMap (fun i => virtScope s op.ag op.world (op.x.toNat + 65536 * (op.aux + i))))

/-- The scopes of the pieces `l` of a range of a space of R342. -/
def pieceScopes (s : State) (op : EngOp) (sp a : Nat) (l : List Nat) : List Nat :=
  dedup (l.flatMap (fun o => spaceScope s op.ag op.world sp (a + o)))

/-- The pieces of its source that a SEAL or UNSEAL of `n` source bytes has still to read. -/
def unread (op : EngOp) (a n : Nat) : List Nat :=
  if op.performed then [] else if op.todoSet then op.todo ++ (pieces a n).filter (fun o => op.todo.all (fun q => decide (q < o)))
  else pieces a n

/-- The pieces of its destination that a SEAL or UNSEAL of `n` destination bytes has still to write. -/
def unwritten (op : EngOp) (a n : Nat) : List Nat := if op.performed then op.todo else pieces a n

/-- Bytes of a checkpoint of `len` plaintext bytes (R401). -/
def ckptSize (len : Nat) : Nat :=
  let n := ceilDiv len 256
  256 + 256 * n + ceilDiv (8 * n) 256 * 256

/-- The scopes of an operation's writes that have left the engine and have not performed: WRITEs and REDs without their
acknowledgement, lines at the governor, and writes of host memory until the read behind them completes (R336, R369, R380). -/
def flightScopes (s : State) (op : EngOp) : List Nat :=
  let e := agEngine op.ag
  let msg := fun (m : FabMsg) => if m.opc = 3 then 6 else peerScope s op.world m.dst m.addr
  (s.fabReqs.filter (fun r => r.eng == e && r.num == op.num && r.dom.isNone && r.opc == 1)).map (fun r => peerScope s op.world r.dst r.addr) ++
    (s.governed.filter (fun g => g.op.elim false (fun o => o.1 == e && o.2.1 == op.num))).map (fun g => match g.out with
      | .fabric m => msg m
      | _ => 9) ++
    (if op.wroteHost then [9] else [])

/-- R345, R348: the scopes of what a unit of a copy reads: the pieces of its source; with MODE 1 the granules that it needs,
with their MACs. -/
def unitReads (s : State) (op : EngOp) (n : Nat) : List Nat :=
  let u := copyUnit op.desc op.x op.z n
  if cpMode op.desc = 1 then
    let o := u.src - op.x.toNat
    (List.range ((o + u.len - 1) / 256 - o / 256 + 1)).flatMap (fun k =>
      let i := o / 256 + k
      pieceScopes s op 0 (op.x.toNat + 256 * i) (pieces (op.x.toNat + 256 * i) 256) ++
        pieceScopes s op 0 (cpMac op.desc + 8 * i) (pieces (cpMac op.desc + 8 * i) 8))
  else pieceScopes s op (cpSsp op.desc) u.src (pieces u.src u.len)

/-- The scopes of the reads that a copy has still to perform: those of a unit that it holds have performed. -/
def copyReads (s : State) (op : EngOp) : List Nat :=
  dedup (((opUnits op).filter (fun n => op.held.map HeldUnit.unit != some n)).flatMap (unitReads s op))

/-- The scopes of the accesses an operation has still to perform. -/
def opScopes (s : State) (op : EngOp) : List Nat :=
  flightScopes s op ++ match op.kind with
  | .hatom => if op.performed then [1] else clusterScope op.ag (bits op.x 29 26) :: (if op.ret then [1] else [])
  | .red => [6]
  | .krot => krotScopes s op
  | .scrub =>
    match op.op with
    | 0 => [1]
    | 1 => [3]
    | _ => [4]
  | .seal => pieceScopes s op (cpSsp op.desc) op.x.toNat (unread op op.x.toNat (cpLen op.desc)) ++
      pieceScopes s op 0 op.z.toNat (unwritten op op.z.toNat (ckptSize (cpLen op.desc)))
  | .unseal => pieceScopes s op 0 op.x.toNat (unread op op.x.toNat (ckptSize (cpLen op.desc))) ++
      pieceScopes s op (cpDsp op.desc) op.z.toNat (unwritten op op.z.toNat (cpLen op.desc))
  | _ =>
    copyReads s op ++ dedup ((opUnits op).flatMap (fun n =>
      spaceScope s op.ag op.world (cpDsp op.desc) (copyUnit op.desc op.x op.z n).dst))

/-- Engine number under which drain atomics are awaited. -/
def drainEngine : Nat := 200

/-- AMX as a scope: .co, .cl or .pk (R272). -/
def amxScope (amx : Nat) : Nat := if amx = 1 then 2 else if amx = 2 then 3 else 5

/-- The operation still has an access within the scope to perform (R330, R331). -/
def opBusy (s : State) (scope : Nat) (p : Nat × Nat) : Bool :=
  if p.1 = drainEngine then s.atomics.any (fun d => d.id == p.2 && decide (amxScope d.amx ≤ scope))
  else
    match (engineOf s p.1).ops.find? (fun op => op.num = p.2) with
    | none => false
    | some op => (opScopes s op).any (fun k => decide (k ≤ scope))

/-- R330: what a barrier's arrival waits for: the operation as for a fence, a drain atomic whatever its scope (R272). -/
def arrivalBusy (s : State) (scope : Nat) (p : Nat × Nat) : Bool :=
  if p.1 = drainEngine then s.atomics.any (fun d => d.id == p.2) else opBusy s scope p

/-- The task identity of a context, as operations keep it. -/
def tidOf (x : Ctx) : Nat × Nat := (x.task.launch, x.task.tile)

/-- The task of a context issued the operation. -/
def mineOp (x : Ctx) (op : EngOp) : Bool :=
  x.live && op.tid == tidOf x && op.world == x.task.world && op.entry == x.entryAt

/-- The operations of a context's task in flight (R329). A drain atomic counts as issued in its call's last busy cycle. -/
def taskOps (s : State) (a : Agent) : List (Nat × Nat) :=
  let x := ctxOf s a
  ((engineOf s (agEngine a)).ops.filter (fun op => op.ag = a && mineOp x op)).map
    (fun op => (agEngine a, op.num)) ++
  (s.atomics.filter (fun d => d.ag = a && d.world = x.task.world && d.launch = x.task.launch && !d.running)).map
    (fun d => (drainEngine, d.id))

/-- R331: the operation has a source or destination in the core's own Spool or spill. -/
def opOwnStore (op : EngOp) : Bool :=
  match op.kind with
  | .hatom => op.ret
  | .red => false
  | .krot => false
  | .scrub => op.op == 0
  | .seal => cpSsp op.desc == 1 || cpSsp op.desc == 3
  | .unseal => cpDsp op.desc == 1 || cpDsp op.desc == 3
  | _ => cpSsp op.desc == 1 || cpSsp op.desc == 3 || cpDsp op.desc == 1 || cpDsp op.desc == 3

/-- R331: the operations a fence of the task looks at; not those with a source or destination in the core's own Spool or spill,
drain atomics on its Spool among them. -/
def fenceOps (s : State) (a : Agent) : List (Nat × Nat) :=
  (taskOps s a).filter (fun p =>
    if p.1 = drainEngine then !s.atomics.any (fun d => d.id == p.2 && d.amx == 1)
    else ((engineOf s p.1).ops.find? (fun op => op.num = p.2)).elim false (fun op => !opOwnStore op))

/-! ## Timelines (R337-R340) -/

/-- KIND of a TLID (R82). -/
def tlKind (t : Nat) : Nat := t / 2 ^ 28
/-- INDEX of a TLID. -/
def tlIndex (t : Nat) : Nat := t % 2 ^ 28

/-- R339: the TLID a handle is bound to. -/
def handleTl (s : State) (a : Agent) (k : Nat) : Nat :=
  if k = 0 then 5 * 2 ^ 28 + agEngine a
  else
    match a with
    | .steward _ => if k = 1 then 4 * 2 ^ 28 else 1 * 2 ^ 28 + (k - 2)
    | _ => (ctxOf s a).task.tlbind.getD (k - 1) 0

/-- R377: a window with this index, homed here, is installed for the world. -/
def collValid (s : State) (w n : Nat) : Bool :=
  match (worldOf s w).job with
  | some j => j.windows.any (fun d => d.window == n && some d.home == s.pkg)
  | none => false

/-- R82, R339, R377: the timeline exists for the world. -/
def tlValid (s : State) (w t : Nat) : Bool :=
  match tlKind t with
  | 1 => decide (tlIndex t < 1024)
  | 2 => decide (tlIndex t < 256) && bm (funcOf s (funcOfWorld w)).layout.channels.toNat (tlIndex t)
  | 3 => decide (tlIndex t < 64) && collValid s w (tlIndex t)
  | 4 => tlIndex t == 0
  | 5 => decide (tlIndex t < 72)
  | _ => false

/-- VALUE of a timeline (R337). -/
def tlValue (s : State) (w t : Nat) : Nat :=
  match tlKind t with
  | 1 => tabGet 0 (worldOf s w).signals (tlIndex t)
  | 2 => (chanOf s (tlIndex t)).tlValue
  | 3 => (tabGet ⟨0, none⟩ s.colls (tlIndex t)).value
  | 4 => (worldOf s w).launchTl.value
  | 5 => (engineOf s (tlIndex t)).value
  | _ => 0

/-- R338, R352: the fail record that a context sees on a timeline. -/
def tlFail (s : State) (a : Agent) (w t : Nat) : Option (Nat × Nat) :=
  match tlKind t with
  | 3 => (tabGet ⟨0, none⟩ s.colls (tlIndex t)).fail
  | 4 => (worldOf s w).launchTl.fail
  | 5 => (ctxOf s a).failRec
  | _ => none

/-- R338: DEAD. -/
def tlDead (s : State) (t : Nat) : Bool := tlKind t == 2 && (chanOf s (tlIndex t)).dead

/-- R352 Met. -/
def tlMet (s : State) (a : Agent) (w t n : Nat) : Bool :=
  decide (n ≤ tlValue s w t) || tlDead s t || (tlFail s a w t).elim false (fun f => decide (f.2 ≤ n))

/-- R352 Ok. -/
def tlOk (s : State) (a : Agent) (w t n : Nat) : Bool :=
  decide (n ≤ tlValue s w t) && !(tlFail s a w t).elim false (fun f => decide (f.2 ≤ n))

/-- R337: the largest n for which 1 to n have completed, from the numbers completed out of order. -/
def advanceValue : Nat → Nat → List Nat → Nat × List Nat
  | 0, v, done => (v, done)
  | fuel + 1, v, done =>
    if done.elem (v + 1) then advanceValue fuel (v + 1) (done.filter (· != v + 1)) else (v, done)

/-- R338: a failure with cause `c` of operation `k` enters a fail record. -/
def recordFail (r : Option (Nat × Nat)) (c k : Nat) : Option (Nat × Nat) :=
  match r with
  | none => some (c, k)
  | some p => if p.2 < k then some p else some (c, k)

/-- R337, R338: an operation of a copy-engine context completes; a failed one counts as completed. -/
def completeOp (s : State) (e num : Nat) : State :=
  let k := engineOf s e
  match k.ops.find? (fun op => op.num = num) with
  | none => s
  | some op =>
    let done := num :: k.done
    let v := advanceValue done.length k.value done
    let s1 := modEngine s e (fun k =>
      { k with ops := k.ops.filter (fun op => op.num != num), value := v.1, done := v.2 })
    let x := ctxOf s1 op.ag
    let s2 := if mineOp x op then
        match op.fail with
        | some c => setCtx s1 op.ag { x with failRec := recordFail x.failRec c num }
        | none => s1
      else s1
    if op.kind = .cpy || op.kind = .cpyr then countEvent op.ag 0x05 1 s2 else s2

/-- R337: an operation of a channel timeline completes. -/
def completeChan (s : State) (ch num : Nat) : State :=
  modChan s ch (fun c =>
    let v := advanceValue (c.tlDone.length + 1) c.tlValue (num :: c.tlDone)
    { c with tlValue := v.1, tlDone := v.2 })

/-- R340: takes the next number of a copy-engine context. -/
def nextOpNum (s : State) (a : Agent) : Nat := (engineOf s (agEngine a)).issued + 1

/-- A numbered operation with nothing filled in but who issues it. -/
def newOp (s : State) (kind : EngKind) : EngOp :=
  let a := curAgent s
  let x := curCtx s
  { num := nextOpNum s a, kind := kind, ag := a, world := x.task.world, tid := tidOf x, entry := x.entryAt, desc := 0, x := 0,
    z := 0, op := 0, scope := 0, ret := false, cmp := 0, queued := false, started := false, taken := none,
    todo := [], todoSet := false, at_ := s.gcyc + 1, fail := none, stopped := false, governed := false,
    aux := 0, nonce := 0, performed := false,
    gang := x.task.gang, waitPage := none, fetched := [], lost := [], pages := [], data := [], bad := [], held := none, wroteHost := false
    hostRead := none }

/-- Enqueues a numbered operation. -/
def issueOp (op : EngOp) (s : State) : State :=
  modEngine s (agEngine op.ag) (fun k => { k with issued := op.num, ops := k.ops ++ [op] })

/-- Replaces an operation in flight. -/
def setOp (s : State) (e : Nat) (op : EngOp) : State :=
  modEngine s e (fun k => { k with ops := k.ops.map (fun q => if q.num = op.num then op else q) })

/-! ## Domains (R354-R357) -/

/-- R87: the domain of a task. -/
def domKey (t : Task) : DomKey :=
  if t.level = 4 then ⟨t.world, 0, t.djob, true⟩ else ⟨t.world, t.launch, t.gang, false⟩

/-- R330: the domain scope of a level. -/
def domScope (level : Nat) : Nat :=
  match level with
  | 1 => 3
  | 2 => 4
  | 3 => 5
  | _ => 7

/-- The instance of a domain. -/
def domOf (s : State) (k : DomKey) : Option Dom := s.doms.find? (fun d => d.key = k)

/-- Changes an instance. -/
def modDom (s : State) (k : DomKey) (f : Dom → Dom) : State :=
  { s with doms := s.doms.map (fun d => if d.key = k then f d else d) }

/-- R357: the landing delay of a level: exact for a cluster and a die, free within its bounds for a package and
for a job (R378), whose delays have no fixed value. -/
def landingDelay (s : State) (level : Nat) : Nat × State :=
  match level with
  | 1 => (2, s)
  | 2 => (6, s)
  | 3 => freeIn s 16 64
  | _ => freeIn s 2 8000

/-- R357: the resume delay of a level. -/
def resumeDelay (s : State) (level : Nat) : Nat × State :=
  match level with
  | 1 => (2, s)
  | 2 => (6, s)
  | 3 => freeIn s 16 64
  | _ => freeIn s 2 8000

/-- R355: an arrival or a drop of an agent, landing Ta after GCYC `t`, once its release has taken effect. -/
def domSend (s : State) (a : Agent) (t : Nat) (drop withdraw : Bool) : State :=
  let x := ctxOf s a
  let k := domKey x.task
  let d := landingDelay s x.task.level
  let due : DomDue := ⟨t + d.1, taskOps s a, domScope x.task.level, a, drop, withdraw⟩
  modDom d.2 k (fun m =>
    { m with
      pending := if drop then m.pending.filter (· != a) else if m.pending.elem a then m.pending else m.pending ++ [a]
      due := m.due ++ [due] })

/-- The agent has an arrival pending in its domain's open phase. -/
def domPending (s : State) (a : Agent) : Bool :=
  ((domOf s (domKey (ctxOf s a).task)).elim [] (·.pending)).elem a

/-- R355: drops an agent's task from its domain, as BARD does; a task that belongs to none, or has dropped,
drops nothing. -/
def domDrop (s : State) (a : Agent) : State :=
  let x := ctxOf s a
  if x.task.level = 0 || x.dropped then s
  else modCtx (domSend s a s.gcyc true (domPending s a)) a (fun x => { x with dropped := true })

end Sys2Proof.Machine
end

