-- ==== Sys2Proof/Machine/Fetch.lean ====
section
/-!
DEFINITION. Fetching code: which addresses a context can fetch from, how its granules are opened
(spec/06_fetch_and_issue.md R117, R118; spec/04_launch_and_scheduling.md R76; spec/13_memory_channels_and_segmented_banks.md R298; spec/17_interruption_and_preemption.md R397), the half descriptor and the
check of granules (spec/07_scalar_and_control_instructions.md R170-R172).
-/

namespace Sys2Proof.Machine

/-- Bytes of a half of the instruction scratchpad (R16). -/
def halfBytes : Nat := 0x100000
/-- Offset in a half beyond which nothing is fetched (R117). -/
def codeBytes : Nat := 0xF8000
/-- Offset of the urgent section in its half (R397). -/
def urgentOff : Nat := 0xE0000

/-- Where a context's code stands: the store's first address, the offset in the section that counts from
there, the section's bytes, its SID and nonce. -/
structure CodeArea where
  base : Nat
  len : Nat
  sid : Nat
  nonce : Word
  deriving DecidableEq, Repr

/-- The latched descriptor of a half. -/
def halfDesc (x : Ctx) (h : Nat) : HalfDesc := if h = 0 then x.half0 else x.half1

/-- R117, R298, R397: the area from which a context fetches. A tile core fetches from its active half only. -/
def codeArea (s : State) (a : Agent) : CodeArea :=
  let x := ctxOf s a
  match a with
  | .tile _ =>
    let d := halfDesc x x.activeHalf
    ⟨x.activeHalf * halfBytes, min codeBytes (d.ngran * 256), d.sid, d.nonce⟩
  | .urgent c =>
    let k := coreOf s c
    ⟨k.urgentHalf * halfBytes + urgentOff, k.urgentGran * 256, x.image.codeSid, x.image.nonce⟩
  | _ => ⟨0, x.image.codeLen, x.image.codeSid, x.image.nonce⟩

/-- The store that holds a context's code. -/
def codeStore (s : State) (a : Agent) : Mem :=
  match a with
  | .tile c => (coreOf s c).imem
  | .urgent c => (coreOf s c).imem
  | .channel n => (chanOf s n).istore
  | .steward n => tabGet [] s.stewCode n

/-- R117: the fetch at an address is refused. -/
def fetchRefused (s : State) (a : Agent) (pc : Nat) : Bool :=
  let r := codeArea s a
  decide (pc < r.base) || decide (r.base + r.len ≤ pc)

/-- R118: the plaintext words of at most eight words from an address to the end of its area. -/
def fetchWords (s : State) (a : Agent) (pc : Nat) : List Nat :=
  let r := codeArea s a
  let off := pc - r.base
  let n := min 32 (r.len - off)
  wordsOfBytes (toBytes (sectionOpen (ctxOf s a).image.kenc r.nonce r.sid off
    (toNats (memBytes (codeStore s a) pc n))))

/-- An instruction address has 21 bits (R117). -/
def pcMask (n : Nat) : Nat := n % 2 ^ 21

/-- The bundle at an address, for looking ahead: its length and IDLE count; none where the fetch is
refused. -/
def peekHeader (s : State) (a : Agent) (pc : Nat) : Option (Nat × Nat) :=
  if fetchRefused s a pc then none
  else
    match fetchWords s a pc with
    | [] => none
    | w :: _ => some ((decodeHeader w).bytes, (decodeHeader w).idle)

/-- R164: the address of the first bundle after a branch at `t` that does not issue because of the branch;
`pc` would issue at `at_`. -/
def afterShadow (s : State) (a : Agent) (t : Nat) : Nat → Nat → Nat → Nat
  | 0, pc, _ => pc
  | n + 1, pc, at_ =>
    if t + 3 ≤ at_ then pc
    else
      match peekHeader s a pc with
      | none => pc
      | some h => afterShadow s a t n (pcMask (pc + h.1)) (at_ + 1 + h.2)

/-! ## The idle half -/

/-- The idle half of a context's core. -/
def idleHalf (x : Ctx) : Nat := 1 - x.activeHalf

/-- R397: the context is a reduced task in an urgent-capable cluster (DEDUCED, log entry 57). -/
def urgentLimited (s : State) (a : Agent) : Bool :=
  let x := ctxOf s a
  x.task.reduced && bm (funcOf s (funcOfWorld x.task.world)).layout.urgent.toNat (clusterOfCore (agIdx a))

/-- R171: the descriptor read from a half's last KiB. -/
def readHalfDesc (s : State) (a : Agent) (h : Nat) : HalfDesc :=
  let m := (coreOf s (agIdx a)).imem
  let b := h * halfBytes + 0xFFC00
  let n := memNat m (b + 4) 4
  let resv := (m.any (fun c => decide (b + 16 ≤ c.1) && decide (c.1 < b + 1024))) || memNat m (b + 2) 2 != 0
  let top := if urgentLimited s a then 3584 else 3968
  ⟨memNat m b 2, if resv || decide (top < n) then 0 else n, wd (memNat m (b + 8) 8)⟩

/-- R171: latches the idle half's descriptor and sets the fence state. -/
def latchIdle (a : Agent) (s : State) : State :=
  let x := ctxOf s a
  let d := readHalfDesc s a (idleHalf x)
  let x := if idleHalf x = 0 then { x with half0 := d } else { x with half1 := d }
  setCtx s a { x with fence := true }

/-- R172: the stored MACs of granules `g0` to `g0 + c - 1` of the idle half are those of R14, under the KMAC of the task's
image key and the latched NONCE. -/
def verifyGranules (s : State) (a : Agent) (g0 c : Nat) : Bool :=
  let x := ctxOf s a
  let h := idleHalf x
  let d := halfDesc x h
  let m := (coreOf s (agIdx a)).imem
  let kmac := (imageKeys x.image.key d.nonce).2
  (List.range c).all (fun i =>
    let g := g0 + i
    memNat m (h * halfBytes + codeBytes + 8 * g) 8 ==
      granuleMac kmac d.sid g (toNats (memBytes m (h * halfBytes + 256 * g) 256)))

end Sys2Proof.Machine
end

