-- ==== Sys2Proof/Machine/Csr.lean ====
section
/-!
DEFINITION. The control and status registers (spec/07_scalar_and_control_instructions.md R159-R161; spec/13_memory_channels_and_segmented_banks.md R302; spec/17_interruption_and_preemption.md R387, R388;
spec/20_observation_and_bring_up.md R417, R418): who may access which, what a read yields, what a write stores.
-/

namespace Sys2Proof.Machine

/-- How a core kind may access a CSR. -/
inductive CsrAccess where
  | none
  | ro
  | rw
  deriving DecidableEq, Repr

/-- R160, R302, R387, R417: the access columns of the tile core. -/
def csrTile (n : Nat) : CsrAccess :=
  if n ≤ 0x00A || (0x010 ≤ n && n ≤ 0x012) || n = 0x018 then .ro
  else if 0x019 ≤ n && n ≤ 0x01D then .rw
  else if n = 0x01E || (0x020 ≤ n && n ≤ 0x024) then .ro
  else if n = 0x025 then .rw
  else if n = 0x026 || n = 0x027 then .ro
  else if 0x034 ≤ n && n ≤ 0x037 then .rw
  else if 0x038 ≤ n && n ≤ 0x03B then .ro else .none

/-- The access column of the steward core, which always runs a control task. -/
def csrSteward (n : Nat) : CsrAccess :=
  if n = 0x01C || n = 0x01D || n = 0x01E then .none
  else if 0x030 ≤ n && n ≤ 0x033 then .rw
  else csrTile n

/-- The access column of the channel core. -/
def csrChannel (n : Nat) : CsrAccess :=
  if (0x005 ≤ n && n ≤ 0x008) || n = 0x010 || n = 0x018 then .ro
  else if n = 0x019 then .rw
  else if 0x020 ≤ n && n ≤ 0x024 then .ro
  else if 0x040 ≤ n && n ≤ 0x042 then .ro
  else if n = 0x043 then .rw
  else if n = 0x044 || n = 0x045 then .ro else .none

/-- R160: the access of an agent to a CSR. -/
def csrAccess (a : Agent) (n : Nat) : CsrAccess :=
  match kindOf a with
  | .tile => csrTile n
  | .steward => csrSteward n
  | .channel => csrChannel n

/-- R86, R160: CORE. -/
def csrCore : Agent → Nat
  | .tile c => c % 4
  | .urgent c => c % 4
  | .channel n => n
  | .steward n => n

/-- R86, R160: CLUSTER. -/
def csrCluster : Agent → Nat
  | .tile c => c / 4 % 4
  | .urgent c => c / 4 % 4
  | .channel n => n % 64 / 16
  | .steward _ => 0

/-- R86, R160: DIE. -/
def csrDie : Agent → Nat
  | .tile c => c / 16
  | .urgent c => c / 16
  | .channel n => n / 64
  | .steward _ => 0

/-- R87: DMR. -/
def dmrOf (t : Task) : Nat :=
  t.member * 2 ^ 40 + t.level * 2 ^ 32 +
    (if t.level = 0 then 0 else if t.level = 4 then t.djob else t.gang)

/-- R425: the codes of the table. -/
def eventListed (e : Nat) : Bool := (decide (1 ≤ e) && decide (e ≤ 7)) || (decide (0x10 ≤ e) && decide (e ≤ 0x13))

/-- R424, R426: the event is allowed for the function of a context's world. -/
def eventAllowed (s : State) (x : Ctx) (e : Nat) : Bool :=
  eventListed e && bm (funcOf s (funcOfWorld x.task.world)).allow.toNat e

/-- R424: EVCNTk as read: zero while its event is not allowed (DEDUCED, log entry 20). -/
def evcntValue (s : State) (x : Ctx) (k : Nat) : Word :=
  let e := (tabGet 0 x.evsel k).toNat % 256
  if e = 0 || eventAllowed s x e then tabGet 0 x.evcnt k else 0

/-- R302: the debts of a channel's 32 banks. -/
def debtOf (c : Chan) (b : Nat) : Int := tabGet 0 c.debt b

/-- R302: the lowest bank whose debt is the largest. -/
def maxDebt (c : Chan) : Nat × Int :=
  (List.range 32).foldl (fun m b => if m.2 < debtOf c b then (b, debtOf c b) else m) (0, debtOf c 0)

/-- R302: REFDEBT. -/
def refDebtValue (c : Chan) : Nat :=
  let m := maxDebt c
  m.1 * 256 + (BitVec.ofInt 8 m.2).toNat

/-- R302: VALID and DIRTY of the rows 0-31 of a subarray; pinned rows read 0. -/
def cacheStatus (s : State) (ch bank sub : Nat) : Nat :=
  let c := chanOf s ch
  (List.range 32).foldl (fun n r =>
    let q := rowNumber ch bank (512 * sub + r)
    if isCacheRow s q then
      n + (c.valid.elem q).toNat * 2 ^ (32 + r) + ((c.valid.elem q && c.dirty.elem q)).toNat * 2 ^ r
    else n) 0

/-- R302: the CSRs of a channel core. -/
def csrChannelValue (s : State) (ch : Nat) (x : Ctx) (n : Nat) : Nat :=
  let c := chanOf s ch
  let bank := bf x.vicsel 10 6
  let sub := bf x.vicsel 5 0
  match n with
  | 0x040 => c.tlValue
  | 0x041 => c.pin.toNat
  | 0x042 => refDebtValue c
  | 0x043 => x.vicsel
  | 0x044 => victimOf c bank sub
  | _ => cacheStatus s ch bank sub

/-- The value of a CSR for the current cycle of its context (R138, R159-R161, R388, R418). -/
def csrValue (s : State) (a : Agent) (n : Nat) : Word :=
  let x := ctxOf s a
  let t := x.task
  let w := worldOf s t.world
  match n with
  | 0x000 => wd (t.launch % 2 ^ 40 * 2 ^ 24 + t.tile)
  | 0x001 => wd t.tile0
  | 0x002 => wd t.tile1
  | 0x003 => wd t.tile2
  | 0x004 => wd t.ncores
  | 0x005 => wd (csrCore a)
  | 0x006 => wd (csrCluster a)
  | 0x007 => wd (csrDie a)
  | 0x008 => wd t.world
  | 0x009 => wd (dmrOf t)
  | 0x00A => wd x.phase
  | 0x010 => wd s.gcyc
  | 0x011 => wd (ttimeOf x)
  | 0x012 => wd t.budget
  | 0x018 => x.lc
  | 0x019 => wd (x.preds.toNat / 4 * 4 + 1)
  | 0x01A => wd x.rmode
  | 0x01B => x.seed
  | 0x01C => x.vtype0
  | 0x01D => x.vtype1
  | 0x01E => wd x.mpc
  | 0x020 => wd x.faultCause
  | 0x021 => wd x.faultPc
  | 0x022 => wd x.faultSlot
  | 0x023 => wd x.faultWord
  | 0x024 => wd x.doneMask
  | 0x025 => wd x.tvec
  | 0x026 => wd (x.estatStage.toNat * 256 + x.estatH.toNat)
  | 0x027 => x.elc
  | 0x030 => wd w.troot
  | 0x031 => wd w.saveBase
  | 0x032 => wd w.cmplBase
  | 0x033 => wd w.slubBase
  | 0x034 => tabGet 0 x.evsel 0
  | 0x035 => tabGet 0 x.evsel 1
  | 0x036 => tabGet 0 x.evsel 2
  | 0x037 => tabGet 0 x.evsel 3
  | 0x038 => evcntValue s x 0
  | 0x039 => evcntValue s x 1
  | 0x03A => evcntValue s x 2
  | 0x03B => evcntValue s x 3
  | _ => wd (csrChannelValue s (agIdx a) x n)

/-! ## What a write stores -/

/-- R228: the bits a write of VTYPE stores. -/
def vtypeStore (v : Nat) : Nat :=
  let glog := if 8 < bf v 29 26 then 8 else bf v 29 26
  let ct := if 8 < bf v 15 12 then 0 else bf v 15 12
  let mode := if 4 < bf v 10 8 then 0 else bf v 10 8
  let et := if 4 < bf v 2 0 then 0 else bf v 2 0
  glog * 2 ^ 26 + bf v 25 21 * 2 ^ 21 + bf v 20 16 * 2 ^ 16 + ct * 2 ^ 12 + bf v 11 11 * 2 ^ 11 +
    mode * 2 ^ 8 + bf v 3 3 * 8 + et

/-- R153: a write of 5-7 to RMODE stores 0. -/
def rmodeStore (v : Nat) : Nat := if 4 < v % 8 then 0 else v % 8

/-- R161: a write of PRED sets each pair from its even bit. -/
def predStore (p : BitVec 16) (v : Nat) : BitVec 16 :=
  [2, 4, 6].foldl (fun p k => setPred (setPred p k (bm v k)) (k + 1) (!bm v k)) p

/-- R159: a CSR write takes effect. -/
def applyCsr (a : Agent) (n : Nat) (v : Word) (s : State) : State :=
  let u := v.toNat
  let w := (ctxOf s a).task.world
  match n with
  | 0x019 => modCtx s a (fun x => { x with preds := predStore x.preds u })
  | 0x01A => modCtx s a (fun x => { x with rmode := rmodeStore u })
  | 0x01B => modCtx s a (fun x => { x with seed := v, lfsr := lfsrSeed v })
  | 0x01C => modCtx s a (fun x => { x with vtype0 := wd (vtypeStore u) })
  | 0x01D => modCtx s a (fun x => { x with vtype1 := wd (vtypeStore u) })
  | 0x025 => modCtx s a (fun x => { x with tvec := u % 2 ^ 21 / 4 * 4 })
  | 0x030 => dropWorldTrans (modWorld s w (fun x => { x with troot := u })) w
  | 0x031 => modWorld s w (fun x => { x with saveBase := bf u 55 21 * 2 ^ 21 })
  | 0x032 => modWorld s w (fun x => { x with cmplBase := bf u 55 25 * 2 ^ 25 })
  | 0x033 => modWorld s w (fun x => { x with slubBase := bf u 55 22 * 2 ^ 22 })
  | 0x034 => modCtx s a (fun x => { x with evsel := tabSet x.evsel 0 (wd (u % 256)) })
  | 0x035 => modCtx s a (fun x => { x with evsel := tabSet x.evsel 1 (wd (u % 256)) })
  | 0x036 => modCtx s a (fun x => { x with evsel := tabSet x.evsel 2 (wd (u % 256)) })
  | 0x037 => modCtx s a (fun x => { x with evsel := tabSet x.evsel 3 (wd (u % 256)) })
  | 0x043 => modCtx s a (fun x => { x with vicsel := u % 2 ^ 11 })
  | _ => s

/-- R424: the write of an EVSEL with an event that is not allowed and whose MODE is 1. -/
def evselDenied (s : State) (n : Nat) (v : Word) : Bool :=
  let x := curCtx s
  let e := v.toNat % 256
  decide (0x034 ≤ n) && decide (n ≤ 0x037) && e != 0 && !eventAllowed s x e &&
    bm (funcOf s (funcOfWorld x.task.world)).mode.toNat e

/-- R428: EVDENY counts a MODE 1 trap of a function. -/
def noteEvDeny (s : State) : State :=
  let f := funcOfWorld (curCtx s).task.world
  let n := (s.dbg.evdeny.toNat + 1) % 2 ^ 16
  { s with dbg := { s.dbg with evdeny := wd (f * 2 ^ 16 + n) } }

/-- CSRRD (R159). -/
def execCsrrd (o : CsrRd) : State → Out :=
  execSlot o.g (fun s =>
    if csrAccess (curAgent s) o.c = .none then .error 0x0D
    else writeReg 1 o.d o.q (csrValue s (curAgent s) o.c) s)

/-- CSRWR (R159, R424): the write takes effect for slots and engines issued at t + 1 or later (DEDUCED, log entry 14). -/
def execCsrwr (o : CsrWr) (s : State) : Out :=
  let denied := guardTrue o.g s && csrAccess (curAgent s) o.c == .rw &&
    (match source o.a o.m s with
      | .ok (v, _) => evselDenied s o.c v
      | .error _ => false)
  execSlot o.g (fun s => do
    let (v, s) ← source o.a o.m s
    need 0x0D (csrAccess (curAgent s) o.c == .rw && !denied)
    .ok (land 1 (.csr o.c v) s)) (if denied then noteEvDeny s else s)

end Sys2Proof.Machine
end

