-- ==== Sys2Proof/Machine/Control.lean ====
section
/-!
DEFINITION. The control instructions of slot A (spec/07_scalar_and_control_instructions.md R162-R174), but for TEXIT. Hardware loops, the change
of code halves, traps by instruction, return from a handler, and debug stops (spec/20_observation_and_bring_up.md R430).
-/

namespace Sys2Proof.Machine

/-- R122: a taken branch whose target issues at `t + 3`. -/
def takeBranch (target : Nat) (swap eret : Bool) (s : State) : State :=
  modIssue (modCur s (fun x => { x with branch := some ⟨target, curT s + 3, swap, eret⟩ }))
    (fun u => { u with taken := true })

/-- The address of the bundle being issued, the address after it, and its IDLE count. -/
def curPc (s : State) : Nat := s.cur.elim 0 (·.pc)
/-- The sequential successor of the bundle being issued. -/
def curSucc (s : State) : Nat := s.cur.elim 0 (·.succ)
/-- The IDLE count of the bundle being issued. -/
def curIdle (s : State) : Nat := s.cur.elim 0 (·.hdr.idle)
/-- The bundle being issued is a shadow bundle (R122). -/
def curShadow (s : State) : Bool := s.cur.elim false (·.shadow)

/-- R163: PC + 4 SInt(OFF), an address of 21 bits. -/
def relTarget (pc k o : Nat) : Nat := (((pc : Int) + 4 * sext k o) % (2 ^ 21 : Nat)).toNat

/-- BR (R163). -/
def execBr (o : Br) : State → Out :=
  execSlot o.g (fun s => .ok (takeBranch (relTarget (curPc s) 22 o.o) false false s))

/-- BRL (R164): the return address is written to s31. -/
def execBrl (o : Brl) : State → Out :=
  execSlot o.g (fun s => do
    let ra := afterShadow s (curAgent s) (curT s) 3 (curSucc s) (curT s + 1 + curIdle s)
    let s ← writeReg 1 31 o.l (wd ra) s
    .ok (takeBranch (relTarget (curPc s) 21 o.o) false false s))

/-- BRI (R165). -/
def execBri (o : SA) : State → Out :=
  execSlot o.g (fun s => do
    let (a, s) ← source o.a o.m s
    need 0x07 (decide (a.toNat < 2 ^ 21) && a.toNat % 4 == 0)
    .ok (takeBranch a.toNat false false s))

/-! ## Loops (R166-R169) -/

/-- R167: LC.OPEN. -/
def lcOpen (lc : Word) : Bool := bm lc.toNat 63
/-- R167: LC.STAGES. -/
def lcStages (lc : Word) : Nat := bits lc 58 56
/-- R167: LC.START. -/
def lcStart (lc : Word) : Nat := bits lc 52 32
/-- R167: LC.REMAIN. -/
def lcRemain (lc : Word) : Nat := bits lc 31 0

/-- R167: the word of an open loop. -/
def lcWord (stages start remain : Nat) : Word :=
  wd (2 ^ 63 + stages * 2 ^ 56 + start * 2 ^ 32 + remain)

/-- R168 LoopOpen: `st` is ST, so s - 1. -/
def loopOpen (n st : Nat) (s : State) : Except Nat State := do
  need 0x04 (!lcOpen (curCtx s).lc && !curShadow s)
  let s1 := land 1 (.lc (lcWord st (curSucc s) (n - 1))) s
  .ok (land 1 (.stage (if n = 0 then 0 else 1)) s1)

/-- LOOP: n is UInt(a[31:0]). -/
def execLoop (o : Loop) : State → Out :=
  execSlot o.g (fun s => do
    let (a, s) ← source o.a o.m s
    loopOpen (bits a 31 0) o.s s)

/-- LOOPI with K = 0. -/
def execLoopi (o : LoopI) : State → Out := execSlot o.g (fun s => loopOpen o.c o.s s)

/-- LOOPI.k closes any open loop (R168 LoopClose) (DEDUCED, log entry 11). -/
def execLoopiK (o : G) : State → Out :=
  execSlot o.g (fun s => .ok (land 1 (.stage 0) (land 1 (.lc 0) s)))

/-- R168 LoopEnd: the new stage predicates, the new LC, and whether the loop goes on at START. -/
def loopEnd (lc : Word) (stage : Nat) : Nat × Word × Bool :=
  let g := stage * 2 % 256
  let r := lcRemain lc
  let g := if 0 < r then g + 1 else g
  let r := r - 1
  if g % 2 ^ (lcStages lc + 1) ≠ 0 then (g, lcWord (lcStages lc) (lcStart lc) r, true) else (0, 0, false)

/-- R168: makes the loop-end step of the bundle being issued; what LOOPI.k of the same bundle lands
stands (log entry 11). Answers whether the loop goes on at START. -/
def makeLoopEnd (s : State) : State × Bool :=
  let x := curCtx s
  let t := curT s
  let e := loopEnd x.lc (stageOf x)
  let new : List InFlight := [⟨t + 1, t, 0, .lc e.2.1⟩, ⟨t + 1, t, 0, .stage (BitVec.ofNat 8 e.1)⟩]
  (modCur s (fun x => { x with pend := new ++ x.pend }), e.2.2)

/-! ## Changing code (R171-R173) -/

/-- R396: BSWAP, IFENCE and IVERIFY trap 0x0D in the urgent context. -/
def notUrgent (s : State) : Except Nat Unit := need 0x0D (!agUrgent (curAgent s))

/-- R171: a copy has still to write into the idle half of a context's core; one that names the active half writes nothing
(R119), and is not waited for (spec/18_programs_gemm_and_overlay.md R413). -/
def idleBusy (s : State) (a : Agent) (p : Nat × Nat) : Bool :=
  ((engineOf s p.1).ops.find? (fun q => q.num = p.2)).elim false (fun q =>
    (q.kind == .cpy || q.kind == .cpyr) && cpDsp q.desc == 4 &&
      (opUnits q).any (fun n => (copyUnit q.desc q.x q.z n).dst / halfBytes == idleHalf (ctxOf s a)))

/-- R171: the task's copies into the idle half that have not performed. -/
def idleCopies (s : State) : List (Nat × Nat) := (taskOps s (curAgent s)).filter (idleBusy s (curAgent s))

/-- R171: the task's yarns into the half that is idle now that are open. One that was started before a BSWAP names the other
half; all beats of a yarn lie in one (R214). -/
def idleYarns (s : State) : List Nat :=
  let a := curAgent s
  (((coreOf s (agIdx a)).open_).filter (fun y => y.ag = a && bits y.desc 251 248 == 7 &&
    (bits y.desc 159 128 + y.z) % 2 ^ 32 / halfBytes == idleHalf (curCtx s))).map (·.y)

/-- IFENCE (R171). On a steward core it has no effect. -/
def execIfence (o : G) : State → Out :=
  execSlot o.g (fun s =>
    if kindOf (curAgent s) = .steward then .ok s
    else do
      notUrgent s
      let ops := idleCopies s
      let ys := idleYarns s
      if ops.isEmpty && ys.isEmpty then .ok (latchIdle (curAgent s) s)
      else .ok (beginWait (curAgent s) .fence ⟨.ifence ops ys, curWord s, 0, 0, curUndo [] none s, false, none⟩ s))

/-- IVERIFY (R172). The granules and MACs are read at issue (DESIGN CHOICE, log entry 90). -/
def execIverify (o : IVer) : State → Out :=
  execSlot o.g (fun s => do
    let (g0, s) ← source o.a o.m s
    let (c, s) ← source o.b o.n s
    if kindOf (curAgent s) = .steward then .ok (writePair o.p false s)
    else do
      notUrgent s
      let x := curCtx s
      need 0x04 x.fence
      let d := halfDesc x (idleHalf x)
      if decide (1 ≤ c.toNat) && decide (g0.toNat + c.toNat ≤ d.ngran) then
        let v := verifyGranules s (curAgent s) g0.toNat c.toNat
        .ok (beginWait (curAgent s) .fence
          ⟨.iverify o.p v, curWord s, 0, 0, curUndo [] none s, false, some (s.gcyc + 16 * c.toNat)⟩ s)
      else .ok (writePair o.p false s))

/-- BSWAP (R173). -/
def execBswap (o : Bswap) : State → Out :=
  execSlot o.g (fun s => do
    notInHandler s
    notUrgent s
    need 0x04 (curCtx s).fence
    .ok (takeBranch (idleHalf (curCtx s) * halfBytes + 4 * o.o) true false s))

/-- R173, at `t + 3`: the other half becomes active and the fence state 0. -/
def swapHalves (x : Ctx) : Ctx := { x with activeHalf := 1 - x.activeHalf, fence := false }

/-! ## Traps, return and debug stops (R174, R430) -/

/-- TRAP. -/
def execTrap (o : Code) (s : State) : Out :=
  if guardTrue o.g s then .next (slotTrapWith 1 0x0E s) else .next s

/-- ERET (R174, R394). -/
def execEret (o : G) : State → Out :=
  execSlot o.g (fun s => do
    need 0x0D (inHandler s)
    .ok (takeBranch (curCtx s).faultPc false true s))

/-- R427: the debug policy of a world. -/
def policyOf (s : State) (w : Nat) : BitVec 3 :=
  if w = 1 || !Config.prod then 7 else (worldOf s w).policy
/-- R427: TRACE. -/
def policyTrace (s : State) (w : Nat) : Bool := bm (policyOf s w).toNat 0
/-- R427: STOP. -/
def policyStop (s : State) (w : Nat) : Bool := bm (policyOf s w).toNat 1
/-- R427: CAPTURE. -/
def policyCapture (s : State) (w : Nat) : Bool := bm (policyOf s w).toNat 2

/-- R428: the context DBGCORE selects (DEDUCED, log entry 12). -/
def debugAgent (s : State) : Agent :=
  if bm s.dbg.core 6 then .urgent (s.dbg.core % 64) else .tile (s.dbg.core % 64)

/-- R430, log entry 12: the debugger holds the context in debug mode: DBGCORE selects it, its world allows STOP
and BKPTPC is enabled (DEDUCED, log entry 12). -/
def debugMode (s : State) (a : Agent) : Bool :=
  debugAgent s == a && policyStop s (ctxOf s a).task.world && bm s.dbg.bkptpc.toNat 31

/-- R430: DONEMASK of a context that stops: the slots of the stopped bundle that have committed. A handler keeps the mask of
its trap, under which its ERET resumes (R394), and a host sees that of the stop (DEDUCED, log entry 12). -/
def stopMask (x : Ctx) (mask : Nat) : Nat := if x.estatH then x.doneMask else mask

/-- R430, R136: the context stops inside the bundle being issued, which issues again under `mask`, and its lockstep siblings
freeze in the same cycles. The cycle is a frozen one: no event of the bundle counts in it (R424). `skip`: the breakpoint
register stopped it. -/
def stopInBundle (skip : Bool) (mask : Nat) (s : State) : State :=
  match s.cur with
  | none => s
  | some u =>
    let s1 := modCtx s u.ag (fun x => { x with
      seqPc := u.pc, seqAt := u.t, resumeMask := mask, doneMask := stopMask x mask, bkSkip := skip, evcnt := u.ev })
    let s2 := freezeSiblings u.ag (addCause u.ag .debug (undoCycle u.ag .debug u.slot.num s1))
    { s2 with
      cur := some { u with rest := [], trapped := true }
      dbg := { s2.dbg with stopped := s2.dbg.stopped ++ [agentId u.ag] } }

/-- BKPT (R174): a debug stop in debug mode, else the trap of TRAP. -/
def execBkpt (o : Code) (s : State) : Out :=
  if guardTrue o.g s then
    if debugMode s (curAgent s) then .next (stopInBundle false 1 s) else .next (slotTrapWith 1 0x0E s)
  else .next s

/-- R430: the slot being issued is the one that BKPTPC names. -/
def breakHere (s : State) (g : Nat) : Bool :=
  match s.cur with
  | none => false
  | some u =>
    debugMode s u.ag && bits s.dbg.bkptpc 20 0 == u.pc && bits s.dbg.bkptpc 23 21 == u.slot.num &&
      guardTrue g s && !(ctxOf s u.ag).bkSkip

end Sys2Proof.Machine
end

