-- ==== Sys2Proof/Machine/Pooled.lean ====
section
/-!
DEFINITION. Pooled memory: who arbitrates for which bank in a cycle, who wins, and what a loss does
(spec/09_spool_yarns_and_cluster_memory.md R200-R202), for the L slots, the yarn lines and the channel programs of one cluster.
-/

namespace Sys2Proof.Machine

/-! ## Fields of a yarn descriptor (R212) -/

/-- Source kind. -/
def yqSk (q : W256) : Nat := bits q 255 252
/-- Destination kind. -/
def yqDk (q : W256) : Nat := bits q 251 248
/-- Anticlockwise. -/
def yqAnti (q : W256) : Bool := bm q.toNat 247
/-- Strand. -/
def yqStrand (q : W256) : Nat := bits q 246 244
/-- Multicast mask. -/
def yqMcast (q : W256) : Nat := bits q 243 240
/-- Source core. -/
def yqScore (q : W256) : Nat := bits q 239 238
/-- Block geometry. -/
def yqGeom (q : W256) : Nat := bits q 237 236
/-- Format. -/
def yqFmt (q : W256) : Nat := bits q 235 232
/-- Cycles to the first beat. -/
def yqStart (q : W256) : Nat := bits q 231 220
/-- Cycles between beats. -/
def yqPeriod (q : W256) : Nat := bits q 219 216 + 1
/-- Beat count. -/
def yqBeats (q : W256) : Nat := bits q 215 200 + 1
/-- Source base. -/
def yqSrcBase (q : W256) : Nat := bits q 191 160
/-- Destination base. -/
def yqDstBase (q : W256) : Nat := bits q 159 128
/-- Inner beat count. -/
def yqIcnt (q : W256) : Nat := bits q 127 112 + 1
/-- Inner stride. -/
def yqIstride (q : W256) : Int := sext 24 (bits q 111 88)
/-- Outer stride. -/
def yqOstride (q : W256) : Int := sext 24 (bits q 87 64)
/-- Scale base. -/
def yqScBase (q : W256) : Nat := bits q 63 39
/-- Scale stride. -/
def yqScStride (q : W256) : Nat := bits q 38 24

/-- R214: bytes of a beat. -/
def beatBytes (q : W256) : Nat := if yqDk q = 4 then 256 else 512

/-- R214: the source address of beat `b`; modulo 2^32 (R222). -/
def beatSrc (q : W256) (x b : Nat) : Nat :=
  let i : Int := ((yqSrcBase q + x : Nat) : Int) + ((b % yqIcnt q : Nat) : Int) * yqIstride q +
    ((b / yqIcnt q : Nat) : Int) * yqOstride q
  (i % (2 ^ 32 : Nat)).toNat

/-- R214: the destination address of beat `b`; modulo 2^32. -/
def beatDst (q : W256) (z b : Nat) : Nat := (yqDstBase q + z + b * beatBytes q) % 2 ^ 32

/-- R215: the read cycle of beat `b` of a yarn started at `t`. -/
def beatRead (q : W256) (t b : Nat) : Nat := t + yqStart q + b * yqPeriod q

/-! ## Places -/

/-- The place of a pooled offset of a task's allocation. -/
def taskPlace (s : State) (core : Nat) (t : Task) (o : Nat) : Option Nat :=
  pooledPlace (allocOf s (clusterOfCore core) t) o

/-- R310: the banks of a function's partition in a cluster, ascending. -/
def partBanks (s : State) (cl f : Nat) : List Nat :=
  ((clusterOf s cl).parts.find? (fun p => p.1 = f)).elim [] (·.2)

/-- R310: the place that a channel's pooled address names: the cluster and the place. -/
def chanPlace (s : State) (ch : Nat) (addr : Nat) : Option (Nat × Nat) :=
  let cl := ch / 64 * 4 + bf addr 27 26
  (pooledPlace (partBanks s cl (chanOf s ch).func) (addr % 2 ^ 26)).map (fun p => (cl, p))

/-- The bank of a place. -/
def placeBank (p : Nat) : Nat := p / bankBytes
/-- The line of a place, as `Cluster.poison` numbers it. -/
def placeLine (p : Nat) : Nat := p / 64

/-! ## Requests (R200) -/

/-- Who asks for a bank. -/
inductive Asker where
  /-- the next line of a channel program's landing or gather: channel, position in its bursts -/
  | chan (ch i : Nat)
  /-- the L slot of a context -/
  | lslot (a : Agent)
  /-- a line of a beat that is read, or written: core, yarn, run, beat, line -/
  | beatRead (core y run b line : Nat)
  | beatWrite (core y run b line : Nat)
  deriving DecidableEq, Repr

/-- A request: who, and for which place. -/
structure PoolReq where
  who : Asker
  place : Nat
  deriving DecidableEq, Repr

/-- The place in cc of a channel's own time, which its freezes stop (R304) (DEDUCED, log entry 64). -/
def chanCc (s : State) (ch : Nat) : Nat := 2 * (ctxOf s (.channel ch)).clk + s.gcyc % 2

/-- The channel lines due at the banks of a cluster: lower channels first. -/
def chanReqs (s : State) (cl : Nat) : List PoolReq :=
  (s.chans.filter (fun p => decide (p.1 / 64 = cl / 4))).flatMap (fun p =>
    if (ctxOf s (.channel p.1)).frozen then []
    else (List.zip (List.range p.2.bursts.length) p.2.bursts).filterMap (fun q =>
      let b := q.2
      if b.ds || b.at_ != chanCc s p.1 || decide (4 ≤ b.step) then none
      else
        match chanPlace s p.1 (b.addr + 64 * b.step) with
        | some (k, pl) => if k = cl then some ⟨.chan p.1 q.1, pl⟩ else none
        | none => none))

/-- The pooled access that a context's L slot waits for. -/
def lslotWant (x : Ctx) : Option (InFlight × Nat) :=
  x.pend.findSome? (fun p =>
    match p.act with
    | .ldc addr _ _ _ => if p.due ≤ x.clk then some (p, addr) else none
    | .stc addr _ => if p.due ≤ x.clk then some (p, addr) else none
    | .latomPool addr _ _ _ _ _ _ => if p.due ≤ x.clk then some (p, addr) else none
    | _ => none)

/-- A context is stopped by something other than its own lost arbitration (R438). -/
def heldBack (x : Ctx) : Bool := x.causes.any (fun c => c != .pooled && c != .handler)

/-- R200, R201: the request of an L slot: in its issue cycle, whatever else its bundle has begun, and in every cycle after a
lost arbitration (DESIGN CHOICE, log entry 71). -/
def lslotReqs (s : State) (a : Agent) : List PoolReq :=
  let x := ctxOf s a
  if x.frozen && heldBack x && !x.causes.elem .pooled then []
  else
    match lslotWant x with
    | none => []
    | some p => ((taskPlace s (agIdx a) x.task p.2).map (fun pl => (⟨.lslot a, pl⟩ : PoolReq))).toList

/-- The lines of a beat in order, with their requests. -/
def beatLines (s : State) (core : Nat) (t : Task) (addr : Nat) (ls : List Nat) (mk : Nat → Asker) : List PoolReq :=
  ls.filterMap (fun l => (taskPlace s core t (addr + 64 * l)).map (fun pl => (⟨mk l, pl⟩ : PoolReq)))

/-- R171: the context waits in IFENCE for the transfers of a yarn into the idle half, which go on meanwhile
(DEDUCED, log entry 76). -/
def fencedYarn (x : Ctx) (y : Nat) : Bool :=
  x.causes == [.fence] && x.wait.elim false (fun w => match w.what with
    | .ifence _ ys => ys.elem y
    | _ => false)

/-- The issuer of a yarn goes on in this cycle, as far as the yarn is concerned. -/
def yarnRuns (s : State) (a : Agent) (y : Nat) : Bool :=
  let x := ctxOf s a
  x.susp.isNone && (!x.frozen || fencedYarn x y)

/-- The yarn lines of a core due at its cluster's banks, with the yarn they belong to: beats that wait, beats
that arrive, and beats of open yarns that are read in this cycle and have not been recorded yet. -/
def yarnReqs (s : State) (core : Nat) : List (Nat × List PoolReq) :=
  let k := coreOf s core
  let live := fun (a : Agent) => (ctxOf s a).susp.isNone
  (k.beats.filter (fun b => live b.ag)).map (fun b =>
    let x := ctxOf s b.ag
    (b.y, beatLines s core x.task b.srcAddr b.wantRead (.beatRead core b.y b.run b.b) ++
      (if b.deliver ≤ x.clk + 1 then beatLines s core x.task b.dstAddr b.wantWrite (.beatWrite core b.y b.run b.b)
        else []))) ++
  (k.open_.filter (fun o => yarnRuns s o.ag o.y && yqSk o.desc == 3 && decide (o.next ≤ o.last) &&
      beatRead o.desc o.t o.next == (ctxOf s o.ag).clk)).map (fun o =>
    (o.y, beatLines s core (ctxOf s o.ag).task (beatSrc o.desc o.x o.next)
      (List.range (beatBytes o.desc / 64)) (.beatRead core o.y o.t o.next)))

/-- R200: the requests of a core: the L slot first, then yarn lines in ascending yarn number. -/
def coreReqs (s : State) (core : Nat) : List PoolReq :=
  lslotReqs s (.tile core) ++ lslotReqs s (.urgent core) ++
    (sortBy (·.1) (yarnReqs s core)).flatMap (·.2)

/-- R200: every request of a cluster in this cycle, in order of priority. -/
def pooledReqs (s : State) (cl : Nat) : List PoolReq :=
  chanReqs s cl ++ [0, 1, 2, 3].flatMap (fun j => coreReqs s (4 * cl + j))

/-- R200: each bank grants the first request for it; the requests with their results. -/
def arbitrate : List Nat → List PoolReq → List (PoolReq × Bool)
  | _, [] => []
  | used, r :: rs =>
    let b := placeBank r.place
    if used.elem b then (r, false) :: arbitrate used rs else (r, true) :: arbitrate (b :: used) rs

/-- R202: the L slot of the bundle being issued would win its bank for a place in this very cycle
(DESIGN CHOICE, log entry 71). -/
def winsNow (s : State) (core place : Nat) : Bool :=
  let cl := clusterOfCore core
  let before := chanReqs s cl ++
    ((List.range (core % 4)).flatMap (fun j => coreReqs s (4 * cl + j)))
  !((arbitrate [] before).any (fun p => p.2 && placeBank p.1.place == placeBank place))

/-- The line of a place is poisoned (R202). -/
def linePoisoned (s : State) (cl place : Nat) : Bool := (clusterOf s cl).poison.elem (placeLine place)

/-- Bytes of a cluster's pooled memory. -/
def pooledBytes (s : State) (cl place n : Nat) : List Byte := memBytes (clusterOf s cl).pooled place n

/-- Writes pooled bytes. -/
def pooledWrite (s : State) (cl place : Nat) (l : List Byte) : State :=
  modCluster s cl (fun k => { k with pooled := memWrite k.pooled place l })

/-- R202: a whole line written sets the bit from what is written. -/
def setLinePoison (s : State) (cl place : Nat) (v : Bool) : State :=
  modCluster s cl (fun k =>
    let rest := k.poison.filter (· != placeLine place)
    { k with poison := if v then placeLine place :: rest else rest })

end Sys2Proof.Machine
end

