-- ==== Sys2Proof/Machine/LSlot.lean ====
section
/-!
DEFINITION. The L slot (spec/09_spool_yarns_and_cluster_memory.md R193-R211): loads and stores of the Spool, the spill store, pooled memory and
the constant table, the vector loads and stores, LATOM, SENDT and RECVT; on a steward core the loads
and stores of its local store (spec/04_launch_and_scheduling.md R76).
-/

namespace Sys2Proof.Machine

/-! ## The ring (R193-R197) -/

/-- R195: the clockwise distance between two positions. -/
def cwDist (x y : Nat) : Nat := (y + 32 - x) % 32
/-- R197: the shorter distance. -/
def ringDist (x y : Nat) : Nat := min (cwDist x y) (cwDist y x)
/-- R193: the position of a Spool block. -/
def blockPos (b : Nat) : Nat := 2 * b
/-- R193: the position of a station. -/
def stationPos (j : Nat) : Nat := 2 * j + 1

/-- The vector queue files by the target of a routing code (R23). -/
def fileOf (t : Nat) : VFile :=
  match t with
  | 0 => .v0a
  | 1 => .v0b
  | 2 => .v1a
  | 3 => .v1b
  | _ => .vst

/-- The place of a queue in `Core.vqs`. -/
def fileNo : VFile → Nat
  | .v0a => 0
  | .v0b => 1
  | .v1a => 2
  | .v1b => 3
  | .vst => 4

/-- R193: the station of a file. -/
def fileStation : VFile → Nat
  | .v0a => 2
  | .v0b => 2
  | .v1a => 3
  | .v1b => 3
  | .vst => 4

/-- R23: the fields of a routing code that names a vector queue. -/
def routeFile (t : Nat) : VFile := fileOf (t / 32)
/-- R23: the push mark of a routing code. -/
def routePush (t : Nat) : Bool := bm t 4
/-- R23: the queue of a routing code. -/
def routeQueue (t : Nat) : Nat := t % 16

/-! ## Vector queues (R127, R128) -/

/-- A vector queue of a core. -/
def vqOf (k : Core) (f : VFile) (q : Nat) : Ring Vec := tabGet (Ring.empty 0) k.vqs (fileNo f * 16 + q)
/-- Puts a vector queue. -/
def setVq (k : Core) (f : VFile) (q : Nat) (r : Ring Vec) : Core :=
  { k with vqs := tabSet k.vqs (fileNo f * 16 + q) r }

/-- The core of the bundle being issued. -/
def curCore (s : State) : Core := coreOf s (agIdx (curAgent s))

/-- R41: traps 0x09 on a queue outside the task's profile. -/
def needQueue (q : Nat) (s : State) : Except Nat Unit := need 0x09 (queueHeld (curCtx s).task q)

/-- The Source step on a vector queue. -/
def vsource (f : VFile) (q : Nat) (pop : Bool) (s : State) : Except Nat (Vec × State) :=
  match needQueue q s with
  | .error c => .error c
  | .ok _ =>
    match ringSource (vqOf (curCore s) f q) pop with
    | .error c => .error c
    | .ok (v, r) => .ok (v, modCore s (agIdx (curAgent s)) (fun k => setVq k f q r))

/-- The Dest step on the vector queue of a routing code. -/
def vdest (t : Nat) (s : State) : Except Nat (Nat × State) :=
  match needQueue (routeQueue t) s with
  | .error c => .error c
  | .ok _ =>
    match ringDest (vqOf (curCore s) (routeFile t) (routeQueue t)) (routePush t) with
    | .error c => .error c
    | .ok (c, r) =>
      .ok (c, modCore s (agIdx (curAgent s)) (fun k => setVq k (routeFile t) (routeQueue t) r))

/-- Dest, then a vector result with latency `L`. -/
def writeVec (L t : Nat) (v : Vec) (s : State) : Except Nat State :=
  match vdest t s with
  | .error c => .error c
  | .ok (c, s) => .ok (land L (.vreg (routeFile t) (routeQueue t) c v) s)

/-! ## Bytes of vectors -/

/-- The bytes of a vector; byte j is bits 8j to 8j + 7 (R2). -/
def vecBytes (v : Vec) : List Byte := leBytes 256 v.toNat
/-- A vector from its bytes. -/
def vecOfBytes (l : List Byte) : Vec := BitVec.ofNat 2048 (leNat l)

/-! ## Scalar loads and stores (R204, R76) -/

/-- The address a + SExt(IMM) scaled. -/
def ea (a : Word) (k imm scale : Nat) : Word := addInt a (sext k imm * scale)

/-- R76: the check of a steward's local address. -/
def stewCheck (a : Word) (n : Nat) : Except Nat Nat :=
  if 2 ^ 17 ≤ a.toNat then .error 0x09 else if a.toNat % n ≠ 0 then .error 0x07 else .ok a.toNat

/-- R204: the value a load of `n` bytes lands. -/
def extend (n : Nat) (signed : Bool) (v : Nat) : Word := if signed then BitVec.ofInt 64 (sext (8 * n) v) else wd v

/-- LDB-LDD: reads in the issue cycle; lands at t + 2 + d from the Spool, at t + 2 from a steward's local
store. -/
def formLoad (o : RI) (n : Nat) (signed : Bool) : State → Out :=
  execSlot o.g (fun s => do
    notInHandler s
    let (a, s) ← source o.a o.m s
    let p := ea a 10 o.i n
    match curAgent s with
    | .steward k => do
      let u ← stewCheck p n
      writeReg 2 o.d o.q (extend n signed (memNat (tabGet [] s.stewMem k) u n)) s
    | ag => do
      let u ← spoolCheck (curCtx s).task p n n
      writeReg (2 + ringDist (blockPos (u / blockBytes)) (stationPos 1)) o.d o.q
        (extend n signed (memNat (coreOf s (agIdx ag)).spool u n)) s)

/-- STB-STD: the data register is read before the address; performs in the issue cycle. -/
def formStore (o : RI) (n : Nat) : State → Out :=
  execSlot o.g (fun s => do
    notInHandler s
    let (v, s) ← source o.d o.q s
    let (a, s) ← source o.a o.m s
    let p := ea a 10 o.i n
    let u ← (match curAgent s with
      | .steward _ => stewCheck p n
      | _ => spoolCheck (curCtx s).task p n n)
    .ok (landAt (curT s) (.store .spool (cellsAt u (leBytes n v.toNat))) s))

/-- LDB. -/
def execLdb (o : RI) : State → Out := formLoad o 1 true
/-- LDBU. -/
def execLdbu (o : RI) : State → Out := formLoad o 1 false
/-- LDH. -/
def execLdh (o : RI) : State → Out := formLoad o 2 true
/-- LDHU. -/
def execLdhu (o : RI) : State → Out := formLoad o 2 false
/-- LDW. -/
def execLdw (o : RI) : State → Out := formLoad o 4 true
/-- LDWU. -/
def execLdwu (o : RI) : State → Out := formLoad o 4 false
/-- LDD. -/
def execLdd (o : RI) : State → Out := formLoad o 8 false
/-- STB. -/
def execStb (o : RI) : State → Out := formStore o 1
/-- STH. -/
def execSth (o : RI) : State → Out := formStore o 2
/-- STW. -/
def execStw (o : RI) : State → Out := formStore o 4
/-- STD. -/
def execStd (o : RI) : State → Out := formStore o 8

/-! ## Spill, pooled, constants (R205-R207) -/

/-- LDS. -/
def execLds (o : RL) : State → Out :=
  execSlot o.g (fun s => do
    let p ← spillCheck (curCtx s).task (o.i * 8) 8
    writeReg 1 o.d o.q (wd (memNat (curCore s).spill p 8)) s)

/-- STS. -/
def execSts (o : RL) : State → Out :=
  execSlot o.g (fun s => do
    let (v, s) ← source o.d o.q s
    let p ← spillCheck (curCtx s).task (o.i * 8) 8
    .ok (landAt (curT s) (.store .spill (cellsAt p (leBytes 8 v.toNat))) s))

/-- R202: an LDC that reads a poisoned line in its issue cycle traps there. -/
def ldcPoison (s : State) (u : Nat) : Bool :=
  let core := agIdx (curAgent s)
  match taskPlace s core (curCtx s).task u with
  | none => false
  | some p => linePoisoned s (clusterOfCore core) p && winsNow s core p

/-- The register whose queue a Dest step makes longer, with the cell it chooses and its place in the queue. -/
def grown (x : Ctx) (r : Nat) (push : Bool) (c : Option Nat) : Option (Nat × Nat × Nat) :=
  let q := sregOf x r
  if push || q.len == 0 then c.map (fun k => (r, k, q.gone + q.len)) else none

/-- The value a source gave, where it was popped. -/
def popped (r : Nat) (pop : Bool) (v : Word) : List (Nat × Word) := if pop then [(r, v)] else []

/-- LDC (R206, R201): arbitrates from the issue cycle on; lands at t + 14. -/
def execLdc (o : RI) : State → Out :=
  execSlot o.g (fun s => do
    let (a, s) ← source o.a o.m s
    let u ← pooledCheck s (agIdx (curAgent s)) (curCtx s).task (ea a 10 o.i 8)
    need 0x0B (!ldcPoison s u)
    let (c, s1) ← dest o.d o.q s
    .ok (landAt (curT s) (.ldc u o.d (c.getD 4) (curUndo (popped o.a o.m a) (grown (curCtx s) o.d o.q c) s)) s1))

/-- STC (R206, R201): arbitrates from the issue cycle on; writes 13 cycles after it wins. -/
def execStc (o : RI) : State → Out :=
  execSlot o.g (fun s => do
    let (v, s) ← source o.d o.q s
    let (a, s) ← source o.a o.m s
    let u ← pooledCheck s (agIdx (curAgent s)) (curCtx s).task (ea a 10 o.i 8)
    .ok (landAt (curT s) (.stc u v) s))

/-- LDK (R207): the constant table stays ciphertext until it is read. -/
def execLdk (o : RI) : State → Out :=
  execSlot o.g (fun s => do
    let (a, s) ← source o.a o.m s
    let p := (ea a 10 o.i 8).toNat
    let x := curCtx s
    need 0x09 (x.image.csid != 0 && decide (p < x.image.kbytes))
    need 0x07 (p % 8 == 0)
    writeReg 6 o.d o.q (wd (bytesNat (sectionOpen x.image.kenc x.image.nonce x.image.csid p
      (toNats (memBytes x.ktab p 8))))) s)

/-! ## Vector loads and stores (R208) -/

/-- VLD: reads in the issue cycle; lands at t + 2 + d. -/
def execVld (o : VLd) : State → Out :=
  execSlot o.g (fun s => do
    notInHandler s
    let (a, s) ← source o.a o.m s
    let u ← spoolCheck (curCtx s).task (ea a 8 o.i 64) 256 64
    let d := ringDist (blockPos (u / blockBytes)) (stationPos (fileStation (routeFile o.t)))
    writeVec (2 + d) o.t (vecOfBytes (memBytes (curCore s).spool u 256)) s)

/-- VST: performs in cycle t + d. -/
def execVst (o : VSt) : State → Out :=
  execSlot o.g (fun s => do
    notInHandler s
    let (v, s) ← vsource .vst o.s o.q s
    let (a, s) ← source o.a o.m s
    let u ← spoolCheck (curCtx s).task (ea a 8 o.i 64) 256 64
    let d := ringDist (blockPos (u / blockBytes)) (stationPos 4)
    .ok (land d (.store .spool (cellsAt u (vecBytes v))) s))

/-- The bytes of a vector whose bit of the lane predicate is 1, with their addresses. -/
def maskedCells (p : W256) (u : Nat) (l : List Byte) : List Host.Cell :=
  (cellsAt u l).filter (fun c => bm p.toNat (c.1 - u))

/-- A lane predicate of a context; vp0 reads as all ones (R227). -/
def vpOf (x : Ctx) (k : Nat) : W256 := if k = 0 then BitVec.allOnes 256 else tabGet 0 x.vps k

/-- VSTM. -/
def execVstm (o : VStM) : State → Out :=
  execSlot o.g (fun s => do
    notInHandler s
    let (v, s) ← vsource .vst o.s o.q s
    let (a, s) ← source o.a o.m s
    let u ← spoolCheck (curCtx s).task (ea a 8 o.i 1) 256 1
    let d := ringDist (blockPos (u / blockBytes)) (stationPos 4)
    .ok (land d (.store .spool (maskedCells (vpOf (curCtx s) o.p) u (vecBytes v))) s))

/-- VLDS. -/
def execVlds (o : VLdS) : State → Out :=
  execSlot o.g (fun s => do
    let p ← spillCheck (curCtx s).task (o.i * 256) 256
    writeVec 1 o.t (vecOfBytes (memBytes (curCore s).spill p 256)) s)

/-- VSTS. -/
def execVsts (o : VStS) : State → Out :=
  execSlot o.g (fun s => do
    let (v, s) ← vsource .vst o.s o.q s
    let p ← spillCheck (curCtx s).task (o.i * 256) 256
    .ok (landAt (curT s) (.store .spill (cellsAt p (vecBytes v))) s))

/-! ## LATOM (R209) -/

/-- LATOM on the Spool reads, operates and writes in cycle t + 3; on pooled memory it arbitrates from the
issue cycle on. -/
def execLatom (o : Latom) : State → Out :=
  execSlot o.g (fun s => do
    need 0x0D (o.p || !inHandler s)
    let (a, s) ← source o.a o.m s
    let (b, s) ← source o.b o.n s
    let (x, s) ← (if o.o = 7 then source o.d false s else .ok (0, s))
    if o.p then do
      let u ← pooledCheck s (agIdx (curAgent s)) (curCtx s).task a
      let (c, s1) ← dest o.d o.q s
      let undo := curUndo (popped o.a o.m a ++ popped o.b o.n b) (grown (curCtx s) o.d o.q c) s
      .ok (landAt (curT s) (.latomPool u o.o b x o.d (c.getD 4) undo) s1)
    else do
      let u ← spoolCheck (curCtx s).task a 8 8
      let (c, s) ← dest o.d o.q s
      let d := ringDist (blockPos (u / blockBytes)) (stationPos 1)
      .ok (land 3 (.latom u o.o b x o.d (c.getD 4) (1 + d)) s))

/-! ## SENDT and RECVT (R210, R211, R31) -/

/-- SENDT: delivered at t + 8. -/
def execSendt (o : SendT) : State → Out :=
  execSlot o.g (fun s => do
    need 0x0D (!inHandler s && (curCtx s).task.timed)
    let (v, s) ← vsource .vst o.s o.q s
    .ok (land 8 (.sendt o.c v) s))

/-- RECVT: takes the vector that the network delivers from a core in this cycle. -/
def execRecvt (o : RecvT) : State → Out :=
  execSlot o.g (fun s => do
    need 0x0D (!inHandler s && (curCtx s).task.timed)
    match (curCtx s).inbox.find? (fun p => p.1 = o.f) with
    | none => .error 0x05
    | some p =>
      writeVec 1 o.t p.2 (modCur s (fun x => { x with inbox := x.inbox.filter (fun q => q.1 != o.f) })))

end Sys2Proof.Machine
end

