-- ==== Sys2Proof/Machine/Flags.lean ====
section
/-!
DEFINITION. Every condition the spec computes: the compares of spec/07_scalar_and_control_instructions.md R149 and R157, the predicate logic of
R150, the conditions of WAITA (spec/04_launch_and_scheduling.md R78) and the operations shared by the atomics (spec/09_spool_yarns_and_cluster_memory.md R209; spec/15_async_and_synchronisation_instructions.md R350).
The machine has no flags register: a compare writes a predicate pair.
-/

namespace Sys2Proof.Machine

/-- R149: condition CC applied to a and b. -/
def intCond (cc : Nat) (a b : Word) : Bool :=
  match cc with
  | 0 => a == b
  | 1 => a != b
  | 2 => a.slt b
  | 3 => !a.slt b
  | 4 => a.ult b
  | 5 => !a.ult b
  | 6 => (a &&& b) != 0
  | _ => (a &&& b) == 0

/-- R157: condition CC of FCMP. -/
def floatCond (cc : Nat) (a b : Val) : Bool :=
  let un := isNaN a || isNaN b
  match cc with
  | 0 => !un && eqV a b
  | 1 => un || !eqV a b
  | 2 => !un && ltV a b
  | 3 => !un && !ltV a b
  | 4 => !un && !ltV b a
  | 5 => !un && ltV b a
  | 6 => un
  | _ => !un

/-- R78: WAITA's condition COND on the word read and the comparand; `any` is met by a write alone. -/
def waitCond (cond : Nat) (m c : Word) : Bool :=
  match cond with
  | 0 => m == c
  | 1 => m != c
  | 2 => !m.ult c
  | 3 => m.ult c
  | _ => false

/-- R209: the new word of an atomic, from the old word m, the operand b and the comparand x. -/
def atomicOp (op : Nat) (m b x : Word) : Word :=
  match op with
  | 0 => m + b
  | 1 => m &&& b
  | 2 => m ||| b
  | 3 => m ^^^ b
  | 4 => if m.ult b then b else m
  | 5 => if m.slt b then b else m
  | 6 => b
  | _ => if m = x then b else m

/-- R350: the new home word of a reduction. -/
def reduceOp (op : Nat) (m b : Word) : Word :=
  match op with
  | 0 => m + b
  | 1 => m &&& b
  | 2 => m ||| b
  | 3 => m ^^^ b
  | 4 => if m.ult b then b else m
  | 5 => if m.slt b then b else m
  | 6 => if b.ult m then b else m
  | _ => if b.slt m then b else m

end Sys2Proof.Machine
end

