-- ==== Sys2Proof/Machine/Operands.lean ====
section
/-!
DEFINITION. The operand forms of the slot words (spec/02_program_image_and_encodings.md R22; spec/07_scalar_and_control_instructions.md R140-R142): which sources a form reads, in field
order, what it reserves, and when its result lands. A meaning is one of these forms applied to an
operation.
-/

namespace Sys2Proof.Machine

/-- RR form: two sources, one result (R141). -/
def formRR (o : RR) (L : Nat) (op : Word → Word → Word) : State → Out :=
  execSlot o.g (fun s => do
    let (a, s) ← source o.a o.m s
    let (b, s) ← source o.b o.n s
    writeReg L o.d o.q (op a b) s)

/-- RR form that peeks its destination as a third source after a and b (R140). -/
def formRRD (o : RR) (L : Nat) (op : Word → Word → Word → Word) : State → Out :=
  execSlot o.g (fun s => do
    let (a, s) ← source o.a o.m s
    let (b, s) ← source o.b o.n s
    let (x, s) ← source o.d false s
    writeReg L o.d o.q (op a b x) s)

/-- Unary form (R146). -/
def formRU (o : RU) (L : Nat) (op : Word → Word) : State → Out :=
  execSlot o.g (fun s => do
    let (a, s) ← source o.a o.m s
    writeReg L o.d o.q (op a) s)

/-- R141: the immediate of the RI layout, sign-extended. -/
def imm10 (i : Nat) : Word := BitVec.ofInt 64 (sext 10 i)

/-- RI form (R141, R147); the operation takes the immediate field. -/
def formRI (o : RI) (L : Nat) (op : Word → Nat → Word) : State → Out :=
  execSlot o.g (fun s => do
    let (a, s) ← source o.a o.m s
    writeReg L o.d o.q (op a o.i) s)

/-- The draws of a context's roundings in RMODE come from its LFSR (R153, R184): `n` draws. -/
def takeDraws (mode n : Nat) (s : State) : List Nat × State :=
  let r := drawsFor mode n (curCtx s).lfsr
  (r.1, modCur s (fun x => { x with lfsr := r.2 }))

/-- One scalar rounding in RMODE (R153): the mode, its draw, and the state after it. -/
def takeRmode (s : State) : Nat × Nat × State :=
  let mode := (curCtx s).rmode
  let r := takeDraws mode 1 s
  (mode, r.1.headD 0, r.2)

/-- FP32 value of bits [31:0] of a register (R153). -/
def fpArg (a : Word) : Val := Fmt.fp32.decode a.toNat

/-- RR form on FP32 with one rounding in RMODE (R153, R154); the operation is told whether the mode rounds
down, which decides the sign of an exact zero. -/
def formFP (o : RR) (op : Bool → Val → Val → Val) : State → Out :=
  execSlot o.g (fun s => do
    let (a, s) ← source o.a o.m s
    let (b, s) ← source o.b o.n s
    let (mode, draw, s) := takeRmode s
    writeReg 4 o.d o.q (wd (roundTo .fp32 mode false draw (op (mode == 3) (fpArg a) (fpArg b)))) s)

/-- RR form on FP32 that is exact (FMIN, FMAX). -/
def formFPExact (o : RR) (op : Val → Val → Val) : State → Out :=
  execSlot o.g (fun s => do
    let (a, s) ← source o.a o.m s
    let (b, s) ← source o.b o.n s
    writeReg 4 o.d o.q (wd (roundTo .fp32 1 false 0 (op (fpArg a) (fpArg b)))) s)

/-- Compare of two registers writing a predicate pair (R149, R157). -/
def formCmp (o : CmpRR) (cond : Nat → Word → Word → Bool) : State → Out :=
  execSlot o.g (fun s => do
    let (a, s) ← source o.a o.m s
    let (b, s) ← source o.b o.n s
    .ok (writePair o.p (cond o.c a b) s))

/-- Predicate logic (R150). -/
def formPLog (o : PLog) (op : Bool → Bool → Bool) : State → Out :=
  execSlot o.g (fun s =>
    .ok (writePair o.p (op (predOf (curCtx s) o.a) (predOf (curCtx s) o.b)) s))

end Sys2Proof.Machine
end

