-- ==== Sys2Proof/Machine/Scalar.lean ====
section
/-!
DEFINITION. The scalar instructions of spec/07_scalar_and_control_instructions.md R140-R158, one definition per row of the opcode table.
-/

namespace Sys2Proof.Machine

/-! ## ALU (R143) -/

/-- ADD. -/
def execAdd (o : RR) : State → Out := formRR o 1 (fun a b => a + b)
/-- SUB. -/
def execSub (o : RR) : State → Out := formRR o 1 (fun a b => a - b)
/-- AND. -/
def execAnd (o : RR) : State → Out := formRR o 1 (fun a b => a &&& b)
/-- OR. -/
def execOr (o : RR) : State → Out := formRR o 1 (fun a b => a ||| b)
/-- XOR. -/
def execXor (o : RR) : State → Out := formRR o 1 (fun a b => a ^^^ b)
/-- ANDN. -/
def execAndn (o : RR) : State → Out := formRR o 1 (fun a b => a &&& ~~~b)
/-- MIN, unsigned. -/
def execMin (o : RR) : State → Out := formRR o 1 (fun a b => if b.ult a then b else a)
/-- MAX, unsigned. -/
def execMax (o : RR) : State → Out := formRR o 1 (fun a b => if a.ult b then b else a)
/-- MINS, two's-complement. -/
def execMins (o : RR) : State → Out := formRR o 1 (fun a b => if b.slt a then b else a)
/-- MAXS, two's-complement. -/
def execMaxs (o : RR) : State → Out := formRR o 1 (fun a b => if a.slt b then b else a)

/-- R143: the shift amount b[5:0]. -/
def shiftAmt (b : Word) : Nat := b.toNat % 64

/-- SHL. -/
def execShl (o : RR) : State → Out := formRR o 1 (fun a b => a <<< shiftAmt b)
/-- SHR. -/
def execShr (o : RR) : State → Out := formRR o 1 (fun a b => a >>> shiftAmt b)
/-- SRA. -/
def execSra (o : RR) : State → Out := formRR o 1 (fun a b => a.sshiftRight (shiftAmt b))
/-- FSL: ((x : a) << n)[127:64], x the old value of d. -/
def execFsl (o : RR) : State → Out :=
  formRRD o 1 (fun a b x => wd ((x.toNat * 2 ^ 64 + a.toNat) * 2 ^ shiftAmt b / 2 ^ 64))
/-- FSR: ((a : x) >> n)[63:0]. -/
def execFsr (o : RR) : State → Out :=
  formRRD o 1 (fun a b x => wd ((a.toNat * 2 ^ 64 + x.toNat) / 2 ^ shiftAmt b))

/-! ## MULDIV (R145) -/

/-- MUL. -/
def execMul (o : RR) : State → Out := formRR o 3 (fun a b => a * b)
/-- MULH, unsigned. -/
def execMulh (o : RR) : State → Out := formRR o 3 (fun a b => wd (a.toNat * b.toNat / 2 ^ 64))
/-- MULHS, two's-complement. -/
def execMulhs (o : RR) : State → Out :=
  formRR o 3 (fun a b => BitVec.ofInt 64 (a.toInt * b.toInt / (2 ^ 64 : Nat)))
/-- R145: DIV's result. -/
def divU (a b : Word) : Word := if b = 0 then -1 else wd (a.toNat / b.toNat)
/-- R145: DIVS's result, truncating towards zero. -/
def divS (a b : Word) : Word := if b = 0 then -1 else BitVec.ofInt 64 (a.toInt.tdiv b.toInt)
/-- DIV. -/
def execDiv (o : RR) : State → Out := formRR o 20 divU
/-- DIVS. -/
def execDivs (o : RR) : State → Out := formRR o 20 divS
/-- REM. -/
def execRem (o : RR) : State → Out := formRR o 20 (fun a b => if b = 0 then a else wd (a.toNat % b.toNat))
/-- REMS: the remainder takes the sign of its dividend. -/
def execRems (o : RR) : State → Out := formRR o 20 (fun a b => a - b * divS a b)

/-! ## UNARY (R146) -/

/-- Zero bits above the highest one bit among the low `n` bits. -/
def clzFrom (a : Nat) : Nat → Nat
  | 0 => 0
  | n + 1 => if bm a n then 0 else clzFrom a n + 1

/-- Zero bits below the lowest one bit; `n` when there is none. -/
def ctzFrom (a : Nat) (i : Nat) : Nat → Nat
  | 0 => 0
  | n + 1 => if bm a i then 0 else ctzFrom a (i + 1) n + 1

/-- One bits among the low `n` bits. -/
def popCount (a : Nat) : Nat → Nat
  | 0 => 0
  | n + 1 => popCount a n + (bm a n).toNat

/-- The low `n` bits of `a` in reverse order. -/
def bitRev (a : Nat) (w : Nat) : Nat → Nat
  | 0 => 0
  | n + 1 => bitRev a w n + (bm a n).toNat * 2 ^ (w - 1 - n)

/-- MOV. -/
def execMov (o : RU) : State → Out := formRU o 1 (fun a => a)
/-- CLZ. -/
def execClz (o : RU) : State → Out := formRU o 1 (fun a => wd (clzFrom a.toNat 64))
/-- CTZ. -/
def execCtz (o : RU) : State → Out := formRU o 1 (fun a => wd (ctzFrom a.toNat 0 64))
/-- POPC. -/
def execPopc (o : RU) : State → Out := formRU o 1 (fun a => wd (popCount a.toNat 64))
/-- BREV. -/
def execBrev (o : RU) : State → Out := formRU o 1 (fun a => wd (bitRev a.toNat 64 64))

/-! ## SEL, ADDS, compares -/

/-- SEL (R152). -/
def execSel (o : RRP) : State → Out :=
  execSlot o.g (fun s => do
    let (a, s) ← source o.a o.m s
    let (b, s) ← source o.b o.n s
    writeReg 1 o.d o.q (if predOf (curCtx s) o.p then a else b) s)

/-- ADDS (R144): a + (b << k). -/
def execAdds (o : RRK) : State → Out :=
  execSlot o.g (fun s => do
    let (a, s) ← source o.a o.m s
    let (b, s) ← source o.b o.n s
    writeReg 1 o.d o.q (a + (b <<< o.k)) s)

/-- CMP.cc (R149). -/
def execCmp (o : CmpRR) : State → Out := formCmp o intCond

/-- CMPI.cc (R149). -/
def execCmpi (o : CmpRI) : State → Out :=
  execSlot o.g (fun s => do
    let (a, s) ← source o.a o.m s
    .ok (writePair o.p (intCond o.c a (imm10 o.i)) s))

/-- FCMP.cc (R157). -/
def execFcmp (o : CmpRR) : State → Out := formCmp o (fun c a b => floatCond c (fpArg a) (fpArg b))

/-! ## Immediates (R147) -/

/-- ADDI. -/
def execAddi (o : RI) : State → Out := formRI o 1 (fun a i => a + imm10 i)
/-- ANDI. -/
def execAndi (o : RI) : State → Out := formRI o 1 (fun a i => a &&& imm10 i)
/-- ORI. -/
def execOri (o : RI) : State → Out := formRI o 1 (fun a i => a ||| imm10 i)
/-- XORI. -/
def execXori (o : RI) : State → Out := formRI o 1 (fun a i => a ^^^ imm10 i)
/-- SHLI. -/
def execShli (o : RI) : State → Out := formRI o 1 (fun a i => a <<< i)
/-- SHRI. -/
def execShri (o : RI) : State → Out := formRI o 1 (fun a i => a >>> i)
/-- SRAI. -/
def execSrai (o : RI) : State → Out := formRI o 1 (fun a i => a.sshiftRight i)

/-- LIM: the immediate sign-extended. -/
def execLim (o : RL) : State → Out :=
  execSlot o.g (fun s => writeReg 1 o.d o.q (BitVec.ofInt 64 (sext 16 o.i)) s)

/-- LIH: (x << 16) OR the immediate, x the peeked old value of d. -/
def execLih (o : RL) : State → Out :=
  execSlot o.g (fun s => do
    let (x, s) ← source o.d false s
    writeReg 1 o.d o.q ((x <<< 16) ||| wd o.i) s)

/-! ## Predicates (R150, R151) -/

/-- PAND. -/
def execPand (o : PLog) : State → Out := formPLog o (fun a b => a && b)
/-- POR. -/
def execPor (o : PLog) : State → Out := formPLog o (fun a b => a || b)
/-- PXOR. -/
def execPxor (o : PLog) : State → Out := formPLog o (fun a b => a != b)
/-- PANDN. -/
def execPandn (o : PLog) : State → Out := formPLog o (fun a b => a && !b)
/-- PSET. -/
def execPset (o : PSet) : State → Out := execSlot o.g (fun s => .ok (writePair o.p o.v s))

/-! ## Scalar floating point (R153-R156) -/

/-- FADD. -/
def execFadd (o : RR) : State → Out := formFP o (fun rdn a b => addV rdn a b)
/-- FSUB. -/
def execFsub (o : RR) : State → Out := formFP o (fun rdn a b => addV rdn a (negV b))
/-- FMUL. -/
def execFmul (o : RR) : State → Out := formFP o (fun _ a b => mulV a b)
/-- FMIN. -/
def execFmin (o : RR) : State → Out := formFPExact o minNum
/-- FMAX. -/
def execFmax (o : RR) : State → Out := formFPExact o maxNum

/-- FFMA: (-1)^NP a b + (-1)^NA x, x the peeked old value of d; one rounding. In the layout of R142 bit 1
is NA (`u`) and bit 0 is NP (`v`). -/
def execFfma (o : RRF) : State → Out :=
  execSlot o.g (fun s => do
    let (a, s) ← source o.a o.m s
    let (b, s) ← source o.b o.n s
    let (x, s) ← source o.d false s
    let (mode, draw, s) := takeRmode s
    let p := mulV (fpArg a) (fpArg b)
    let p := if o.v then negV p else p
    let c := if o.u then negV (fpArg x) else fpArg x
    writeReg 4 o.d o.q (wd (roundTo .fp32 mode false draw (addV (mode == 3) p c))) s)

/-- R156: an FP32 value rounded to an integer and saturated to lo-hi. -/
def toInt64 (lo hi : Int) (mode draw : Nat) (v : Val) : Word :=
  match v with
  | .nan _ => 0
  | .inf s => BitVec.ofInt 64 (if s then lo else hi)
  | .fin s m e => BitVec.ofInt 64 (clampInt lo hi (roundInt mode draw s m e))

/-- R156 rint: an integral FP32 of the same sign. -/
def rintVal (mode draw : Nat) (v : Val) : Val :=
  match v with
  | .nan _ => .nan canonNaN
  | .inf s => .inf s
  | .fin s m e => .fin s (roundInt mode draw s m e).natAbs 0

/-- R156: the conversion of FCVT's code F (DEDUCED, log entry 13). -/
def fcvtOp (f mode draw : Nat) (a : Word) : Word :=
  match f with
  | 0 => toInt64 (-(2 ^ 63 : Nat)) (2 ^ 63 - 1 : Nat) mode draw (fpArg a)
  | 1 => toInt64 0 (2 ^ 64 - 1 : Nat) mode draw (fpArg a)
  | 2 => wd (roundTo .fp32 mode false draw (.fin (decide (a.toInt < 0)) a.toInt.natAbs 0))
  | 3 => wd (roundTo .fp32 mode false draw (.fin false a.toNat 0))
  | 4 => wd (roundTo .bf16 mode false draw (fpArg a))
  | 5 => wd (roundTo .fp32 mode false draw (Fmt.bf16.decode a.toNat))
  | _ => wd (roundTo .fp32 1 false 0 (rintVal mode draw (fpArg a)))

/-- FCVT. The exact f.bf takes its draw in SR too, as VCVT does (R183, R243; log entry 13). -/
def execFcvt (o : RUF) : State → Out :=
  execSlot o.g (fun s => do
    let (a, s) ← source o.a o.m s
    let (mode, draw, s) := takeRmode s
    writeReg 4 o.d o.q (fcvtOp o.f mode draw a) s)

/-! ## Queue control (R158) -/

/-- QLEN: the length of the queue as earlier slots of the bundle leave it. -/
def execQlen (o : QLen) : State → Out :=
  execSlot o.g (fun s =>
    let len := if o.a = 0 then 0 else (sregOf (curCtx s) o.a).len
    writeReg 1 o.d o.q (wd len) s)

/-- QCLR: the length becomes 0 at issue; the head index is kept. -/
def execQclr (o : QReg) : State → Out :=
  execSlot o.g (fun s =>
    if o.a = 0 then .ok s
    else .ok (modCur s (fun x =>
      { x with sregs := tabSet x.sregs o.a { sregOf x o.a with len := 0, gone := (sregOf x o.a).gone + (sregOf x o.a).len } })))

end Sys2Proof.Machine
end

