-- ==== Sys2Proof/Machine/Vector.lean ====
section
/-!
DEFINITION. The vector units (spec/10_vector_instructions.md R224-R252): lanes, the type registers, the lane operations, and
one meaning for each row of the V map.
-/

namespace Sys2Proof.Machine

/-! ## Lanes (R224) -/

/-- Element `i` of `w` bits of a bit string. -/
def elem (w v i : Nat) : Nat := v / 2 ^ (w * i) % 2 ^ w

/-- The first `n` elements of `w` bits. -/
def elems (w n v : Nat) : List Nat := (List.range n).map (elem w v)

/-- The bit string of elements of `w` bits, the first in the low bits. -/
def joinElems (w : Nat) : List Nat → Nat
  | [] => 0
  | e :: es => e % 2 ^ w + 2 ^ w * joinElems w es

/-! ## Types (R228) -/

/-- A type register, field by field. -/
structure VType where
  et : Nat
  u : Bool
  mode : Nat
  sat : Bool
  ct : Nat
  shamt : Nat
  pkw : Nat
  glog : Nat
  deriving DecidableEq, Repr

/-- R228: the fields of a type register. -/
def vtypeOf (v : Word) : VType where
  et := bits v 2 0
  u := bm v.toNat 3
  mode := bits v 10 8
  sat := bm v.toNat 11
  ct := bits v 15 12
  shamt := bits v 20 16
  pkw := bits v 25 21
  glog := bits v 29 26

/-- How the bits of an element are read: an integer of `w` bits, or a floating format. -/
inductive Elem where
  | int (w : Nat) (u : Bool)
  | flt (f : Fmt)
  deriving DecidableEq, Repr

/-- Bits of an element. -/
def Elem.width : Elem → Nat
  | .int w _ => w
  | .flt f => f.width

/-- The element type of ET. -/
def VType.elem (t : VType) : Elem :=
  match t.et with
  | 0 => .int 8 t.u
  | 1 => .int 16 t.u
  | 2 => .int 32 t.u
  | 3 => .flt .bf16
  | _ => .flt .fp32

/-- R243: the conversion format of CT; INT8 and INT32 are signed. -/
def VType.conv (t : VType) : Elem :=
  match fmtOf t.ct with
  | some .int8 => .int 8 false
  | some .int32 => .int 32 false
  | some f => .flt f
  | none => .flt .fp32

/-- R228: the width w of ET. -/
def VType.w (t : VType) : Nat := t.elem.width
/-- R224: the number of lanes. -/
def VType.nl (t : VType) : Nat := 2048 / t.w
/-- R230: ET is a floating type. -/
def VType.isFloat (t : VType) : Bool := t.et == 3 || t.et == 4
/-- R228: the group size g. -/
def VType.group (t : VType) : Nat := min (2 ^ t.glog) t.nl
/-- R228: the field width k. -/
def VType.field (t : VType) : Nat := if t.pkw = 0 || t.w < t.pkw then t.w else t.pkw
/-- R228: the funnel shift s. -/
def VType.shift (t : VType) : Nat := if t.w < t.shamt then t.w else t.shamt

/-- R232: Int of a lane. -/
def intOf (w : Nat) (u : Bool) (x : Nat) : Int := if u then (x % 2 ^ w : Nat) else sext w x

/-- The least and the greatest value of an integer type. -/
def intMin (w : Nat) (u : Bool) : Int := if u then 0 else -(2 ^ (w - 1) : Nat)
/-- The greatest value of an integer type. -/
def intMax (w : Nat) (u : Bool) : Int := if u then (2 ^ w : Nat) - 1 else (2 ^ (w - 1) : Nat) - 1

/-- R232: an exact integer result narrowed to a lane. -/
def intLane (w : Nat) (u sat : Bool) (z : Int) : Nat :=
  intCode w (if sat then clampInt (intMin w u) (intMax w u) z else z)

/-- The exact value of an element. -/
def Elem.val : Elem → Nat → Val
  | .int w u, x => let v := intOf w u x; .fin (decide (v < 0)) v.natAbs 0
  | .flt f, x => f.decode x

/-- R183, R188: one rounding to an element. -/
def Elem.round (k : Elem) (mode : Nat) (sat : Bool) (draw : Nat) (v : Val) : Nat :=
  match k with
  | .flt f => roundTo f mode sat draw v
  | .int w u =>
    match v with
    | .nan _ => 0
    | .inf s => intCode w (if s then intMin w u else intMax w u)
    | .fin s m e => intCode w (clampInt (intMin w u) (intMax w u) (roundInt mode draw s m e))

/-- The draw of lane `i`. -/
def drawAt (ds : List Nat) (i : Nat) : Nat := ds.getD i 0

/-! ## Lane predicates (R227) -/

/-- R227: the governing bit of lane `i` under width `w`. -/
def governs (m : W256) (w i : Nat) : Bool := bm m.toNat (w / 8 * i)

/-- R227: false lanes are written as zero. -/
def zeroFalse (m : W256) (w : Nat) (l : List Nat) : List Nat :=
  (List.zip (List.range l.length) l).map (fun p => if governs m w p.1 then p.2 else 0)

/-- The vector of lanes of `w` bits. -/
def lanesVec (w : Nat) (l : List Nat) : Vec := BitVec.ofNat 2048 (joinElems w l)

/-- A lane-predicate register from its lanes: all w / 8 bits of each lane (R227). -/
def predLanes (w : Nat) (l : List Bool) : W256 :=
  BitVec.ofNat 256 (joinElems (w / 8) (l.map (fun b => if b then 2 ^ (w / 8) - 1 else 0)))

/-! ## Lane arithmetic (R232-R240) -/

/-- R232, R233: an arithmetic operation of two lanes. -/
def arithLane (t : VType) (fi : Int → Int → Int) (ff : Bool → Val → Val → Val) (a b draw : Nat) : Nat :=
  match t.elem with
  | .int w u => intLane w u t.sat (fi (intOf w u a) (intOf w u b))
  | .flt f => roundTo f t.mode t.sat draw (ff (t.mode == 3) (f.decode a) (f.decode b))

/-- The addition of R232 and R233. -/
def addLane (t : VType) (a b draw : Nat) : Nat := arithLane t (· + ·) addV a b draw

/-- R234: the smaller or the larger of two lanes. -/
def minMaxLane (t : VType) (larger : Bool) (a b : Nat) : Nat :=
  match t.elem with
  | .int w u =>
    if larger then (if intOf w u a < intOf w u b then b else a)
    else (if intOf w u b < intOf w u a then b else a)
  | .flt f =>
    roundTo f 1 false 0 (if larger then maxNum (f.decode a) (f.decode b) else minNum (f.decode a) (f.decode b))

/-- R234: VABS of a lane. -/
def absLane (t : VType) (a : Nat) : Nat :=
  match t.elem with
  | .int w u => if u then a else intLane w false t.sat (intOf w false a).natAbs
  | .flt f => a % 2 ^ (f.width - 1)

/-- R234: VNEG of a lane. -/
def negLane (t : VType) (a : Nat) : Nat :=
  match t.elem with
  | .int w u => intLane w u t.sat (-(intOf w u a))
  | .flt f => if bm a (f.width - 1) then a - 2 ^ (f.width - 1) else a + 2 ^ (f.width - 1)

/-- R239: a shift of a lane; `k` 0 left, 1 right, 2 arithmetic right. -/
def shiftLane (w k a n : Nat) : Nat :=
  match k with
  | 0 => if w ≤ n then 0 else a * 2 ^ n % 2 ^ w
  | 1 => if w ≤ n then 0 else a / 2 ^ n
  | _ => intCode w (sext w a / (2 ^ min n w : Nat))

/-! ## Groups (R190, R191, R245, R246) -/

/-- Pairs of neighbours added, one draw each. -/
def treeLevel (t : VType) : List Nat → List Nat → List Nat × List Nat
  | a :: b :: rest, ds =>
    let r := treeLevel t rest (ds.drop 1)
    (addLane t a b (ds.headD 0) :: r.1, r.2)
  | l, ds => (l, ds)

/-- R190 TreeSum: `n` levels. -/
def treeSum (t : VType) : Nat → List Nat → List Nat → Nat × List Nat
  | 0, l, ds => (l.headD 0, ds)
  | n + 1, l, ds =>
    let r := treeLevel t l ds
    treeSum t n r.1 r.2

/-- R191: one step of the scan at distance `d`. -/
def scanStep (t : VType) (d : Nat) (l ds : List Nat) : List Nat × List Nat :=
  ((List.range l.length).map (fun i =>
    if i < d then l.getD i 0 else addLane t (l.getD i 0) (l.getD (i - d) 0) (drawAt ds (i - d))),
    ds.drop (l.length - d))

/-- R191: `n` steps from distance `d` on. -/
def scanGroup (t : VType) : Nat → Nat → List Nat → List Nat → List Nat × List Nat
  | 0, _, l, ds => (l, ds)
  | n + 1, d, l, ds =>
    let r := scanStep t d l ds
    scanGroup t n (2 * d) r.1 r.2

/-- Takes each group in turn, the draws passing from one to the next. -/
def eachGroup (f : List Nat → List Nat → List Nat × List Nat) : List (List Nat) → List Nat → List Nat
  | [], _ => []
  | g :: gs, ds =>
    let r := f g ds
    r.1 ++ eachGroup f gs r.2

/-- log2 of a power of two up to 2^8. -/
def log2p (g : Nat) : Nat := ((List.range 9).filter (fun i => decide (2 ^ (i + 1) ≤ g))).length

/-- R245: the largest, smallest or largest magnitude of a group. -/
def reduceGroup (f : Nat → Nat → Nat) : List Nat → Nat
  | [] => 0
  | x :: xs => xs.foldl f x

/-- R245: the group's extreme: the exact operation over its lanes, so that NaN lanes only give the canonical NaN, in a
group of one lane too (DEDUCED, log entry 15). -/
def extremeGroup (t : VType) (big : Bool) : List Nat → Nat
  | [] => 0
  | x :: xs => (x :: xs).foldl (minMaxLane t big) x

/-- R245: the magnitude of a lane for VRAMAX. -/
def magLane (t : VType) (a : Nat) : Nat :=
  match t.elem with
  | .int w u => (intOf w u a).natAbs % 2 ^ w
  | .flt f => a % 2 ^ (f.width - 1)

/-- R245: VRAMAX of magnitudes: unsigned for integers; a group of NaN lanes only gives the canonical NaN. -/
def ramaxGroup (t : VType) (l : List Nat) : Nat :=
  match t.elem with
  | .int _ _ => reduceGroup (fun a b => if a < b then b else a) l
  | .flt f => roundTo f 1 false 0 ((l.map f.decode).foldl maxNum (.nan canonNaN))

/-- The code of minus infinity or plus infinity, the least or the greatest value (R245). -/
def extremeLane (t : VType) (least : Bool) : Nat :=
  match t.elem with
  | .int w u => intCode w (if least then intMin w u else intMax w u)
  | .flt f => signed f least (f.maxCode + 1)

/-- R245: the identity of VRADD: -0 for floating types. -/
def zeroIdentity (t : VType) : Nat :=
  match t.elem with
  | .int _ _ => 0
  | .flt f => signed f true 0

/-- A false lane enters as the identity. -/
def enterIdentity (m : W256) (w ident : Nat) (l : List Nat) : List Nat :=
  (List.zip (List.range l.length) l).map (fun p => if governs m w p.1 then p.2 else ident)

/-! ## Transcendental functions (R249): the exact real value, to 300 bits with a sticky bit -/

/-- The precision of the series. -/
def prec : Nat := 300

/-- The sum of x^n / n! for fixed-point `x`, from the term given on. -/
def expSeries (x : Nat) : Nat → Nat → Nat → Nat
  | 0, _, _ => 0
  | fuel + 1, n, term => term + expSeries x fuel (n + 1) (term * x / 2 ^ prec / (n + 1))

/-- The sum of z^(2j+1) / (2j+1) for fixed-point `z`, from the power given on. -/
def atanhSeries (z2 : Nat) : Nat → Nat → Nat → Nat
  | 0, _, _ => 0
  | fuel + 1, n, p => p / n + atanhSeries z2 fuel (n + 2) (p * z2 / 2 ^ prec)

/-- ln(num / den) in fixed point, for num ≥ den. -/
def lnFix (num den : Nat) : Nat :=
  let z := (num - den) * 2 ^ prec / (num + den)
  2 * atanhSeries (z * z / 2 ^ prec) 200 1 z

/-- ln 2 in fixed point. -/
def ln2Fix : Nat := lnFix 2 1

/-- An inexact positive value known to lie just above `v * 2^e`. -/
def sticky (s : Bool) (v : Nat) (e : Int) : Val := .fin s (2 * v + 1) (e - 1)

/-- R249: 2^x; beyond the range of every format a value of the same rounding stands for it (UNVERIFIED, log entry 16). -/
def exp2V : Val → Val
  | .nan _ => .nan canonNaN
  | .inf s => if s then .fin false 0 0 else .inf false
  | .fin s m e =>
    if m = 0 then .fin false 1 0
    else if leMag 1 9 m e then (if s then .fin false 1 (-500) else .fin false 1 500)
    else
      let n : Int := if 0 ≤ e then signedInt s (m * 2 ^ e.toNat) else signedInt s m / (2 ^ (-e).toNat : Nat)
      if 0 ≤ e || m % 2 ^ (-e).toNat = 0 then .fin false 1 n
      else
        let fr := (signedInt s m % (2 ^ (-e).toNat : Nat)).toNat
        let y := fr * ln2Fix / 2 ^ (-e).toNat
        sticky false (expSeries y 120 0 (2 ^ prec)) (n - prec)

/-- Bits of a positive number above its highest one bit removed: its binary logarithm, rounded down. -/
def floorLog2 (m : Nat) : Nat := Nat.log2 m

/-- R249: log2 x (UNVERIFIED, log entry 16). -/
def log2V : Val → Val
  | .nan _ => .nan canonNaN
  | .inf s => if s then .nan canonNaN else .inf false
  | .fin s m e =>
    if m = 0 then .inf true
    else if s then .nan canonNaN
    else
      let k := floorLog2 m
      let n : Int := e + k
      if m = 2 ^ k then .fin (decide (n < 0)) n.natAbs 0
      else
        let fr := lnFix m (2 ^ k) * 2 ^ prec / ln2Fix
        let v : Int := n * (2 ^ prec : Nat) + fr
        if v < 0 then .fin true (2 * v.natAbs - 1) (-(prec : Int) - 1) else sticky false v.toNat (-(prec : Int))

/-- R249: 1 / x. -/
def rcpV : Val → Val
  | .nan _ => .nan canonNaN
  | .inf s => .fin s 0 0
  | .fin s m e =>
    if m = 0 then .inf s
    else
      let q := 2 ^ prec / m
      if q * m = 2 ^ prec then .fin s q (-e - prec) else sticky s q (-e - prec)

/-- The integer square root, by bits from `i` down. -/
def sqrtBits (n : Nat) : Nat → Nat → Nat
  | 0, c => c
  | i + 1, c => if (c + 2 ^ i) * (c + 2 ^ i) ≤ n then sqrtBits n i (c + 2 ^ i) else sqrtBits n i c

/-- R249: 1 / sqrt x. -/
def rsqV : Val → Val
  | .nan _ => .nan canonNaN
  | .inf s => if s then .nan canonNaN else .fin false 0 0
  | .fin s m e =>
    if m = 0 then .inf s
    else if s then .nan canonNaN
    else
      let m' := if e % 2 = 0 then m else 2 * m
      let e' := if e % 2 = 0 then e else e - 1
      let q := sqrtBits (2 ^ (2 * prec) / m') (prec + 1) 0
      let x : Int := -(e' / 2) - prec
      if q * q * m' = 2 ^ (2 * prec) then .fin false q x else sticky false q x

/-! ## Issue (R229) -/

/-- The unit of the slot being issued. -/
def curUnit (s : State) : Nat := if curSlot s = 4 then 1 else 0
/-- The type register of the unit being issued. -/
def curVType (s : State) : VType :=
  vtypeOf (if curUnit s = 0 then (curCtx s).vtype0 else (curCtx s).vtype1)
/-- R225: the first operand file of the unit. -/
def fileA (s : State) : VFile := if curUnit s = 0 then .v0a else .v1a
/-- R225: the second operand file of the unit. -/
def fileB (s : State) : VFile := if curUnit s = 0 then .v0b else .v1b

/-- R225: the profile check of a routing code. -/
def routeHeld (t : Nat) (s : State) : Bool := !dstQueue t || queueHeld (curCtx s).task (routeQueue t)
/-- R225: the profile check of a queue. -/
def qHeld (q : Nat) (s : State) : Bool := queueHeld (curCtx s).task q

/-- R226: lane 0 of a result as a scalar; `zx` where it is always zero-extended. -/
def scalarLane (t : VType) (zx : Bool) (l : Nat) : Word :=
  match t.elem with
  | .int w u => if zx then wd l else BitVec.ofInt 64 (intOf w u l)
  | .flt _ => wd l

/-- R226, R229: routes a result of lanes: to a queue as a vector, to a scalar register as lane 0. -/
def routeLanes (L t : Nat) (ty : VType) (zx : Bool) (w : Nat) (l : List Nat) (s : State) : Except Nat State :=
  if dstScalar t then writeReg L (t % 32) true (scalarLane ty zx (l.headD 0)) s
  else writeVec L t (lanesVec w l) s

/-- A two-source instruction: `op` gets the type, the lane predicate, both vectors and the draws. -/
def formV2 (o : VAB) (L : Nat) (ok : VType → Bool) (draws : VType → Nat)
    (op : VType → W256 → Nat → Nat → List Nat → List Nat) : State → Out :=
  execSlot o.g (fun s => do
    let t := curVType s
    need 0x01 (ok t)
    need 0x09 (qHeld o.a s && qHeld o.b s && routeHeld o.t s)
    let (a, s) ← vsource (fileA s) o.a o.m s
    let (b, s) ← vsource (fileB s) o.b o.n s
    let (ds, s) := takeDraws t.mode (draws t) s
    routeLanes L o.t t false t.w (op t (vpOf (curCtx s) o.l) a.toNat b.toNat ds) s)

/-- A one-source instruction. -/
def formV1 (o : VA) (L : Nat) (ok : VType → Bool) (draws : VType → Nat) (zx : Bool)
    (op : VType → W256 → Nat → List Nat → List Nat) : State → Out :=
  execSlot o.g (fun s => do
    let t := curVType s
    need 0x01 (ok t)
    need 0x09 (qHeld o.a s && routeHeld o.t s)
    let (a, s) ← vsource (fileA s) o.a o.m s
    let (ds, s) := takeDraws t.mode (draws t) s
    routeLanes L o.t t zx t.w (op t (vpOf (curCtx s) o.l) a.toNat ds) s)

/-- An instruction with an immediate form: the second source is a vector, or the number n. -/
def formVImm (g t : Nat) (m : Bool) (qa : Nat) (n : Bool) (qb l : Nat) (imm : Bool) (L : Nat)
    (op : VType → W256 → Nat → Option Nat → Nat → List Nat) : State → Out :=
  execSlot g (fun s => do
    let ty := curVType s
    need 0x09 (qHeld qa s && (imm || qHeld qb s) && routeHeld t s)
    let (a, s) ← vsource (fileA s) qa m s
    let (b, s) ← (if imm then .ok (none, s)
      else match vsource (fileB s) qb n s with
        | .ok (v, s) => .ok (some v.toNat, s)
        | .error c => .error c)
    routeLanes L t ty false ty.w (op ty (vpOf (curCtx s) l) a.toNat b (n.toNat * 16 + qb)) s)

/-- Any type is accepted. -/
def anyType (_ : VType) : Bool := true
/-- R230: float types only. -/
def floatType (t : VType) : Bool := t.isFloat
/-- R230: VQNT and VDQNT. -/
def quantType (t : VType) : Bool := t.isFloat && decide (1 ≤ t.ct) && decide (t.ct ≤ 7)
/-- No draws. -/
def noDraws (_ : VType) : Nat := 0
/-- R233: one draw per lane of the floating types. -/
def laneDraws (t : VType) : Nat := if t.isFloat then t.nl else 0

/-- Lane by lane, governed. -/
def zipLanes (t : VType) (m : W256) (a b : Nat) (ds : List Nat) (f : Nat → Nat → Nat → Nat) : List Nat :=
  zeroFalse m t.w ((List.range t.nl).map (fun i => f (elem t.w a i) (elem t.w b i) (drawAt ds i)))

/-- Lane by lane of one source, governed. -/
def mapLanes (t : VType) (m : W256) (a : Nat) (ds : List Nat) (f : Nat → Nat → Nat) : List Nat :=
  zeroFalse m t.w ((List.range t.nl).map (fun i => f (elem t.w a i) (drawAt ds i)))

/-! ## Arithmetic -/

/-- VADD. -/
def execVadd (o : VAB) : State → Out :=
  formV2 o 3 anyType laneDraws (fun t m a b ds => zipLanes t m a b ds (addLane t))
/-- VSUB. -/
def execVsub (o : VAB) : State → Out :=
  formV2 o 3 anyType laneDraws (fun t m a b ds => zipLanes t m a b ds
    (arithLane t (· - ·) (fun r x y => addV r x (negV y))))
/-- VMUL. -/
def execVmul (o : VAB) : State → Out :=
  formV2 o 4 anyType laneDraws (fun t m a b ds => zipLanes t m a b ds (arithLane t (· * ·) (fun _ => mulV)))
/-- VMIN. -/
def execVmin (o : VAB) : State → Out :=
  formV2 o 3 anyType noDraws (fun t m a b ds => zipLanes t m a b ds (fun x y _ => minMaxLane t false x y))
/-- VMAX. -/
def execVmax (o : VAB) : State → Out :=
  formV2 o 3 anyType noDraws (fun t m a b ds => zipLanes t m a b ds (fun x y _ => minMaxLane t true x y))
/-- VABS. -/
def execVabs (o : VA) : State → Out :=
  formV1 o 3 anyType noDraws false (fun t m a ds => mapLanes t m a ds (fun x _ => absLane t x))
/-- VNEG. -/
def execVneg (o : VA) : State → Out :=
  formV1 o 3 anyType noDraws false (fun t m a ds => mapLanes t m a ds (fun x _ => negLane t x))

/-! ## Fused multiply-add (R235-R237) -/

/-- Accumulator `k` of a unit. -/
def vaccOf (x : Ctx) (u k : Nat) : AccVec := tabGet 0 x.vaccs (u * 4 + k)

/-- R236: the lanes that change. -/
def fmaLanes (t : VType) : Nat := if t.w = 32 then 64 else 128

/-- R236: the INT32 value of an exact sum. -/
def accClamp (sat : Bool) (z : Int) : Nat := intLane 32 false sat z

/-- R236: the new value of accumulator lane `i`; `neg` for VFMS. -/
def fmaLane (t : VType) (m : W256) (neg : Bool) (a b acc i draw : Nat) : Nat :=
  let sg : Int → Int := fun z => if neg then -z else z
  match t.elem with
  | .flt f =>
    let p := mulV (f.decode (elem f.width a i)) (f.decode (elem f.width b i))
    roundTo .fp32 t.mode t.sat draw
      (addV (t.mode == 3) (if neg then negV p else p) (Fmt.fp32.decode (elem 32 acc i)))
  | .int 8 u =>
    let pr := fun j => if governs m 8 j then intOf 8 u (elem 8 a j) * intOf 8 u (elem 8 b j) else 0
    accClamp t.sat (sext 32 (elem 32 acc i) + sg (pr (2 * i) + pr (2 * i + 1)))
  | .int w u =>
    accClamp t.sat (sext 32 (elem 32 acc i) + sg (intOf w u (elem w a i) * intOf w u (elem w b i)))

/-- R236: accumulator lane `i` is written. -/
def fmaWrites (t : VType) (m : W256) (i : Nat) : Bool := t.w == 8 || governs m t.w i

/-- VFMA and VFMS. -/
def formFma (o : VAB) (neg : Bool) : State → Out :=
  execSlot o.g (fun s => do
    let t := curVType s
    need 0x09 (qHeld o.a s && qHeld o.b s)
    let (a, s) ← vsource (fileA s) o.a o.m s
    let (b, s) ← vsource (fileB s) o.b o.n s
    let n := fmaLanes t
    let (ds, s) := takeDraws t.mode (if t.isFloat then n else 0) s
    let m := vpOf (curCtx s) o.l
    let acc := (vaccOf (curCtx s) (curUnit s) (o.t % 4)).toNat
    let lanes := (List.range n).map (fun i => fmaLane t m neg a.toNat b.toNat acc i (drawAt ds i))
    let mask := (List.range n).map (fun i => (fmaWrites t m i).toNat)
    .ok (land 5 (.vacc (curUnit s) (o.t % 4) (BitVec.ofNat 128 (joinElems 1 mask))
      (BitVec.ofNat 4096 (joinElems 32 lanes))) s))

/-- VFMA. -/
def execVfma (o : VAB) : State → Out := formFma o false
/-- VFMS. -/
def execVfms (o : VAB) : State → Out := formFma o true

/-- VACCR (R237): 64 lanes of 32 bits, governed by bit 4i whatever ET is in force. -/
def execVaccr (o : VAccR) : State → Out :=
  execSlot o.g (fun s => do
    need 0x09 (routeHeld o.t s)
    let acc := (vaccOf (curCtx s) (curUnit s) o.k).toNat
    let m := vpOf (curCtx s) o.l
    let lanes := zeroFalse m 32 ((List.range 64).map (fun i => elem 32 acc (64 * o.h.toNat + i)))
    let s ← (if dstAcc o.t then .ok s else writeVec 3 o.t (lanesVec 32 lanes) s)
    .ok (if o.z then land 1 (.vacc (curUnit s) o.k (BitVec.allOnes 128) 0) s else s))

/-! ## Logic, shifts, counts -/

/-- VAND. -/
def execVand (o : VAB) : State → Out :=
  formV2 o 3 anyType noDraws (fun t m a b ds => zipLanes t m a b ds (fun x y _ => x &&& y))
/-- VOR. -/
def execVor (o : VAB) : State → Out :=
  formV2 o 3 anyType noDraws (fun t m a b ds => zipLanes t m a b ds (fun x y _ => x ||| y))
/-- VXOR. -/
def execVxor (o : VAB) : State → Out :=
  formV2 o 3 anyType noDraws (fun t m a b ds => zipLanes t m a b ds (fun x y _ => x ^^^ y))
/-- VANDN. -/
def execVandn (o : VAB) : State → Out :=
  formV2 o 3 anyType noDraws (fun t m a b ds => zipLanes t m a b ds (fun x y _ => x &&& (2 ^ t.w - 1 - y)))

/-- A shift of every lane by a lane of b or by the immediate. -/
def formVShift (o : VABI) (k : Nat) : State → Out :=
  formVImm o.g o.t o.m o.a o.n o.b o.l o.i 3 (fun t m a b n =>
    zeroFalse m t.w ((List.range t.nl).map (fun i =>
      shiftLane t.w k (elem t.w a i) (b.elim n (fun v => elem t.w v i)))))

/-- VSHL. -/
def execVshl (o : VABI) : State → Out := formVShift o 0
/-- VSHR. -/
def execVshr (o : VABI) : State → Out := formVShift o 1
/-- VSRA. -/
def execVsra (o : VABI) : State → Out := formVShift o 2

/-- VFSL (R240). -/
def execVfsl (o : VAB) : State → Out :=
  formV2 o 3 anyType noDraws (fun t m a b ds => zipLanes t m a b ds (fun x y _ =>
    (x * 2 ^ t.w + y) * 2 ^ t.shift / 2 ^ t.w % 2 ^ t.w))
/-- VFSR (R240). -/
def execVfsr (o : VAB) : State → Out :=
  formV2 o 3 anyType noDraws (fun t m a b ds => zipLanes t m a b ds (fun x y _ =>
    (x * 2 ^ t.w + y) / 2 ^ t.shift % 2 ^ t.w))
/-- VCLZ. -/
def execVclz (o : VA) : State → Out :=
  formV1 o 3 anyType noDraws false (fun t m a ds => mapLanes t m a ds (fun x _ => clzFrom x t.w))
/-- VPOPC. -/
def execVpopc (o : VA) : State → Out :=
  formV1 o 3 anyType noDraws false (fun t m a ds => mapLanes t m a ds (fun x _ => popCount x t.w))

/-! ## Compare and select -/

/-- R241: the condition X of two lanes. -/
def vcmpLane (t : VType) (c a b : Nat) : Bool :=
  match t.elem with
  | .int w u =>
    match c with
    | 0 => intOf w u a == intOf w u b
    | 1 => intOf w u a != intOf w u b
    | 2 => decide (intOf w u a < intOf w u b)
    | _ => decide (intOf w u b ≤ intOf w u a)
  | .flt f => floatCond c (f.decode a) (f.decode b)

/-- VCMP.cc: the pair (vp2k, vp2k+1). -/
def execVcmp (o : VABC) : State → Out :=
  execSlot o.g (fun s => do
    let t := curVType s
    need 0x09 (qHeld o.a s && qHeld o.b s)
    let (a, s) ← vsource (fileA s) o.a o.m s
    let (b, s) ← vsource (fileB s) o.b o.n s
    let m := vpOf (curCtx s) o.l
    let cs := (List.range t.nl).map (fun i =>
      (governs m t.w i, vcmpLane t o.c (elem t.w a.toNat i) (elem t.w b.toNat i)))
    let k := o.t % 8
    .ok (land 3 (.vp (k + 1) (predLanes t.w (cs.map (fun p => p.1 && !p.2))))
      (land 3 (.vp k (predLanes t.w (cs.map (fun p => p.1 && p.2)))) s)))

/-- VSEL: LP selects; false lanes are not zeroed. -/
def execVsel (o : VAB) : State → Out :=
  formV2 o 3 anyType noDraws (fun t m a b _ => (List.range t.nl).map (fun i =>
    if governs m t.w i then elem t.w a i else elem t.w b i))

/-! ## Conversion (R243, R244) -/

/-- R243 VCvt. -/
def cvtElems (t : VType) (m : W256) (a : Nat) (src dst : Elem) (ds : List Nat) : List Nat :=
  let wmax := max src.width dst.width
  (List.range (2048 / wmax)).map (fun i =>
    if governs m wmax i then dst.round t.mode t.sat (drawAt ds i) (src.val (elem src.width a i)) else 0)

/-- VCVT.to (r = 0) and VCVT.from (r = 1). -/
def execVcvt (o : VAR) : State → Out :=
  execSlot o.g (fun s => do
    let t := curVType s
    need 0x09 (qHeld o.a s && routeHeld o.t s)
    let (a, s) ← vsource (fileA s) o.a o.m s
    let src := if o.r then t.conv else t.elem
    let dst := if o.r then t.elem else t.conv
    let (ds, s) := takeDraws t.mode (2048 / max src.width dst.width) s
    writeVec 4 o.t (lanesVec dst.width (cvtElems t (vpOf (curCtx s) o.l) a.toNat src dst ds)) s)

/-- R244: the scale of block j: byte j of b. -/
def blockScale (b i : Nat) : Int := sext 8 (elem 8 b (i / 32))

/-- VQNT. -/
def execVqnt (o : VAB) : State → Out :=
  execSlot o.g (fun s => do
    let t := curVType s
    need 0x01 (quantType t)
    need 0x09 (qHeld o.a s && qHeld o.b s && routeHeld o.t s)
    let (a, s) ← vsource (fileA s) o.a o.m s
    let (b, s) ← vsource (fileB s) o.b o.n s
    let (ds, s) := takeDraws t.mode t.nl s
    let m := vpOf (curCtx s) o.l
    let codes := (List.range t.nl).map (fun i =>
      let sc := blockScale b.toNat i
      if !governs m t.w i || sc == -128 then 0
      else t.conv.round t.mode t.sat (drawAt ds i) (scaleV (-sc) (t.elem.val (elem t.w a.toNat i))))
    writeVec 6 o.t (lanesVec t.conv.width codes) s)

/-- VDQNT. -/
def execVdqnt (o : VAB) : State → Out :=
  formV2 o 4 quantType (fun t => t.nl) (fun t m a b ds =>
    zeroFalse m t.w ((List.range t.nl).map (fun i =>
      let sc := blockScale b i
      if sc == -128 then 0
      else t.elem.round t.mode t.sat (drawAt ds i) (scaleV sc (t.conv.val (elem t.conv.width a i))))))

/-! ## Reductions and scan (R245, R246) -/

/-- The groups of a source, false lanes as the identity. -/
def groupsOf (t : VType) (m : W256) (a ident : Nat) (pre : Nat → Nat) : List (List Nat) :=
  chunks t.group (t.nl / t.group) (enterIdentity m t.w ident ((elems t.w t.nl a).map pre))

/-- Result lanes from NL / g upward are zero. -/
def padLanes (t : VType) (l : List Nat) : List Nat := l ++ List.replicate (t.nl - l.length) 0

/-- VRMAX (DEDUCED, log entry 15). -/
def execVrmax (o : VA) : State → Out :=
  formV1 o 6 anyType noDraws false (fun t m a _ =>
    padLanes t ((groupsOf t m a (extremeLane t true) id).map (extremeGroup t true)))
/-- VRMIN. -/
def execVrmin (o : VA) : State → Out :=
  formV1 o 6 anyType noDraws false (fun t m a _ =>
    padLanes t ((groupsOf t m a (extremeLane t false) id).map (extremeGroup t false)))
/-- VRAMAX: its scalar form is zero-extended. -/
def execVramax (o : VA) : State → Out :=
  formV1 o 6 anyType noDraws true (fun t m a _ =>
    padLanes t ((groupsOf t m a 0 (magLane t)).map (ramaxGroup t)))
/-- R190: the draws of VRADD. -/
def treeDraws (t : VType) : Nat := if t.isFloat then t.nl / t.group * (t.group - 1) else 0
/-- VRADD. -/
def execVradd (o : VA) : State → Out :=
  formV1 o 6 anyType treeDraws false (fun t m a ds =>
    padLanes t (eachGroup (fun g ds => let r := treeSum t (log2p t.group) g ds; ([r.1], r.2))
      (groupsOf t m a (zeroIdentity t) id) ds))
/-- R191: the draws of VSCAN. -/
def scanDraws (t : VType) : Nat :=
  if t.isFloat then t.nl / t.group * ((List.range (log2p t.group)).map (fun i => t.group - 2 ^ i)).sum else 0
/-- VSCAN: a false lane's result is zeroed. -/
def execVscan (o : VA) : State → Out :=
  formV1 o 7 anyType scanDraws false (fun t m a ds =>
    zeroFalse m t.w (eachGroup (scanGroup t (log2p t.group) 1) (groupsOf t m a (zeroIdentity t) id) ds))

/-! ## Permutes (R247, R248) -/

/-- VPERM. -/
def execVperm (o : VAB) : State → Out :=
  formV2 o 5 anyType noDraws (fun t m a b ds => zipLanes t m a b ds (fun _ y _ =>
    if y < t.nl then elem t.w a y else 0))

/-- R247: n_b. -/
def laneIndex (t : VType) (b : Option Nat) (n : Nat) : Nat := (b.elim n (fun v => elem t.w v 0)) % t.nl

/-- VROT and VROT.up. -/
def execVrot (o : VABUI) : State → Out :=
  formVImm o.g o.t o.m o.a o.n o.b o.l o.i 5 (fun t m a b n =>
    let k := laneIndex t b n
    zeroFalse m t.w ((List.range t.nl).map (fun i =>
      elem t.w a (if o.u then (i + t.nl - k) % t.nl else (i + k) % t.nl))))
/-- VBCAST. -/
def execVbcast (o : VABI) : State → Out :=
  formVImm o.g o.t o.m o.a o.n o.b o.l o.i 3 (fun t m a b n =>
    zeroFalse m t.w (List.replicate t.nl (elem t.w a (laneIndex t b n))))
/-- VEXTR. -/
def execVextr (o : VABI) : State → Out :=
  formVImm o.g o.t o.m o.a o.n o.b o.l o.i 3 (fun t m a b n =>
    zeroFalse m t.w (padLanes t [elem t.w a (laneIndex t b n)]))

/-- VIOTA. -/
def execViota (o : VT) : State → Out :=
  execSlot o.g (fun s => do
    let t := curVType s
    need 0x09 (routeHeld o.t s)
    let lane := fun i => match t.elem with
      | .int w _ => i % 2 ^ w
      | .flt f => roundTo f 0 false 0 (.fin false i 0)
    writeVec 3 o.t (lanesVec t.w (zeroFalse (vpOf (curCtx s) o.l) t.w ((List.range t.nl).map lane))) s)

/-- VPACK (R248). -/
def execVpack (o : VA) : State → Out :=
  execSlot o.g (fun s => do
    let t := curVType s
    need 0x09 (qHeld o.a s && routeHeld o.t s)
    let (a, s) ← vsource (fileA s) o.a o.m s
    let m := vpOf (curCtx s) o.l
    writeVec 5 o.t (lanesVec t.field (zeroFalse m t.w ((elems t.w t.nl a.toNat).map (· % 2 ^ t.field)) )) s)

/-- VUNPK (R248). -/
def execVunpk (o : VA) : State → Out :=
  formV1 o 5 anyType noDraws false (fun t m a _ =>
    zeroFalse m t.w ((elems t.field t.nl a).map (fun x => if t.u then x else intCode t.w (sext t.field x))))

/-! ## Transcendental approximations (R249) -/

/-- A function of each lane, rounded once. -/
def formVFun (o : VA) (f : Val → Val) : State → Out :=
  formV1 o 8 floatType (fun t => t.nl) false (fun t m a ds => mapLanes t m a ds (fun x d =>
    t.elem.round t.mode t.sat d (f (t.elem.val x))))

/-- VEXP2. -/
def execVexp2 (o : VA) : State → Out := formVFun o exp2V
/-- VLOG2. -/
def execVlog2 (o : VA) : State → Out := formVFun o log2V
/-- VRCP. -/
def execVrcp (o : VA) : State → Out := formVFun o rcpV
/-- VRSQ. -/
def execVrsq (o : VA) : State → Out := formVFun o rsqV

/-! ## Predicates (R250, R251) -/

/-- A lane-predicate operation over all 256 bits. -/
def formVPLog (o : VPLog) (op : W256 → W256 → W256) : State → Out :=
  execSlot o.g (fun s =>
    let x := curCtx s
    .ok (land 1 (.vp (o.t % 8) (op (vpOf x o.a) (if o.n then ~~~vpOf x o.b else vpOf x o.b))) s))

/-- VPAND. -/
def execVpand (o : VPLog) : State → Out := formVPLog o (fun a b => a &&& b)
/-- VPOR. -/
def execVpor (o : VPLog) : State → Out := formVPLog o (fun a b => a ||| b)
/-- VPXOR. -/
def execVpxor (o : VPLog) : State → Out := formVPLog o (fun a b => a ^^^ b)
/-- VPSET. -/
def execVpset (o : VPSet) : State → Out :=
  execSlot o.g (fun s => .ok (land 1 (.vp (o.t % 8) (if o.v then BitVec.allOnes 256 else 0)) s))

/-- The lanes whose governing bit is 1. -/
def trueLanes (t : VType) (m : W256) : List Nat := (List.range t.nl).filter (governs m t.w)

/-- VPCNT and VPCNT.first. -/
def execVpcnt (o : VPCnt) : State → Out :=
  execSlot o.g (fun s =>
    let t := curVType s
    let l := trueLanes t (vpOf (curCtx s) o.a)
    writeReg 3 (o.t % 32) true (wd (if o.x = 0 then l.length else l.headD t.nl)) s)

end Sys2Proof.Machine
end

