-- ==== Sys2Proof/Machine/Matrix.lean ====
section
/-!
DEFINITION. The matrix engine (spec/12_matrix_engine_and_recipes.md R256-R283): the M slot, the walk of a recipe, the fold of a
K-block, drains, and the steps a running call takes in a cycle.
-/

namespace Sys2Proof.Machine

/-! ## What a context may use (R259) -/

/-- R259: the part of the A operand file. -/
def partA (t : Task) : Nat × Nat :=
  if t.urgent then (0xE0000, 0x100000) else if t.reduced then (0, 0xE0000) else (0, 0x100000)
/-- R259: the part of the B operand file. -/
def partB (t : Task) : Nat × Nat :=
  if t.urgent then (0x1C0000, 0x200000) else if t.reduced then (0, 0x1C0000) else (0, 0x200000)
/-- R259: the part of the drain file. -/
def partD (t : Task) : Nat × Nat :=
  if t.urgent then (0x70000, 0x80000) else if t.reduced then (0, 0x70000) else (0, 0x80000)
/-- R259: the steps of a context. -/
def stepHeld (t : Task) (i : Nat) : Bool :=
  if t.urgent then decide (1792 ≤ i) && decide (i < 2048) else if t.reduced then decide (i < 1792) else decide (i < 2048)
/-- R259: the recipe table entries of a context. -/
def entryHeld (t : Task) (i : Nat) : Bool :=
  if t.urgent then decide (56 ≤ i) && decide (i < 64) else if t.reduced then decide (i < 56) else decide (i < 64)

/-- A range lies in a part. -/
def inPart (p : Nat × Nat) (lo n : Nat) : Bool := decide (p.1 ≤ lo) && decide (lo + n ≤ p.2)

/-! ## Fields of a step (R266-R273) -/

/-- KIND. -/
def stKind (w : Nat) : Nat := bf w 63 60
/-- LAST. -/
def stLast (w : Nat) : Bool := bm w 59
/-- SMP. -/
def stSmp (w : Nat) : Nat := bf w 58 56
/-- SUB. -/
def stSub (w : Nat) : Nat := bf w 55 53
/-- BANK. -/
def stBank (w : Nat) : Nat := bf w 52 51
/-- KB. -/
def stKb (w : Nat) : Nat := bf w 50 44
/-- FA. -/
def stFa (w : Nat) : Nat := bf w 43 41
/-- FB. -/
def stFb (w : Nat) : Nat := bf w 40 38
/-- GA: 2-D. -/
def stGa (w : Nat) : Bool := bm w 37
/-- GB: 2-D. -/
def stGb (w : Nat) : Bool := bm w 36
/-- AINC. -/
def stAinc (w : Nat) : Nat := bf w 35 35
/-- BINC. -/
def stBinc (w : Nat) : Nat := bf w 34 34
/-- ABASE. -/
def stAbase (w : Nat) : Nat := bf w 28 15
/-- BBASE. -/
def stBbase (w : Nat) : Nat := bf w 14 0
/-- FMT of a drain. -/
def stFmt (w : Nat) : Nat := bf w 50 47
/-- MODE of a drain. -/
def stMode (w : Nat) : Nat := bf w 46 44
/-- SAT of a drain. -/
def stSat (w : Nat) : Bool := bm w 43
/-- Z of a drain. -/
def stZ (w : Nat) : Bool := bm w 42
/-- AMX. -/
def stAmx (w : Nat) : Nat := bf w 41 40
/-- AMP. -/
def stAmp (w : Nat) : Nat := bf w 39 37
/-- DSC. -/
def stDsc (w : Nat) : Int := sext 8 (bf w 36 29)
/-- DOFF. -/
def stDoff (w : Nat) : Nat := bf w 12 0
/-- BACK. -/
def stBack (w : Nat) : Nat := bf w 52 46
/-- COUNT. -/
def stCount (w : Nat) : Nat := bf w 45 30

/-- A step is MAC or MACS. -/
def stIsMac (w : Nat) : Bool := stKind w == 1 || stKind w == 2
/-- A step is DRAIN or TDRAIN. -/
def stIsDrain (w : Nat) : Bool := stKind w == 4 || stKind w == 5

/-- R258: bytes of a 1-D segment of a format. -/
def segBytes (f : Nat) : Nat := if f = 1 then 64 else if f = 4 then 16 else 32
/-- R258: bytes of an A K-block. -/
def blockA (f : Nat) : Nat := 96 * segBytes f
/-- R258: bytes of a B K-block. -/
def blockB (f : Nat) : Nat := 256 * segBytes f
/-- R258: cycles per K-block. -/
def blockCycles (f : Nat) : Nat := if f = 1 then 64 else if f = 4 then 16 else 32

/-- R261: cycles between the K-blocks of a MAC or MACS step. -/
def stepC (w : Nat) : Nat :=
  let c := max (blockCycles (stFa w)) (blockCycles (stFb w))
  if stKind w = 2 then c / 2 else c

/-- R261: the cycles of a step execution. -/
def stepCycles (w : Nat) : Nat :=
  match stKind w with
  | 1 => (stKb w + 1) * stepC w
  | 2 => (stKb w + 1) * stepC w
  | 3 => 1
  | 4 => 48
  | 5 => 64
  | _ => 0

/-- Adds to a field; none where the sum does not fit (R268). -/
def addField (w hi lo v : Nat) : Option Nat :=
  let x := bf w hi lo + v
  if x < 2 ^ (hi + 1 - lo) then some (setBits w hi lo x) else none

/-- R268: one substitution where its SUB bit is set. -/
def substBit (w k : Nat) (f : Nat → Option Nat) : Option Nat := if bm (stSub w) k then f w else some w

/-- R268: the step with its substitutions; none on a range error. -/
def substStep (w : Nat) (p : List Word) : Option Nat :=
  let v := (p.getD (stSmp w) 0).toNat
  if stIsMac w then do
    let w ← substBit w 0 (fun w => addField w 28 15 (bf v 13 0))
    let w ← substBit w 1 (fun w => addField w 14 0 (bf v 30 16))
    substBit w 2 (fun w => addField w 50 44 (bf v 38 32))
  else if stIsDrain w then do
    let w ← substBit w 0 (fun w => addField w 12 0 (bf v 12 0))
    substBit w 1 (fun w => some (setBits w 36 29 (bf v 23 16)))
  else if stKind w = 6 then substBit w 0 (fun w => addField w 45 30 (bf v 15 0))
  else some w

/-- R266-R273: the fields of a step are legal. -/
def fieldsOk (w : Nat) : Bool :=
  match stKind w with
  | 1 => bf w 33 29 == 0 && stFa w != 0 && stFb w != 0
  | 2 => bf w 33 29 == 0 && stFa w != 0 && stFb w != 0
  | 3 => bf w 50 0 == 0 && stSub w == 0
  | 4 => decide (stFmt w ≤ 8) && decide (stMode w ≤ 4) && bf w 28 13 == 0 && !bm (stSub w) 2 &&
      (stAmx w != 0 || stAmp w == 0)
  | 5 => decide (stFmt w ≤ 8) && decide (stMode w ≤ 4) && bf w 28 13 == 0 && !bm (stSub w) 2 &&
      (stAmx w != 0 || stAmp w == 0)
  | 6 => stBack w != 0 && bf w 29 0 == 0 && decide (stSub w ≤ 1)
  | _ => false

/-- R267: the first byte of the K-blocks of an execution. -/
def macBase (w n : Nat) : Nat × Nat :=
  (stAbase w * 64 + stAinc w * n * (stKb w + 1) * blockA (stFa w),
   stBbase w * 64 + stBinc w * n * (stKb w + 1) * blockB (stFb w))

/-- R271: bytes of a drained tile. -/
def tileBytes (f : Nat) : Nat := 24576 * ((fmtOf f).elim 32 Fmt.width) / 8

/-- R272: some member of a task's gang is on a core of a cluster. -/
def gangInCluster (s : State) (t : Task) (cl : Nat) : Bool :=
  s.ctxs.any (fun p => decide (p.1 < 128) && p.2.live && decide (clusterOfCore (p.1 % 64) = cl) &&
    p.2.task.world == t.world && p.2.task.launch == t.launch && p.2.task.gang == t.gang)

/-- R272: the address check of a drain's atomic: 0 or the cause. -/
def amxCheck (s : State) (core : Nat) (t : Task) (amx : Nat) (v : Word) : Nat :=
  let u := v.toNat
  match amx with
  | 0 => 0
  | 1 => (match spoolCheck t v 8 8 with | .ok _ => 0 | .error c => c)
  | 2 =>
    if 2 ^ 26 ≤ u || (allocOf s (clusterOfCore core) t).length * bankBytes ≤ u then 0x09
    else if u % 8 ≠ 0 then 0x07 else 0
  | _ =>
    if 2 ^ 30 ≤ u || !gangInCluster s t (bf u 29 26) then 0x09
    else if (allocOf s (bf u 29 26) t).length * bankBytes ≤ u % 2 ^ 26 then 0x09
    else if u % 8 ≠ 0 then 0x07 else 0

/-- R267, R271, R272: the ranges of an execution of a step: 0 or the cause. -/
def rangesCause (s : State) (core : Nat) (t : Task) (p : List Word) (w n : Nat) : Nat :=
  if stIsMac w then
    let b := macBase w n
    if !bankHeld t (stBank w) then 0x09
    else if inPart (partA t) b.1 ((stKb w + 1) * blockA (stFa w)) &&
        inPart (partB t) b.2 ((stKb w + 1) * blockB (stFb w)) then 0 else 0x09
  else if !bankHeld t (stBank w) then 0x09
  else if stIsDrain w then
    if !inPart (partD t) (stDoff w * 64) (tileBytes (stFmt w)) then 0x09
    else amxCheck s core t (stAmx w) (p.getD (stAmp w) 0)
  else 0

/-- An entry of the walk's stack: the REPEAT's index, repetitions left, first step of its body. -/
structure WalkFrame where
  at_ : Nat
  left : Nat
  start : Nat
  deriving DecidableEq, Repr

/-- Where a walk stands: index, cycles so far, K-blocks so far, stack, executions of each step, the plan in
reverse. -/
structure WalkAt where
  i : Nat
  c : Nat
  nb : Nat
  stk : List WalkFrame
  execs : Tab Nat
  plan : List PlanItem

/-- R274: one turn of the loop: go on, the cycle count, or a trap. -/
def walkTurn (s : State) (core : Nat) (t : Task) (p : List Word) (i0 : Nat) (k : WalkAt) :
    Except Nat (Sum WalkAt WalkAt) :=
  if 2047 < k.i then .error 0x01
  else if !stepHeld t k.i then .error 0x09
  else
    match substStep (tabGet 0 (coreOf s core).steps k.i).toNat p with
    | none => .error 0x09
    | some w =>
      if !fieldsOk w then .error 0x01
      else
        let fin := fun (k : WalkAt) => if stLast w then Sum.inr k else Sum.inl { k with i := k.i + 1 }
        if stKind w = 6 then
          match k.stk with
          | f :: rest =>
            if f.at_ = k.i then
              if 0 < f.left then .ok (Sum.inl { k with i := k.i - stBack w, stk := { f with left := f.left - 1 } :: rest })
              else .ok (fin { k with stk := rest })
            else if 0 < stCount w then
              if 4 ≤ k.stk.length || k.i < i0 + stBack w || k.i < f.start + stBack w then .error 0x01
              else .ok (Sum.inl { k with
                i := k.i - stBack w, stk := ⟨k.i, stCount w - 1, k.i - stBack w⟩ :: k.stk })
            else .ok (fin k)
          | [] =>
            if 0 < stCount w then
              if k.i < i0 + stBack w then .error 0x01
              else .ok (Sum.inl { k with i := k.i - stBack w, stk := [⟨k.i, stCount w - 1, k.i - stBack w⟩] })
            else .ok (fin k)
        else
          let n := tabGet 0 k.execs k.i
          let cause := rangesCause s core t p w n
          if cause ≠ 0 then .error cause
          else
            .ok (fin { k with
              c := k.c + stepCycles w
              nb := k.nb + (if stIsMac w then stKb w + 1 else 0)
              execs := tabSet k.execs k.i (n + 1)
              plan := if k.c ≤ 65535 then ⟨k.i, w, n, k.c, k.nb⟩ :: k.plan else k.plan })

/-- R274: the walk. It ends: every REPEAT has at most 65,535 repetitions and at most four are active, so
2^80 turns are never reached. -/
def walkRecipe (s : State) (core : Nat) (t : Task) (p : List Word) (i0 : Nat) : Nat → WalkAt → Except Nat WalkAt
  | 0, _ => .error 0x01
  | fuel + 1, k =>
    match walkTurn s core t p i0 k with
    | .error c => .error c
    | .ok (.inr k) => .ok k
    | .ok (.inl k) => walkRecipe s core t p i0 fuel k

/-! ## The M slot (R277-R283) -/

/-- R131: the matrix engine is busy in a cycle. -/
def callBusy (x : Ctx) (t : Nat) : Bool :=
  x.call.elim false (fun c => decide (c.t0 ≤ t) && decide (t < c.t0 + c.cycles))

/-- R120, R259: words of the M-stream buffer. -/
def mpcSize (t : Task) : Nat := if t.urgent then 4096 else 65536

/-- R120: a word that issues advances MPC. -/
def advanceMpc (s : State) : State := modCur s (fun x => { x with mpc := (x.mpc + 1) % mpcSize x.task })

/-- An M-slot word: not in a handler (R393), not in a busy cycle (R131); MPC advances after its body. -/
def execM (g : Nat) (body : State → Except Nat State) : State → Out :=
  execSlot g (fun s => do
    notInHandler s
    need 0x04 (!callBusy (curCtx s) (curT s))
    let s ← body s
    .ok (advanceMpc s))

/-- R120: the M-stream word at MPC, opened. -/
def mstreamWord (x : Ctx) : Nat :=
  bytesNat (sectionOpen x.image.kenc x.image.nonce x.image.msid (4 * x.mpc) (toNats (memBytes x.mstream (4 * x.mpc) 4)))

/-- R260: the latched parameter registers. -/
def latchParams (x : Ctx) : List Word := (List.range 8).map (tabGet 0 x.mps)

/-- MCALL (R278). -/
def execMcall (o : MCall) : State → Out :=
  execM o.g (fun s => do
    let x := curCtx s
    let core := agIdx (curAgent s)
    need 0x01 (x.image.msid != 0 && decide (x.mpc < x.image.mwords))
    let mw := mstreamWord x
    need 0x01 (bf mw 11 0 == 0 && decide (bf mw 15 12 ≤ 6))
    need 0x09 (entryHeld x.task o.i)
    let e := (tabGet 0 (coreOf s core).table o.i).toNat
    need 0x01 (bm e 31 && bf e 30 11 == 0)
    let p := latchParams x
    let k ← walkRecipe s core x.task p (bf e 10 0) (2 ^ 80) ⟨bf e 10 0, 0, 0, [], [], []⟩
    need 0x04 (k.c == o.b)
    .ok (modCur s (fun x => { x with call := some ⟨curT s, k.c, mw, p, k.plan.reverse, none⟩ })))

/-- MPARM (R280): seen by an MCALL issued at t + 1 or later. -/
def execMparm (o : MParm) : State → Out :=
  execM o.g (fun s => do
    let (a, s) ← source o.a o.m s
    .ok (land 1 (.mparm o.p a) s))

/-- MSTEP and MSTEP.t (R281). -/
def execMstep (o : MStep) : State → Out :=
  execM o.g (fun s => do
    let (a, s) ← source o.a o.m s
    let (b, s) ← source o.b o.n s
    need 0x09 (if o.t then entryHeld (curCtx s).task a.toNat else stepHeld (curCtx s).task a.toNat)
    .ok (land 1 (.mstep o.t a.toNat b) s))

/-- MSTEPRD and MSTEPRD.t (R281). -/
def execMsteprd (o : MStepRd) : State → Out :=
  execM o.g (fun s => do
    let (a, s) ← source o.a o.m s
    need 0x09 (if o.t then entryHeld (curCtx s).task a.toNat else stepHeld (curCtx s).task a.toNat)
    let k := curCore s
    writeReg 2 o.d o.q (if o.t then wd (tabGet 0 k.table a.toNat).toNat else tabGet 0 k.steps a.toNat) s)

/-- The first position of a bank in `Core.accs`. -/
def bankAt (b : Nat) : Nat := b * 24576

/-- Zeroes accumulator banks. -/
def zeroBanks (p : Nat → Bool) (k : Core) : Core := { k with accs := k.accs.filter (fun e => !p (e.1 / 24576)) }

/-- MZERO (R282). -/
def execMzero (o : MZero) : State → Out :=
  execM o.g (fun s => do
    need 0x09 (bankHeld (curCtx s).task o.k)
    .ok (modCore (countEvent (curAgent s) 0x06 1 s) (agIdx (curAgent s)) (zeroBanks (· == o.k))))

/-- MZERO.all (R282). -/
def execMzeroAll (o : G) : State → Out :=
  execM o.g (fun s => .ok (modCore (countEvent (curAgent s) 0x06 1 s) (agIdx (curAgent s))
    (zeroBanks (bankHeld (curCtx s).task))))

/-- MMPC (R283): the set is applied after the advance of R120. -/
def execMmpc (o : SA) : State → Out :=
  execSlot o.g (fun s => do
    notInHandler s
    need 0x04 (!callBusy (curCtx s) (curT s))
    let (a, s) ← source o.a o.m s
    let u := (curCtx s).task.urgent
    need 0x09 (!u || bits a 15 12 == 0)
    .ok (modCur s (fun x => { x with mpc := if u then bits a 11 0 else bits a 15 0 })))

/-! ## Operands of a K-block (R257, R258, R263, R276) -/

/-- The contents of a table from position `p` on as `n` values, zeros where nothing is listed. -/
def denseFrom : Nat → Nat → Tab W32 → List Nat
  | 0, _, _ => []
  | n + 1, p, [] => 0 :: denseFrom n (p + 1) []
  | n + 1, p, (k, v) :: t => if k = p then v.toNat :: denseFrom n (p + 1) t else 0 :: denseFrom n (p + 1) ((k, v) :: t)

/-- The 24,576 elements of a bank, row by row. -/
def bankList (k : Core) (b : Nat) : List Nat :=
  denseFrom 24576 (bankAt b) (k.accs.dropWhile (fun e => decide (e.1 < bankAt b)))

/-- Positions paired with values. -/
def numbered : Nat → List Nat → Tab W32
  | _, [] => []
  | p, v :: vs => (p, BitVec.ofNat 32 v) :: numbered (p + 1) vs

/-- Replaces a bank's elements. -/
def setBank (k : Core) (b : Nat) (l : List Nat) : Core :=
  { k with accs := k.accs.filter (fun e => decide (e.1 < bankAt b)) ++
      (numbered (bankAt b) l).filter (fun e => e.2 != 0) ++
      k.accs.filter (fun e => decide (bankAt (b + 1) ≤ e.1)) }

/-- R258: the address of the segment of outer position `o` that holds K half `h`. -/
def segAddr (base f : Nat) (g : Bool) (o h : Nat) : Nat :=
  if g then base + ((2 * (o / 16) + h) * 16 + o % 16) * (segBytes f / 2) else base + o * segBytes f

/-- R263: the scale of a segment: that of its first 16-byte granule. -/
def segScale (tags : Tab (BitVec 14)) (addr : Nat) : Int := sext 8 (bits (tabGet 0 tags (addr / 16)) 7 0)

/-- The bit string of a segment. -/
def segBits (m : Mem) (addr n : Nat) : Nat := leNat (memBytes m addr n)

/-- One half of an outer position: its scale and its values by K position 0-15 within the half. -/
structure HalfSeg where
  scale : Int
  vals : List (Nat × Val)

/-- R263: a dense half segment. -/
def denseHalf (m : Mem) (tags : Tab (BitVec 14)) (base f : Nat) (g : Bool) (o h : Nat) : HalfSeg :=
  let fm := (fmtOf f).getD .fp32
  let a := segAddr base f g o h
  let v := segBits m a (if g then segBytes f / 2 else segBytes f)
  let first := if g then 0 else 16 * h
  ⟨segScale tags a, (List.range 16).map (fun i => (i, fm.decode (elem fm.width v (first + i))))⟩

/-- R276: the fixed pairs of PSEL 1-6. -/
def pselPair (p : Nat) : Nat × Nat :=
  match p with
  | 1 => (0, 1)
  | 2 => (0, 2)
  | 3 => (0, 3)
  | 4 => (1, 2)
  | 5 => (1, 3)
  | _ => (2, 3)

/-- R276: a half segment of 2:4 data. -/
def sparseHalf (m : Mem) (tags : Tab (BitVec 14)) (base f : Nat) (g : Bool) (o h psel : Nat) : HalfSeg :=
  let fm := (fmtOf f).getD .fp32
  let a := segAddr base f g o h
  let n := if g then 16 else 32
  let v := segBits m a (if g then segBytes f / 2 else segBytes f)
  let meta_ := v / 2 ^ (8 * (n / 2 * fm.width / 8))
  let g0 := if g then 0 else 4 * h
  ⟨segScale tags a, (List.range 4).flatMap (fun i =>
    let gr := g0 + i
    let nib := elem 4 meta_ gr
    let p := if psel = 0 then (nib % 4, nib / 4) else pselPair psel
    let e0 := (4 * i + p.1, fm.decode (elem fm.width v (2 * gr)))
    if p.1 = p.2 then [e0] else [e0, (4 * i + p.2, fm.decode (elem fm.width v (2 * gr + 1)))])⟩

/-- R192: the products of one half; none when a scale is -128. -/
def halfProducts (a b : HalfSeg) : List Val :=
  if a.scale == -128 || b.scale == -128 then []
  else a.vals.map (fun p =>
    scaleV (a.scale + b.scale) (mulV p.2 ((b.vals.getD p.1 (0, .fin false 0 0)).2)))

/-- R192 FoldBlock: one cell. -/
def foldCell (acc : Nat) (ps : List Val) : Nat :=
  match ps with
  | [] => acc
  | p :: rest => roundTo .fp32 0 false 0 (addV false (Fmt.fp32.decode acc) (rest.foldl (addV false) p))

/-- R279: every granule of a range has a fitting tag. -/
def tagsFit (tags : Tab (BitVec 14)) (f : Nat) (g : Bool) (lo n : Nat) : Bool :=
  (List.range (n / 16)).all (fun i =>
    let t := tabGet 0 tags (lo / 16 + i)
    bits t 13 10 == f && (bits t 9 8 == 0 || bits t 9 8 == g.toNat + 1))

/-- R262, R263: K-block `j` of an execution folded into its bank, or the fault record of R279. -/
def foldBlock (k : Core) (mw : Nat) (it : PlanItem) (j : Nat) : Except Nat Core :=
  let w := it.step
  let fa := stFa w
  let fb := stFb w
  let b := macBase w it.n
  let a0 := b.1 + j * blockA fa
  let b0 := b.2 + j * blockB fb
  let nb := it.nb + j
  if !bm mw (16 + nb % 16) then .ok k
  else if !tagsFit k.atags fa (stGa w) a0 (blockA fa) then
    .error (0x11 * 2 ^ 24 + it.idx * 2 ^ 13 + nb % 8192)
  else if !tagsFit k.btags fb (stGb w) b0 (blockB fb) then
    .error (0x12 * 2 ^ 24 + it.idx * 2 ^ 13 + nb % 8192)
  else
    let rows := (List.range 96).map (fun r => [0, 1].map (fun h =>
      if stKind w = 2 then sparseHalf k.afile k.atags a0 fa (stGa w) r h (bf mw 15 12)
      else denseHalf k.afile k.atags a0 fa (stGa w) r h))
    let cols := (List.range 256).map (fun c => [0, 1].map (fun h =>
      denseHalf k.bfile k.btags b0 fb (stGb w) c h))
    let products := rows.flatMap (fun ra => cols.map (fun cb =>
      (List.zip ra cb).flatMap (fun p => halfProducts p.1 p.2)))
    .ok (setBank k (stBank w) ((List.zip (bankList k (stBank w)) products).map (fun p => foldCell p.1 p.2)))

/-! ## Drains (R271, R272) -/

/-- Transposes the 96 rows of 256 elements. -/
def byColumn (l : List Nat) : List Nat :=
  (List.range 256).flatMap (fun c => (List.range 96).map (fun r => l.getD (r * 256 + c) 0))

/-- R271: the bytes a drain writes, given its draws. -/
def drainBytes (w : Nat) (l : List Nat) (ds : List Nat) : List Byte :=
  let f := (fmtOf (stFmt w)).getD .fp32
  let l := if stKind w = 5 then byColumn l else l
  let codes := (List.zip (List.range l.length) l).map (fun p =>
    roundTo f (stMode w) (stSat w) (drawAt ds p.1) (scaleV (-(stDsc w)) (Fmt.fp32.decode p.2)))
  leBytes (tileBytes (stFmt w)) (joinElems f.width codes)

/-- R272: the maximum over a bank's elements of the bit pattern with bit 31 cleared. -/
def absMax (l : List Nat) : Nat :=
  l.foldl (fun m e =>
    let v := if 0x7F800000 < e % 2 ^ 31 then 0x7FC00000 else e % 2 ^ 31
    max m v) 0

/-! ## What a running call does in a cycle (R260-R262) -/

/-- The plan item whose cycles hold cycle `c` of the call. -/
def itemAt (p : List PlanItem) (c : Nat) : Option PlanItem :=
  p.find? (fun it => decide (it.start ≤ c) && decide (c < it.start + stepCycles it.step))

/-- The reads of a cycle: K-blocks are folded, a ZERO acts, a drain reads its bank. -/
def stepRead (a : Agent) (s : State) : State :=
  let x := ctxOf s a
  match x.call with
  | none => s
  | some call =>
    let c := x.clk - call.t0
    match itemAt call.plan c with
    | none => s
    | some it =>
      let o := c - it.start
      let w := it.step
      if call.fault.isSome then s
      else if stIsMac w then
        if o % stepC w = 0 then
          match foldBlock (coreOf s (agIdx a)) call.mw it (o / stepC w) with
          | .ok k => modCore s (agIdx a) (fun _ => k)
          | .error f => setCtx s a { x with call := some { call with fault := some f } }
        else s
      else if stKind w = 3 then modCore s (agIdx a) (zeroBanks (· == stBank w))
      else if o = 0 then
        let l := bankList (coreOf s (agIdx a)) (stBank w)
        let ds := drawsFor (stMode w) 24576 x.lfsr
        setCtx s a { x with
          lfsr := ds.2
          pend := x.pend ++ [⟨x.clk + stepCycles w - 1, x.clk, 5,
            .store .dfile (cellsAt (stDoff w * 64) (drainBytes w l ds.1))⟩] }
      else s

/-- A call ends; its atomics count as issued (R272). -/
def endCall (a : Agent) (s : State) : State :=
  modCtx { s with atomics := s.atomics.map (fun d => if d.ag = a then { d with running := false } else d) } a
    (fun x => { x with call := none })

/-- The end of a cycle: the last cycle of a drain zeroes its bank and starts its atomic; the last cycle of the
call ends it. -/
def stepWrite (a : Agent) (s : State) : State :=
  let x := ctxOf s a
  match x.call with
  | none => s
  | some call =>
    let c := x.clk - call.t0
    let s1 :=
      match itemAt call.plan c with
      | none => s
      | some it =>
        let w := it.step
        if call.fault.isSome || !stIsDrain w || c + 1 != it.start + stepCycles w then s
        else
          let m := absMax (bankList (coreOf s (agIdx a)) (stBank w))
          let s1 := if stZ w then modCore s (agIdx a) (zeroBanks (· == stBank w)) else s
          if stAmx w = 0 then s1
          else { s1 with
            nextId := s1.nextId + 1
            atomics := s1.atomics ++
              [⟨s1.nextId, a, x.task.world, x.task.launch, x.task.gang, stAmx w, (call.params.getD (stAmp w) 0).toNat, m, s1.gcyc + 1, true⟩] }
    if call.t0 + call.cycles ≤ x.clk + 1 then endCall a s1 else s1

/-- STEP_EXECUTION: what a running call does in this cycle; events of the matrix busy counter (R425). -/
def execStepExecution (a : Agent) (st : LandStage) (s : State) : Out :=
  let x := ctxOf s a
  if x.frozen || !callBusy x x.clk then .next s
  else
    match st with
    | .landing => .next s
    | .read => .next (countEvent a 0x06 1 (stepRead a s))
    | .write => .next (stepWrite a s)

/-- CALL_FAULT (R279): the call stops, and the trap is taken before the first bundle of a later cycle. -/
def execCallFault (a : Agent) (s : State) : Out :=
  match (ctxOf s a).call with
  | none => .next s
  | some call =>
    match call.fault with
    | none => .next s
    | some f => .next (deferTrap a 0x05 5 f 0 (endCall a s))

end Sys2Proof.Machine
end

