-- ==== Sys2Proof/Machine/Yarn.lean ====
section
/-!
DEFINITION. Yarns (spec/09_spool_yarns_and_cluster_memory.md R212-R223, R440): the Y rows that set, read, start and halt them, the beats on
the strands and links, deliveries, and stream faults; and TEXIT, which halts them (spec/04_launch_and_scheduling.md R96).
-/

namespace Sys2Proof.Machine

/-! ## Gangs and cores -/

/-- The context of a core that runs tasks of the same kind as an agent: urgent tasks run in the urgent
context. -/
def peerContext (a : Agent) (core : Nat) : Agent := if agUrgent a then .urgent core else .tile core

/-- Two tasks belong to one gang. -/
def sameGang (t u : Task) : Bool := t.world == u.world && t.launch == u.launch && t.gang == u.gang

/-- The core holds a member of an agent's gang. -/
def holdsMember (s : State) (a : Agent) (core : Nat) : Bool :=
  let x := ctxOf s (peerContext a core)
  x.live && sameGang x.task (ctxOf s a).task

/-- The core with an index in an agent's cluster. -/
def clusterCore (a : Agent) (j : Nat) : Nat := agIdx a / 4 * 4 + j

/-- R218: the source core of a yarn. -/
def yarnSrcCore (a : Agent) (q : W256) : Nat := if yqSk q = 2 then clusterCore a (yqScore q) else agIdx a

/-- R218: the destination cores of a yarn. -/
def yarnDstCores (a : Agent) (q : W256) : List Nat :=
  if yqMcast q = 0 then [agIdx a]
  else ([0, 1, 2, 3].filter (fun k => bm (yqMcast q) k)).map (clusterCore a)

/-- R218: a network yarn. -/
def isNetYarn (q : W256) : Bool := yqSk q == 2 || yqMcast q != 0

/-- R218: the cores of a network yarn hold members of a gang with DLEVEL 1. -/
def gangOk (s : State) (a : Agent) (q : W256) : Bool :=
  (ctxOf s a).task.level == 1 && holdsMember s a (yarnSrcCore a q) && (yarnDstCores a q).all (holdsMember s a)

/-- The task whose Spool a yarn reads. -/
def yarnSrcTask (s : State) (a : Agent) (q : W256) : Task := (ctxOf s (peerContext a (yarnSrcCore a q))).task

/-! ## Validity and ranges (R213, R214, R217) -/

/-- R213: the pair (SK, DK) is allowed. -/
def pairAllowed (sk dk : Nat) : Bool :=
  match sk with
  | 1 => decide (1 ≤ dk) && decide (dk ≤ 7)
  | 2 => decide (4 ≤ dk) && decide (dk ≤ 6)
  | 3 => dk == 1 || dk == 3 || decide (4 ≤ dk) && decide (dk ≤ 7)
  | 4 => dk == 1 || dk == 2 || dk == 4
  | 5 => dk == 1 || dk == 2 || dk == 3
  | _ => false

/-- R213: a valid descriptor. -/
def yarnValid (q : W256) : Bool :=
  bits q 199 192 == 0 && bits q 23 0 == 0 && decide (yqFmt q ≤ 8) && yqGeom q != 3 &&
    decide (yqStrand q ≤ 5) && pairAllowed (yqSk q) (yqDk q) &&
    (yqGeom q == 0 || ((yqSk q == 1 || yqSk q == 2) && decide (1 ≤ yqFmt q) && decide (yqFmt q ≤ 7))) &&
    (yqMcast q == 0 || yqDk q == 5 || yqDk q == 6) &&
    (yqDk q != 4 || (decide (yqDstBase q < 256) && dstQueue (yqDstBase q % 256)))

/-- R212: an empty descriptor. -/
def yarnEmpty (q : W256) : Bool := yqSk q == 0 && yqDk q == 0

/-- A range inside a Spool block: 0x07 where it straddles two blocks. -/
def spoolStraddle (a n : Nat) : Bool := (a + n - 1) / blockBytes != a / blockBytes

/-- R214: the alignment of a beat. -/
def beatAligned (q : W256) (src dst : Nat) : Bool :=
  src % 64 == 0 && (yqDk q == 4 || dst % 64 == 0) &&
    !((yqSk q == 1 || yqSk q == 2) && spoolStraddle src (beatBytes q)) && !(yqDk q == 1 && spoolStraddle dst 512)

/-- A held range of the Spool. -/
def spoolHeld (t : Task) (a n : Nat) : Bool := decide (a + n ≤ 0x1400000) && heldBlock t (a / blockBytes)

/-- R16: the half of an instruction address. -/
def halfOf (addr : Nat) : Nat := addr / halfBytes

/-- R343, R397: a range of instruction addresses lies within one half, and there in what a context's transfers may write. -/
def halfRangeOk (s : State) (a : Agent) (addr n : Nat) : Bool :=
  let lo := addr % halfBytes
  decide (addr < 2 * halfBytes) &&
  if agUrgent a then decide (urgentOff ≤ lo) && decide (lo + n ≤ codeBytes)
  else decide (lo + n ≤ halfBytes) &&
    !(urgentLimited s a && decide (lo < codeBytes) && decide (urgentOff < lo + n))

/-- R119, R214: the range lies in the half that is idle now (DEDUCED, log entry 57). -/
def idleRangeOk (s : State) (a : Agent) (addr n : Nat) : Bool :=
  halfOf addr == idleHalf (ctxOf s (.tile (agIdx a))) && halfRangeOk s a addr n

/-- R214: the ranges of a beat. -/
def beatInRange (s : State) (a : Agent) (q : W256) (src dst : Nat) : Bool :=
  let t := (ctxOf s a).task
  let n := beatBytes q
  let pool := (allocOf s (clusterOfCore (agIdx a)) t).length * bankBytes
  (match yqSk q with
    | 1 => spoolHeld t src n
    | 2 => spoolHeld (yarnSrcTask s a q) src n
    | 3 => decide (src + n ≤ pool)
    | 4 => decide (src + n ≤ spillSize t)
    | _ => inPart (partD t) src n) &&
  (match yqDk q with
    | 1 => spoolHeld t dst n
    | 2 => decide (dst + n ≤ pool)
    | 3 => decide (dst + n ≤ spillSize t)
    | 4 => queueHeld t (yqDstBase q % 16)
    | 5 => inPart (partA t) dst n
    | 6 => inPart (partB t) dst n
    | _ => idleRangeOk s a dst n)

/-- R217: bytes of a block of the stream. -/
def streamBlock (q : W256) : Nat := segBytes (yqFmt q) * (if yqGeom q = 2 then 8 else 1)

/-- R217: the address of the scale of block `n`. -/
def scaleAddr (q : W256) (n : Nat) : Nat := yqScBase q + n * yqScStride q

/-- R217: the blocks a yarn's beats hold. -/
def streamBlocks (q : W256) : Nat := ceilDiv (yqBeats q * beatBytes q) (streamBlock q)

/-- R222 CheckAlign and CheckRange of the beats from `b` on: 0 or the cause. -/
def beatsCause (s : State) (a : Agent) (q : W256) (x z : Nat) : Nat → Nat → Nat
  | 0, _ => 0
  | n + 1, b =>
    if !beatAligned q (beatSrc q x b) (beatDst q z b) then 0x07
    else if !beatInRange s a q (beatSrc q x b) (beatDst q z b) then 0x09
    else beatsCause s a q x z n (b + 1)

/-- R217 CheckScales: 0 or the cause. -/
def scalesCause (t : Task) (q : W256) : Nat → Nat → Nat
  | 0, _ => 0
  | n + 1, i =>
    match spoolCheck t (wd (scaleAddr q i)) 1 1 with
    | .error c => c
    | .ok _ => scalesCause t q n (i + 1)

/-! ## Where beats travel (R215, R218) -/

/-- The position where a beat enters its source strand. -/
def srcPosOf (q : W256) (src : Nat) : Nat :=
  match yqSk q with
  | 1 => blockPos (src / blockBytes)
  | 2 => blockPos (src / blockBytes)
  | 3 => stationPos 8
  | 4 => stationPos 14
  | _ => stationPos 7

/-- The position where a beat is delivered. -/
def dstPosOf (q : W256) (dst : Nat) : Nat :=
  match yqDk q with
  | 1 => blockPos (dst / blockBytes)
  | 2 => stationPos 8
  | 3 => stationPos 14
  | 4 => stationPos (fileStation (routeFile (yqDstBase q % 256)))
  | 5 => stationPos 5
  | 6 => stationPos 6
  | _ => stationPos 15

/-- R195: the distance in a direction. -/
def dirDist (anti : Bool) (x y : Nat) : Nat := if anti then cwDist y x else cwDist x y

/-- R195: the position reached `k` cycles after entering at `x`. -/
def posAfter (anti : Bool) (x k : Nat) : Nat := if anti then (x + 32 - k % 32) % 32 else (x + k) % 32

/-- R215: X. -/
def enterDelay (q : W256) : Nat := if yqSk q = 3 then 14 else 1

/-- The beat `b` of a started yarn, before it is read. -/
def makeBeat (_s : State) (o : OpenYarn) (b : Nat) : Beat :=
  let q := o.desc
  let src := beatSrc q o.x b
  let dst := beatDst q o.z b
  let core := yarnSrcCore o.ag q
  let e := beatRead q o.t b
  let net := isNetYarn q
  let sp := srcPosOf q src
  let out := stationPos (10 + core % 4)
  let dp := dstPosOf q dst
  let sd := if net then dirDist (yqAnti q) sp out else dirDist (yqAnti q) sp dp
  let dd := if net then dirDist (yqAnti q) out dp else 0
  let enter := e + enterDelay q
  let cross := enter + sd
  { y := o.y, ag := o.ag, b := b, run := o.t, read := e, enter := enter, cross := cross
    deliver := if net then cross + 6 + dd else cross + (if yqDk q = 2 then 13 else 0)
    src := core, dsts := yarnDstCores o.ag q, net := net, anti := yqAnti q, strand := yqStrand q
    srcPos := sp, srcDist := sd, inPos := out, dstDist := dd, data := [], wantRead := []
    wantWrite := if yqDk q = 2 then List.range (beatBytes q / 64) else [], granted := [], tags := [], desc := q
    srcAddr := src, dstAddr := dst }

/-- R216: the cycle in which beat `b` of a started yarn is delivered. -/
def deliverAt (s : State) (o : OpenYarn) (b : Nat) : Nat := (makeBeat s o b).deliver

/-- R216: the yarn is open in a cycle of its issuer. -/
def yarnOpen (s : State) (o : OpenYarn) (t : Nat) : Bool := decide (t < deliverAt s o o.last)

/-- R216: yarn `y` of a core is open. -/
def isOpen (s : State) (core y t : Nat) : Bool :=
  (coreOf s core).open_.any (fun o => o.y == y && yarnOpen s o t)

/-- R223: how many beats of a yarn have read cycles up to `t`. -/
def beatsRead (o : OpenYarn) (t : Nat) : Nat :=
  if t < o.t + yqStart o.desc then 0 else min (o.last + 1) ((t - o.t - yqStart o.desc) / yqPeriod o.desc + 1)

/-- R223: cancels every beat whose read cycle is later than `t`; a yarn without beats is closed. -/
def haltYarn (core y t : Nat) (s : State) : State :=
  modCore s core (fun k => { k with open_ := k.open_.filterMap (fun o =>
    if o.y = y then (if beatsRead o t = 0 then none else some { o with last := beatsRead o t - 1 }) else some o) })

/-- R219: halts one run of a yarn. -/
def haltRun (core : Nat) (b : Beat) (t : Nat) (s : State) : State :=
  modCore s core (fun k => { k with open_ := k.open_.filterMap (fun o =>
    if o.y = b.y ∧ o.ag = b.ag ∧ o.t = b.run then (if beatsRead o t = 0 then none else some { o with last := beatsRead o t - 1 })
    else some o) })

/-- R223: halts every open yarn of a context. -/
def haltAll (a : Agent) (t : Nat) (s : State) : State :=
  ((coreOf s (agIdx a)).open_.filter (fun o => o.ag = a)).foldl (fun s o => haltYarn (agIdx a) o.y t s) s

/-! ## Y rows (R220-R223) -/

/-- R440: traps 0x09 on a yarn outside the task's profile. -/
def needYarn (y : Nat) (s : State) : Except Nat Unit := need 0x09 (yarnHeld (curCtx s).task y)

/-- A yarn register of a core. -/
def yarnReg (k : Core) (y : Nat) : W256 := tabGet 0 k.yarns y

/-- YSET (R220): seen by a YGO issued at t + 1 or later. -/
def execYset (o : YSet) : State → Out :=
  execSlot o.g (fun s => do
    needYarn o.y s
    let (a, s) ← source o.a o.m s
    let (b, s) ← source o.b o.n s
    .ok (land 1 (.yset o.y o.h a b) s))

/-- YGET (R221). -/
def execYget (o : YGet) : State → Out :=
  execSlot o.g (fun s => do
    needYarn o.y s
    writeReg 1 o.d o.q (wd (elem 64 (yarnReg (curCore s) o.y).toNat o.w)) s)

/-- YGO (R222). -/
def execYgo (o : YGo) : State → Out :=
  execSlot o.g (fun s => do
    needYarn o.y s
    notInHandler s
    let (a, s) ← source o.a o.m s
    let (b, s) ← source o.b o.n s
    let ag := curAgent s
    let core := agIdx ag
    let t := curT s
    need 0x04 (!isOpen s core o.y t)
    let q := yarnReg (curCore s) o.y
    if yarnEmpty q then .ok s
    else do
      need 0x01 (yarnValid q)
      need 0x09 (!isNetYarn q || gangOk s ag q)
      let x := a.toNat % 2 ^ 32
      let z := b.toNat % 2 ^ 32
      let c := beatsCause s ag q x z (yqBeats q) 0
      need c (c == 0)
      let c := if yqGeom q = 0 then 0 else scalesCause (yarnSrcTask s ag q) q (streamBlocks q) 0
      need c (c == 0)
      .ok (modCore s core (fun k => { k with
        open_ := k.open_ ++ [⟨o.y, ag, q, x, z, t, 0, yqBeats q - 1⟩] })))

/-- YHALT (R223). -/
def execYhalt (o : YHalt) : State → Out :=
  execSlot o.g (fun s => do
    needYarn o.y s
    notInHandler s
    .ok (haltYarn (agIdx (curAgent s)) o.y (curT s) s))

/-- YHALT.all (R223). -/
def execYhaltAll (o : G) : State → Out :=
  execSlot o.g (fun s => do
    notInHandler s
    .ok (haltAll (curAgent s) (curT s) s))

/-! ## Stores (R196, R200-R202) -/

/-- The Spool blocks that cells touch. -/
def blocksOf (l : List Host.Cell) : List Nat := dedup (l.map (fun c => c.1 / blockBytes))

/-- R399, R408: a write that performs in Spool blocks marks them. -/
def markBlocks (l : List Nat) (k : Core) : Core :=
  { k with
    clean := k.clean.filter (fun b => !l.elem b)
    written := dedup (l ++ k.written) }

/-- Writes contiguous bytes to a core's Spool. -/
def spoolWrite (core a : Nat) (l : List Byte) (s : State) : State :=
  modCore s core (fun k => markBlocks [a / blockBytes] { k with spool := memWrite k.spool a l })

/-- Writes contiguous bytes to a core's spill store, by spill address. -/
def spillWrite (core a : Nat) (l : List Byte) (s : State) : State :=
  modCore s core (fun k => { k with spill := memWrite k.spill a l })

/-- R171: writes at an instruction address; a transfer into the idle half clears the fence state of the core's main
context. -/
def halfWrite (core a : Nat) (l : List Byte) (s : State) : State :=
  let s1 := modCore s core (fun k => { k with imem := memWrite k.imem a l })
  modCtx s1 (.tile core) (fun x => if idleHalf x = halfOf a then { x with fence := false } else x)

/-! ## Beats -/

/-- What the source of a beat holds. -/
def beatData (s : State) (b : Beat) : List Byte :=
  let n := beatBytes b.desc
  let k := coreOf s b.src
  match yqSk b.desc with
  | 1 => memBytes k.spool b.srcAddr n
  | 2 => memBytes k.spool b.srcAddr n
  | 4 => memBytes k.spill (spillBase (ctxOf s b.ag).task + b.srcAddr) n
  | 5 => memBytes k.dfile b.srcAddr n
  | _ => List.replicate n 0

/-- R217: the scale of the block that holds byte `i` of a beat. -/
def beatScale (s : State) (b : Beat) (i : Nat) : Int :=
  if yqGeom b.desc = 0 then 0
  else sext 8 (memGet (coreOf s b.src).spool
    (scaleAddr b.desc ((b.b * beatBytes b.desc + i) / streamBlock b.desc))).toNat

/-- R217: bytes of blocks whose scale is -128 are zero. -/
def scaledData (s : State) (b : Beat) (l : List Byte) : List Byte :=
  if yqGeom b.desc = 0 then l
  else (List.zip (List.range l.length) l).map (fun p => if beatScale s b p.1 == -128 then 0 else p.2)

/-- R257: the tags of a beat's granules. -/
def beatTags (s : State) (b : Beat) : List (BitVec 14) :=
  (List.range (beatBytes b.desc / 16)).map (fun g =>
    BitVec.ofNat 14 (yqFmt b.desc * 2 ^ 10 + yqGeom b.desc * 2 ^ 8 + (BitVec.ofInt 8 (beatScale s b (16 * g))).toNat))

/-- A beat read at its source: pooled lines are still to be granted. -/
def readBeat (s : State) (o : OpenYarn) (b : Nat) : Beat :=
  let t := makeBeat s o b
  { t with
    data := scaledData s t (beatData s t)
    wantRead := if yqSk o.desc = 3 then List.range (beatBytes o.desc / 64) else []
    tags := if yqDk o.desc = 5 || yqDk o.desc = 6 then beatTags s t else [] }

/-- R136: a cause that freezes only the context itself: a wait that its own instruction requests. -/
def ownCause (c : Freeze) : Bool := c == .monitor || c == .timeline || c == .barrier || c == .fence

/-- The context has requested a wait, in this cycle or before, that is not over. -/
def asksWait (x : Ctx) : Bool := x.causes.any ownCause

/-- R137, R218: the context is frozen by a wait that its own instruction requests. -/
def ownWait (x : Ctx) : Bool := x.frozen && asksWait x

/-- The cores of a cluster. -/
def clusterCores (core : Nat) : List Nat := [0, 1, 2, 3].map (fun j => core / 4 * 4 + j)

/-- The beats in flight of a cluster, each with its issuer's clock. -/
def clusterBeats (s : State) (core : Nat) : List (Beat × Nat) :=
  (clusterCores core).flatMap (fun c => (coreOf s c).beats.map (fun b => (b, (ctxOf s b.ag).clk)))

/-- R195: where a beat is on the strands of core `c` in its issuer's cycle `t`: strand, direction, position,
whether it enters there now and whether it is delivered there now. -/
def beatOn (b : Beat) (c t : Nat) : List (Nat × Bool × Nat × Bool × Bool) :=
  (if b.src = c && decide (b.enter ≤ t) && decide (t ≤ b.enter + b.srcDist) then
    [(b.strand, b.anti, posAfter b.anti b.srcPos (t - b.enter), t == b.enter, t == b.enter + b.srcDist)]
  else []) ++
  (if b.net && b.dsts.elem c && decide (b.cross + 6 ≤ t) && decide (t ≤ b.cross + 6 + b.dstDist) then
    [(b.strand, b.anti, posAfter b.anti b.inPos (t - b.cross - 6), t == b.cross + 6, t == b.cross + 6 + b.dstDist)]
  else [])

/-- Two records of a beat in flight are those of one beat. -/
def sameBeat (b o : Beat) : Bool := o.y == b.y && o.b == b.b && o.ag == b.ag && o.run == b.run

/-- R195: of two beats that enter one position, the first is discarded. Two network beats of one yarn number that enter at
one source core go by the issuing core (DEDUCED, log entry 68). -/
def losesTo (b o : Beat) : Bool :=
  decide (o.y < b.y) || (b.y == o.y && b.net &&
    (!o.net || decide (o.src < b.src) || (o.src == b.src && decide (agIdx o.ag < agIdx b.ag))))

/-- R195: the beat, entering a strand of core `c` now, collides and is discarded. A beat that is delivered and one that
enters do not collide. -/
def collides (s : State) (b : Beat) (c t : Nat) : Bool :=
  (beatOn b c t).any (fun p =>
    p.2.2.2.1 && (clusterBeats s c).any (fun o =>
      !sameBeat b o.1 &&
        (beatOn o.1 c o.2).any (fun q =>
          q.1 == p.1 && q.2.1 == p.2.1 && q.2.2.1 == p.2.2.1 && !q.2.2.2.2 && !(p.2.2.2.2 && q.2.2.2.1) &&
            (!q.2.2.2.1 || losesTo b o.1))))

/-- R218: a SENDT vector crosses the link from core `c` to core `d` in this cycle. -/
def sendCrosses (s : State) (c d : Nat) : Bool :=
  [Agent.tile c, .urgent c].any (fun a =>
    let x := ctxOf s a
    !x.frozen && x.pend.any (fun p =>
      match p.act with
      | .sendt cm _ => p.due == x.clk + 7 && bm cm (d % 4)
      | _ => false))

/-- R218: the beat loses the link from its source core to core `d` (DEDUCED, log entry 68). -/
def linkLost (s : State) (b : Beat) (d : Nat) : Bool :=
  sendCrosses s b.src d ||
    (clusterBeats s d).any (fun o => o.1.net && o.1.src == b.src && o.1.dsts.elem d && o.1.cross == o.2 &&
      (decide (o.1.y < b.y) || (o.1.y == b.y && decide (agIdx o.1.ag < agIdx b.ag))))

/-- What happens to a beat on its way in this cycle: the destinations it loses, with the kind of the stream
fault and the agent it is raised on (R137, R195, R218) (DEDUCED, log entry 68). -/
def beatLosses (s : State) (b : Beat) (t : Nat) : List (List Nat × StreamLoss) :=
  let held := fun c => b.net && ownWait (ctxOf s (peerContext b.ag c))
  if decide (b.enter ≤ t) && decide (t ≤ b.enter + b.srcDist) && held b.src then
    [(b.dsts, ⟨peerContext b.ag b.src, 3, false, b.y⟩)]
  else if t = b.enter && collides s b b.src t then [(b.dsts, ⟨b.ag, 1, false, b.y⟩)]
  else
    b.dsts.filterMap (fun d =>
      if b.net && t = b.cross && linkLost s b d then some ([d], ⟨b.ag, 2, false, b.y⟩)
      else if b.net && decide (b.cross + 6 ≤ t) && decide (t ≤ b.deliver) && held d then
        some ([d], ⟨peerContext b.ag d, 3, false, b.y⟩)
      else if b.net && t = b.cross + 6 && collides s b d t then some ([d], ⟨b.ag, 1, false, b.y⟩)
      else none)

/-- Takes lost destinations from a beat; a beat without destinations is gone. -/
def dropDsts (ds : List Nat) (b : Beat) : Option Beat :=
  let l := b.dsts.filter (fun d => !ds.elem d)
  if l.isEmpty then none else some { b with dsts := l }

/-- The steps of a list of stream faults. -/
def faultSteps (l : List StreamLoss) : List Instr := l.map Instr.streamFault

/-- Puts steps in front of the agenda. -/
def pushSteps (l : List Instr) (s : State) : State := { s with agenda := l ++ s.agenda }

/-- The beats of a core's yarns on their way: collisions, links, frozen receivers; then the beats that are read
in this cycle. -/
def yarnRead (core : Nat) (s : State) : State :=
  let k := coreOf s core
  let res := k.beats.map (fun b =>
    if yarnRuns s b.ag b.y then (b, beatLosses s b (ctxOf s b.ag).clk) else (b, []))
  let losses := res.flatMap (·.2)
  let kept := res.filterMap (fun p => dropDsts (p.2.flatMap (·.1)) p.1)
  let due := k.open_.filter (fun o => yarnRuns s o.ag o.y && decide (o.next ≤ o.last) &&
    beatRead o.desc o.t o.next == (ctxOf s o.ag).clk)
  let new := due.map (fun o => readBeat s o o.next)
  let s1 := modCore s core (fun k => { k with
    beats := kept ++ new
    open_ := k.open_.map (fun o => if due.elem o then { o with next := o.next + 1 } else o) })
  let s2 := (res.filter (fun p => !p.2.isEmpty)).foldl (fun s p => haltRun core p.1 (ctxOf s p.1.ag).clk s) s1
  pushSteps (faultSteps (losses.map (·.2))) s2

/-- The beats of a cluster that are due at a destination core: issuer core and beat. -/
def arriving (s : State) (core : Nat) (p : Beat → Nat → Bool) : List (Nat × Beat) :=
  (clusterCores core).flatMap (fun c => ((coreOf s c).beats.filter (fun b =>
    b.dsts.elem core && yarnRuns s b.ag b.y && p b (ctxOf s b.ag).clk)).map (fun b => (c, b)))

/-- Changes a beat in flight. -/
def modBeat (s : State) (c : Nat) (b : Beat) (f : Beat → Option Beat) : State :=
  modCore s c (fun k => { k with beats := k.beats.filterMap (fun o =>
    if sameBeat b o then f o else some o) })

/-- R216: a beat for a vector queue takes its Dest step at the start of the cycle of delivery. -/
def deliverQueue (core c : Nat) (b : Beat) (s : State) : State :=
  let t := yqDstBase b.desc % 256
  let k := coreOf s core
  let r := vqOf k (routeFile t) (routeQueue t)
  let s1 := modBeat s c b (dropDsts [core])
  match ringDest r (routePush t) with
  | .ok (cell, r) =>
    modCore s1 core (fun k => setVq k (routeFile t) (routeQueue t) (ringPut r cell (vecOfBytes b.data)))
  | .error _ => pushSteps (faultSteps [⟨b.ag, 4, false, b.y⟩]) (haltRun c b (ctxOf s b.ag).clk s1)

/-- Writes the tags of a range of granules. -/
def writeTags (t : Tab (BitVec 14)) (g : Nat) (l : List (BitVec 14)) : Tab (BitVec 14) :=
  (List.zip (List.range l.length) l).foldl (fun t p => tabSet t (g + p.1) p.2) t

/-- R137: a network beat comes to a core that has requested a wait in this cycle, the last before its delivery. -/
def nearWait (s : State) (core : Nat) (b : Beat) : Bool :=
  b.net && agIdx b.ag != core && asksWait (ctxOf s (peerContext b.ag core))

/-- R137: the delivery of a network beat falls in a cycle in which the receiving core is frozen by its own wait: one that it
has requested in the cycle before, and that has not ended in it (DEDUCED, log entry 68). -/
def meetsWait (s : State) (core : Nat) (b : Beat) : Bool := nearWait s core b && !asksWait (ctxOf s b.ag)

/-- R216: a beat is written in the cycle before its delivery. -/
def deliverStore (core c : Nat) (b : Beat) (s : State) : State :=
  let s1 := modBeat s c b (dropDsts [core])
  if meetsWait s core b then
    pushSteps (faultSteps [⟨peerContext b.ag core, 3, false, b.y⟩]) (haltRun c b (ctxOf s b.ag).clk s1)
  else match yqDk b.desc with
  | 1 => spoolWrite core b.dstAddr b.data s1
  | 3 => spillWrite core (spillBase (ctxOf s b.ag).task + b.dstAddr) b.data s1
  | 5 => modCore s1 core (fun k => { k with
      afile := memWrite k.afile b.dstAddr b.data, atags := writeTags k.atags (b.dstAddr / 16) b.tags })
  | 6 => modCore s1 core (fun k => { k with
      bfile := memWrite k.bfile b.dstAddr b.data, btags := writeTags k.btags (b.dstAddr / 16) b.tags })
  | _ =>
    if idleHalf (ctxOf s (.tile core)) = halfOf b.dstAddr then halfWrite core b.dstAddr b.data s1
    else pushSteps (faultSteps [⟨b.ag, 5, false, b.y⟩]) (haltRun c b (ctxOf s b.ag).clk s1)

/-- The granted lines of a beat for pooled memory are written; it is gone when all are. -/
def deliverPooled (core c : Nat) (b : Beat) (s : State) : State :=
  let cl := clusterOfCore core
  let s1 := b.granted.foldl (fun s l =>
    match taskPlace s core (ctxOf s b.ag).task (b.dstAddr + 64 * l) with
    | none => s
    | some p => setLinePoison (pooledWrite s cl p ((b.data.drop (64 * l)).take 64)) cl p false) s
  modBeat s1 c b (fun o => if o.wantWrite.isEmpty then none else some { o with granted := [] })

/-- R196: the order of writes of one cycle: the core's own yarns, then the network by source core. -/
def arriveRank (p : Nat × Beat) : Nat :=
  (if p.2.net then 1000 * (p.2.src + 1) else 0) + p.2.y

/-- The beats for the stores of a core that are delivered in the next cycle. -/
def storeBeats (s : State) (core : Nat) : List (Nat × Beat) :=
  sortBy arriveRank (arriving s core (fun b t => yqDk b.desc != 4 && yqDk b.desc != 2 && b.deliver == t + 1))

/-- The beats that arrive at a core: at the start of a cycle those for vector queues, in ascending yarn number;
with the writes the others, but for those that may meet a wait, which come once it is known whether the wait goes on (R137).
Yarns whose last beat is delivered close. -/
def yarnWrite (core : Nat) (s : State) : State :=
  if s.phase = 0 then
    let l := sortBy (fun p => p.2.y * 64 + p.1) (arriving s core (fun b t => yqDk b.desc == 4 && b.deliver == t))
    let s1 := l.foldl (fun s p => deliverQueue core p.1 p.2 s) s
    modCore s1 core (fun k => { k with open_ := k.open_.filter (fun o => yarnOpen s1 o (ctxOf s1 o.ag).clk) })
  else if s.phase = 8 then (storeBeats s core).foldl (fun s p => deliverStore core p.1 p.2 s) s
  else
    let l := (storeBeats s core).filter (fun p => !nearWait s core p.2)
    let s1 := l.foldl (fun s p => deliverStore core p.1 p.2 s) s
    let l := sortBy arriveRank ((clusterCores core).flatMap (fun c =>
      ((coreOf s1 c).beats.filter (fun b => b.dsts.elem core && yqDk b.desc == 2 && !b.granted.isEmpty)).map
        (fun b => (c, b))))
    l.foldl (fun s p => deliverPooled core p.1 p.2 s) s1

/-- YARN_BEAT: the beats of a core in one stage of the cycle. -/
def execYarnBeat (core : Nat) (st : BeatStage) (s : State) : Out :=
  match st with
  | .read => .next (yarnRead core s)
  | .write => .next (yarnWrite core s)

/-- R219: FAULTCAUSE of a kind. -/
def lossCause (k : Nat) : Nat := if k ≤ 3 then 0x05 else if k = 4 then 0x02 else if k = 5 then 0x09 else 0x0B

/-- R219: FAULTWORD of a loss. -/
def lossWord (o : StreamLoss) : Nat := o.kind * 2 ^ 24 + o.send.toNat * 32 + o.source % 32

/-- STREAM_FAULT: the trap of a lost beat or vector, taken before the first bundle of a later cycle; the lowest
kind and then the lowest yarn is reported. -/
def execStreamFault (o : StreamLoss) (s : State) : Out :=
  if (ctxOf s o.agent).live then
    .next (deferTrap o.agent (lossCause o.kind) 7 (lossWord o) (o.kind * 64 + o.source) s)
  else .next s

/-! ## Pooled arbitration of a cycle (R200-R202) -/

/-- Changes the entry of `Ctx.pend` that waits for its bank. -/
def grantPend (x : Ctx) (f : InFlight → List InFlight) : Ctx :=
  match lslotWant x with
  | none => x
  | some p => { x with pend := x.pend.flatMap (fun q => if q = p.1 then f q else [q]) }

/-- The L slot of a context has won its bank: R201, R202. -/
def grantLslot (a : Agent) (place : Nat) (s : State) : State :=
  let x := ctxOf s a
  let cl := clusterOfCore (agIdx a)
  let s0 := if x.causes.elem .pooled then dropCause a .pooled s else s
  match lslotWant x with
  | none => s0
  | some (p, _) =>
    match p.act with
    | .ldc _ r c u =>
      if linePoisoned s cl place then
        lateSlotTrap a 2 0x0B u (modCtx s0 a (fun x => grantPend x (fun _ => [])))
      else
        let v := wd (leNat (pooledBytes s cl place 8))
        modCtx s0 a (fun x => grantPend x (fun q => [{ q with due := q.due + 14, act := .sreg r c v }]))
    | .stc addr v =>
      modCtx s0 a (fun x => grantPend x (fun q =>
        [{ q with due := x.clk + 13, act := .store .pooled (cellsAt addr (leBytes 8 v.toNat)) }]))
    | .latomPool addr op b v r c u =>
      modCtx s0 a (fun x => grantPend x (fun q => [{ q with due := x.clk + 15, act := .latomPerform addr op b v r c u }]))
    | _ => s0

/-- A beat in flight, by its core, yarn, run and number. -/
def beatOf (s : State) (core y run b : Nat) : Option Beat :=
  (coreOf s core).beats.find? (fun o => o.y = y ∧ o.run = run ∧ o.b = b)

/-- A line of a beat has been granted for reading. -/
def grantRead (core : Nat) (o : Option Beat) (line place : Nat) (s : State) : State :=
  let cl := clusterOfCore core
  match o with
  | none => s
  | some bt =>
    if linePoisoned s cl place then
      pushSteps (faultSteps [⟨bt.ag, 6, false, bt.y⟩])
        (haltRun core bt (ctxOf s bt.ag).clk (modBeat s core bt (fun _ => none)))
    else
      modBeat s core bt (fun o => some { o with
        wantRead := o.wantRead.filter (· != line)
        data := mergeLine o.data (64 * line) (pooledBytes s cl place 64) })

/-- A line of a beat has been granted for writing. -/
def grantWrite (core : Nat) (o : Option Beat) (line : Nat) (s : State) : State :=
  match o with
  | none => s
  | some bt => modBeat s core bt (fun o => some { o with
      wantWrite := o.wantWrite.filter (· != line), granted := o.granted ++ [line] })

/-- A channel line that loses is one cc later, with every later line of its command (R318). -/
def delayBurst (ch i : Nat) (s : State) : State :=
  modChan s ch (fun c => { c with bursts := (List.zip (List.range c.bursts.length) c.bursts).map (fun p =>
    if p.1 = i then { p.2 with at_ := p.2.at_ + 1 } else p.2) })

/-- The context whose access lost: it is frozen until the access wins, and its event counter counts. -/
def loseBank (a : Agent) (s : State) : State := countEvent a 0x04 1 (addCause a .pooled s)

/-- R311: a line gathered by a DWR. After the last line of the mask the burst is in the row at `u + 16`. -/
def gatherLine (ch i : Nat) (l : List Byte) (poison : Bool) (s : State) : State :=
  modChan s ch (fun c => { c with bursts := (List.zip (List.range c.bursts.length) c.bursts).map (fun p =>
    if p.1 = i then
      let b := p.2
      let next := ([0, 1, 2, 3].filter (fun j => decide (b.step < j) && bm b.mask j)).head?
      { b with
        lines := b.lines ++ [(leNat l, poison)]
        step := next.getD 4
        at_ := next.elim (2 * b.issued + 32) (fun j => b.at_ + (j - b.step)) }
    else p.2) })

/-- A pooled line of a channel that has been granted: a gather reads it; a landing writes it later in the
cycle. -/
def grantChan (ch i place : Nat) (s : State) : State :=
  match (chanOf s ch).bursts[i]? with
  | none => s
  | some b =>
    if b.write then
      let cl := ch / 64 * 4 + bf b.addr 27 26
      gatherLine ch i (pooledBytes s cl place 64) (linePoisoned s cl place) s
    else s

/-- The result of one request. -/
def grantOne (r : PoolReq × Bool) (s : State) : State :=
  match r.1.who, r.2 with
  | .chan ch i, false => delayBurst ch i s
  | .chan ch i, true => grantChan ch i r.1.place s
  | .lslot a, true => grantLslot a r.1.place s
  | .lslot a, false => loseBank a s
  | .beatRead core y run b line, true => grantRead core (beatOf s core y run b) line r.1.place s
  | .beatWrite core y run b line, true => grantWrite core (beatOf s core y run b) line s
  | .beatRead core y run b _, false => (beatOf s core y run b).elim s (fun o => loseBank o.ag s)
  | .beatWrite core y run b _, false => (beatOf s core y run b).elim s (fun o => loseBank o.ag s)

/-- Contexts of a core whose pooled accesses have all been granted go on in the next cycle. -/
def releasePooled (core : Nat) (s : State) : State :=
  [Agent.tile core, .urgent core].foldl (fun s a =>
    let x := ctxOf s a
    if x.causes.elem .pooled && (lslotWant x).isNone &&
        !(x.susp.isNone && (coreOf s core).beats.any (fun b => b.ag = a && (!b.wantRead.isEmpty ||
          (!b.wantWrite.isEmpty && decide (b.deliver ≤ x.clk + 1))))) then
      dropCause a .pooled s
    else s) s

/-- POOLED_GRANT: the pooled banks of a cluster grant one access each; reads perform. -/
def execPooledGrant (cl : Nat) (s : State) : Out :=
  let rs := arbitrate [] (pooledReqs s cl)
  let s1 := rs.foldl (fun s r => grantOne r s) s
  let s2 := modCluster s1 cl (fun k => { k with
    busyAt := s.gcyc, busyBanks := (rs.filter (·.2)).map (fun r => placeBank r.1.place) })
  .next ([0, 1, 2, 3].foldl (fun s j => releasePooled (4 * cl + j) s) s2)

/-! ## TEXIT (R96) -/

/-- TEXIT: no later bundle issues; the task drops from its domain, its open yarns are halted, and it retires when
its work has ended. In a handler the suspended state is discarded (R393). -/
def execTexit (o : G) : State → Out :=
  execSlot o.g (fun s =>
    let a := curAgent s
    let s1 := modCtx s a (fun x => { x with texit := true, issuing := false, susp := none })
    let s2 := if (curCtx s).susp.isSome then
        modCore (dropCause a .handler s1) (agIdx a) (fun k => { k with
          open_ := k.open_.filter (fun y => y.ag != a), beats := k.beats.filter (fun b => b.ag != a) })
      else s1
    .ok (haltAll a (curT s) (domDrop s2 a)))

end Sys2Proof.Machine
end

