-- ==== Sys2Proof/Machine/Image.lean ====
section
/-!
DEFINITION. Program images and launch records (spec/02_program_image_and_encodings.md R11-R17, spec/04_launch_and_scheduling.md R81-R90): reading
an image from a world's memory, its task records, the checks that LAUNCH makes, and the permitted set of clusters.
-/

namespace Sys2Proof.Machine

/-- The `n`-byte little-endian number at offset `o` of a byte list. -/
def numAt (l : List Byte) (o n : Nat) : Nat := leNat ((l.drop o).take n)

/-- What an image header gives (R11). -/
structure Head where
  nsect : Nat
  nonce : Word
  keyid : Nat
  deriving DecidableEq, Repr

/-- R11: the header; none where its form is broken. IMGHASH is not checked, at no start (DESIGN CHOICE, log entry 79). -/
def parseHead (l : List Byte) : Option Head :=
  if numAt l 0 4 == 0x4D49524B && numAt l 4 2 == 1 && decide (1 ≤ numAt l 6 2) && decide (numAt l 6 2 ≤ 1024) &&
      numAt l 0x14 12 == 0 then
    some ⟨numAt l 6 2, wd (numAt l 8 8), numAt l 0x10 4⟩
  else none

/-- R12: a section-table entry. -/
def parseSection (l : List Byte) : Section :=
  ⟨numAt l 0 1, numAt l 2 2, numAt l 8 8, numAt l 0x10 8, numAt l 0x18 4, numAt l 0x1C 4⟩

/-- R12, R13: the form of an entry; a recipe section with a TARGET (R265) makes the image invalid
(DESIGN CHOICE, log entry 78). -/
def sectionForm (l : List Byte) : Bool :=
  let x := parseSection l
  decide (1 ≤ x.kind) && decide (x.kind ≤ 8) && numAt l 1 1 == 0 && numAt l 4 4 == 0 && x.sid != 0 &&
    x.offset % 256 == 0 && (x.kind == 2 || x.size % 256 == 0) &&
    !(x.kind == 4 && x.target != 0)

/-- An image as read: its address, header and sections. -/
structure ImageFile where
  base : Nat
  head : Head
  sections : List Section
  deriving DecidableEq, Repr

/-- Reads the header and section table of the image at a virtual address (R11-R13); `none` where they break
the rules, an error where a read faults. -/
def readImage (s : State) (die w va : Nat) : Except Nat (Option ImageFile) × State :=
  match readVirt s die w va 64 with
  | (.error c, s) => (.error c, s)
  | (.ok hb, s) =>
    match parseHead hb with
    | none => (.ok none, s)
    | some h =>
      match readVirt s die w (va + 64) (32 * h.nsect) with
      | (.error c, s) => (.error c, s)
      | (.ok tb, s) =>
        let es := chunks 32 h.nsect tb
        let ss := es.map parseSection
        if es.all sectionForm && (dedup (ss.map (·.sid))).length == ss.length then (.ok (some ⟨va, h, ss⟩), s)
        else (.ok none, s)

/-- The section with an identifier and a kind. -/
def secOf (l : List Section) (kind sid : Nat) : Option Section := l.find? (fun x => x.kind = kind && x.sid = sid)

/-- R14: the mac section that names a section by LINK; of two, the first of the table (DESIGN CHOICE, log entry 78). -/
def macSecOf (l : List Section) (sid : Nat) : Option Section := l.find? (fun x => x.kind = 2 && x.link = sid)

/-- R55: a key of a world. -/
def keyOfWorld (s : State) (w keyid kind : Nat) : Option W256 :=
  ((worldOf s w).keys.find? (fun k => k.keyid = keyid && k.kind = kind)).map (·.key)

/-- Reads a section's bytes. -/
def readSection (s : State) (die w : Nat) (f : ImageFile) (x : Section) : Except Nat (List Byte) × State :=
  readVirt s die w (f.base + x.offset) x.size

/-- R14: every granule's MAC is the one stored. -/
def macsFit (kmac : W256) (sid : Nat) (ct macs : List Byte) : Bool :=
  (List.range (ct.length / 256)).all (fun g =>
    numAt macs (8 * g) 8 == granuleMac kmac sid g (toNats ((ct.drop (256 * g)).take 256)) &&
      decide (8 * g + 8 ≤ macs.length))

/-- R14: reads a section and checks the MACs of its granules; the ciphertext and the MACs, `none` where a MAC
is wrong or missing. -/
def fillSection (s : State) (die w : Nat) (f : ImageFile) (kmac : W256) (x : Section) :
    Except Nat (Option (List Byte × List Byte)) × State :=
  match readSection s die w f x with
  | (.error c, s) => (.error c, s)
  | (.ok ct, s) =>
    match macSecOf f.sections x.sid with
    | none => (.ok none, s)
    | some m =>
      match readVirt s die w (f.base + m.offset) (min m.size (8 * (x.size / 256))) with
      | (.error c, s) => (.error c, s)
      | (.ok macs, s) => if macsFit kmac x.sid ct macs then (.ok (some (ct, macs)), s) else (.ok none, s)

/-! ## Task records (R15) -/

/-- R15: the task record. -/
def parseTask (l : List Byte) : TaskRec where
  entry := numAt l 0 4
  flags := numAt l 4 2
  tiledims := numAt l 6 1
  nvar := numAt l 7 1
  budget := numAt l 8 8
  spill := numAt l 0x10 4
  mstart := numAt l 0x14 4
  ncval := (List.range 8).map (fun i => numAt l (0x18 + i) 1)
  codesid := (List.range 8).map (fun i => numAt l (0x20 + 2 * i) 2)
  msid := numAt l 0x30 2
  rsid := numAt l 0x32 2
  csid := numAt l 0x34 2
  ymask := numAt l 0x38 4
  yinit := (List.range 32).map (fun i => BitVec.ofNat 256 (numAt l (0x80 + 32 * i) 32))

/-- Flags of a task record (R15). -/
def TaskRec.isControl (t : TaskRec) : Bool := bm t.flags 5
/-- FLAGS[4]: urgent. -/
def TaskRec.isUrgent (t : TaskRec) : Bool := bm t.flags 4
/-- FLAGS[3]: reduced. -/
def TaskRec.isReduced (t : TaskRec) : Bool := bm t.flags 3
/-- FLAGS[2]: timed. -/
def TaskRec.isTimed (t : TaskRec) : Bool := bm t.flags 2

/-- The variants of a record: (NCORES, CODESID). -/
def TaskRec.variants (t : TaskRec) : List (Nat × Nat) := (List.zip t.ncval t.codesid).take t.nvar

/-- Opens the task record of a section read as ciphertext. -/
def openTask (kenc : W256) (nonce : Word) (sid : Nat) (ct : List Byte) : TaskRec :=
  parseTask (toBytes (sectionOpen kenc nonce sid 0 (toNats ct)))

/-- What an image and a task identifier give (R83 ImageOk, R73). -/
structure TaskImage where
  file : ImageFile
  trec : TaskRec
  image : Image
  /-- the granules of the task section carry the MACs stored (R83 MacOk) -/
  macOk : Bool
  deriving DecidableEq, Repr

/-- R83, R73: reads the image and the task record. `none` where the header, the table, TSID, the size or the key
is not as it must be. A read of the task section's MACs that faults is an error as the others are
(DESIGN CHOICE, log entry 89). -/
def readTask (s : State) (die w va tsid : Nat) : Except Nat (Option TaskImage) × State :=
  match readImage s die w va with
  | (.error c, s) => (.error c, s)
  | (.ok none, s) => (.ok none, s)
  | (.ok (some f), s) =>
    match secOf f.sections 6 tsid, keyOfWorld s w f.head.keyid 1 with
    | some x, some key =>
      if x.size != 1280 then (.ok none, s)
      else
        match readSection s die w f x with
        | (.error c, s) => (.error c, s)
        | (.ok ct, s) =>
          let k := imageKeys key f.head.nonce
          let t := openTask k.1 f.head.nonce tsid ct
          let img : Image := ⟨f.head.keyid, f.head.nonce, k.1, k.2, 0, t.msid, t.csid, 0, 0, 0, key⟩
          match macSecOf f.sections tsid with
          | none => (.ok (some ⟨f, t, img, false⟩), s)
          | some m =>
            match readVirt s die w (f.base + m.offset) (min m.size 40) with
            | (.error c, s) => (.error c, s)
            | (.ok macs, s) => (.ok (some ⟨f, t, img, macsFit k.2 tsid ct macs⟩), s)
    | _, _ => (.ok none, s)

/-! ## Launch records (R81) -/

/-- R81: the launch record. -/
def parseLaunch (l : List Byte) : LaunchRec where
  image := numAt l 0 8
  tsid := numAt l 8 2
  cls := numAt l 0xA 1
  flags := numAt l 0xB 1
  ncores := numAt l 0xC 1
  dlevel := numAt l 0xD 1
  ext0 := numAt l 0x10 4
  ext1 := numAt l 0x14 4
  ext2 := numAt l 0x18 4
  budget := numAt l 0x20 8
  seedBase := wd (numAt l 0x28 8)
  djob := numAt l 0x30 4
  clmask := numAt l 0x34 2
  poolbanks := numAt l 0x36 1
  chmask := BitVec.ofNat 256 (numAt l 0x40 32)
  tlbind := (List.range 7).map (fun i => numAt l (0x60 + 4 * i) 4)
  deps := (List.range 4).map (fun i => ⟨numAt l (0x80 + 16 * i) 4, numAt l (0x88 + 16 * i) 8⟩)

/-- R81: a reserved field of the record is not zero. -/
def launchReserved (l : List Byte) : Bool :=
  numAt l 0xB 1 / 4 != 0 || numAt l 0xE 2 != 0 || numAt l 0x1C 4 != 0 || numAt l 0x37 9 != 0 ||
    numAt l 0x7C 4 != 0 || numAt l 0xC0 64 != 0 ||
    (List.range 4).any (fun i => numAt l (0x84 + 16 * i) 4 != 0)

/-- R85: tiles of a launch. -/
def LaunchRec.tiles (q : LaunchRec) : Nat := q.ext0 * q.ext1 * q.ext2

/-- R83: the check with status 0x01. -/
def recordOk (l : List Byte) : Bool :=
  let q := parseLaunch l
  let ext := fun (e : Nat) => decide (1 ≤ e) && decide (e ≤ 2 ^ 24)
  !launchReserved l && decide (q.cls ≤ 3) && decide (q.dlevel ≤ 4) && decide (1 ≤ q.ncores) &&
    decide (q.ncores ≤ 64) && ext q.ext0 && ext q.ext1 && ext q.ext2 && decide (q.tiles ≤ 2 ^ 24) &&
    decide (q.budget < 2 ^ 63) && (q.djob != 0) == (q.dlevel == 4)

/-- R83 SectionsOk. -/
def sectionsOk (f : ImageFile) (t : TaskRec) : Bool :=
  t.variants.all (fun v => (secOf f.sections 1 v.2).isSome && (macSecOf f.sections v.2).isSome) &&
    (t.msid == 0 || (secOf f.sections 3 t.msid).isSome) &&
    (t.rsid == 0 || (secOf f.sections 4 t.rsid).isSome) &&
    (t.csid == 0 || (secOf f.sections 5 t.csid).isSome)

/-- R85: NCORES bound of a level. -/
def levelBound (level : Nat) : Nat := if level = 1 then 4 else if level = 2 then 16 else 64

/-- R83 GangOk (R85). -/
def launchGangOk (q : LaunchRec) (t : TaskRec) : Bool :=
  (decide (2 ≤ t.tiledims) || q.ext1 == 1) && (decide (3 ≤ t.tiledims) || q.ext2 == 1) &&
    (decide (1 ≤ t.tiledims) || q.ext0 == 1) && q.tiles % q.ncores == 0 &&
    t.variants.any (fun v => v.1 == q.ncores) && decide (q.ncores ≤ levelBound q.dlevel) &&
    (!t.isTimed || (q.dlevel == 1 && q.ncores == 4))

/-- R83 FlagsOk (R88). -/
def launchFlagsOk (q : LaunchRec) (t : TaskRec) : Bool :=
  (q.cls == 0) == t.isUrgent && (!bm q.flags 0 || bm t.flags 0) && (!bm q.flags 1 || bm t.flags 1)

/-- R90: the clusters permitted to a gang of a launch. -/
def permitted (s : State) (w : Nat) (q : LaunchRec) (t : TaskRec) : List Nat :=
  let y := (funcOf s (funcOfWorld w)).layout
  let base := if q.clmask = 0 then y.clusters.toNat else q.clmask
  (List.range 16).filter (fun k =>
    bm base k && bm y.clusters.toNat k && !s.cutDies.elem (k / 4) &&
      (if t.isUrgent then bm y.urgent.toNat k else if t.isReduced then true else !bm y.urgent.toNat k))

/-- R90: the subset tests. -/
def masksOk (s : State) (w : Nat) (q : LaunchRec) : Bool :=
  let y := (funcOf s (funcOfWorld w)).layout
  (q.clmask ||| y.clusters.toNat) == y.clusters.toNat && (q.chmask ||| y.channels) == y.channels

/-- R90: some gang can fit the set and the level. -/
def canEverFit (cl : List Nat) (level ncores : Nat) : Bool :=
  match level with
  | 0 => !cl.isEmpty
  | 1 => !cl.isEmpty && decide (ncores ≤ 4)
  | 2 => [0, 1, 2, 3].any (fun d => decide (ncores ≤ 4 * (cl.filter (fun k => k / 4 = d)).length))
  | _ => decide (ncores ≤ 4 * cl.length)

/-- R83 PlaceOk (R90, R102). -/
def placeOk (s : State) (w : Nat) (q : LaunchRec) (t : TaskRec) : Bool :=
  masksOk s w q && decide (q.poolbanks ≤ (funcOf s (funcOfWorld w)).layout.pooled) &&
    canEverFit (permitted s w q t) q.dlevel q.ncores

/-- R83 TimelinesOk (R82): kind 5 serves dependences only. -/
def timelinesOk (s : State) (w : Nat) (q : LaunchRec) : Bool :=
  q.tlbind.all (fun t => t == 0 || (tlKind t != 5 && tlValid s w t)) &&
    q.deps.all (fun d => d.tlid == 0 || (tlValid s w d.tlid && !(tlKind d.tlid == 5 && decide (64 ≤ tlIndex d.tlid))))

/-- R88: launches of a class that still have unplaced gangs. -/
def queuedLaunches (s : State) (w cls : Nat) : Nat :=
  ((worldOf s w).launches.filter (fun l => l.record.cls = cls && !l.failed &&
    (decide (l.nextTile < l.record.tiles) || !l.requeue.isEmpty))).length

/-- R83: the status of a launch record that an image backs; 0 accepts it. -/
def launchStatus (s : State) (w : Nat) (raw : List Byte) (img : Option TaskImage) : Nat :=
  let q := parseLaunch raw
  if !recordOk raw then 0x01
  else
    match img with
    | none => 0x02
    | some f =>
      if f.trec.isControl then 0x02
      else if !f.macOk then 0x03
      else if !sectionsOk f.file f.trec then 0x02
      else if !launchGangOk q f.trec then 0x04
      else if !launchFlagsOk q f.trec then 0x05
      else if !placeOk s w q f.trec then 0x06
      else if !timelinesOk s w q then 0x07
      else if queuedLaunches s w q.cls = 64 then 0x08 else 0

/-- R84: accepts a launch under the next number; its tasks start once the operations `after` have performed (R330). -/
def acceptLaunch (s : State) (w : Nat) (q : LaunchRec) (f : TaskImage) (after : List (Nat × Nat)) : State :=
  modWorld s w (fun x => { x with
    nextLaunch := x.nextLaunch + 1
    launches := x.launches ++ [
      { n := x.nextLaunch, record := q, trec := f.trec, image := f.image, sections := f.file.sections, nextTile := 0,
        requeue := [], resident := [], retired := [], failed := false, ended := [], startAt := 0, endAt := 0,
        charge := 0, passed := 0, passedOf := none, after := after }] })

end Sys2Proof.Machine
end

