-- ==== Sys2Proof/Machine/Async.lean ====
section
/-!
DEFINITION. The asynchronous and synchronising rows of slot Y (spec/15_async_and_synchronisation_instructions.md R339-R359; spec/04_launch_and_scheduling.md
R78-R83; spec/17_interruption_and_preemption.md R404-R408): what each does at issue. What an engine does later is in Engines.lean.
-/

namespace Sys2Proof.Machine

/-! ## Operands -/

/-- Two scalar sources of slot Y, sa then sb, as a slot that waits reads them: a slot that issues again after an
abandoned wait uses the values kept (R395). Also what it did to the queues, and whether it issues again. -/
def waitOperands (a : Nat) (m : Bool) (b : Nat) (n : Bool) (s : State) :
    Except Nat (Word × Word × Undo × Bool × State) :=
  match (curCtx s).kept with
  | some p => .ok (p.1, p.2, curUndo [] none s, true, s)
  | none => do
    let (x, s) ← source a m s
    let (y, s) ← source b n s
    .ok (x, y, curUndo (popped a m x ++ popped b n y) none s, false, s)

/-- The bundle being issued has Q set. -/
def curQuiet (s : State) : Bool := s.cur.elim false (·.hdr.q)

/-- R80, R130: a wait on a tile core stands in a bundle with Q set. -/
def needQuiet (s : State) : Except Nat Unit := need 0x04 (kindOf (curAgent s) != .tile || curQuiet s)

/-- The yarn register as a copy descriptor; a steward core has no way to set one, so its are zero. -/
def curYarn (s : State) (y : Nat) : W256 :=
  if kindOf (curAgent s) = .tile then yarnReg (curCore s) y else 0

/-- R339: the TLID of a handle whose kind lies in `lo`-`hi`; trap 0x09 otherwise. -/
def handle (k lo hi : Nat) (s : State) : Except Nat Nat :=
  let t := handleTl s (curAgent s) k
  if lo ≤ tlKind t ∧ tlKind t ≤ hi ∧ tlValid s (curCtx s).task.world t = true then .ok t else .error 0x09

/-! ## Copies (R342-R346) -/

/-- R343: a valid copy descriptor. -/
def copyValid (q : W256) (reloc steward : Bool) : Bool :=
  bits q 243 240 == 0 && bits q 63 56 == 0 && decide (cpSsp q ≤ 3) && decide (cpDsp q ≤ 4) &&
    decide (cpMode q ≤ 1) &&
    (cpMode q == 0 || (cpSsp q == 0 && cpRows q == 0 && cpLen q % 256 == 0)) &&
    (!reloc || ((cpSsp q == 0 || cpSsp q == 2) && (cpDsp q == 0 || cpDsp q == 2))) &&
    (!steward || (cpSsp q == 0 && cpDsp q == 0))

/-- R343: every byte of a Spool range lies in a block the task holds; ranges may cross blocks. -/
def spoolRange (t : Task) (a n : Nat) : Bool :=
  decide (a + n ≤ 0x1400000) &&
    (List.range 16).all (fun b => !(decide (a / blockBytes ≤ b) && decide (b ≤ (a + n - 1) / blockBytes)) || heldBlock t b)

/-- R343 CheckLocal: a range of `n` bytes at `a` of space `sp` lies in what the context's task holds. -/
def localOk (s : State) (a : Agent) (sp addr n : Nat) : Bool :=
  let t := (ctxOf s a).task
  match sp with
  | 0 => true
  | 1 => spoolRange t addr n
  | 2 => decide (addr + n ≤ (allocOf s (clusterOfCore (agIdx a)) t).length * bankBytes)
  | 3 => decide (addr + n ≤ spillSize t)
  | _ => halfRangeOk s a addr n

/-- R344: the local ranges of every row. -/
def rowsOk (s : State) (q : W256) (x z : Word) : Bool :=
  let a := curAgent s
  (List.range (cpRows q + 1)).all (fun r =>
    localOk s a (cpSsp q) (rowAddr x (cpSstride q) r) (cpLen q) &&
      localOk s a (cpDsp q) (rowAddr z (cpDstride q) r) (cpLen q))

/-- Operations that hold an entry of the copy queue (R346, R404). -/
def queueKind (k : EngKind) : Bool := k != .hatom && k != .red

/-- R346: the operations of a kind that hold a place in a core's queues: 16 in the copy queue, 64 atomics and
reductions. -/
def queueLoad (e : Engine) (copy : Bool) : Nat :=
  (e.ops.filter (fun op => queueKind op.kind == copy && op.queued && op.taken.isNone)).length

/-- R346: the queue of a kind is full. -/
def queueFull (e : Engine) (copy : Bool) : Bool := decide ((if copy then 16 else 64) ≤ queueLoad e copy)

/-- R344, R346, R380: takes the operation's number, and freezes the issuer while the queue is full; the cause is the
governor when it holds the oldest entry. -/
def enqueueOp (op : EngOp) (s : State) : State :=
  let full := queueFull (engineOf s (agEngine op.ag)) (queueKind op.kind)
  let s1 := issueOp { op with queued := !full } s
  let held := ((engineOf s (agEngine op.ag)).ops.find? (fun q => queueKind q.kind && q.queued && q.taken.isNone)).elim false
    (·.governed)
  if full then
    beginWait op.ag (if queueKind op.kind && held then .governor else .copyQueue)
      ⟨.queue op.num, curWord s, 0, 0, curUndo [] none s, false, none⟩ s1
  else s1

/-- R404, R344: lands the number in d and enqueues. -/
def takeNumber (d : Nat) (op : EngOp) (s : State) : Except Nat State := do
  let s ← writeReg 1 d false (wd op.num) s
  .ok (enqueueOp op s)

/-- R344: CPY and CPYR. The descriptor yarn is checked first (R440). -/
def formCopy (o : Cpy) (reloc : Bool) : State → Out :=
  execSlot o.g (fun s => do
    need 0x09 (yarnHeld (curCtx s).task o.y)
    let (x, s) ← source o.a o.m s
    let (z, s) ← source o.b o.n s
    let q := curYarn s o.y
    need 0x01 (copyValid q reloc (kindOf (curAgent s) == .steward))
    need 0x09 (rowsOk s q x z)
    need 0x07 (cpMode q == 0 || x.toNat % 256 == 0)
    takeNumber o.d { newOp s (if reloc then .cpyr else .cpy) with desc := q, x := x, z := z } s)

/-- CPY. -/
def execCpy (o : Cpy) : State → Out := formCopy o false
/-- CPYR. -/
def execCpyr (o : Cpy) : State → Out := formCopy o true

/-! ## Home-slice atomics and reductions (R349, R350) -/

/-- R349: the banks that hold an agent's pooled words in a global cluster: its gang's allocation there, or for a
steward its function's partition. -/
def homeBanks (s : State) (a : Agent) (k : Nat) : List Nat :=
  let t := (ctxOf s a).task
  if kindOf a = .steward then partBanks s k (funcOfWorld t.world) else allocOf s k t

/-- R349: the place of an address at its home cluster. -/
def homePlace (s : State) (a : Agent) (x : Word) : Option Nat :=
  pooledPlace (homeBanks s a (bits x 29 26)) (bits x 25 0)

/-- R349: the Spool address of the return word. -/
def hatomReturn (x : Word) : Nat := bits x 56 32

/-- R349: the checks with trap 0x09. -/
def hatomOwned (s : State) (ret : Bool) (x : Word) : Bool :=
  let a := curAgent s
  bits x 63 57 == 0 && bits x 31 30 == 0 && (homePlace s a x).isSome &&
    (if ret then spoolRange (curCtx s).task (hatomReturn x) 8
      else bits x 56 32 == 0)

/-- HATOM. -/
def execHatom (o : HAtom) : State → Out :=
  execSlot o.g (fun s => do
    let (x, s) ← source o.a o.m s
    let (b, s) ← source o.b o.n s
    need 0x09 (hatomOwned s o.r x)
    need 0x07 (bits x 2 0 == 0 && bits x 34 32 == 0)
    let cmp := if o.r then wd (leNat (memBytes (curCore s).spool (hatomReturn x) 8)) else 0
    .ok (enqueueOp { newOp s .hatom with
      x := x, z := b, op := o.o, scope := o.s, ret := o.r, cmp := cmp
      aux := (homePlace s (curAgent s) x).getD 0 } s))

/-- RED. -/
def execRed (o : Red) : State → Out :=
  execSlot o.g (fun s => do
    let (x, s) ← source o.a o.m s
    let (b, s) ← source o.b o.n s
    need 0x07 (bits x 2 0 == 0)
    .ok (enqueueOp { newOp s .red with x := x, z := b, op := o.o } s))

/-! ## Timelines (R351-R353) -/

/-- TLADD: a release at .sy that takes effect once every operation the task issued before has completed. -/
def execTladd (o : TlAdd) : State → Out :=
  execSlot o.g (fun s => do
    let (b, s) ← source o.b o.n s
    let t ← handle o.k 1 1 s
    let a := curAgent s
    .ok { s with
      nextId := s.nextId + 1
      tladds := s.tladds ++ [{
        id := s.nextId, ag := a, tid := tidOf (curCtx s), entry := (curCtx s).entryAt, world := (curCtx s).task.world
        idx := tlIndex t, amount := b.toNat, ops := taskOps s a, due := curT s }] })

/-- TLPOLL. -/
def execTlpoll (o : TlWait) : State → Out :=
  execSlot o.g (fun s => do
    let (n, s) ← source o.b o.n s
    let t ← handle o.k 1 5 s
    .ok (writePair o.p (tlOk s (curAgent s) (curCtx s).task.world t n.toNat) s))

/-- TLWAIT. -/
def execTlwait (o : TlWait) : State → Out :=
  execSlot o.g (fun s => do
    notInHandler s
    needQuiet s
    let (_, n, u, again, s) ← waitOperands 0 false o.b o.n s
    let t ← handle o.k 1 5 s
    let a := curAgent s
    let w := (curCtx s).task.world
    if tlMet s a w t n.toNat then .ok (writePair o.p (tlOk s a w t n.toNat) s)
    else .ok (beginWait a .timeline ⟨.timeline t n.toNat o.p false, curWord s, 0, n, u, again, none⟩ s))

/-- R353: a fail record as a register reads it. -/
def failWord (r : Option (Nat × Nat)) (dead : Bool) : Nat :=
  match r with
  | some p => p.1 * 2 ^ 56 + p.2 % 2 ^ 56
  | none => if dead then 0x0C * 2 ^ 56 else 0

/-- R338: TLRD.fc clears the record. -/
def clearFail (a : Agent) (w t : Nat) (s : State) : State :=
  match tlKind t with
  | 3 => { s with colls := tabMod ⟨0, none⟩ s.colls (tlIndex t) (fun c => { c with fail := none }) }
  | 4 => modWorld s w (fun x => { x with launchTl := { x.launchTl with fail := none } })
  | 5 => modCtx s a (fun x => { x with failRec := none })
  | _ => s

/-- TLRD. -/
def execTlrd (o : TlRd) : State → Out :=
  execSlot o.g (fun s => do
    let t ← handle o.k (if o.e = 1 then 5 else 1) 5 s
    let a := curAgent s
    let w := (curCtx s).task.world
    let v := match o.e with
      | 0 => tlValue s w t
      | 1 => (engineOf s (tlIndex t)).issued
      | _ => failWord (tlFail s a w t) (tlDead s t)
    let s ← writeReg 1 o.d false (wd v) s
    .ok (if o.e = 3 then clearFail a w t s else s))

/-! ## WAITA (R77-R80) -/

/-- R78 Holds. -/
def condHolds (cond : Nat) (v c : Word) : Bool :=
  match cond with
  | 0 => v == c
  | 1 => v != c
  | 2 => decide (c.toNat ≤ v.toNat)
  | 3 => decide (v.toNat < c.toNat)
  | _ => false

/-- R6: monitor entries of a die's table; the I/O die's is 4. -/
def monitorEntries (die : Nat) : Nat := if die = 4 then 64 else 256

/-- R78: no entry can be armed for world `w` on the die. -/
def monitorsFull (s : State) (die w : Nat) : Bool :=
  decide ((funcOf s (funcOfWorld w)).layout.monitors ≤ (s.monitors.filter (fun m => m.world = w)).length) ||
    decide (monitorEntries die ≤ (s.monitors.filter (fun m => m.die = die)).length)

/-- R78 Read64: the word, or the cause. -/
def readWatch (s : State) (w pa : Nat) : Except Nat Word :=
  if svcCheck s w pa != 0 then .error (svcCheck s w pa)
  else
    let d := svcRead s pa 8
    if d.2 then .error 0x0B else .ok (wd (leNat d.1))

/-- R78: counts a return that did not arm. -/
def noteNotArmed (die : Nat) (s : State) : State :=
  countDie die 0x11 1 { s with monFail := tabMod 0 s.monFail die (fun n => (n + 1) % 2 ^ 32) }

/-- R77: gives back a waiter's entry. -/
def releaseMonitor (a : Agent) (s : State) : State :=
  { s with monitors := s.monitors.filter (fun m => m.ag != a) }

/-- R78, R291: the physical address of the word that WAITA reads first, where it gets as far: translated, with a free entry,
and with a condition that looks at the word. -/
def watchPlace (s : State) (a : Agent) (cond va : Nat) : Option Nat :=
  let w := (ctxOf s a).task.world
  match transLookup s (dieOf a) w va with
  | none => none
  | some e =>
    if cond = 4 || targetOf (e.frame * 65536) != 0 || monitorsFull s (dieOf a) w then none else some (e.frame * 65536 + va % 65536)

/-- R78: what WAITA does once its address is translated: its result, where it returns at once, or the wait `wt` with its line
armed; a write of this cycle to the line is observed (R79) (DESIGN CHOICE, log entry 19). -/
def armWaita (a : Agent) (cond k tmo : Nat) (wt : Wait) (s : State) : Except Nat (Option Bool × State) := do
  let die := dieOf a
  let w := (ctxOf s a).task.world
  let (r, s) := translate s die w wt.opA.toNat false
  let pa ← r
  need 0x08 (targetOf pa == 0)
  if monitorsFull s die w then .ok (some false, noteNotArmed die s)
  else do
    let v ← if cond = 4 then .ok none else (readWatch s w pa).map some
    if v.elim false (fun v => condHolds cond v wt.opB) then .ok (some true, s)
    else
      .ok (none, beginWait a .monitor { wt with what := .monitor pa cond wt.opB k s.gcyc tmo false die }
        { s with monitors := s.monitors ++
          [⟨die, w, pa / 64, a, if s.monWrites.elem (pa / 64) then some s.gcyc else none⟩] })

/-- WAITA at its issue. Where its page is not in the die's cache, it waits for the walk first (R114). -/
def waitaBody (o : WaitA) (s : State) : Except Nat State := do
  notInHandler s
  needQuiet s
  let (x, c, u, again, s) ← waitOperands o.a o.m o.b o.n s
  need 0x08 (bits x 63 56 == 0)
  need 0x07 (bits x 2 0 == 0)
  let a := curAgent s
  let w := (curCtx s).task.world
  let tmo := if o.t = 0 then 0 else 1024 * 2 ^ o.t
  let m : Miss := ⟨dieOf a, w, bits x 55 16⟩
  let wt : Wait := ⟨.xlate true o.c o.p tmo [m], curWord s, x, c, u, again, none⟩
  if (transLookup s (dieOf a) w x.toNat).isNone then .ok (beginWait a .monitor wt (addMisses [m] s))
  else do
    let (v, s) ← armWaita a o.c o.p tmo wt s
    .ok (v.elim s (fun v => writePair o.p v s))

/-- R291: WAITA reads its word at issue, and the node's check counts, also where the read fails and the slot traps. -/
def noteWatch (o : WaitA) (s : State) : State :=
  if !guardTrue o.g s then s
  else
    match (do
      notInHandler s
      needQuiet s
      let (x, _, _, _, _) ← waitOperands o.a o.m o.b o.n s
      need 0x07 (bits x 63 56 == 0 && bits x 2 0 == 0)
      .ok x : Except Nat Word) with
    | .ok x => (watchPlace s (curAgent s) o.c x.toNat).elim s (noteSoft s)
    | .error _ => s

/-- WAITA (R78). -/
def execWaita (o : WaitA) (s : State) : Out := execSlot o.g (waitaBody o) (noteWatch o s)

/-! ## Barriers (R354, R355) -/

/-- R354, R393: the checks of BAR, BARA and BARD. -/
def barrierCheck (s : State) : Except Nat Unit := do
  notInHandler s
  need 0x0D ((curCtx s).task.level != 0 && !(curCtx s).dropped)

/-- The open phase of a context's domain. -/
def openPhase (s : State) (a : Agent) : Nat := (domOf s (domKey (ctxOf s a).task)).elim 0 (·.phase)

/-- Freezes the issuer until the open phase of its domain completes. -/
def barrierWait (again : Bool) (s : State) : State :=
  let a := curAgent s
  beginWait a .barrier ⟨.barrier (openPhase s a) again, curWord s, 0, 0, curUndo [] none s, false, none⟩ s

/-- BAR. -/
def execBar (o : G) : State → Out :=
  execSlot o.g (fun s => do
    barrierCheck s
    let a := curAgent s
    .ok (barrierWait false (if domPending s a then s else domSend s a s.gcyc false false)))

/-- BARA. -/
def execBara (o : G) : State → Out :=
  execSlot o.g (fun s => do
    barrierCheck s
    let a := curAgent s
    .ok (if domPending s a then barrierWait true s else domSend s a s.gcyc false false))

/-- BARD. -/
def execBard (o : G) : State → Out :=
  execSlot o.g (fun s => do
    barrierCheck s
    .ok (domDrop s (curAgent s)))

/-! ## Fences (R331, R359) -/

/-- The scopes of the reads an operation has still to perform (R331, FENCE.acq). -/
def opReadScopes (s : State) (op : EngOp) : List Nat :=
  match op.kind with
  | .hatom => if op.performed then [] else [clusterScope op.ag (bits op.x 29 26)]
  | .red => []
  | .krot => krotScopes s op
  | .scrub => []
  | .seal => pieceScopes s op (cpSsp op.desc) op.x.toNat (unread op op.x.toNat (cpLen op.desc))
  | .unseal => pieceScopes s op 0 op.x.toNat (unread op op.x.toNat (ckptSize (cpLen op.desc)))
  | _ => copyReads s op

/-- R331: the operation has an access of the fence's kind within its scope still to perform. -/
def fenceBusy (s : State) (scope : Nat) (acq : Bool) (p : Nat × Nat) : Bool :=
  if p.1 = drainEngine || !acq then opBusy s scope p
  else
    match (engineOf s p.1).ops.find? (fun op => op.num = p.2) with
    | none => false
    | some op => (opReadScopes s op).any (fun k => decide (k ≤ scope))

/-- FENCE. -/
def execFence (o : Fence) : State → Out :=
  execSlot o.g (fun s =>
    let a := curAgent s
    let ops := (fenceOps s a).filter (fenceBusy s o.s (o.k == 1))
    if ops.isEmpty || decide (o.s ≤ 2) then .ok s
    else .ok (beginWait a .fence ⟨.fence ops o.s (o.k == 1), curWord s, 0, 0, curUndo [] none s, false, none⟩ s))

/-! ## LAUNCH (R83) -/

/-- R83: reads the record and what it names; the status, and what an accepted launch needs (DESIGN CHOICE, log entry 23). -/
def readLaunch (s : State) (w va : Nat) : Except Nat (Nat × LaunchRec × Option TaskImage) × State :=
  match readVirt s 4 w va 256 with
  | (.error c, s) => (.error c, s)
  | (.ok raw, s) =>
    let q := parseLaunch raw
    if !recordOk raw then (.ok (0x01, q, none), s)
    else
      match readTask s 4 w q.image q.tsid with
      | (.error c, s) => (.error c, s)
      | (.ok img, s) => (.ok (launchStatus s w raw img, q, img), s)

/-- LAUNCH: stalls while the world is held (R68), and while pages that it reads are walked (R114); the result lands before the
next bundle issues (R75). An accepted launch is a release: its tasks start once what the control task issued before has
performed (R330) (DESIGN CHOICE, log entry 23). -/
def execLaunch (o : Sys2Proof.Launch) : State → Out :=
  execSlot o.g (fun s => do
    let (x, _, u, again, s) ← waitOperands o.a o.m 0 false s
    let a := curAgent s
    let w := (curCtx s).task.world
    if (worldOf s w).held then
      .ok (beginWait a .launchHold ⟨.held, curWord s, x, 0, u, again, none⟩ s)
    else do
      need 0x08 (bits x 63 56 == 0)
      need 0x07 (bits x 5 0 == 0)
      let (r, t) := readLaunch s w x.toNat
      let ms := missesOf 4 s t
      if !ms.isEmpty then
        .ok (beginWait a .launchHold ⟨.xlate false 0 0 0 ms, curWord s, x, 0, u, again, none⟩ (addMisses ms s))
      else do
        let (st, q, img) ← r
        match st, img with
        | 0, some f => do
          let after := taskOps t a
          let s ← writeReg 1 o.d o.q (wd (worldOf t w).nextLaunch) t
          .ok (acceptLaunch (writePair o.p true s) w q f after)
        | _, _ => do
          let s ← writeReg 1 o.d o.q (wd st) t
          .ok (writePair o.p false s))

/-! ## KROT, SEAL, UNSEAL, SCRUB (R404-R408) -/

/-- KROT. -/
def execKrot (o : Krot) : State → Out :=
  execSlot o.g (fun s => do
    let (x, s) ← source o.a o.m s
    let (n, s) ← source o.b o.n s
    need 0x07 (bits x 15 0 == 0)
    need 0x09 (bits x 63 56 == 0 && decide (1 ≤ n.toNat) && decide (n.toNat ≤ 2 ^ 20))
    takeNumber o.d { newOp s .krot with x := x, z := n } s)

/-- R403: the next checkpoint number of a world. -/
def nextCheckpoint (s : State) (w : Nat) : Nat × State :=
  let n := ((worldOf s w).ckptCtr + 1) % 2 ^ 56
  (n, modWorld s w (fun x => { x with ckptCtr := n }))

/-- R405: a descriptor that SEAL accepts. -/
def sealValid (q : W256) : Bool :=
  bits q 243 240 == 0 && bits q 63 56 == 0 && decide (cpSsp q ≤ 3) && cpDsp q == 0 && cpMode q == 0 &&
    cpRows q == 0 && cpMac q == 0

/-- SEAL. -/
def execSeal (o : Cpy) : State → Out :=
  execSlot o.g (fun s => do
    need 0x09 (yarnHeld (curCtx s).task o.y)
    let (x, s) ← source o.a o.m s
    let (z, s) ← source o.b o.n s
    let q := curYarn s o.y
    need 0x01 (sealValid q)
    need 0x09 (localOk s (curAgent s) (cpSsp q) x.toNat (cpLen q))
    need 0x07 (bits z 7 0 == 0)
    let (n, s) := nextCheckpoint s (curCtx s).task.world
    let (r, s) := freeRandom s
    takeNumber o.d { newOp s .seal with desc := q, x := x, z := z, aux := n, nonce := r } s)

/-- R406: a descriptor that UNSEAL accepts. -/
def unsealValid (q : W256) : Bool :=
  cpSsp q == 0 && decide (cpDsp q ≤ 3) && cpRows q == 0 && cpMode q == 0

/-- UNSEAL. -/
def execUnseal (o : Cpy) : State → Out :=
  execSlot o.g (fun s => do
    need 0x09 (yarnHeld (curCtx s).task o.y)
    let (x, s) ← source o.a o.m s
    let (z, s) ← source o.b o.n s
    let q := curYarn s o.y
    need 0x01 (unsealValid q)
    need 0x07 (bits x 7 0 == 0)
    need 0x09 (localOk s (curAgent s) (cpDsp q) z.toNat (cpLen q))
    takeNumber o.d { newOp s .unseal with desc := q, x := x, z := z, aux := cpMac q } s)

/-- R104, R298: the channel, with its landing slice, belongs to the world: it runs a static program of it
(DEDUCED, log entry 91). -/
def worldChannel (s : State) (w ch : Nat) : Bool :=
  bm (funcOf s (funcOfWorld w)).layout.channels.toNat ch && (chanOf s ch).owner == w && (chanOf s ch).zeroUntil.isNone

/-- R408: the range of a SCRUB lies in what the task holds. -/
def scrubOk (s : State) (sp : Nat) (x n : Word) : Bool :=
  let a := curAgent s
  match sp with
  | 0 => localOk s a 1 x.toNat n.toNat
  | 1 => localOk s a 2 x.toNat n.toNat
  | _ =>
    let ch := bits x 23 16
    bits x 63 24 == 0 && worldChannel s (curCtx s).task.world ch && ch / 64 == dieOf a && decide (bits x 15 0 + n.toNat ≤ 65536)

/-- SCRUB. -/
def execScrub (o : Scrub) : State → Out :=
  execSlot o.g (fun s => do
    let (x, s) ← source o.a o.m s
    let (n, s) ← source o.b o.n s
    need 0x07 (bits x 5 0 == 0 && bits n 5 0 == 0)
    need 0x09 (decide (64 ≤ n.toNat) && decide (n.toNat ≤ 0x1400000))
    need 0x09 (scrubOk s o.p x n)
    takeNumber o.d { newOp s .scrub with x := x, z := n, op := o.p } s)

end Sys2Proof.Machine
end

