-- ==== Sys2Proof/Machine/Channel.lean ====
section
/-!
DEFINITION. Memory channels (spec/13_memory_channels_and_segmented_banks.md R287-R318): the D rows with the checks of R308, the DRAM state and
distances of R307, promotion and cleaning, and what falls due later on a channel.
-/

namespace Sys2Proof.Machine

/-! ## Banks and distances -/

/-- Kinds of D commands, as `DCmd` keeps them. -/
inductive DKind where
  | act
  | rd
  | wr
  | pre
  | prom
  | clean
  | init
  | ref
  | refp
  deriving DecidableEq, Repr

/-- The number of a kind. -/
def DKind.num : DKind → Nat
  | .act => 1
  | .rd => 2
  | .wr => 3
  | .pre => 4
  | .prom => 8
  | .clean => 9
  | .init => 10
  | .ref => 6
  | .refp => 7

/-- The state of a bank of a channel. -/
def bankOf (c : Chan) (b : Nat) : Bank := tabGet .idle c.banks b

/-- Puts a bank's state. -/
def setBankState (s : State) (ch b : Nat) (x : Bank) : State :=
  modChan s ch (fun c => { c with banks := tabSet c.banks b x })

/-- The bank is IDLE at wall chc `now`. -/
def bankIdle (c : Chan) (b now : Nat) : Bool :=
  match bankOf c b with
  | .idle => true
  | .busy u => decide (u ≤ now)
  | .opened _ _ _ _ => false

/-- The bank is OPEN. -/
def bankOpen (c : Chan) (b : Nat) : Bool :=
  match bankOf c b with
  | .opened _ _ _ _ => true
  | _ => false

/-- The row in bank that is open. -/
def openRow (c : Chan) (b : Nat) : Nat :=
  match bankOf c b with
  | .opened r _ _ _ => r
  | _ => 0

/-- R307: the class of a row in bank: near for pinned and cache rows. -/
def nearRow (rib : Nat) : Bool := decide (rib % 512 < 32)

/-- R307: the distance from a command of one bank to a command of the same bank. -/
def sameBankGap (c : DCmd) (k : DKind) : Nat :=
  match c.kind, k with
  | 1, .rd => if c.near then 14 else 28
  | 1, .wr => if c.near then 14 else 28
  | 1, .init => if c.near then 14 else 28
  | 1, .pre => if c.near then 34 else 60
  | 4, .act => if c.near then 14 else 28
  | 4, .prom => if c.near then 14 else 28
  | 4, .clean => if c.near then 14 else 28
  | 4, .refp => if c.near then 14 else 28
  | 4, .ref => if c.near then 14 else 28
  | 2, .pre => 4
  | 3, .pre => 36
  | 10, .pre => 72
  | _, _ => 0

/-- R307: the distance between commands of any banks. -/
def anyBankGap (c : DCmd) (k : DKind) : Nat :=
  match c.kind, k with
  | 2, .rd => 5
  | 2, .init => 5
  | 2, .wr => 8
  | 3, .rd => 24
  | 3, .wr => 5
  | 3, .init => 5
  | 10, .rd => 35
  | 10, .wr => 35
  | 10, .init => 35
  | _, _ => 0

/-- The command opens, promotes or cleans a row (tRRD, tFAW). -/
def rowCommand (n : Nat) : Bool := n == 1 || n == 8 || n == 9

/-- R307: a command of kind `k` to a bank keeps every distance at wall chc `now`. -/
def gapsOk (c : Chan) (k : DKind) (bank now : Nat) : Bool :=
  c.cmds.all (fun d =>
    (!(d.bank == bank || k == .ref) || decide (d.at_ + sameBankGap d k ≤ now)) &&
      decide (d.at_ + anyBankGap d k ≤ now) &&
      (!(rowCommand d.kind && rowCommand k.num && d.bank != bank) || decide (d.at_ + 4 ≤ now))) &&
    (!rowCommand k.num || decide ((c.cmds.filter (fun d => rowCommand d.kind && decide (now < d.at_ + 32))).length < 4))

/-- Records a command for later distances; what can no longer matter is forgotten. -/
def noteCmd (s : State) (ch : Nat) (k : DKind) (bank : Nat) (near : Bool) (at_ : Nat) : State :=
  modChan s ch (fun c => { c with
    cmds := c.cmds.filter (fun d => decide (at_ < d.at_ + 128)) ++ [⟨k.num, bank, near, at_⟩] })

/-! ## Cache rows (R288, R289) -/

/-- The next cache row of a subarray after row `v`, modulo 32 (R289). -/
def nextCacheRow (pin : BitVec 4) (v : Nat) : Nat :=
  ((List.range 32).map (fun i => (v + 1 + i) % 32)).find? (fun r => !bm pin.toNat (r / 8)) |>.getD 0

/-- Copies a row's data lines and metadata column; the copy takes a TAG. -/
def copyRow (s : State) (src dst tag : Nat) : State :=
  let bad := (s.eccLines.filter (fun l => decide (src * 28 ≤ l) && decide (l < src * 28 + 28))).map
    (fun l => l - src * 28 + dst * 28)
  { s with
    hbm := memWrite s.hbm (dst * rowBytes) (memBytes s.hbm (src * rowBytes) rowBytes)
    rows := tabSet s.rows dst { tabGet RowMeta.reset s.rows src with tag := tag }
    eccMeta := (if s.eccMeta.elem src then [dst] else []) ++ s.eccMeta.filter (· != dst)
    eccLines := bad ++ s.eccLines.filter (fun l => !(decide (dst * 28 ≤ l) && decide (l < dst * 28 + 28))) }

/-- R314, R315: writes a valid and dirty cache row back to its TAG row. -/
def writeBack (s : State) (ch q : Nat) : State :=
  if (chanOf s ch).valid.elem q && (chanOf s ch).dirty.elem q then
    modChan (copyRow s q (farRow s q) 0) ch (fun c => { c with dirty := c.dirty.filter (· != q) })
  else s

/-- Makes a cache row invalid; it holds no far row then, and its TAG is zero (R288, R290). -/
def invalidateRow (s : State) (ch q : Nat) : State :=
  modChan (modMeta s ⟨q, q⟩ (fun x => { x with tag := 0 })) ch (fun c => { c with
    valid := c.valid.filter (· != q), dirty := c.dirty.filter (· != q) })

/-- R314: the in-bank operation of DPROM. -/
def promote (s : State) (ch bank rib : Nat) : State :=
  let c := chanOf s ch
  let sub := rib / 512
  let v := victimOf c bank sub
  let qv := rowNumber ch bank (512 * sub + v)
  let s1 := writeBack s ch qv
  let s2 := copyRow s1 (rowNumber ch bank rib) qv (rib % 512 - 32)
  modChan s2 ch (fun c => { c with
    valid := if c.valid.elem qv then c.valid else c.valid ++ [qv]
    dirty := c.dirty.filter (· != qv)
    victims := tabSet c.victims (bank * 64 + sub) (nextCacheRow c.pin v) })

/-- R300: cleans and invalidates every cache row of a channel, in ascending order of bank, subarray and row. -/
def cleanAll (s : State) (ch : Nat) : State :=
  let rank := fun (q : Nat) => (bankOfRow q * 64 + subOfRow q) * 32 + slabRow q
  let l := sortBy rank (chanOf s ch).valid
  l.foldl (fun s q => invalidateRow s ch q) (l.foldl (fun s q => writeBack s ch q) s)

/-! ## The checks of R308 -/

/-- The channel whose core is issuing. -/
def curChan (s : State) : Nat := agIdx (curAgent s)

/-- The wall chc. -/
def nowChc (s : State) : Nat := s.gcyc / 2

/-- R308: no D slot under the service program. -/
def needWorld (s : State) : Except Nat Unit := need 0x0D ((curCtx s).task.world != 0)

/-- R308: the ownership check of a command that names a row. -/
def needRowOwner (bank rib : Nat) (s : State) : Except Nat Unit :=
  let q := rowNumber (curChan s) bank rib
  let w := (curCtx s).task.world
  if isCacheRow s q then
    need 0x09 (!cacheValid s q || rowOwner s (farRow s q) == w)
  else need 0x09 (rowOwner s q == w)

/-- The row as the open row of a bank stands (R288). -/
def openRef (s : State) (ch bank : Nat) : RowRef := rowRef s (rowNumber ch bank (openRow (chanOf s ch) bank))

/-- The columns written since the activation of a bank's open row. -/
def openCols (c : Chan) (b : Nat) : List Nat :=
  match bankOf c b with
  | .opened _ cols _ _ => cols
  | _ => []

/-- The moved lines of a bank's open row (R295). -/
def openMoved (c : Chan) (b : Nat) : List Nat :=
  match bankOf c b with
  | .opened _ _ m _ => m
  | _ => []

/-- Changes the open row's record. -/
def modOpen (s : State) (ch b : Nat) (f : Nat → List Nat → List Nat → Bool → Bank) : State :=
  match bankOf (chanOf s ch) b with
  | .opened r cols m d => setBankState s ch b (f r cols m d)
  | _ => s

/-- Every column of a row has been written. -/
def allCols (cols : List Nat) : Bool := (List.range 7).all (fun c => cols.elem c)

/-- R308, R295: writes of line `i` of the open row still to reach it, before the one being checked. -/
def pendingWrites (c : Chan) (q i : Nat) : Nat :=
  (c.bursts.filter (fun b => b.write && !b.inRow && b.row == q && b.col == i / 4 && bm b.mask (i % 4))).length

/-- R295: after `n` more writes line `i` can still take a write. -/
def counterRoom (s : State) (r : RowRef) (moved : List Nat) (i n : Nat) : Bool :=
  let m := tabGet 0 (metaOf s r).minors i
  if moved.elem i then decide (m + n < 127) else decide (m + n < 127 + 128)

/-- R295: every line of a write has a next counter; the first DWR of a cleared row, and DINIT of one, start them (R296, R316). -/
def countersOk (s : State) (ch bank : Nat) (init : Bool) (lines : List Nat) : Bool :=
  let c := chanOf s ch
  let r := openRef s ch bank
  (isCleared s r.ql && (init || (openCols c bank).isEmpty)) ||
    lines.all (fun i => counterRoom s r (openMoved c bank) i (pendingWrites c r.qm i))

/-- The lines of a column that a mask names. -/
def colLines (col mask : Nat) : List Nat := ([0, 1, 2, 3].filter (bm mask)).map (fun j => 4 * col + j)

/-- R296: the ClearedOk check of a DWR. -/
def clearedWriteOk (s : State) (ch bank col mask : Nat) : Bool :=
  let cols := openCols (chanOf s ch) bank
  !isCleared s (openRef s ch bank).ql || (mask == 15 && (List.range col).all (fun c => cols.elem c))

/-- R296: the ClearedOk check of a precharge. -/
def clearedCloseOk (s : State) (ch bank : Nat) : Bool :=
  let cols := openCols (chanOf s ch) bank
  !isCleared s (openRef s ch bank).ql || cols.isEmpty || allCols cols

/-- R310: the address check of DRD and DWR; answers the address as a number. -/
def needDAddr (ds : Bool) (a : Word) (s : State) : Except Nat Nat :=
  let ch := curChan s
  if ds then do
    need 0x09 (bits a 63 16 == 0)
    need 0x07 (bits a 7 0 == 0)
    .ok a.toNat
  else do
    need 0x09 (bits a 63 28 == 0 &&
      decide (bits a 25 0 + 256 ≤ (partBanks s (ch / 64 * 4 + bits a 27 26) (chanOf s ch).func).length * bankBytes))
    need 0x07 (bits a 5 0 == 0)
    .ok a.toNat

/-! ## Lines of a DWR into their row (R311) -/

/-- Line `j` of a DWR's column at its source, and whether it is poisoned. -/
def burstSource (s : State) (ch : Nat) (b : DBurst) (j : Nat) : Nat × Bool :=
  let o := b.addr + 64 * j
  let c := chanOf s ch
  if b.ds then (leNat (memBytes c.slice o 64), c.slicePoison.elem (o / 64))
  else
    match chanPlace s ch o with
    | some (cl, p) => (leNat (pooledBytes s cl p 64), linePoisoned s cl p)
    | none => (0, false)

/-- The lines of a DWR: those gathered, then those that are still at their source. -/
def burstLines (s : State) (ch : Nat) (b : DBurst) : List (Nat × Bool) :=
  b.lines ++ (([0, 1, 2, 3].filter (bm b.mask)).drop b.lines.length).map (burstSource s ch b)

/-- R311, R57: the lines of a DWR are in its row; each that is poisoned counts on its own page. The write reads the row's node
(R291). -/
def putLines (ch : Nat) (b : DBurst) (l : List (Nat × Bool)) (s : State) : State :=
  let s := noteNode s (rowRef s b.row).ql
  let r := rowRef s b.row
  let bank := bankOfRow b.row
  let e := (List.zip (colLines b.col b.mask) l).foldl (fun (acc : State × List Nat) p =>
    let w := writeLine acc.1 r acc.2 p.1 (leBytes 64 p.2.1) p.2.2
    (if p.2.2 then bumpPoison w.1 (pageOfAddr (rowLineAddr r.ql p.1)) else w.1, w.2)) (s, openMoved (chanOf s ch) bank)
  modOpen e.1 ch bank (fun rib cols _ d => .opened rib cols e.2 d)

/-- Every DWR issued to row `q` is in it, before a command of the row that must find it there: a DRD at t + 24 (R311), the
DINIT and the precharge that follow it (R312, R316). A freeze may have moved the burst's own time past that command; it then
still signals at that time (DEDUCED, log entry 64). -/
def settleRow (ch q : Nat) (s : State) : State :=
  let mine := fun (b : DBurst) => b.write && !b.inRow && b.row == q
  let s1 := ((chanOf s ch).bursts.filter mine).foldl (fun s b => putLines ch b (burstLines s ch b) s) s
  modChan s1 ch (fun c => { c with bursts := c.bursts.map (fun b =>
    if mine b then { b with
      inRow := true
      step := 4
      at_ := if b.step = 4 then b.at_ else 2 * b.issued + 32 }
    else b) })

/-! ## Precharge -/

/-- R312, R294-R296: closes a bank's open row, with a stretch of `k` chc before its own; answers the stretch in all
and whether it began with a rekey. A cleared row that is written in part keeps the metadata column it had (R300). The close of
a modified row reads its node (R291). -/
def closeBank (s : State) (ch bank k : Nat) : State × Nat × Bool :=
  let s := settleRow ch (rowNumber ch bank (openRow (chanOf s ch) bank)) s
  match bankOf (chanOf s ch) bank with
  | .opened rib cols moved modified =>
    let q := rowNumber ch bank rib
    let s := if modified then noteNode s (rowRef s q).ql else s
    let r := rowRef s q
    let s0 := if isCleared s r.ql && allCols cols then setCleared s r.ql false else s
    let partly := isCleared s0 r.ql && !cols.isEmpty
    let old := ((chanOf s ch).kept.find? (fun p => p.1 = bank)).elim (metaOf s0 r) (·.2)
    let e := if partly then (modMeta s0 r (fun _ => old), false, false) else closeRow s0 r moved modified
    let s1 := if modified && !partly && r.qm != r.ql then
        modChan e.1 ch (fun c => { c with dirty := if c.dirty.elem q then c.dirty else c.dirty ++ [q] })
      else e.1
    let n := (if e.2.1 then 120 else 0) + (if e.2.2 then 1024 else 0)
    let s2 := modChan s1 ch (fun c => { c with kept := tabDel c.kept bank })
    (noteCmd (setBankState s2 ch bank .idle) ch .pre bank (nearRow rib) (nowChc s + k + n), k + n, e.2.1)
  | _ => (s, k, false)

/-- R294, R295: the freeze of a stretched precharge. -/
def stretchFreeze (n : Nat) (rekey : Bool) (s : State) : State :=
  if n = 0 then s
  else
    let a := curAgent s
    beginWait a (if rekey then .rekey else .rollover)
      ⟨.precharge, curWord s, 0, 0, curUndo [] none s, false, some (2 * (nowChc s + n))⟩ s

/-! ## The D rows -/

/-- R308: the row operand of a register form. -/
def rowOperand (a : Nat) (m : Bool) (s : State) : Except Nat (Nat × State) := do
  let (v, s) ← source a m s
  need 0x09 (bits v 63 15 == 0)
  .ok (v.toNat, s)

/-- R309: DACT of a row of a bank. -/
def bodyAct (bank rib : Nat) (s : State) : Except Nat State := do
  needRowOwner bank rib s
  let ch := curChan s
  let c := chanOf s ch
  let q := rowNumber ch bank rib
  need 0x0F (bankIdle c bank (nowChc s) && (!isCacheRow s q || cacheValid s q))
  need 0x0F (gapsOk c .act bank (nowChc s))
  let s1 := noteNode s (rowRef s q).ql
  .ok (noteCmd (setBankState s1 ch bank (.opened rib [] [] false)) ch .act bank (nearRow rib) (nowChc s))

/-- DACT with an immediate row. -/
def execDact (o : DRow) : State → Out :=
  execSlot o.g (fun s => do
    needWorld s
    bodyAct o.k o.r s)

/-- DACT with a register row. -/
def execDactReg (o : DRowReg) : State → Out :=
  execSlot o.g (fun s => do
    needWorld s
    let (r, s) ← rowOperand o.a o.m s
    bodyAct o.k r s)

/-- R303: the number of a signalling command on the channel timeline; 0 without S. -/
def signalNumber (ch : Nat) (sig : Bool) (s : State) : Nat × State :=
  if sig then
    ((chanOf s ch).tlIssued + 1, modChan s ch (fun c => { c with tlIssued := c.tlIssued + 1 }))
  else (0, s)

/-- DRD (R310). -/
def execDrd (o : DRd) : State → Out :=
  execSlot o.g (fun s => do
    needWorld s
    let (a, s) ← source o.a o.m s
    let addr ← needDAddr o.e a s
    let ch := curChan s
    let c := chanOf s ch
    need 0x0F (bankOpen c o.k)
    need 0x0F (gapsOk c .rd o.k (nowChc s))
    let s := settleRow ch (rowNumber ch o.k (openRow c o.k)) s
    let r := openRef s ch o.k
    let lines := (colLines o.c 15).map (fun i =>
      let d := readLine s r (openMoved (chanOf s ch) o.k) i
      (leNat d.1, d.2))
    let (n, s) := signalNumber ch o.s s
    let s := noteCmd (noteSoft s (rowLineAddr r.ql 0)) ch .rd o.k (nearRow (openRow c o.k)) (nowChc s)
    let t := curT s
    let b : DBurst := {
      num := n
      write := false
      issued := t
      at_ := if o.e then 2 * (t + 40) else 2 * (t + 44)
      lines := lines
      row := r.qm
      col := o.c
      mask := 15
      ds := o.e
      addr := addr
      step := 0
      inRow := false }
    .ok (modChan s ch (fun c => { c with bursts := c.bursts ++ [b] })))

/-- DWR (R311). -/
def execDwr (o : DWr) : State → Out :=
  execSlot o.g (fun s => do
    needWorld s
    let (a, s) ← source o.a o.m s
    let addr ← needDAddr o.e a s
    let ch := curChan s
    let c := chanOf s ch
    need 0x0F (bankOpen c o.k && countersOk s ch o.k false (colLines o.c o.w))
    need 0x10 (clearedWriteOk s ch o.k o.c o.w)
    need 0x0F (gapsOk c .wr o.k (nowChc s))
    let q := rowNumber ch o.k (openRow c o.k)
    let (n, s) := signalNumber ch o.s s
    let s := noteCmd s ch .wr o.k (nearRow (openRow c o.k)) (nowChc s)
    let r := rowRef s q
    let s := if isCleared s r.ql && (openCols c o.k).isEmpty then
        freshMeta (modChan s ch (fun c => { c with kept := tabSet c.kept o.k (metaOf s r) })) r
      else s
    let s := modOpen s ch o.k (fun r cols m _ => .opened r (if cols.elem o.c then cols else cols ++ [o.c]) m true)
    let first := ([0, 1, 2, 3].find? (bm o.w)).getD 0
    let b : DBurst := {
      num := n
      write := true
      issued := curT s
      at_ := 2 * curT s + first
      lines := []
      row := q
      col := o.c
      mask := o.w
      ds := o.e
      addr := addr
      step := first
      inRow := false }
    .ok (modChan s ch (fun c => { c with bursts := c.bursts ++ [b] })))

/-- DPRE (R312). -/
def execDpre (o : DBank) : State → Out :=
  execSlot o.g (fun s => do
    needWorld s
    let ch := curChan s
    let c := chanOf s ch
    need 0x0F (bankOpen c o.k)
    need 0x10 (clearedCloseOk s ch o.k)
    need 0x0F (gapsOk c .pre o.k (nowChc s))
    let e := closeBank s ch o.k 0
    .ok (stretchFreeze e.2.1 e.2.2 e.1))

/-- DPREA (R312): the stretches add up, bank by bank. -/
def execDprea (o : G) : State → Out :=
  execSlot o.g (fun s => do
    needWorld s
    let ch := curChan s
    let c := chanOf s ch
    let now := nowChc s
    let opens := (List.range 32).filter (bankOpen c)
    need 0x0F ((List.range 32).all (fun b => bankOpen c b || bankIdle c b now))
    need 0x10 (opens.all (clearedCloseOk s ch))
    need 0x0F (opens.all (fun b => gapsOk c .pre b now))
    let e := opens.foldl (fun (acc : State × Nat × Bool) b =>
      let r := closeBank acc.1 ch b acc.2.1
      (r.1, r.2.1, if acc.2.1 = 0 then r.2.2 else acc.2.2)) (s, 0, false)
    .ok (stretchFreeze e.2.1 e.2.2 e.1))

/-- R313: pays one refresh of the given banks. -/
def payRefresh (s : State) (ch : Nat) (banks : List Nat) (k : DKind) (busy : Nat) : State :=
  let s1 := modChan s ch (fun c => { c with
    debt := banks.foldl (fun t b => tabMod 0 t b (· - 1)) c.debt })
  banks.foldl (fun s b => noteCmd (setBankState s ch b (.busy (nowChc s + busy))) ch k b false (nowChc s)) s1

/-- DREF (R313). -/
def execDref (o : G) : State → Out :=
  execSlot o.g (fun s => do
    needWorld s
    let ch := curChan s
    let c := chanOf s ch
    let all := List.range 32
    need 0x0F (all.all (fun b => bankIdle c b (nowChc s)))
    need 0x0F (gapsOk c .ref 0 (nowChc s) && all.all (fun b => decide (-8 < debtOf c b)))
    .ok (payRefresh s ch all .ref 520))

/-- DREFP (R313). -/
def execDrefp (o : DBank) : State → Out :=
  execSlot o.g (fun s => do
    needWorld s
    let ch := curChan s
    let c := chanOf s ch
    need 0x0F (bankIdle c o.k (nowChc s))
    need 0x0F (gapsOk c .refp o.k (nowChc s) && decide (-8 < debtOf c o.k))
    .ok (payRefresh s ch [o.k] .refp 220))

/-- R314: DPROM of a row of a bank. -/
def bodyProm (bank rib : Nat) (s : State) : Except Nat State := do
  needRowOwner bank rib s
  let ch := curChan s
  let c := chanOf s ch
  let q := rowNumber ch bank (512 * (rib / 512) + victimOf c bank (rib / 512))
  need 0x0F (bankIdle c bank (nowChc s) && !nearRow rib && c.pin.toNat != 15)
  need 0x0F (gapsOk c .prom bank (nowChc s))
  let busy := if c.valid.elem q && c.dirty.elem q then 80 else 44
  let s1 := noteNode (noteNode s (rowNumber ch bank rib)) (rowRef s q).ql
  .ok (noteCmd (setBankState (promote s1 ch bank rib) ch bank (.busy (nowChc s + busy))) ch .prom bank false (nowChc s))

/-- DPROM with an immediate row. -/
def execDprom (o : DRow) : State → Out :=
  execSlot o.g (fun s => do
    needWorld s
    bodyProm o.k o.r s)

/-- DPROM with a register row. -/
def execDpromReg (o : DRowReg) : State → Out :=
  execSlot o.g (fun s => do
    needWorld s
    let (r, s) ← rowOperand o.a o.m s
    bodyProm o.k r s)

/-- R315: DCLEAN of a row of a bank. -/
def bodyClean (bank rib : Nat) (inv : Bool) (s : State) : Except Nat State := do
  needRowOwner bank rib s
  let ch := curChan s
  let c := chanOf s ch
  let q := rowNumber ch bank rib
  need 0x0F (bankIdle c bank (nowChc s) && isCacheRow s q)
  need 0x0F (gapsOk c .clean bank (nowChc s))
  let s1 := writeBack (noteNode s (rowRef s q).ql) ch q
  let s2 := if inv then invalidateRow s1 ch q else s1
  .ok (noteCmd (setBankState s2 ch bank (.busy (nowChc s + 36))) ch .clean bank true (nowChc s))

/-- DCLEAN with an immediate row. -/
def execDclean (o : DClean) : State → Out :=
  execSlot o.g (fun s => do
    needWorld s
    bodyClean o.k o.r o.v s)

/-- DCLEAN with a register row. -/
def execDcleanReg (o : DCleanReg) : State → Out :=
  execSlot o.g (fun s => do
    needWorld s
    let (r, s) ← rowOperand o.a o.m s
    bodyClean o.k r o.v s)

/-- R316: writes zeros to every line of the open row, after the DWRs issued before; it reads the row's node (R291). -/
def initOpen (s : State) (ch bank : Nat) : State :=
  let s := settleRow ch (rowNumber ch bank (openRow (chanOf s ch) bank)) s
  let s := noteNode s (openRef s ch bank).ql
  let r := openRef s ch bank
  let zeros : List Byte := List.replicate 64 0
  if isCleared s r.ql then
    modOpen (zeroRow s r) ch bank (fun rib _ _ _ => .opened rib (List.range 7) [] true)
  else
    let e := allLines.foldl (fun (acc : State × List Nat) i => writeLine acc.1 r acc.2 i zeros false)
      (s, openMoved (chanOf s ch) bank)
    modOpen e.1 ch bank (fun rib cols _ _ => .opened rib cols e.2 true)

/-- DINIT (R316). Monitors observe its writes (R77). -/
def execDinit (o : DBank) : State → Out :=
  execSlot o.g (fun s => do
    needWorld s
    let ch := curChan s
    let c := chanOf s ch
    need 0x0F (bankOpen c o.k && countersOk s ch o.k true allLines)
    need 0x0F (gapsOk c .init o.k (nowChc s))
    let r := openRef s ch o.k
    let s := initOpen s ch o.k
    .ok (noteCmd ((allLines.map (lineAddr r)).foldl (fun s n => noteWrite n s) s)
      ch .init o.k (nearRow (openRow c o.k)) (nowChc s)))

/-- DWAIT (R317). -/
def execDwait (o : DWait) : State → Out :=
  execSlot o.g (fun s => do
    needWorld s
    let (t, s) ← source o.a o.m s
    let (n, s) ← source o.b o.n s
    let a := curAgent s
    let w := (curCtx s).task.world
    need 0x09 (decide (t.toNat < 2 ^ 32) && decide (1 ≤ tlKind t.toNat) && decide (tlKind t.toNat ≤ 4) && tlValid s w t.toNat)
    if n.toNat ≤ tlValue s w t.toNat then .ok s
    else .ok (beginWait a .timeline ⟨.dwait t.toNat n.toNat, curWord s, t, n, curUndo [] none s, false, none⟩ s))

/-! ## What falls due on a channel -/

/-- REFRESH_TICK: a tick increases every debt of a channel; a debt of 9 traps before the program's next bundle (R313). -/
def execRefreshTick (ch : Nat) (s : State) : Out :=
  let c := chanOf s ch
  if c.owner != 0 && c.zeroUntil.isNone && nowChc s == c.refBase + 7800 * (c.ticks + 1) then
    let debt := (List.range 32).foldl (fun t b => tabMod 0 t b (· + 1)) c.debt
    let late := (List.range 32).any (fun b => decide (9 ≤ tabGet 0 debt b))
    .next (modChan s ch (fun c => { c with ticks := c.ticks + 1, debt := debt, refreshFault := c.refreshFault || late }))
  else .next s

/-- BANK_BUSY_END (R307): the bank is idle again. -/
def execBankBusyEnd (ch bank : Nat) (s : State) : Out :=
  match bankOf (chanOf s ch) bank with
  | .busy u => .next (if u ≤ nowChc s then setBankState s ch bank .idle else s)
  | _ => .next s

/-- PRECHARGE_FREEZE_END (R294, R295): the stretched precharge ends. -/
def execPrechargeFreezeEnd (ch : Nat) (s : State) : Out :=
  let a := Agent.channel ch
  match (ctxOf s a).wait with
  | some w =>
    if w.what = .precharge && w.until_.elim false (fun u => decide (u ≤ s.gcyc)) then
      .next (endWait a .rekey (endWait a .rollover s))
    else .next s
  | none => .next s

/-- The bytes of a line kept as a number. -/
def lineBytes (n : Nat) : List Byte := leBytes 64 n

/-- A burst ends: it signals on the channel timeline (R303). -/
def endBurst (ch : Nat) (b : DBurst) (s : State) : State :=
  let s1 := modChan s ch (fun c => { c with bursts := c.bursts.filter (fun x => x != b) })
  if b.num = 0 then s1 else completeChan s1 ch b.num

/-- The burst moves in this cc (DEDUCED, log entry 64). -/
def burstDue (s : State) (ch : Nat) (b : DBurst) : Bool :=
  !(ctxOf s (.channel ch)).frozen && b.at_ == chanCc s ch

/-- R318: a DRD's lines land in the channel's slice. -/
def landSlice (ch : Nat) (b : DBurst) (s : State) : State :=
  let l := b.addr / 64
  let s1 := modChan s ch (fun c => { c with
    slice := memWrite c.slice b.addr (b.lines.flatMap (fun x => lineBytes x.1))
    slicePoison := (c.slicePoison.filter (fun p => decide (p < l) || decide (l + 4 ≤ p))) ++
      ((List.zip (List.range 4) b.lines).filter (·.2.2)).map (fun x => l + x.1) })
  endBurst ch b s1

/-- R318: the next line of a DRD lands in pooled memory; what a world that is being torn down held there is gone (R65). -/
def landPooled (ch : Nat) (b : DBurst) (s : State) : State :=
  let x := b.lines.getD b.step (0, false)
  let s1 := match chanPlace s ch (b.addr + 64 * b.step) with
    | some (cl, p) =>
      if (worldOf s (chanOf s ch).owner).tearing.isSome then s
      else setLinePoison (pooledWrite s cl p (lineBytes x.1)) cl p x.2
    | none => s
  let b' := { b with step := b.step + 1, at_ := b.at_ + 1 }
  let s2 := modChan s1 ch (fun c => { c with bursts := c.bursts.map (fun y => if y = b then b' else y) })
  if b'.step = 4 then endBurst ch b' s2 else s2

/-- DRD_LANDING (R318): the lines of a channel's DRDs that perform in this cycle. -/
def execDrdLanding (ch : Nat) (s : State) : Out :=
  .next (((chanOf s ch).bursts.filter (fun b => !b.write && burstDue s ch b)).foldl (fun s b =>
    if b.ds then landSlice ch b s else landPooled ch b s) s)

/-- R311: the lines of a DWR reach the row. Monitors observe them (R77). -/
def burstIntoRow (ch : Nat) (b : DBurst) (s : State) : State :=
  let r := rowRef s b.row
  let s1 := if b.inRow then s else putLines ch b b.lines s
  endBurst ch b (((colLines b.col b.mask).map (lineAddr r)).foldl (fun s n => noteWrite n s) s1)

/-- DWR_COMPLETE: the gathers of a channel's DWRs from its landing slice, and the bursts that are in the row
(R303, R311). -/
def execDwrComplete (ch : Nat) (s : State) : Out :=
  let due := ((chanOf s ch).bursts.filter (fun b => b.write && burstDue s ch b))
  .next (due.foldl (fun s b =>
    if b.step = 4 then (if s.phase = 3 then s else burstIntoRow ch b s)
    else if b.ds then
      let c := chanOf s ch
      let o := b.addr + 64 * b.step
      gatherLine ch (c.bursts.idxOf b) (memBytes c.slice o 64) (c.slicePoison.elem (o / 64)) s
    else s) s)

end Sys2Proof.Machine
end

