-- ==== Sys2Proof/Machine/Issue.lean ====
section
/-!
DEFINITION. Issuing a bundle (spec/06_fetch_and_issue.md R117-R134; spec/17_interruption_and_preemption.md R390, R394): which bundle is next and
when, the traps before its slots, its slots in order, what follows it; and what lands (R125) or performs later.
-/

namespace Sys2Proof.Machine

/-! ## The next bundle (R121, R122) -/

/-- The address of the next bundle and the cycle, in the context's clock, in which it is due. While the return from
a handler is due at that cycle, there is none. A bundle that issues again comes before a branch target. -/
def nextIssue (x : Ctx) : Option (Nat × Nat) :=
  match x.branch with
  | none => some (x.seqPc, x.seqAt)
  | some b =>
    if x.seqAt < b.due || x.cont.isSome || x.resumeMask != 0 then some (x.seqPc, x.seqAt)
    else if b.eret then none else some (b.target, b.due)

/-- The context can issue in this cycle. -/
def canIssue (x : Ctx) : Bool :=
  x.live && x.started && x.issuing && x.ended.isNone && !x.frozen && x.wait.isNone &&
    (nextIssue x).elim false (fun p => decide (p.2 ≤ x.clk))

/-- R122: the cycle is a shadow cycle of a taken branch. -/
def inShadow (x : Ctx) : Bool := x.branch.elim false (fun b => decide (x.clk < b.due) && decide (b.due < x.clk + 3))

/-- R132: nothing issued earlier falls due later, no yarn is open, no call is busy, no shadow. -/
def isQuiet (s : State) (a : Agent) : Bool :=
  let x := ctxOf s a
  x.pend.all (fun p =>
      match p.act with
      | .sendt _ _ => true
      | .ldc _ _ _ _ => false
      | .stc _ _ => false
      | .latomPool _ _ _ _ _ _ _ => false
      | _ => decide (p.due ≤ x.clk)) &&
    !(coreOf s (agIdx a)).open_.any (fun o => o.ag == a && yarnOpen s o x.clk) &&
    !callBusy x x.clk && !inShadow x

/-! ## Traps before a bundle -/

/-- A trap taken before any slot of the bundle at `pc` issues (R390). -/
def bundleTrap (a : Agent) (cause pc slot word : Nat) (s : State) : State :=
  let x := ctxOf s a
  trapEntry a cause pc slot word x.resumeMask false (x.cont.map (fun p => (p.1, p.2 - x.clk))) s

/-- R390, R219: the deferred trap to be taken now: the earliest cycle, then the lowest rank (DEDUCED, log entry 18). -/
def dueDeferred (x : Ctx) : Option Deferred :=
  (sortBy (fun d => d.at_ * 2 ^ 16 + d.rank) (x.deferred.filter (fun d => decide (d.at_ < x.clk)))).head?

/-- Takes a deferred trap; the others of its cycle are not reported (DEDUCED, log entry 18). -/
def takeDeferred (a : Agent) (d : Deferred) (pc : Nat) (s : State) : State :=
  let s1 := modCtx s a (fun x => { x with deferred := x.deferred.filter (fun e => e.at_ != d.at_) })
  bundleTrap a d.cause pc d.slot d.word s1

/-- The instruction is a branch that its guard lets be taken (R122, R124). -/
def takesBranch (x : Ctx) (i : Instr) : Bool :=
  match i with
  | .br o => predOf x o.g
  | .brl o => predOf x o.g
  | .bri o => predOf x o.g
  | .bswap o => predOf x o.g
  | .eret o => predOf x o.g
  | _ => false

/-- R124, R134: the schedule fault of a bundle before its slots: FAULTSLOT and FAULTWORD. Of several the one reported is that of Q,
then that of a branch in a shadow, then that of E (DESIGN CHOICE, log entry 90). -/
def scheduleFault (s : State) (a : Agent) (h : Header) (hw : Nat) (l : List SlotWord) : Option (Nat × Nat) :=
  let x := ctxOf s a
  if h.q && agTile a && x.resumeMask = 0 && !isQuiet s a then some (7, hw)
  else if inShadow x then
    match l.find? (fun w => w.slot = .a && !bm x.resumeMask 0 && takesBranch x w.instr) with
    | some w => some (0, w.word)
    | none => if h.e && lcOpen x.lc then some (7, hw) else none
  else none

/-- R313: the debt trap of a channel core, before its next bundle. -/
def debtTrap (s : State) (a : Agent) : Bool :=
  match a with
  | .channel n => (chanOf s n).refreshFault
  | _ => false

/-- The bundle's record: the slots still to issue, those present, and the state it issues under. The branch whose
target this is has been taken up; a branch that this bundle took before a later slot of it trapped is still its branch
(R392). -/
def openBundle (a : Agent) (pc : Nat) (h : Header) (hw : Nat) (l : List SlotWord) (s : State) : State :=
  let x := ctxOf s a
  let target := x.branch.elim false (fun b => decide (b.due ≤ x.seqAt) && x.cont.isNone && x.resumeMask == 0)
  let s1 := setCtx s a { x with
    branch := if target then none else x.branch
    lastPc := pc
    lastSlots := l.map (fun w => (w.slot.num, w.word))
    lastAt := x.clk
    resumeMask := 0 }
  let s2 := countEvent a 0x01 1 s1
  { s2 with cur := some {
      ag := a
      pc := pc
      succ := pcMask (pc + h.bytes)
      t := x.clk
      hdr := h
      hword := hw
      slot := .a
      word := 0
      rest := l
      before := 0
      mask := x.resumeMask
      ev := x.evcnt
      shadow := inShadow x
      taken := x.branch.elim false (fun b => b.due == x.clk + 3)
      trapped := false } }

/-- BUNDLE_ISSUE: a context that is due issues its next bundle: the traps before its slots are taken, or the bundle
is opened, and `step` then issues its slots (R121, R28, R29, R117, R124, R134). -/
def execBundleIssue (a : Agent) (s : State) : Out :=
  let x := ctxOf s a
  if !canIssue x then .next s
  else
    match nextIssue x with
    | none => .next s
    | some (pc, _) =>
      match (if x.susp.isNone then dueDeferred x else none) with
      | some d => .next (takeDeferred a d pc s)
      | none =>
        if debtTrap s a then .next (bundleTrap a 0x0F pc 7 ((fetchWords s a pc).headD 0) s)
        else if fetchRefused s a pc then .next (bundleTrap a 0x01 pc 7 0 s)
        else
          match decodeBundle (kindOf a) (fetchWords s a pc) with
          | .error (sl, w, _) => .next (bundleTrap a 0x01 pc (sl.elim 7 Slot.num) w s)
          | .ok (h, l) =>
            match scheduleFault s a h ((fetchWords s a pc).headD 0) l with
            | some f => .next (bundleTrap a 0x04 pc f.1 f.2 s)
            | none => .next (openBundle a pc h ((fetchWords s a pc).headD 0) l s)

/-! ## The slots of a bundle -/

/-- The guard field of a slot word (R21). -/
def guardField (w : Nat) : Nat := bf w 31 28

/-- R429: a trace record. -/
def traceRecord (gcyc pc slot word : Nat) (dropped : Bool) : List Byte :=
  leBytes 8 gcyc ++ leBytes 4 (pc + slot * 2 ^ 21 + (if dropped then 2 ^ 31 else 0)) ++ leBytes 4 word

/-- R381: the store of unwritten entries, 4096 of them, has room for `n` more. -/
def logSpace (s : State) (n : Nat) : Bool := decide (s.log.held.length + n ≤ 4096)

/-- R381: the store of unwritten entries is full. -/
def logFull (s : State) : Bool := decide (4096 ≤ s.log.held.length)

/-- R383: adds to an egress count of the interval. -/
def countEgress (w region port bytes stalled : Nat) (s : State) : State :=
  let k := fun (e : Egress) => e.world == w && e.region == region && e.port == port
  { s with egress :=
      if s.egress.any k then
        s.egress.map (fun e => if k e then { e with bytes := e.bytes + bytes, stalled := e.stalled + stalled } else e)
      else s.egress ++ [⟨w, region, port, bytes, stalled⟩] }

/-- Tokens of a region. -/
def tokensOf (s : State) (w idx : Nat) : Nat :=
  ((worldOf s w).regions.find? (fun r => r.idx = idx)).elim 0 (·.tokens)

/-- Takes tokens from a region's bucket. -/
def takeTokens (w idx n : Nat) (s : State) : State :=
  modWorld s w (fun x => { x with regions := x.regions.map (fun r =>
    if r.idx = idx then { r with tokens := r.tokens - n } else r) })

/-- The custody region of a world that its debug capture takes tokens from: the lowest-numbered (R431). -/
def captureRegion (s : State) (w : Nat) : Option Region := (sortBy (·.idx) (worldOf s w).regions).head?

/-- R380, R383, R429: bytes of debug capture of a world leave. A world with custody regions pays for them and they count as egress
at the debug port, 33; none where the tokens are short (DESIGN CHOICE, log entry 84). -/
def payCapture (w n : Nat) (s : State) : Option State :=
  match captureRegion s w with
  | none => some s
  | some r => if r.tokens < n || logFull s then none else some (countEgress w r.idx 33 n 0 (takeTokens w r.idx n s))

/-- R428, R429: writes a trace record to the ring in host memory, or drops one that the host path cannot take: whether
it can is a free value (DESIGN CHOICE, log entry 55). One that has no tokens is dropped too (DESIGN CHOICE, log entry 84). -/
def writeTrace (w slot word pc : Nat) (s : State) : State :=
  let v := free s
  match (if v.1 % 2 = 1 then none else payCapture w 16 v.2) with
  | none => { v.2 with dbg := { s.dbg with traceDrop := true } }
  | some s1 =>
    let l := traceRecord s.gcyc pc slot word s.dbg.traceDrop
    let at_ := s.dbg.tracebase.toNat + 16 * (s.dbg.tracehead % 65536)
    emit { s1 with
      host := memWrite s.host at_ l
      dbg := { s.dbg with tracehead := (s.dbg.tracehead + 1) % 65536, traceDrop := false } } (.trace l)

/-- R429: trace of a context is on, in the mode asked for. -/
def traceOn (s : State) (a : Agent) (sample : Bool) : Bool :=
  debugAgent s == a && bm s.dbg.tracectl.toNat 0 && bm s.dbg.tracectl.toNat 1 == sample &&
    policyTrace s (ctxOf s a).task.world

/-- R429: the records of a slot that issues with a true guard (DESIGN CHOICE, log entry 55). -/
def traceSlot (s : State) : State :=
  match s.cur with
  | none => s
  | some u =>
    if traceOn s u.ag false && guardTrue (guardField u.word) s then
      writeTrace (ctxOf s u.ag).task.world u.slot.num u.word u.pc s
    else s

/-- R429: sample mode records the bundle that issues in the sampled cycle. -/
def traceSample (s : State) : State :=
  match s.cur with
  | none => s
  | some u =>
    if traceOn s u.ag true && s.gcyc % 2 ^ (8 + bits s.dbg.tracectl 7 4) = 0 then
      writeTrace (ctxOf s u.ag).task.world 7 0 u.pc s
    else s

/-- DONE bits of the present slots that come before slot number `n`. -/
def doneBefore (x : Ctx) (n : Nat) : Nat :=
  x.lastSlots.foldl (fun m p => if p.1 < n then m ||| 2 ^ p.1 else m) 0

/-- The next slot that issues: those whose DONE bit is set do not. The breakpoint register stops the context before
the slot it names (R430). -/
def nextSlot : Nat → State → Option (Instr × State)
  | 0, _ => none
  | n + 1, s =>
    match s.cur with
    | none => none
    | some u =>
      match u.rest with
      | [] => none
      | w :: rest =>
        if bm u.mask w.slot.num then nextSlot n { s with cur := some { u with rest := rest } }
        else
          let before := doneBefore (ctxOf s u.ag) w.slot.num
          let s1 : State := { s with
            cur := some { u with slot := w.slot, word := w.word, rest := rest, before := before } }
          if breakHere s1 (guardField w.word) then
            nextSlot n (stopInBundle true (u.mask ||| before) s1)
          else
            some (w.instr, traceSlot (modCtx s1 u.ag (fun x => { x with bkSkip := false })))

/-! ## After the slots -/

/-- R121-R123, R168, R395: what follows the bundle that has issued. -/
def followBundle (u : Issue) (s : State) : State :=
  let x := ctxOf s u.ag
  match x.cont with
  | some p => setCtx s u.ag { x with seqPc := p.1, seqAt := p.2, cont := none }
  | none =>
    let at_ := u.t + 1 + u.hdr.idle
    if u.hdr.e && lcOpen x.lc then
      let r := makeLoopEnd s
      let pc := if r.2 && !u.taken then lcStart x.lc else u.succ
      modCtx r.1 u.ag (fun x => { x with seqPc := pc, seqAt := at_ })
    else setCtx s u.ag { x with seqPc := u.succ, seqAt := at_ }

/-- R419: the first entry bundle of a launch issues in this cycle. -/
def noteStart (u : Issue) (s : State) : State :=
  let x := ctxOf s u.ag
  if x.causes.elem .debug && u.before == 0 then s
  else modWorld s x.task.world (fun y => { y with launches := y.launches.map (fun l =>
    if l.n = x.task.launch && l.startAt = 0 then { l with startAt := s.gcyc } else l) })

/-- The end of a bundle: unless it trapped or stopped, the stream goes on; a STEP has used its bundle (R430). -/
def finishBundle (s : State) : State :=
  match s.cur with
  | none => s
  | some u =>
    let s0 : State := noteStart u (traceSample s)
    let s1 := if u.trapped then s0 else modCtx (followBundle u s0) u.ag (fun x => { x with kept := none })
    let s2 : State := { s1 with cur := none }
    if (ctxOf s2 u.ag).stepOne && !u.trapped then
      { modCtx s2 u.ag (fun x => { x with stepOne := false }) with
        dbg := { s2.dbg with stopNext := s2.dbg.stopNext ++ [agentId u.ag] } }
    else s2

/-! ## What lands at the start of a cycle (R125) -/

/-- The rank that orders what falls due together: issue cycle, then slot. -/
def pendRank (p : InFlight) : Nat := p.iss * 8 + p.slot

/-- Lands lanes of an accumulator. -/
def mergeLanes (mask : BitVec 128) (old new : AccVec) : AccVec :=
  (List.range 128).foldl (fun v i =>
    if bm mask.toNat i then
      BitVec.ofNat 4096 (setBits v.toNat (32 * i + 31) (32 * i) (bf new.toNat (32 * i + 31) (32 * i)))
    else v) old

/-- A network delivery of a SENDT vector (R210, R211): into the cycle's inbox of each core named, or discarded at a
receiver that is frozen by its own wait (R137). -/
def deliverSendt (a : Agent) (cm : Nat) (v : Vec) (s : State) : State :=
  ([0, 1, 2, 3].filter (fun j => bm cm j)).foldl (fun s j =>
    let r := peerContext a (clusterCore a j)
    if ownWait (ctxOf s r) then pushSteps (faultSteps [⟨r, 3, true, agIdx a % 4⟩]) s
    else modCtx s r (fun x => { x with inbox := x.inbox ++ [(agIdx a % 4, v)] })) s

/-- One result lands. -/
def landOne (a : Agent) (p : InFlight) (s : State) : State :=
  match p.act with
  | .sreg r cell v =>
    if r = 0 then s
    else modCtx s a (fun x => { x with sregs := tabMod (Ring.empty 0) x.sregs r (fun q => ringPut q cell v) })
  | .vreg f q cell v => modCore s (agIdx a) (fun k => setVq k f q (ringPut (vqOf k f q) cell v))
  | .pair k v => modCtx s a (fun x => { x with preds := setPred (setPred x.preds (2 * k) v) (2 * k + 1) (!v) })
  | .stage g => modCtx s a (fun x => setStage x g.toNat)
  | .lc v => modCtx s a (fun x => { x with lc := v })
  | .csr n v => applyCsr a n v s
  | .vp k v => if k = 0 then s else modCtx s a (fun x => { x with vps := tabSet x.vps k v })
  | .vacc u k mask v =>
    modCtx s a (fun x => { x with vaccs := tabMod 0 x.vaccs (u * 4 + k) (fun old => mergeLanes mask old v) })
  | .yset y h lo hi => modCore s (agIdx a) (fun k => { k with yarns := tabMod 0 k.yarns y (fun q =>
      if h then BitVec.ofNat 256 (q.toNat % 2 ^ 128 + lo.toNat * 2 ^ 128 + hi.toNat * 2 ^ 192)
      else BitVec.ofNat 256 (q.toNat / 2 ^ 128 * 2 ^ 128 + lo.toNat + hi.toNat * 2 ^ 64)) })
  | .mparm i v => modCtx s a (fun x => { x with mps := tabSet x.mps i v })
  | .mstep t i v => modCore s (agIdx a) (fun k =>
      if t then { k with table := tabSet k.table i (BitVec.ofNat 32 v.toNat) } else { k with steps := tabSet k.steps i v })
  | .sendt cm v => deliverSendt a cm v s
  | _ => s

/-- What lands at the start of a cycle, rather than performing in it. -/
def landsAtStart (p : Pend) : Bool :=
  match p with
  | .store _ _ => false
  | .latom _ _ _ _ _ _ _ => false
  | .ldc _ _ _ _ => false
  | .stc _ _ => false
  | .latomPool _ _ _ _ _ _ _ => false
  | .latomPerform _ _ _ _ _ _ _ => false
  | .recvt _ _ _ _ => false
  | _ => true

/-- The results due now land, in the order of R125. -/
def landResults (a : Agent) (s : State) : State :=
  let x := ctxOf s a
  let due := fun (p : InFlight) => landsAtStart p.act && decide (p.due ≤ x.clk)
  let s1 := setCtx s a { x with pend := x.pend.filter (fun p => !due p) }
  (sortBy pendRank (x.pend.filter due)).foldl (fun s p => landOne a p s) s1

/-- R173, R394: at `t + 3` of BSWAP the halves change; at `t + 3` of ERET the suspended state resumes. -/
def landBranch (a : Agent) (s : State) : State :=
  let x := ctxOf s a
  match x.branch with
  | none => s
  | some b =>
    if b.due = x.clk then
      if b.eret then trapReturn a s
      else if b.swap then setCtx s a { swapHalves x with branch := some { b with swap := false } }
      else s
    else s

/-! ## What performs in a cycle (R196) -/

/-- Cells grouped in order into the pooled places of a task. -/
def pooledCells (s : State) (a : Agent) (l : List Host.Cell) : List Host.Cell :=
  l.filterMap (fun c => (taskPlace s (agIdx a) (ctxOf s a).task c.1).map (fun p => (p, c.2)))

/-- A store performs. -/
def performStore (a : Agent) (sp : Space) (l : List Host.Cell) (s : State) : State :=
  let c := agIdx a
  match sp, a with
  | .spool, .steward n => { s with stewMem := tabMod [] s.stewMem n (fun m => memPuts m l) }
  | .spool, _ =>
    if l.isEmpty then s
    else modCore s c (fun k => markBlocks (dedup (l.map (fun x => x.1 / blockBytes))) { k with spool := memPuts k.spool l })
  | .spill, _ => modCore s c (fun k => { k with spill := memPuts k.spill l })
  | .pooled, _ => modCluster s (clusterOfCore c) (fun k => { k with pooled := memPuts k.pooled (pooledCells s a l) })
  | .dfile, _ => modCore s c (fun k => { k with dfile := memPuts k.dfile l })
  | _, _ => s

/-- What performs with the writes of its cycle (R196): stores, and LATOM. -/
def performsNow (p : Pend) : Bool :=
  match p with
  | .store _ _ => true
  | .latom _ _ _ _ _ _ _ => true
  | .latomPerform _ _ _ _ _ _ _ => true
  | _ => false

/-- A store performs; or LATOM reads, operates and writes as one access (R209), in its place among the writes of the core
(R125, R196), so that no other write falls between the two (R324, R334); its old word lands later (R197, R201)
(DEDUCED, log entry 77). -/
def performOne (a : Agent) (p : InFlight) (s : State) : State :=
  let land := fun (due r c : Nat) (m : Word) (s : State) =>
    modCtx s a (fun x => { x with pend := x.pend ++ [{ p with due := due, act := .sreg r c m }] })
  match p.act with
  | .store sp l => performStore a sp l s
  | .latom u op b cmp r c lnd =>
    let m := wd (leNat (memBytes (coreOf s (agIdx a)).spool u 8))
    land (p.due + lnd) r c m (performStore a .spool (cellsAt u (leBytes 8 (atomicOp op m b cmp).toNat)) s)
  | .latomPerform u op b cmp r c _ =>
    match taskPlace s (agIdx a) (ctxOf s a).task u with
    | none => s
    | some pl =>
      let cl := clusterOfCore (agIdx a)
      let m := wd (leNat (pooledBytes s cl pl 8))
      land (p.due + 1) r c m (pooledWrite s cl pl (leBytes 8 (atomicOp op m b cmp).toNat))
  | _ => s

/-- R202: the LATOM.p of a context that performs in this cycle and would read a poisoned line, with what it did at issue.
A deferred trap that is taken before the bundle of this cycle comes first (R390). -/
def poisonedAtomic (s : State) (a : Agent) : Option (InFlight × Undo) :=
  let x := ctxOf s a
  if x.frozen || canIssue x && x.susp.isNone && (dueDeferred x).isSome then none
  else x.pend.findSome? (fun p => match p.act with
    | .latomPerform u _ _ _ _ _ undo =>
      if p.due ≤ x.clk && (taskPlace s (agIdx a) x.task u).elim false (linePoisoned s (clusterOfCore (agIdx a))) then
        some (p, undo) else none
    | _ => none)

/-- R202: the trap of a LATOM.p that reads a poisoned line, taken in the cycle in which the read performs, before a bundle
issues in it (R392): nothing lands, and nothing is written. -/
def trapAtomic (a : Agent) (s : State) : State :=
  match poisonedAtomic s a with
  | none => s
  | some (p, undo) =>
    lateSlotTrap a 2 0x0B undo (modCtx s a (fun x => { x with pend := x.pend.filter (fun q => q != p) }))

/-- RESULT_LANDING: what a context has in flight that falls due: results and branches at the start of a cycle, stores and
atomics with the writes. Nothing of it performs with the reads: loads read at their issue or their grant. -/
def execResultLanding (a : Agent) (st : LandStage) (s : State) : Out :=
  let x := ctxOf s a
  if x.frozen then .next s
  else
    match st with
    | .landing => .next (trapAtomic a (landBranch a (landResults a s)))
    | .read => .next s
    | .write =>
      let due := fun (p : InFlight) => performsNow p.act && decide (p.due ≤ x.clk)
      let s1 := setCtx s a { x with pend := x.pend.filter (fun p => !due p) }
      .next ((sortBy pendRank (x.pend.filter due)).foldl (fun s p => performOne a p s) s1)

/-- IVERIFY_FREEZE_END (R172): the freeze ends, and the pair is seen by the bundle that issues next. -/
def execIverifyFreezeEnd (a : Agent) (s : State) : Out :=
  match (ctxOf s a).wait with
  | some w =>
    match w.what with
    | .iverify k v =>
      if w.until_.elim false (fun u => decide (u ≤ s.gcyc)) then
        .next (modCtx (endWait a .fence s) a (fun x =>
          { x with pend := x.pend ++ [⟨x.clk + 1, x.clk, 0, .pair k v⟩] }))
      else .next s
    | _ => .next s
  | none => .next s

end Sys2Proof.Machine
end

