-- ==== Sys2Proof/Machine/Egress.lean ====
section
/-!
DEFINITION. What leaves the package: DMA to host memory (spec/03_admission_and_trust.md R63), fabric messages and their
sealing (spec/16_fabric_and_switch_trust.md R366-R370), the egress governor (R379, R380), and the custody log (R381-R384).
-/

namespace Sys2Proof.Machine

/-! ## Host memory -/

/-- R63: a world's DMA may be sent now. -/
def dmaAllowed (s : State) (w : Nat) : Bool := decide (w ≤ 1) || (funcOf s (funcOfWorld w)).tdi == .run

/-- A write TLP of a world to host memory; a poisoned line goes out as 64 zero bytes with EP set (R345) (DESIGN CHOICE, log entry
9). -/
def dmaWrite (s : State) (w addr : Nat) (l : List Byte) (ep : Bool) : State :=
  let d := if ep then List.replicate 64 0 else l
  let at_ := if ep then addr / 64 * 64 else addr
  emit { s with host := memWrite s.host at_ d } (.dmaWrite (funcOfWorld w) at_ d (decide (2 ≤ w)) ep)

/-! ## The custody log (R381-R384) -/

/-- R382: the 64 bytes of an entry. -/
def logBytes (e : LogEntry) : List Byte :=
  leBytes 8 e.seq ++ leBytes 8 e.gcyc ++ leBytes 1 e.type ++ leBytes 1 e.world ++ leBytes 14 e.data.toNat ++
    leBytes 32 e.prev.toNat

/-- R381: the ring has room for an entry: LOGHEAD − LOGACK < LOGSIZE, of 64-bit numbers. -/
def logRoom (s : State) : Bool := decide ((s.log.head + (2 ^ 64 - s.log.ack % 2 ^ 64)) % 2 ^ 64 < s.log.size)

/-- Enters an event in the log; `data` is the DATA bytes from the first, the rest zero. -/
def logEvent (type world : Nat) (data : List Byte) (s : State) : State :=
  let g := s.log
  let e : LogEntry := ⟨g.nextSeq, s.gcyc, type, world, BitVec.ofNat 112 (leNat (data.take 14)), g.last⟩
  { s with log := { g with nextSeq := g.nextSeq + 1, held := g.held ++ [e], last := sha256W (toNats (logBytes e)) } }

/-- R384: the signed head record of entry `seq` with its digest. -/
def signHead (seq : Nat) (digest : W256) (s : State) : State :=
  let body := leBytes 8 seq ++ leBytes 32 digest.toNat ++ leBytes 8 Config.serial.toNat ++ leBytes 8 s.gcyc
  dmaWrite s 1 s.log.headAddr (body ++ toBytes (rsaSign (toNats body)) ++ List.replicate 72 0) false

/-- LOG_ENTRY_WRITE: the oldest held entry goes to the ring, when the host has room for it (R381, R384). -/
def execLogEntryWrite (s : State) : Out :=
  let g := s.log
  match g.held with
  | [] => .next s
  | e :: rest =>
    if logRoom s then
      let s1 := dmaWrite s 1 (g.base + 64 * (e.seq % g.size)) (logBytes e) false
      let s2 : State := { s1 with log := { g with head := e.seq + 1, held := rest } }
      .next (if e.seq % 4096 = 4095 then signHead e.seq (sha256W (toNats (logBytes e))) s2 else s2)
    else .next s

/-! ## Sealing messages (R366, R368) -/

/-- R366: the header. -/
def fabHeader (m : FabMsg) : List Nat :=
  natBytes 1 m.opc ++ natBytes 1 m.op ++ natBytes 2 m.src ++ natBytes 2 m.dst ++ natBytes 1 m.nline ++
    natBytes 1 m.status ++ natBytes 4 m.djob ++ natBytes 4 m.rid ++ natBytes 8 m.ctr ++ natBytes 8 m.addr

/-- R368: the nonce. -/
def fabNonce (m : FabMsg) : List Nat := natBytes 2 m.src ++ natBytes 8 m.ctr ++ [0, 0]

/-- R368: seals a message whose body is plaintext. -/
def sealMsg (kt : W256) (m : FabMsg) : FabMsg :=
  let ct := xorBytes (toNats m.body) (gcmStream kt (fabNonce m) m.body.length)
  { m with body := toBytes ct, tag := BitVec.ofNat 128 (bytesNat (gcmTag kt (fabNonce m) (fabHeader m) ct)) }

/-- R368: the plaintext body of a message whose tag fits; `none` where it fails. -/
def openMsg (kt : W256) (m : FabMsg) : Option (List Byte) :=
  let ct := toNats m.body
  if bytesNat (gcmTag kt (fabNonce m) (fabHeader m) ct) = m.tag.toNat then
    some (toBytes (xorBytes ct (gcmStream kt (fabNonce m) ct.length)))
  else none

/-- R370: the enabled ports that are up. -/
def livePorts (s : State) : List Nat :=
  (List.range 32).filter (fun p => bm s.ports.toNat p && bm s.portsUp.toNat p)

/-- R370: the port of messages for a destination. -/
def portFor (s : State) (dst : Nat) : Option Nat :=
  let l := livePorts s
  l[dst % l.length]?

/-- Sends a message of a world's job: sealed, under the next CTR (R368). MGMT is plaintext and has CTR 0 (R367). -/
def sendMsg (w : Nat) (m : FabMsg) (s : State) : State :=
  match portFor s m.dst, (worldOf s w).job with
  | some p, some j =>
    if m.opc = 5 then emit s (.fabric { m with src := s.pkg.getD 0xFFFF, djob := j.djob, port := p })
    else
      let m' := sealMsg j.kt { m with src := s.pkg.getD 0xFFFF, ctr := j.ctr, djob := j.djob, port := p }
      emit (modWorld s w (fun x => { x with job := x.job.map (fun j => { j with ctr := j.ctr + 1 }) })) (.fabric m')
  | _, _ => s

/-- A message with nothing filled in but opcode, destination and address. -/
def newMsg (opc dst addr : Nat) : FabMsg := ⟨opc, 0, 0, dst, 0, 0, 0, 0, 0, addr, [], 0, 0⟩

/-- R369: cc within which a response must arrive. -/
def responseTime : Nat := 2 ^ 24

/-- Sends a request of an engine operation's unit, or of a domain instance, under the next RID. -/
def sendRequest (w eng num unit : Nat) (dom : Option DomKey) (m : FabMsg) (s : State) : State :=
  let rid := s.nextRid % 2 ^ 32
  let r : FabReq := ⟨rid, w, m.dst, (portFor s m.dst).getD 0, m.opc, s.gcyc + responseTime, eng, num, unit, dom, m.addr⟩
  sendMsg w { m with rid := rid } { s with nextRid := (s.nextRid + 1) % 2 ^ 32, fabReqs := s.fabReqs ++ [r] }

/-! ## Failures of an engine operation -/

/-- R345: the operation keeps the lowest cause met; after 0x08 and 0x09 it issues no further lines. -/
def failOp (e num cause : Nat) (s : State) : State :=
  modEngine s e (fun k => { k with ops := k.ops.map (fun op =>
    if op.num = num then
      let halt := cause == 0x08 || cause == 0x09
      { op with
        fail := some (op.fail.elim cause (min cause))
        stopped := op.stopped || halt
        todo := if halt then [] else op.todo }
    else op) })

/-- R369: a request of an operation fails with a cause; a READ does not give the line it was for. -/
def failUnit (r : FabReq) (cause : Nat) (s : State) : State :=
  let s1 := failOp r.eng r.num cause s
  if r.opc = 2 then
    modEngine s1 r.eng (fun k => { k with ops := k.ops.map (fun op =>
      if op.num = r.num then { op with lost := op.lost ++ [(r.unit, cause)] } else op) })
  else s1

/-! ## The governor (R379, R380) -/

/-- R379: the custody region of a page. -/
def regionOf (s : State) (p : Nat) : Option (Nat × Region) :=
  if pageCustody s p then
    let w := pageOwner s p
    ((worldOf s w).regions.find? (fun r => decide (r.first ≤ p) && decide (p < r.first + r.count))).map (fun r => (w, r))
  else none

/-- What was held leaves. -/
def depart (g : Governed) (s : State) : State :=
  match g.out, g.op with
  | .fabric m, some (e, n, u) =>
    match portFor s m.dst with
    | none => failOp e n 0x0C s
    | some _ => sendRequest g.world e n u none m s
  | .fabric m, none => sendMsg g.world m s
  | .dmaWrite _ a l _ ep, some (e, n, _) =>
    if dmaAllowed s g.world then dmaWrite s g.world a l ep else failOp e n 0x09 s
  | o, _ => emit s o

/-- R380: admits the lines of a held message while tokens last; what is left of it, and the state. -/
def admitLines (g : Governed) (s : State) : Governed × State :=
  let n := if logFull s then 0 else min g.lines (tokensOf s g.world g.region / 64)
  ({ g with lines := g.lines - n }, countEgress g.world g.region g.port (64 * n) 0 (takeTokens g.world g.region (64 * n) s))

/-- R380: admits what it can of lines in arrival order, behind those of their regions that wait already. Answers those that
are admitted whole. -/
def admitAll (l : List Governed) (s : State) : List Governed × State :=
  l.foldl (fun (acc : List Governed × State) g =>
    let behind := acc.2.governed.any (fun h => h.world == g.world && h.region == g.region)
    let r := if behind then (g, acc.2) else admitLines g acc.2
    if r.1.lines = 0 then (acc.1 ++ [r.1], r.2) else (acc.1, { r.2 with governed := r.2.governed ++ [r.1] })) ([], s)

/-- R380: messages leave when every one of their lines has been admitted; of one with lines of several regions, once. -/
def departAll : List Governed → State → State
  | [], s => s
  | g :: l, s =>
    let waits := g.id != 0 && (s.governed.any (fun h => h.id == g.id) || l.any (fun h => h.id == g.id))
    departAll l (if waits then s else depart g s)

/-- R380: offers the lines of a message or TLP that come from custody regions, each with its region. They leave at once, or
wait behind their regions' earlier lines. -/
def offerAll (gs : List Governed) (s : State) : State :=
  let old := s.governed.length
  let r := admitAll gs s
  let wait := r.2.governed.drop old
  let s1 := wait.foldl (fun s g =>
    let s1 := [0, 1, 2, 3, 4].foldl (fun s d => countDie d 0x13 g.lines s) (countEgress g.world g.region g.port 0 g.lines s)
    match g.op with
    | some (e, n, _) => modEngine s1 e (fun k => { k with ops := k.ops.map (fun op =>
        if op.num = n then { op with governed := true } else op) })
    | none => s1) r.2
  departAll r.1 s1

/-- R380: offers lines of one custody region. -/
def offer (g : Governed) (s : State) : State := offerAll [g] s

/-- R379, R380: what leaves and carries lines of these pages: those of custody pages pass the governor, each with its own
region. -/
def sendLines (w port : Nat) (pages : List (Option Nat)) (out : Output) (op : Option (Nat × Nat × Nat)) (s : State) : State :=
  let rs := (pages.filterMap (fun p => p.bind (regionOf s))).map (fun r => (r.1, r.2.idx))
  let part := fun (id : Nat) (r : Nat × Nat) => (⟨r.1, r.2, port, rs.count r, out, op, id⟩ : Governed)
  match dedup rs with
  | [] => depart ⟨w, 0, port, 0, out, op, 0⟩ s
  | [r] => offer (part 0 r) s
  | l => offerAll (l.map (part (s.nextId + 1))) { s with nextId := s.nextId + 1 }

/-- R380: at a tick every region's bucket fills, and held lines are admitted in arrival order; a held line holds back
only the later lines of its region. -/
def admitHeld (l : List Governed) (s : State) : State :=
  let r := admitAll l { s with governed := [] }
  departAll r.1 r.2

/-- An operation none of whose lines waits any longer is not held by the governor. -/
def clearGoverned (s : State) : State :=
  { s with engines := s.engines.map (fun p => (p.1, { p.2 with ops := p.2.ops.map (fun op =>
      { op with governed := s.governed.any (fun g => g.op.elim false (fun o => o.1 == p.1 && o.2.1 == op.num)) }) })) }

/-- GOVERNOR_TICK: at GCYC multiples of 4000. -/
def execGovernorTick (s : State) : Out :=
  let s1 : State := { s with worlds := s.worlds.map (fun p =>
    (p.1, { p.2 with regions := p.2.regions.map (fun r => { r with tokens := min r.burst (r.tokens + r.rate) }) })) }
  .next (clearGoverned (admitHeld s1.governed s1))

/-- R383: GCYC multiples of 4,000,000 end an interval. -/
def isInterval (s : State) : Bool := s.gcyc % 4000000 == 0 && s.bringUp.isNone

/-- R381, R383: the counts of ended intervals are entered in the log, in order, while its store has room; the others wait. -/
def logEgress : List Egress → State → State
  | [], s => { s with egressDone := [] }
  | e :: l, s =>
    if logFull s then { s with egressDone := e :: l }
    else logEgress l (logEvent 0x02 e.world
      (leBytes 1 e.region ++ leBytes 1 e.port ++ leBytes 8 e.bytes ++ leBytes 4 e.stalled) s)

/-- EGRESS_INTERVAL: at GCYC multiples of 4,000,000 an entry for every count that is not zero (R383); one that finds the log
full waits, as the count of its interval (R381). -/
def execEgressInterval (s : State) : Out :=
  let ended := if isInterval s then s.egress.filter (fun e => e.bytes != 0 || e.stalled != 0) else []
  .next (logEgress (s.egressDone ++ ended) (if isInterval s then { s with egress := [] } else s))

/-! ## A line of physical memory of the package or its host -/

/-- R363: the window of a world's job that covers an offset of window memory, homed here. -/
def windowAt (s : State) (w off : Nat) : Option WinDesc :=
  match (worldOf s w).job with
  | some j => j.windows.find? (fun d => some d.home == s.pkg && decide (d.base ≤ off) && decide (off < d.base + d.size))
  | none => none

/-- The address is on the package: HBM, or fabric space of its own number (R363). -/
def ownPackage (s : State) (pa : Nat) : Bool := targetOf pa == 2 && some (peerOf pa) == s.pkg

/-- R369, R371: the cause with which an access of a world to a fabric offset here fails; 0 when it does not. It comes from a
world that has joined a job, as one that has crossed the fabric does (R363). -/
def fabricCause (s : State) (w off : Nat) : Nat :=
  if off < hbmBytes then (if (worldOf s w).job.isNone then 0x09 else svcCheck s w off)
  else if windowBase ≤ off && decide (off < windowBase + windowBytes) then
    (if (windowAt s w (off - windowBase)).isSome then 0 else 0x09)
  else 0x08

/-- Reads bytes of one line at a fabric offset of this package. -/
def fabricRead (s : State) (off n : Nat) : List Byte × Bool :=
  if off < hbmBytes then svcRead s off n else (memBytes s.windowMem (off - windowBase) n, false)

/-- Writes bytes of one line at a fabric offset of this package; window memory keeps no poison (R371). -/
def fabricWrite (s : State) (off : Nat) (l : List Byte) (poison : Bool) : State :=
  let l := if poison then List.replicate l.length 0 else l
  if off < hbmBytes then svcWrite s off l poison
  else { s with windowMem := memWrite s.windowMem (off - windowBase) l }

/-- A record that hardware writes into a world's memory: each line at its translation with write access, in HBM, in
host memory or in the package's own fabric space; the first failure stops it (DEDUCED, log entry 35). -/
def writeVirt (s : State) (die w va : Nat) (l : List Byte) : Except Nat Unit × State :=
  (splitLines (l.length + 1) va l).foldl (fun (acc : Except Nat Unit × State) p =>
    match acc.1 with
    | .error _ => acc
    | .ok _ =>
      match translate acc.2 die w p.1 true with
      | (.error c, s) => (.error c, s)
      | (.ok pa, s) =>
        if targetOf pa = 1 then
          (if dmaAllowed s w then (.ok (), dmaWrite s w (pa % 2 ^ 52) p.2 false) else (.error 0x09, s))
        else
          let off := if targetOf pa = 0 then pa else fabOffset pa
          if targetOf pa != 0 && !ownPackage s pa then (.error 0x0C, s)
          else if (if targetOf pa = 0 then svcCheck s w pa else fabricCause s w off) != 0 then
            (.error (if targetOf pa = 0 then svcCheck s w pa else fabricCause s w off), s)
          else (.ok (), fabricWrite s off p.2 false)) (.ok (), s)

end Sys2Proof.Machine
end

