-- ==== Sys2Proof/Machine/Retire.lean ====
section
/-!
DEFINITION. How a task leaves its core: slub records (spec/20_observation_and_bring_up.md R422, R423), zeroing
(spec/05_placement_and_translation.md R104-R106; spec/17_interruption_and_preemption.md R398), the copies of a task that ends
(spec/04_launch_and_scheduling.md R96, R97), launches that end and their completion records (R84; spec/20_observation_and_bring_up.md R419, R420),
the stop of a channel program (spec/13_memory_channels_and_segmented_banks.md R300, R304), and teardown of a world (spec/03_admission_and_trust.md R65).
-/

namespace Sys2Proof.Machine

/-! ## Slub records -/

/-- R423: the code of a cause; waiting for a held world has none (DESIGN CHOICE, log entry 21). -/
def slubCode : Freeze → Option Nat
  | .pooled => some 1
  | .monitor => some 2
  | .timeline => some 3
  | .barrier => some 4
  | .fence => some 5
  | .copyQueue => some 6
  | .governor => some 7
  | .sibling => some 8
  | .urgent => some 9
  | .handler => some 0xA
  | .rekey => some 0xB
  | .rollover => some 0xC
  | .debug => some 0xD
  | .launchHold => none

/-- The position of an agent's slub buffer: both contexts of a core share one (R422). -/
def slubUnit : Agent → Nat
  | .tile c => c
  | .urgent c => c
  | .channel n => 64 + n
  | .steward n => 320 + n

/-- R422: KIND. -/
def slubKind : Agent → Nat
  | .tile _ => 0
  | .urgent _ => 0
  | .steward _ => 1
  | .channel _ => 2

/-- R160: TASKID of a task. -/
def taskId (t : Task) : Nat := t.launch % 2 ^ 40 * 2 ^ 24 + t.tile

/-- The agent that a record is about. -/
def slubAgent (u : Nat) (r : Slub) : Agent :=
  if u < 64 then (if r.ctx = 0 then .tile u else .urgent u) else if u < 320 then .channel (u - 64) else .steward (u - 320)

/-- R422: a record is dropped and counted, and the rest wait on. -/
def dropSlub (u : Nat) (r : Slub) (rest : List Slub) (s : State) : State :=
  let lost := (tabGet ⟨[], 0⟩ s.slubs u).lost
  countEvent (slubAgent u r) 0x07 1 { s with slubs := tabSet s.slubs u ⟨rest, min 65535 (lost + 1)⟩ }

/-- R422: puts a record into a buffer, or drops it (DESIGN CHOICE, log entry 22). -/
def pushSlub (u : Nat) (r : Slub) (s : State) : State :=
  let b := tabGet ⟨[], 0⟩ s.slubs u
  if 1024 ≤ b.recs.length then dropSlub u r b.recs s
  else { s with slubs := tabSet s.slubs u { b with recs := b.recs ++ [r] } }

/-- R422, R438: the deviation of a context ends; its record enters the buffer. -/
def endDeviation (a : Agent) (s : State) : State :=
  let x := ctxOf s a
  match x.dev with
  | none => s
  | some d =>
    let s1 := setCtx s a { x with dev := none }
    let w := x.task.world
    match slubCode d.cause with
    | none => s1
    | some c =>
      if w = 0 ∨ (worldOf s w).slubBase = 0 then s1
      else pushSlub (slubUnit a)
        { gcyc := d.first
          taskid := if kindOf a = .channel then 0 else taskId x.task
          loss := if kindOf a = .steward then 2 * d.cycles else d.cycles
          pc := x.lastPc + d.slot * 2 ^ 21
          cause := c
          kind := slubKind a
          unit := agIdx a
          ctx := (agUrgent a).toNat
          world := w } s1

/-- The 64 bytes of a record (R422). -/
def slubBytes (seq lost : Nat) (r : Slub) : List Byte :=
  leBytes 8 seq ++ leBytes 8 r.gcyc ++ leBytes 8 r.taskid ++ leBytes 4 r.loss ++ leBytes 4 r.pc ++ leBytes 1 r.cause ++
    leBytes 1 r.kind ++ leBytes 2 r.unit ++ leBytes 1 r.ctx ++ [0] ++ leBytes 2 lost ++ List.replicate 24 0

/-- The die whose translation service a buffer's writes use. -/
def slubDie (u : Nat) : Nat := if u < 64 then u / 16 else if u < 320 then (u - 64) / 64 else 4

/-- SLUB_WRITE: the oldest record of a buffer is written, once its address has been translated (R114); one whose write fails is
dropped and counted (R422). One of a world whose SLUBBASE has become 0 since waits on (DESIGN CHOICE, log entry 22). -/
def execSlubWrite (u : Nat) (s : State) : Out :=
  let b := tabGet ⟨[], 0⟩ s.slubs u
  match b.recs with
  | [] => .next s
  | r :: rest =>
    let w := worldOf s r.world
    let t := writeVirt s (slubDie u) r.world (w.slubBase + 64 * (w.slubSeq % 65536)) (slubBytes w.slubSeq b.lost r)
    if w.slubBase = 0 then .next s
    else if walksFirst (slubDie u) s t.2 then .next (awaitWalks (slubDie u) s t.2)
    else
      match t.1 with
      | .ok _ => .next (modWorld { t.2 with slubs := tabSet t.2.slubs u ⟨rest, 0⟩ } r.world (fun x =>
          { x with slubSeq := (x.slubSeq + 1) % 2 ^ 64 }))
      | .error _ => .next (dropSlub u r rest s)

/-! ## Zeroing (R104, R398) -/

/-- A task of the urgent context, for the resources it holds. -/
def urgentTask : Task := { Task.none with urgent := true }

/-- Elements of a table whose position satisfies `p`. -/
def keepAt (p : Nat → Bool) (t : Tab α) : Tab α := t.filter (fun e => p e.1)

/-- The parts of a core that belong to the urgent context (`u`), or the others, with their content; the rest zero
(R41, R259, R396, R397) (DESIGN CHOICE, log entry 32). -/
def corePart (u : Bool) (k : Core) : Core :=
  let inside := fun (p : Nat × Nat) (i : Nat) => (decide (p.1 ≤ i) && decide (i < p.2)) == u
  let sec := k.urgentHalf * halfBytes + urgentOff
  { k with
    spool := keepAt (inside (15 * blockBytes, 16 * blockBytes)) k.spool
    spill := keepAt (inside (0x70000, 0x80000)) k.spill
    imem := keepAt (inside (sec, sec + 0x18000)) k.imem
    vqs := keepAt (fun i => decide (12 ≤ i % 16) == u) k.vqs
    yarns := keepAt (fun i => decide (28 ≤ i) == u) k.yarns
    open_ := k.open_.filter (fun o => agUrgent o.ag == u)
    beats := k.beats.filter (fun b => agUrgent b.ag == u)
    afile := keepAt (inside (partA urgentTask)) k.afile
    bfile := keepAt (inside (partB urgentTask)) k.bfile
    atags := keepAt (fun i => inside (partA urgentTask) (16 * i)) k.atags
    btags := keepAt (fun i => inside (partB urgentTask) (16 * i)) k.btags
    dfile := keepAt (inside (partD urgentTask)) k.dfile
    accs := keepAt (fun i => (i / 24576 == 3) == u) k.accs
    steps := keepAt (fun i => stepHeld urgentTask i == u) k.steps
    table := keepAt (fun i => entryHeld urgentTask i == u) k.table
    clean := k.clean.filter (fun b => (b == 15) == u)
    written := k.written.filter (fun b => (b == 15) == u) }

/-- Beats on their way to a core that its owner leaves are lost (DESIGN CHOICE, log entry 32). -/
def dropBeatsTo (c : Nat) (p : Agent → Bool) (s : State) : State :=
  (clusterCores c).foldl (fun s j => modCore s j (fun k => { k with beats := k.beats.filterMap (fun b =>
    if p b.ag then dropDsts [c] b else some b) })) s

/-- The agent's context on a tile core runs or stands frozen. -/
def holds (s : State) (a : Agent) : Bool := (ctxOf s a).live

/-- The core of a context that ends is zeroed: in 128 cc the urgent partition on a victim's core, else the whole core
in 1792 cc; `zeroUntil` is the last cycle of the zeroing. Where a main task ends and an urgent task waits on its core, that
uses the core once it is free (R409): what has been filled for it, or is being filled, stands (DEDUCED, log entry 85). -/
def zeroCore (a : Agent) (s : State) : State :=
  let c := agIdx a
  let s1 := dropBeatsTo c (fun b => agUrgent b == agUrgent a) s
  if agUrgent a then
    if holds s (.tile c) then
      modCore s1 c (fun k => { corePart false k with
        zeroUntil := some (s.gcyc + 128), zeroUrgent := true, urgentHalf := 0, urgentGran := 0 })
    else modCore s1 c (fun _ => { Core.reset with zeroUntil := some (s.gcyc + 1792) })
  else if holds s (.urgent c) then
    modCore s1 c (fun k => { corePart true k with victim := none, zeroUntil := some (s.gcyc + 1792), zeroUrgent := false })
  else modCore s1 c (fun _ => { Core.reset with zeroUntil := some (s.gcyc + 1792) })

/-- Zeroes a bank at once; it is free in the cycle after its zeroing ends. -/
def zeroBank (cl b : Nat) (s : State) : State :=
  modCluster s cl (fun k => { k with
    pooled := memZero k.pooled (b * bankBytes) ((b + 1) * bankBytes)
    poison := k.poison.filter (fun l => l / 15360 != b)
    zeroing := k.zeroing ++ [(b, s.gcyc + 960)] })

/-- The other tasks of a task's gang that are resident. -/
def gangFellows (s : State) (a : Agent) : List Agent :=
  (s.ctxs.filter (fun p => agentOf p.1 != a && p.2.live && agTile (agentOf p.1) && sameGang (ctxOf s a).task p.2.task)).map
    (fun p => agentOf p.1)

/-- Another task of the same gang is resident in the cluster. -/
def gangStays (s : State) (a : Agent) : Bool :=
  (gangFellows s a).any (fun b => clusterOfCore (agIdx b) == clusterOfCore (agIdx a))

/-- Another task of the same gang is resident, saved to go on later, or discarded and still to be placed again (R400). -/
def gangLives (s : State) (a : Agent) : Bool :=
  let t := (ctxOf s a).task
  !(gangFellows s a).isEmpty ||
    (worldOf s t.world).saved.any (fun v => sameGang t v.ctx.task && tidOf v.ctx != tidOf (ctxOf s a)) ||
    (worldOf s t.world).launches.any (fun l => l.n == t.launch && l.requeue.any (fun u => u / t.ncores == t.gang))

/-- The banks of a cluster that `mine` picks lose their owner, and are zeroed. -/
def freeBanksOf (mine : Alloc → Bool) (cl : Nat) (s : State) : State :=
  (((clusterOf s cl).allocs.filter mine).flatMap (·.banks)).foldl (fun s b => zeroBank cl b s)
    (modCluster s cl (fun k => { k with allocs := k.allocs.filter (fun q => !mine q) }))

/-- R96, R102, R104: what a task that leaves gives up of its gang's pooled allocation. A saved task, and a task of a gang
that has no domain, gives up the cluster's banks when it is the last member there; any other the whole allocation when it
is the gang's last task (DEDUCED, log entry 24). -/
def freePooled (saving : Bool) (a : Agent) (s : State) : State :=
  let t := (ctxOf s a).task
  let mine := fun (q : Alloc) => q.world == t.world && q.launch == t.launch && q.gang == t.gang
  if saving || t.level == 0 then (if gangStays s a then s else freeBanksOf mine (clusterOfCore (agIdx a)) s)
  else if gangLives s a then s
  else (List.range 16).foldl (fun s cl => if (clusterOf s cl).allocs.any mine then freeBanksOf mine cl s else s) s

/-- R300: a channel core and its slice have been zeroed: the program handed over to starts at offset 0, with refresh ticks
counted from its first chc; or the channel belongs to the service program again, whose WORLD is 0. -/
def endZeroing (n : Nat) (s : State) : State :=
  let x := ctxOf s (.channel n)
  if x.live then
    modCtx (modChan s n (fun c => { c with owner := x.task.world, refBase := s.gcyc / 2 + 1, zeroUntil := none })) (.channel n)
      (fun x => { x with
        started := true, issuing := true, clk := 0, start := 1, seqAt := 1, charge := 0, entryAt := s.gcyc + 1 })
  else
    modChan s n (fun c => { c with
      owner := 0, func := if c.faultRec.isSome then c.func else 0, stopping := false, zeroUntil := none })

/-- ZEROING_COMPLETE: the resource is free in the cycle after its zeroing ends (R106). -/
def execZeroingComplete (r : ZeroRes) (s : State) : Out :=
  let past := fun (u : Nat) => decide (u < s.gcyc)
  match r with
  | .core c => .next (modCore s c (fun k =>
      if k.zeroUntil.elim false past then { k with zeroUntil := none, zeroUrgent := false } else k))
  | .steward n => .next { s with stewZero := s.stewZero.filter (fun p => !(p.1 == n && past p.2)) }
  | .channel n => .next (if (chanOf s n).zeroUntil.elim false past then endZeroing n s else s)
  | .pooled cl b => .next (modCluster s cl (fun k => { k with zeroing := k.zeroing.filter (fun p => !(p.1 == b && past p.2)) }))

/-! ## Launches (R84, R419, R420) -/

/-- Changes a launch of a world. -/
def modLaunch (w n : Nat) (f : Launch → Launch) (s : State) : State :=
  modWorld s w (fun x => { x with launches := x.launches.map (fun l => if l.n = n then f l else l) })

/-- R419: the task that ended unretired first; ties go to the lowest tile. -/
def firstFailing (l : List Ended) : Option Ended := (sortBy (fun e => e.gcyc * 2 ^ 24 + e.tile) l).head?

/-- R419: every placed task has ended, and none is still to be placed. -/
def launchOver (l : Launch) : Bool :=
  l.resident.isEmpty && (l.failed || (decide (l.record.tiles ≤ l.nextTile) && l.requeue.isEmpty))

/-- R420: the retired-tile bitmap. -/
def retiredMap (l : Launch) : List Byte :=
  (List.range (ceilDiv l.record.tiles 512 * 64)).map (fun i =>
    BitVec.ofNat 8 (l.retired.foldl (fun m t => if t / 8 = i then m ||| 2 ^ (t % 8) else m) 0))

/-- R419: the completion record. -/
def completionBytes (l : Launch) (bmap : Nat) : List Byte :=
  let f := (if l.failed then firstFailing l.ended else none).getD ⟨0, 0, 0, 0, 0, 0⟩
  leBytes 8 l.n ++ leBytes 1 l.failed.toNat ++ leBytes 1 f.cause ++ leBytes 1 f.slot ++ [0] ++ leBytes 4 f.word ++
    leBytes 4 f.pc ++ leBytes 4 f.tile ++ leBytes 4 l.retired.length ++ leBytes 4 l.record.tiles ++
    leBytes 8 l.startAt ++ leBytes 8 l.endAt ++ leBytes 8 l.charge ++ leBytes 8 bmap

/-- R420: a write of a launch's end is made whole or, where it fails, not at all. -/
def writeWhole (w va : Nat) (l : List Byte) (s : State) : State :=
  match writeVirt s 4 w va l with
  | (.ok _, t) => t
  | (.error _, t) => { s with trans := t.trans }

/-- R419, R420: the retired-tile bitmap of a failed launch, and then its completion record. -/
def writeEnd (w : Nat) (l : Launch) (s : State) : State :=
  let base := (worldOf s w).cmplBase
  let map := base + 0x200000 * (l.n % 8)
  if base = 0 then s
  else writeWhole w (base + 0x1000000 + 64 * (l.n % 4096)) (completionBytes l (if l.failed then map else 0))
    (if l.failed then writeWhole w map (retiredMap l) s else s)

/-- R419, R420, R84: a launch that is over writes its bitmap and record, and the launch timeline counts it; before that the
addresses are translated (R114) (DEDUCED, log entry 25). -/
def closeLaunch (w n : Nat) (s : State) : State :=
  match (worldOf s w).launches.find? (fun l => l.n = n && launchOver l) with
  | none => s
  | some l =>
    let t := writeEnd w l s
    if walksFirst 4 s t then awaitWalks 4 s t
    else modWorld t w (fun x =>
      let v := advanceValue (x.closed.length + 1) x.launchTl.value (n :: x.closed)
      { x with
        launches := x.launches.filter (fun l => l.n != n)
        closed := v.2
        launchTl := { x.launchTl with value := v.1 } })

/-- A task of a gang is resident, or saved to go on later. -/
def gangPresent (s : State) (q : Alloc) : Bool :=
  let of_ := fun (t : Task) => t.world == q.world && t.launch == q.launch && t.gang == q.gang
  s.ctxs.any (fun p => p.2.live && agTile (agentOf p.1) && of_ p.2.task) || (worldOf s q.world).saved.any (fun v => of_ v.ctx.task)

/-- The banks that gangs of a launch keep for discarded tasks alone are free once those are dropped. -/
def freeLeft (w n : Nat) (s : State) : State :=
  (List.range 16).foldl (fun s cl => freeBanksOf (fun q => q.world == w && q.launch == n && !gangPresent s q) cl s) s

/-- R84, R338: a launch fails; the launch timeline keeps the cause (DEDUCED, log entry 25). What is not placed is dropped
(R419). -/
def failLaunch (w n : Nat) (e : Ended) (s : State) : State :=
  let s1 := freeLeft w n (modLaunch w n (fun l => { l with
    failed := true, ended := l.ended ++ [e], endAt := s.gcyc, requeue := [] }) s)
  modWorld s1 w (fun x => { x with launchTl := { x.launchTl with fail := recordFail x.launchTl.fail e.cause n } })

/-! ## The operations of a task that ends (R96, R97) -/

/-- The operation's destination is in what its task or gang holds. -/
def opOwnDest (op : EngOp) : Bool :=
  match op.kind with
  | .hatom => false
  | .red => false
  | .krot => false
  | .seal => false
  | .scrub => decide (op.op ≤ 1)
  | .unseal => decide (1 ≤ cpDsp op.desc)
  | _ => decide (1 ≤ cpDsp op.desc)

/-- R97: copies into the task's own allocations are discarded; they complete as failed. -/
def discardOps (a : Agent) (s : State) : State :=
  let e := agEngine a
  let mine := fun (op : EngOp) => op.ag == a && mineOp (ctxOf s a) op && opOwnDest op
  let nums := ((engineOf s e).ops.filter mine).map (·.num)
  let s1 := modEngine s e (fun k => { k with ops := k.ops.map (fun op =>
    if mine op then { op with fail := some (op.fail.elim 0x06 (min 0x06)), stopped := true, todo := [], at_ := s.gcyc + 1 }
    else op) })
  { s1 with fabReqs := s1.fabReqs.filter (fun r => !(r.eng == e && nums.elem r.num)) }

/-! ## A context ends -/

/-- R304, R300, R338: the program of a channel stops; its trap, if any, is kept. -/
def stopChannel (ch : Nat) (r : Option (Nat × Nat)) (s : State) : State :=
  let s1 := modCtx s (.channel ch) (fun x => { x with
    issuing := false
    ended := none
    wait := x.wait.filter (fun w => w.what == .precharge)
    causes := x.causes.filter (· != .timeline) })
  modChan s1 ch (fun c => { c with stopping := true, dead := true, faultRec := if r.isSome then r else c.faultRec })

/-- How a task leaves its core: it retires, ends or is discarded with its copies (R97), or is saved. -/
inductive Leaving where
  | retires
  | ends
  | saved
  deriving DecidableEq, Repr

/-- The context of a task that leaves: its deviation ends, its monitor, banks and core are given up, and the copies of one
that does not retire (R97). What a retired task still has in flight completes (R96); nothing of it reaches the core. -/
def freeContext (how : Leaving) (a : Agent) (s : State) : State :=
  let s0 := endDeviation a s
  let s1 := releaseMonitor a (if how = .ends then discardOps a s0 else s0)
  match a with
  | .tile _ => setCtx (zeroCore a (freePooled (how == .saved) a s1)) a Ctx.reset
  | .urgent _ => setCtx (zeroCore a (freePooled (how == .saved) a s1)) a Ctx.reset
  | .steward n => setCtx { s1 with
      stewMem := tabDel s1.stewMem n, stewCode := tabDel s1.stewCode n
      stewZero := s1.stewZero ++ [(n, s1.gcyc + 128)] } a Ctx.reset
  | .channel _ => s1

/-- R84, R96: the task retires (DEDUCED, log entry 36). -/
def retireTask (a : Agent) (s : State) : State :=
  let x := ctxOf s a
  let t := x.task
  let s1 := freeContext .retires a s
  if t.control then s1
  else closeLaunch t.world t.launch (modLaunch t.world t.launch (fun l => { l with
    resident := l.resident.filter (· != t.tile)
    retired := l.retired ++ [t.tile]
    endAt := s.gcyc
    charge := l.charge + x.charge }) s1)

/-- R97: the task ends unretired with a cause; its fault registers go into the launch's record. -/
def endTask (a : Agent) (cause : Nat) (s : State) : State :=
  match a with
  | .channel n => stopChannel n (some (cause, (ctxOf s a).faultPc)) s
  | _ =>
    let x := ctxOf s a
    let t := x.task
    let s1 := freeContext .ends a (domDrop s a)
    if t.control then s1
    else
      let s2 := modLaunch t.world t.launch (fun l => { l with
        resident := l.resident.filter (· != t.tile), charge := l.charge + x.charge }) s1
      closeLaunch t.world t.launch
        (failLaunch t.world t.launch ⟨t.tile, cause, x.faultSlot, x.faultWord, x.faultPc, s.gcyc⟩ s2)

/-- R421: a task that ends with a cause and no bundle at fault: FAULTPC 0, FAULTSLOT 7, FAULTWORD 0
(DESIGN CHOICE, log entry 26). -/
def cutTask (a : Agent) (cause : Nat) (s : State) : State :=
  endTask a cause (modCtx s a (fun x => { x with faultCause := cause, faultPc := 0, faultSlot := 7, faultWord := 0 }))

/-- R400: the task is discarded and returns to its launch unplaced; the launch does not fail, as R84 has it (DEDUCED, log
entry 27) (DEDUCED, log entry 36). -/
def discardTask (a : Agent) (s : State) : State :=
  let t := (ctxOf s a).task
  let s1 := freeContext .ends a (domDrop s a)
  closeLaunch t.world t.launch (modLaunch t.world t.launch (fun l => { l with
    resident := l.resident.filter (· != t.tile)
    requeue := if l.failed then [] else sortBy id (l.requeue ++ [t.tile])
    endAt := if l.failed then s.gcyc else l.endAt }) s1)

/-- A context whose task has been terminated ends with its cycle's bundle (R391, R97); a trap that arises after
TEXIT terminates as well. -/
def settleOne (a : Agent) (s : State) : State :=
  let x := ctxOf s a
  match x.ended with
  | some c => endTask a c s
  | none =>
    if x.texit && x.susp.isNone then
      match (sortBy (fun d => d.at_ * 2 ^ 16 + d.rank) x.deferred).head? with
      | some d => endTask a d.cause (modCtx s a (fun x => { x with
          faultCause := d.cause, faultPc := x.seqPc, faultSlot := d.slot, faultWord := d.word }))
      | none => s
    else s

/-- Every context whose task has been terminated ends. -/
def settle (s : State) : State :=
  (s.ctxs.filter (fun p => p.2.live && (p.2.ended.isSome || (p.2.texit && !p.2.deferred.isEmpty)))).foldl
    (fun s p => settleOne (agentOf p.1) s) s

/-- R96: what TEXIT waits for has ended: what is in flight of the core, SENDT vectors among it (R211) (DEDUCED, log entry
36), its call, and the task's copies into its own Spool, spill and pooled allocation. -/
def exitReady (s : State) (a : Agent) : Bool :=
  let x := ctxOf s a
  x.live && x.texit && x.susp.isNone && x.ended.isNone && x.deferred.isEmpty && !x.frozen && x.branch.all (fun b => !b.eret) &&
    x.pend.isEmpty && !callBusy x (x.clk + 1) &&
    !(coreOf s (agIdx a)).open_.any (fun o => o.ag == a && yarnOpen s o (x.clk + 1)) &&
    !(agTile a && (coreOf s (agIdx a)).beats.any (fun b => b.ag == a)) &&
    !((engineOf s (agEngine a)).ops.any (fun op => op.ag == a && mineOp x op &&
      (op.kind == .cpy || op.kind == .cpyr) && 1 ≤ cpDsp op.desc && cpDsp op.desc ≤ 3))

/-- TASK_RETIRE: the task retires (R96). -/
def execTaskRetire (a : Agent) (s : State) : Out := .next (if exitReady s a then retireTask a s else s)

/-- DEADLINE_FAULT: the charge exceeds BUDGET (R139). The freeze or IDLE span in progress is abandoned, the bundle due
commits nothing, and FAULTPC names it. -/
def execDeadlineFault (a : Agent) (s : State) : Out :=
  let x := ctxOf s a
  if x.live && x.started && !x.task.control && agTile a && decide (x.task.budget < x.charge) then
    .next (endTask a 0x06 (modCtx s a (fun x => { x with
      faultCause := 0x06
      faultPc := (nextIssue x).elim x.seqPc (·.1)
      faultSlot := 7
      faultWord := 0
      doneMask := x.resumeMask })))
  else .next s

/-! ## Worlds and channels given up -/

/-- R300, steps 3 and 4 of a stop: every open row is precharged and every cache row cleaned and invalidated. -/
def closeChannel (ch : Nat) (s : State) : State :=
  let s1 := (List.range 32).foldl (fun s b => if bankOpen (chanOf s ch) b then (closeBank s ch b 0).1 else s) s
  cleanAll s1 ch

/-- R300, steps 3 to 5: the banks are closed and the cache cleaned, and the zeroing of core and slice begins; WORLD becomes 0
when it has ended (step 6). -/
def passBack (ch : Nat) (s : State) : State :=
  let s1 := closeChannel ch (endDeviation (.channel ch) s)
  let s2 := modChan s1 ch (fun c => { c with
    banks := [], cmds := [], debt := [], slice := [], slicePoison := [], istore := [], bursts := [], kept := []
    starting := false, stopping := true, refreshFault := false, zeroUntil := some (s.gcyc + 128) })
  setCtx s2 (.channel ch) Ctx.reset

/-- The stop of a channel's program can be taken: no freeze of a precharge runs, and everything issued is complete
(R300). Where a teardown ends with it, the log takes that (R381). -/
def stopReady (s : State) (ch : Nat) : Bool :=
  let c := chanOf s ch
  c.stopping && c.bursts.isEmpty && (ctxOf s (.channel ch)).wait.isNone && c.zeroUntil.isNone &&
    !((worldOf s c.owner).tearing.isSome && logFull s)

/-- The agents that run or stand frozen for a world. -/
def worldAgents (s : State) (w : Nat) : List Agent :=
  (s.ctxs.filter (fun p => p.2.live && p.2.task.world == w)).map (fun p => agentOf p.1)

/-- R286, R65: the row groups of a world, as first page and count of the spans set; every group of every page the
world owns. -/
def ownedSpans (s : State) (w : Nat) : List (Nat × Nat) :=
  (s.pageWorld.filter (fun e => e.2.2 = w)).map (fun e => (e.1, e.2.1))

/-- Sets the cleared bit of every row of the pages of a span that the world still owns, in one step (R65, R297). -/
def clearOwned (w : Nat) (s : State) : State :=
  (dedup (ownedSpans s w)).foldl (fun s p =>
    (List.range (p.2 / 7)).foldl (fun s i =>
      if pageOwner s (p.1 + 7 * i) = w then clearGroups s (p.1 / 7 + i) 1 false else s) s) s

/-- R365: the windows of a membership that ends here are zeroed. -/
def zeroWindows (s : State) (l : List WinDesc) : State :=
  { s with windowMem := l.foldl (fun m d => if some d.home = s.pkg then memZero m d.base (d.base + d.size) else m) s.windowMem }

/-- R373, R383: a SWITCH_ADMIT is over: logged, and answered. -/
def answerAdmit (w ordinal st digest : Nat) (s : State) : State :=
  emit (logEvent 0x06 w (leBytes 2 ordinal ++ leBytes 1 st ++ leBytes 3 0 ++ leBytes 8 digest) s) (.status "SWITCH_ADMIT" st [])

/-- R373: the session with an admitted switch ends before the membership: that is logged, and the switch stays admitted (DESIGN
CHOICE, log entry 52). -/
def endSwitch (w ordinal : Nat) (s : State) : State :=
  logEvent 0x06 w (leBytes 2 ordinal ++ leBytes 1 0x10) (modWorld s w (fun x => { x with job := x.job.map (fun j => { j with
    switches := j.switches.map (fun p => if p.1 = ordinal then (p.1, false) else p) }) }))

/-- The switch sessions that are open: world and ordinal. -/
def openSwitches (s : State) : List (Nat × Nat) :=
  s.worlds.flatMap (fun p => p.2.job.elim [] (fun j => (j.switches.filter (·.2)).map (fun q => (p.1, q.1))))

/-- R365: a RED of the world that has not left yet is a fabric operation in flight. -/
def stopReds (w : Nat) (s : State) : State :=
  { s with engines := s.engines.map (fun p => (p.1, { p.2 with ops := p.2.ops.map (fun op =>
      if op.kind = .red ∧ op.world = w ∧ !op.performed then
        { op with performed := true, stopped := true, fail := some (op.fail.elim 0x0C (min 0x0C)) } else op) })) }

/-- R365: membership of a world ends: its fabric operations in flight fail with 0x0C, its windows go, and an admission that
runs is answered with BAD_JOB (DESIGN CHOICE, log entry 52). -/
def leaveJob (w : Nat) (s : State) : State :=
  match (worldOf s w).job with
  | none => s
  | some j =>
    let reqs := s.fabReqs.filter (fun r => r.world = w)
    let s1 := reqs.foldl (fun s r => if r.dom.isSome then s else failUnit r 0x0C s) s
    let held := s1.governed.filter (fun g => g.world = w && (match g.out with | .fabric _ => true | _ => false))
    let s2 := stopReds w (held.foldl (fun s g => g.op.elim s (fun o => failOp o.1 o.2.1 0x0C s)) s1)
    let s3 : State := { s2 with
      fabReqs := s2.fabReqs.filter (fun r => r.world != w)
      governed := s2.governed.filter (fun g => !(g.world == w && (match g.out with | .fabric _ => true | _ => false)))
      doms := s2.doms.filter (fun d => !(d.key.job && d.key.world == w)) }
    let tries := s3.admissions.filter (fun t => t.world = w)
    let s4 := tries.foldl (fun s t => answerAdmit w t.ordinal 0x0F t.digest s)
      { s3 with
        admissions := s3.admissions.filter (fun t => t.world != w)
        leftJobs := j :: s3.leftJobs.filter (fun k => k.djob != j.djob) }
    modWorld (zeroWindows s4 j.windows) w (fun x => { x with job := none })

/-- R56, R84, R337, R427: a world's memory key is created: its signal and launch timelines start at 0 and its launch numbers
at 1, and its debug policy is zero (DESIGN CHOICE, log entry 7). -/
def freshKey (w : Nat) (s : State) : State :=
  let k := freeRandom s
  modWorld k.2 w (fun x => { x with
    key := k.1, policy := 0, signals := [], launchTl := ⟨0, none⟩, nextLaunch := 1, closed := [] })

/-- R297, R70: the pages of world `w` pass to world 1, their rows cleared (DEDUCED, log entry 48). -/
def pagesToHost (w : Nat) (s : State) : State :=
  let firsts := (dedup (ownedSpans s w)).flatMap (fun p => ((List.range (p.2 / 7)).map (fun i => p.1 + 7 * i)).filter (fun p =>
    pageOwner s p == w))
  firsts.foldl (fun s p =>
    if pageOwner s p = w then
      { clearGroups s (p / 7) 1 true with
        pageWorld := spanSet s.pageWorld p 7 1
        pageCustody := spanSet s.pageCustody p 7 false }
    else s) s

/-- The channels of a world whose programs have still to pass them back. -/
def chansOf (s : State) (w : Nat) : List Nat := (s.chans.filter (fun p => p.2.owner = w && p.2.zeroUntil.isNone)).map (·.1)

/-- R65, R84, R337: what is left of a world whose work is gone: its timelines, which nothing but a new memory key lowers; every
launch that it has accepted is over, failed where it had not retired. -/
def bareWorld (x : World) : World :=
  { World.reset with
    signals := x.signals
    launchTl := { x.launchTl with value := x.nextLaunch - 1 }
    nextLaunch := x.nextLaunch }

/-- R65, steps 1 and 2: work is discarded, not drained, what the world held is zeroed, and its membership and saved images
end. Channel programs stop as CHANNEL_STOP stops them (R299, R322); until the last has, the keys stay. The custody
regions of the world are freed, while its pages keep CUSTODY (DESIGN CHOICE, log entry 81). -/
def tearStart (w : Nat) (s : State) : State :=
  let s0 := leaveJob w s
  let s1 := (worldAgents s0 w).foldl (fun s a =>
    match a with
    | .channel n =>
      if (ctxOf s a).started then stopChannel n none s
      else setCtx (modChan s n (fun c => { c with starting := false, func := 0 })) a Ctx.reset
    | _ => freeContext .ends a s) s0
  let s2 : State := { s1 with
    engines := s1.engines.map (fun p => (p.1, { p.2 with
      ops := p.2.ops.map (fun op => if op.world = w then
        { op with todo := [], stopped := true, performed := true, ret := false, fail := some 0x06, at_ := s.gcyc + 1 } else op) }))
    fabReqs := s1.fabReqs.filter (fun r => r.world != w)
    governed := s1.governed.filter (fun g => g.world != w)
    atomics := s1.atomics.filter (fun d => d.world != w)
    tladds := s1.tladds.filter (fun t => t.world != w)
    doms := s1.doms.filter (fun d => d.key.world != w)
    monitors := s1.monitors.filter (fun m => m.world != w)
    misses := s1.misses.filter (fun m => m.world != w)
    walks := s1.walks.filter (fun p => p.1.world != w)
    slubs := s1.slubs.map (fun p => (p.1, { p.2 with recs := p.2.recs.filter (fun r => r.world != w) }))
    chans := s1.chans.map (fun p => if p.2.func + 1 = w then (p.1, { p.2 with faultRec := none }) else p) }
  let s2 := if s2.control.any (fun q => worldOfFunc q.function = w) then answer "CONTROL_START" 0x03 { s2 with control := none }
    else s2
  let s3 := (s2.hostWaits.filter (fun q => worldOfFunc q.f = w)).foldl (fun s q => emit s (.unsupported q.f))
    { s2 with hostWaits := s2.hostWaits.filter (fun q => worldOfFunc q.f != w) }
  let s4 := (List.range 16).foldl (fun s cl => freeBanksOf (fun q => q.world == w) cl s) s3
  modWorld s4 w (fun x => { bareWorld x with key := x.key, keys := x.keys })

/-- R65, steps 3 and 4: the keys are erased and the cleared bit of every row of every page that the world owns is set, in one
step, and the teardown is logged with its cause. A world whose TDI is already CONFIG_UNLOCKED (R68) has a new memory key
(R56), and the pages of one that is removed pass to world 1 (R70). -/
def tearEnd (w cause : Nat) (s : State) : State :=
  let f := funcOfWorld w
  let leaving := (worldOf s w).leaving
  let s1 := clearOwned w s
  let s2 := dropWorldTrans (modWorld s1 w bareWorld) w
  let s3 := logEvent 0x07 w (leBytes 2 f ++ leBytes 1 cause) s2
  if leaving then pagesToHost w s3 else if (funcOf s3 f).tdi = .unlocked then freshKey w s3 else s3

/-- R65: teardown of a function's world. It ends at once, or when the last of its channel programs has stopped (R322). -/
def tearDown (w cause : Nat) (s : State) : State :=
  let s1 := tearStart w s
  if (chansOf s1 w).isEmpty then tearEnd w cause s1 else modWorld s1 w (fun x => { x with tearing := some cause })

/-- R300, R322: a channel passes back, and a teardown that waited for the last such ends. -/
def giveBack (ch : Nat) (s : State) : State :=
  let w := (chanOf s ch).owner
  let s1 := passBack ch s
  match (worldOf s1 w).tearing with
  | some c => if (chansOf s1 w).isEmpty then tearEnd w c s1 else s1
  | none => s1

end Sys2Proof.Machine
end

