-- ==== Sys2Proof/Machine/Checkpoint.lean ====
section
/-!
DEFINITION. Sealed checkpoints (spec/17_interruption_and_preemption.md R401, R402): their bytes, and what a reader checks.
-/

namespace Sys2Proof.Machine

/-- R402: KCE and KCM of a base key and a NONCE of 16 bytes. -/
def ckptKeys (kb : W256) (nonce : Nat) : W256 × W256 :=
  let salt := keyBytes kb
  let root := keyBytes Config.sealRoot
  (hkdf root salt (ascii "qualas ckpt enc" ++ natBytes 16 nonce), hkdf root salt (ascii "qualas ckpt mac" ++ natBytes 16 nonce))

/-- R401: the fields of a header that differ between checkpoints. -/
structure CkptHead where
  kind : Nat
  keysrc : Nat
  number : Nat
  func : Nat
  keyid : Nat
  obj : Nat
  len : Nat
  nonce : Nat
  deriving DecidableEq, Repr

/-- R401: bytes 0x00-0xF7 of the header. -/
def ckptHeadBytes (h : CkptHead) : List Nat :=
  natBytes 4 0x4B43524B ++ natBytes 2 1 ++ natBytes 1 h.kind ++ natBytes 1 h.keysrc ++ natBytes 8 Config.serial.toNat ++
    natBytes 8 h.number ++ natBytes 2 h.func ++ natBytes 2 0 ++ natBytes 4 h.keyid ++ natBytes 4 h.obj ++ natBytes 4 0 ++
    natBytes 8 h.len ++ natBytes 16 h.nonce ++ List.replicate 184 0

/-- R402: the key stream of granule `g`. -/
def ckptStream (kce : W256) (nonce g : Nat) : List Nat :=
  ctrStream kce ((List.range 16).map (fun j => natBytes 8 nonce ++ natBytes 4 g ++ natBytes 4 j))

/-- R402: the MAC of granule `g`. -/
def ckptMac (kcm : W256) (number g : Nat) (ct : List Nat) : Nat := mac8 kcm (natBytes 8 number ++ natBytes 4 g ++ ct)

/-- Pads with zeros to a multiple of 256 bytes. -/
def pad256 (l : List Nat) : List Nat := l ++ List.replicate ((256 - l.length % 256) % 256) 0

/-- R401, R402: a checkpoint of the plaintext `l` under base key `kb`. -/
def ckptSeal (kb : W256) (h : CkptHead) (l : List Nat) : List Byte :=
  let k := ckptKeys kb h.nonce
  let head := ckptHeadBytes h
  let n := ceilDiv l.length 256
  let cts := (List.zip (List.range n) (chunks 256 n (pad256 l))).map (fun p => (p.1, xorBytes p.2 (ckptStream k.1 h.nonce p.1)))
  let macs := cts.flatMap (fun p => natBytes 8 (ckptMac k.2 h.number p.1 p.2))
  toBytes (head ++ natBytes 8 (mac8 k.2 head) ++ cts.flatMap (·.2) ++ pad256 macs)

/-- R401, R406: the header of a checkpoint is the expected one; `kb` is none where the key is not installed. -/
def ckptHeadOk (kb : Option W256) (h : CkptHead) (l : List Byte) : Bool :=
  let nonce := numAt l 0x30 16
  numAt l 0 4 == 0x4B43524B && numAt l 4 2 == 1 && numAt l 6 1 == h.kind && numAt l 7 1 == h.keysrc &&
    numAt l 8 8 == Config.serial.toNat && numAt l 0x1C 4 == h.keyid && kb.isSome && numAt l 0x20 4 == h.obj &&
    numAt l 0x10 8 == h.number && numAt l 0x28 8 == h.len &&
    numAt l 0xF8 8 == mac8 (ckptKeys (kb.getD 0) nonce).2 (toNats (l.take 0xF8))

/-- R402, R406: opens the granules of a checkpoint whose header has been checked: the plaintext, where a granule whose
MAC fails is zeros, and the granules that fail. -/
def ckptOpen (kb : W256) (number : Nat) (l : List Byte) : List Byte × List Nat :=
  let nonce := numAt l 0x30 16
  let len := numAt l 0x28 8
  let n := ceilDiv len 256
  let k := ckptKeys kb nonce
  let macAt := 256 + 256 * n
  let gs := (List.range n).map (fun g =>
    let ct := toNats ((l.drop (256 + 256 * g)).take 256)
    if ckptMac k.2 number g ct = numAt l (macAt + 8 * g) 8 then (toBytes (xorBytes ct (ckptStream k.1 nonce g)), none)
    else (List.replicate 256 (0 : Byte), some g))
  ((gs.flatMap (·.1)).take len, gs.filterMap (·.2))

end Sys2Proof.Machine
end

