-- ==== Sys2Proof/Machine/Sched.lean ====
section
/-!
DEFINITION. The scheduler: what is eligible, what fits, placement (spec/04_launch_and_scheduling.md R88-R95;
spec/05_placement_and_translation.md R99-R102; spec/18_programs_gemm_and_overlay.md R410), ticks and slice ends (R92-R95;
spec/17_interruption_and_preemption.md R399, R400).
-/

namespace Sys2Proof.Machine

/-! ## Free cores and banks -/

/-- R100: the core holds no task, no victim and no zeroing. -/
def coreFree (s : State) (c : Nat) : Bool :=
  let k := coreOf s c
  !holds s (.tile c) && !holds s (.urgent c) && k.zeroUntil.isNone

/-- R101: a core with a frozen victim of the world is free to its urgent tasks. -/
def victimFree (s : State) (w c : Nat) : Bool :=
  let k := coreOf s c
  k.victim.isSome && holds s (.tile c) && (ctxOf s (.tile c)).task.world == w && !holds s (.urgent c) &&
    k.zeroUntil.isNone

/-- R395: a pre-emptible core: a reduced task of the world that is not a frozen victim, nor to be one of another urgent
task. -/
def preemptible (s : State) (w c : Nat) : Bool :=
  let k := coreOf s c
  let x := ctxOf s (.tile c)
  x.live && x.task.reduced && x.task.world == w && k.victim.isNone && !holds s (.urgent c) && k.zeroUntil.isNone

/-- The free cores of a cluster for a task of the world. -/
def freeCores (s : State) (w : Nat) (urgent : Bool) (cl : Nat) : List Nat :=
  ([0, 1, 2, 3].map (fun j => 4 * cl + j)).filter (fun c => coreFree s c || (urgent && victimFree s w c))

/-- R102: the free banks of a function's partition in a cluster, lowest first. -/
def freeBanks (s : State) (cl f : Nat) : List Nat :=
  let k := clusterOf s cl
  let used := k.allocs.flatMap (·.banks) ++ k.zeroing.map (·.1)
  (partBanks s cl f).filter (fun b => !used.elem b)

/-! ## Cost (R99) -/

/-- R99: the distance from a cluster to a channel. -/
def chanDistance (cl n : Nat) : Nat := if n / 64 = cl / 4 then (if n % 64 / 16 = cl % 4 then 0 else 1) else 4

/-- R99: the cost of a cluster for a channel set. -/
def clusterCost (set : BitVec 256) (cl : Nat) : Nat :=
  ((List.range 256).filter (fun n => bm set.toNat n)).foldl (fun t n => t + chanDistance cl n) 0

/-! ## Placing members (R100) -/

/-- What is placed together: tiles of a launch, in ascending MEMBER order; for a saved unit, the cores it returns to. -/
structure Want where
  w : Nat
  launch : Launch
  tiles : List Nat
  fixed : List Nat

/-- The channel set of a launch. -/
def chanSet (s : State) (q : Want) : BitVec 256 :=
  if q.launch.record.chmask = 0 then (funcOf s (funcOfWorld q.w)).layout.channels else q.launch.record.chmask

/-- R410: the pre-emptible cores of a cluster in the order of its pointer, with those taken in this placement. -/
def preOrder (s : State) (q : Want) (cl : Nat) (used : List Nat) : List Nat :=
  let mine := used.filter (fun c => c / 4 = cl && preemptible s q.w c)
  let p := match mine.getLast? with
    | some c => c + 1
    | none => (clusterOf s cl).prePtr
  (List.range 4).map (fun i => 4 * cl + (p + i) % 4)

/-- The core that the next member takes in a cluster, and whether it pre-empts. -/
def pickCore (s : State) (q : Want) (pre : Bool) (cl : Nat) (used : List Nat) : Option (Nat × Bool) :=
  let u := q.launch.trec.isUrgent
  match (freeCores s q.w u cl).find? (fun c => !used.elem c) with
  | some c => some (c, false)
  | none =>
    if pre then ((preOrder s q cl used).find? (fun c => preemptible s q.w c && !used.elem c)).map (fun c => (c, true)) else none

/-- Each member in turn takes the cluster of least cost that has a core; the cores in order, and the total cost. -/
def greedy (s : State) (q : Want) (pre : Bool) (cls : List Nat) : Nat → List Nat → Nat → Option (List Nat × Nat)
  | 0, used, cost => some (used, cost)
  | n + 1, used, cost =>
    let cands := cls.filterMap (fun cl => (pickCore s q pre cl used).map (fun p =>
      (clusterCost (chanSet s q) cl * 64 + p.2.toNat * 32 + cl, p.1, clusterCost (chanSet s q) cl)))
    match (sortBy (·.1) cands).head? with
    | none => none
    | some p => greedy s q pre cls n (used ++ [p.2.1]) (cost + p.2.2)

/-- R102: a cluster has the banks, or the gang holds them there already. -/
def clusterBanks (s : State) (q : Want) (cl : Nat) : Bool :=
  let n := q.launch.record.poolbanks
  n == 0 || (clusterOf s cl).allocs.any (fun a => a.world == q.w && a.launch == q.launch.n &&
      a.gang == q.tiles.headD 0 / q.launch.record.ncores) || decide (n ≤ (freeBanks s cl (funcOfWorld q.w)).length)

/-- R102: every cluster used has the banks. -/
def banksOk (s : State) (q : Want) (cores : List Nat) : Bool := (dedup (cores.map (fun c => c / 4))).all (clusterBanks s q)

/-- The clusters a unit may be placed in now. -/
def openClusters (s : State) (q : Want) : List Nat :=
  (permitted s q.w q.launch.record q.launch.trec).filter (fun cl => !(clusterOf s cl).drain.elem (funcOfWorld q.w))

/-- R100: the placement of a unit on free cores, or with `pre` on pre-emptible ones too; a saved unit fits its own cores alone,
in clusters that it may be placed in (R400, R94). -/
def tryPlace (s : State) (q : Want) (pre : Bool) : Option (List Nat) :=
  let cls := openClusters s q
  let n := q.tiles.length
  if !q.fixed.isEmpty then
    (if q.fixed.all (fun c => cls.elem (c / 4) && coreFree s c) && banksOk s q q.fixed then some q.fixed else none)
  else
    match q.launch.record.dlevel with
    | 0 => (greedy s q pre (cls.filter (clusterBanks s q)) n [] 0).map (·.1)
    | 1 =>
      let cands := cls.filterMap (fun cl =>
        match greedy s q pre [cl] n [] 0 with
        | some p =>
          if banksOk s q p.1 then
            some (clusterCost (chanSet s q) cl * 1024 + (p.1.filter (fun c => preemptible s q.w c)).length * 64 + cl, p.1)
          else none
        | none => none)
      (sortBy (·.1) cands).head?.map (·.2)
    | 2 =>
      let cands := [0, 1, 2, 3].filterMap (fun d =>
        (greedy s q pre (cls.filter (fun cl => cl / 4 = d)) n [] 0).map (fun p => (p.2 * 4 + d, p.1)))
      match (sortBy (·.1) cands).head? with
      | some p => if banksOk s q p.2 then some p.2 else none
      | none => none
    | _ =>
      match greedy s q pre cls n [] 0 with
      | some p => if banksOk s q p.1 then some p.1 else none
      | none => none

/-- R90, R395: where a unit fits now; an urgent unit that finds no free core may pre-empt. -/
def placeOf (s : State) (q : Want) : Option (List Nat) :=
  match tryPlace s q false with
  | some l => some l
  | none => if q.launch.trec.isUrgent then tryPlace s q true else none

/-! ## What is to be placed, in order (R88, R89) -/

/-- R89, R330: every dependence of a launch holds, and what its release waits for has performed. -/
def eligible (s : State) (w : Nat) (l : Launch) : Bool :=
  l.after.all (fun p => !opBusy s 9 p) && l.record.deps.all (fun d => tlKind d.tlid == 0 || decide (d.value ≤ tlValue s w d.tlid))

/-- The gang of a tile. -/
def gangOf (l : Launch) (tile : Nat) : Nat := tile / l.record.ncores

/-- R400: a saved unit of a launch that is not being restored: the saved task of the lowest tile and, for a lockstep
gang, its fellows. -/
def savedUnit (s : State) (w : Nat) (l : Launch) : Option Want :=
  let mine := sortBy (fun (v : Saved) => v.ctx.task.tile) ((worldOf s w).saved.filter (fun v =>
    v.ctx.task.launch = l.n && !((ctxOf s (.tile v.core)).live && tidOf (ctxOf s (.tile v.core)) == tidOf v.ctx)))
  match mine.head? with
  | none => none
  | some v =>
    let unit := if l.record.dlevel = 1 then mine.filter (fun u => u.ctx.task.gang = v.ctx.task.gang) else [v]
    some ⟨w, l, unit.map (fun u => u.ctx.task.tile), unit.map (·.core)⟩

/-- R85, R89: the first unit of a launch that is still to be placed: a saved unit, a discarded one, or its next gang. -/
def firstUnit (s : State) (w : Nat) (l : Launch) : Option Want :=
  match savedUnit s w l with
  | some q => some q
  | none =>
    if l.failed then none
    else
      match l.requeue with
      | t :: rest =>
        let ts := if l.record.dlevel = 1 then t :: rest.filter (fun u => gangOf l u = gangOf l t) else [t]
        some ⟨w, l, ts, []⟩
      | [] =>
        if l.nextTile < l.record.tiles then
          some ⟨w, l, if l.record.dlevel = 0 then [l.nextTile]
            else (List.range l.record.ncores).map (fun i => l.nextTile + i), []⟩
        else none

/-- R89: the launches of a world in order: class, then number. -/
def launchOrder (s : State) (w : Nat) : List Launch :=
  sortBy (fun l => l.record.cls * 2 ^ 64 + l.n) (worldOf s w).launches

/-- The tasks of a function that are placed on tile cores. -/
def placedTasks (s : State) (f : Nat) : List Agent :=
  (s.ctxs.filter (fun p => p.2.live && agTile (agentOf p.1) && p.2.task.world == worldOfFunc f)).map (fun p => agentOf p.1)

/-- The cores that a function's tasks hold. -/
def heldCores (s : State) (f : Nat) : List Nat := dedup ((placedTasks s f).map agIdx)

/-- How many they are. -/
def coresHeld (s : State) (f : Nat) : Nat := (heldCores s f).length

/-- R94: with a unit on these cores its device holds no more than CAP cores. -/
def capOk (s : State) (q : Want) (cores : List Nat) : Bool :=
  let f := funcOfWorld q.w
  decide ((dedup (heldCores s f ++ cores)).length ≤ (funcOf s f).cap)

/-- R89: for how many consecutive ticks a unit has been passed over. -/
def passedTicks (l : Launch) (q : Want) : Nat := if l.passedOf = q.tiles.head? then l.passed else 0

/-- R89, R94: the first fitting unit of a device, with its cores. A unit passed over for 1000 ticks stops the rest. -/
def firstFitting (s : State) (w : Nat) : List Launch → Option (Want × List Nat)
  | [] => none
  | l :: ls =>
    if !eligible s w l then firstFitting s w ls
    else
      match firstUnit s w l with
      | none => firstFitting s w ls
      | some q =>
        match (placeOf s q).filter (capOk s q) with
        | some c => some (q, c)
        | none => if 1000 ≤ passedTicks l q then none else firstFitting s w ls

/-- R92: functions that exist: the PF and the enabled VFs. -/
def functions (s : State) : List Nat :=
  (List.range 32).filter (fun f => f == 0 || (funcOf s f).vfEnabled)

/-- The world takes part in placement: it is not held (R68). -/
def mayPlace (s : State) (f : Nat) : Bool := !(worldOf s (worldOfFunc f)).held

/-- A + K of a device. -/
def credit (s : State) (f : Nat) : Int := (funcOf s f).allowance + (funcOf s f).boost

/-- R94: the device placed next: the greatest credit, then the lowest number. -/
def chooseDevice (s : State) : Option (Want × List Nat) :=
  let cands := (functions s).filterMap (fun f =>
    if mayPlace s f then (firstFitting s (worldOfFunc f) (launchOrder s (worldOfFunc f))).map (fun p => (f, p)) else none)
  let best := cands.foldl (fun (b : Option (Nat × Want × List Nat)) p =>
    match b with
    | none => some p
    | some q => if credit s q.1 < credit s p.1 then some p else b) none
  best.map (·.2)

/-! ## Placing a unit -/

/-- R86: the tile coordinates of a linear index. -/
def tileCoords (q : LaunchRec) (i : Nat) : Nat × Nat × Nat := (i % q.ext0, i / q.ext0 % q.ext1, i / (q.ext0 * q.ext1))

/-- R86, R87: what a tile's task is launched with. -/
def taskFor (w : Nat) (l : Launch) (tile : Nat) : Task :=
  let q := l.record
  let c := tileCoords q tile
  { world := w, launch := l.n, tile := tile, gang := gangOf l tile, member := tile % q.ncores, level := q.dlevel
    ncores := q.ncores, djob := q.djob, tile0 := c.1, tile1 := c.2.1, tile2 := c.2.2
    budget := if q.budget = 0 then l.trec.budget else q.budget
    restartable := bm q.flags 0, saveable := bm q.flags 1, timed := l.trec.isTimed, reduced := l.trec.isReduced
    urgent := l.trec.isUrgent, control := false, spill := l.trec.spill, poolbanks := q.poolbanks, tlbind := q.tlbind
    cls := q.cls }

/-- A task is put on a core; its fill ends at `t`. -/
def placeTask (w : Nat) (l : Launch) (t : Nat) (p : Nat × Nat) (s : State) : State :=
  let a := if l.trec.isUrgent then Agent.urgent p.2 else Agent.tile p.2
  let pre := l.trec.isUrgent && (ctxOf s (.tile p.2)).live && (coreOf s p.2).victim.isNone
  let s1 := setCtx s a { Ctx.reset with live := true, task := taskFor w l p.1, image := l.image, fillUntil := some t }
  let s2 := modCore s1 p.2 (fun k => { k with
    urgentHalf := if l.trec.isUrgent then idleHalf (ctxOf s (.tile p.2)) else k.urgentHalf })
  if pre then modCluster s2 (p.2 / 4) (fun k => { k with prePtr := (p.2 + 1) % 4 }) else s2

/-- R102: a cluster that holds a member allocates the gang's banks, lowest first. -/
def allocBanks (w : Nat) (l : Launch) (gang cl : Nat) (s : State) : State :=
  let n := l.record.poolbanks
  if n = 0 || (clusterOf s cl).allocs.any (fun a => a.world == w && a.launch == l.n && a.gang == gang) then s
  else
    let b := (freeBanks s cl (funcOfWorld w)).take n
    modCluster s cl (fun k => { k with allocs := k.allocs ++ [⟨w, l.n, gang, b⟩] })

/-- R354: the domain instance of a gang. A task that was discarded and starts again is a party again (DEDUCED, log entry 27). -/
def joinDomain (w : Nat) (l : Launch) (gang n : Nat) (s : State) : State :=
  let key : DomKey := ⟨w, l.n, gang, false⟩
  if l.record.dlevel = 0 ∨ l.record.dlevel = 4 then s
  else
    match domOf s key with
    | none => { s with doms := s.doms ++ [⟨key, l.record.dlevel, n, 0, 0, [], [], [], false⟩] }
    | some _ => modDom s key (fun d => { d with expect := d.expect + n })

/-- Free times of the fills of a unit: one for a lockstep gang (R136, R439). -/
def fillTimes (lock : Bool) : Nat → Nat → State → List Nat × State
  | 0, _, s => ([], s)
  | n + 1, t, s =>
    let r := if lock && t != 0 then (t, s) else (let f := free s; (s.gcyc + 1 + f.1, f.2))
    let q := fillTimes lock n r.1 r.2
    (r.1 :: q.1, q.2)

/-- Places a unit on its cores. -/
def placeUnit (q : Want) (cores : List Nat) (s : State) : State :=
  let l := q.launch
  let gang := gangOf l (q.tiles.headD 0)
  let r := fillTimes (l.record.dlevel == 1) q.tiles.length 0 s
  let s1 := (List.zip r.1 (List.zip q.tiles cores)).foldl (fun s p => placeTask q.w l p.1 p.2 s) r.2
  let s2 := (dedup (cores.map (fun c => c / 4))).foldl (fun s cl => allocBanks q.w l gang cl s) s1
  if !q.fixed.isEmpty then modLaunch q.w l.n (fun k => { k with passed := 0, passedOf := none }) s2
  else
    modLaunch q.w l.n (fun k => { k with
      nextTile := if l.requeue.isEmpty then k.nextTile + q.tiles.length else k.nextTile
      requeue := k.requeue.filter (fun t => !q.tiles.elem t)
      resident := k.resident ++ q.tiles
      passed := 0
      passedOf := none }) (joinDomain q.w l gang q.tiles.length s2)

/-- R94: places units one at a time until none fits. -/
def placeAll : Nat → State → State
  | 0, s => s
  | n + 1, s =>
    match chooseDevice s with
    | none => s
    | some p => placeAll n (placeUnit p.1 p.2 s)

/-- R98, R421: the lowest tile still to be placed for the first time or after a discard, where the launch fits no longer. -/
def unfitTile (s : State) (w : Nat) (l : Launch) : Option Nat :=
  if l.failed || placeOk s w l.record l.trec then none
  else (sortBy id (l.requeue ++ (if l.nextTile < l.record.tiles then [l.nextTile] else []))).head?

/-- R98, R421: the saved tasks of a launch, still to be placed again, that fit their cores no longer: the launch's permitted
set has lost a core of their unit, or its banks. -/
def unfitSaved (s : State) (w : Nat) (l : Launch) : List Saved :=
  let mine := (worldOf s w).saved.filter (fun v =>
    v.ctx.task.launch = l.n && !((ctxOf s (.tile v.core)).live && tidOf (ctxOf s (.tile v.core)) == tidOf v.ctx))
  let ok := permitted s w l.record l.trec
  let lost := fun (v : Saved) => !ok.elem (clusterOfCore v.core) ||
    decide ((funcOf s (funcOfWorld w)).layout.pooled < l.record.poolbanks)
  mine.filter (fun v => mine.any (fun u => lost u && (u.core == v.core || l.record.dlevel == 1 && u.ctx.task.gang == v.ctx.task.gang)))

/-- R97: a task that is not on its core leaves its domain. -/
def domLeave (s : State) (x : Ctx) (a : Agent) : State := setCtx (domDrop (setCtx s a x) a) a (ctxOf s a)

/-- A saved task that is not restored ends unretired, as one that fits nowhere: it leaves its domain (R97), and its image is
forgotten (DEDUCED, log entry 93). -/
def dropSaved (w : Nat) (s : State) (v : Saved) : State :=
  let t := v.ctx.task
  let s2 := modWorld (domLeave s v.ctx (.tile v.core)) w (fun x => { x with
    saved := x.saved.filter (fun u => u.core != v.core)
    savedPools := x.savedPools.filter (fun p => !(p.cluster == clusterOfCore v.core && p.launch == t.launch && p.gang == t.gang)) })
  failLaunch w t.launch ⟨t.tile, 0x09, 7, 0, 0, s.gcyc⟩ (modLaunch w t.launch (fun l => { l with
    resident := l.resident.filter (· != t.tile), charge := l.charge + v.ctx.charge }) s2)

/-- R98, R421: a launch with an unplaced gang, or a saved unit (R400), that can no longer fit fails with cause 0x09. -/
def failUnfit (s : State) : State :=
  (functions s).foldl (fun s f =>
    let w := worldOfFunc f
    (worldOf s w).launches.foldl (fun s l =>
      let lost := unfitSaved s w l
      let s1 := lost.foldl (dropSaved w) s
      let s2 := match unfitTile s w l with
        | some t => failLaunch w l.n ⟨t, 0x09, 7, 0, 0, s.gcyc⟩ s1
        | none => s1
      if lost.isEmpty && (unfitTile s w l).isNone then s else closeLaunch w l.n s2) s) s

/-! ## Ticks (R91-R95) -/

/-- R92: a virtual device is active: a queued launch, a saved unit, or a running task on a tile core; a control task, which
the scheduler does not charge (R74), makes none active (DESIGN CHOICE, log entry 89). -/
def deviceActive (s : State) (f : Nat) : Bool :=
  let w := worldOfFunc f
  (worldOf s w).launches.any (fun l => !l.resident.isEmpty || (firstUnit s w l).isSome) || decide (0 < coresHeld s f)

/-- R93: the boost of a device that wakes after `i` idle ticks. -/
def wakeBoost (s : State) (f i : Nat) : Nat :=
  let ws := (functions s).foldl (fun t g => t + (funcOf s g).weight) 0
  256000 * (funcOf s f).weight / ws * min i 2000

/-- R92, R93: devices that have become active wake; those that have become idle lose a positive allowance. -/
def noteActivity (s : State) : State :=
  (functions s).foldl (fun s f =>
    let v := funcOf s f
    let now := deviceActive s f
    if now && !v.active then
      let b := wakeBoost s f v.idleTicks
      modFunc s f (fun v => { v with
        active := true, idleTicks := 0
        wokeTicks := if 0 < v.idleTicks then 0 else v.wokeTicks
        boostB := if 0 < v.idleTicks then b else v.boostB
        boost := if 0 < v.idleTicks then b else v.boost })
    else if !now && v.active then modFunc s f (fun v => { v with active := false, allowance := min v.allowance 0 })
    else s) s

/-- R92: one device's tick, with the total weight of the active devices. -/
def tickFunc (total : Nat) (v : Func) : Func :=
  let v := match v.sched with
    | some p => { v with weight := p.1, cap := p.2.1, pdl := p.2.2, sched := none }
    | none => v
  let fromK := min v.heldCc v.boost
  let a : Int := v.allowance - ((v.heldCc - fromK : Nat) : Int)
  let a := if v.active then a + ((256000 * v.weight / total : Nat) : Int) else a
  let t := v.wokeTicks + 1
  let top := v.boostB * (8000 - t) / 8000
  { v with
    heldCc := 0
    allowance := min a 256000
    boost := min (v.boost - fromK) top
    wokeTicks := t
    idleTicks := if v.active then 0 else v.idleTicks + 1 }

/-- R92: the tick of every device. -/
def tickAll (s : State) : State :=
  let weightOf := fun (v : Func) => v.sched.elim v.weight (·.1)
  let total := (functions s).foldl (fun t f => if (funcOf s f).active then t + weightOf (funcOf s f) else t) 0
  (functions s).foldl (fun s f => modFunc s f (tickFunc total)) s

/-- R89: a launch's first unit, if it is considered at this tick, has been passed over at one more; the ticks of one that is
not, or that is another unit than before, do not count on. -/
def passLaunch (s : State) (f : Nat) (l : Launch) : Launch :=
  let w := worldOfFunc f
  match (if mayPlace s f && eligible s w l then firstUnit s w l else none) with
  | some q => { l with passed := passedTicks l q + 1, passedOf := q.tiles.head? }
  | none => { l with passed := 0, passedOf := none }

/-- R89: the units that a tick's placement opportunity has left unplaced have been passed over for one more tick. -/
def countPassed (s : State) : State :=
  (functions s).foldl (fun s f =>
    modWorld s (worldOfFunc f) (fun x => { x with launches := x.launches.map (passLaunch s f) })) s

/-! ## Slice ends (R95, R399, R400) -/

/-- Clusters in which a function's tasks hold cores. -/
def heldIn (s : State) (f cl : Nat) : List Agent :=
  (clusterCores (4 * cl)).flatMap (fun c => [Agent.tile c, .urgent c].filter (fun a =>
    (ctxOf s a).live && (ctxOf s a).task.world == worldOfFunc f))

/-- The state as it would be with a function's tasks gone from some clusters, for asking what would fit. -/
def without (s : State) (f : Nat) (cls : List Nat) : State :=
  cls.foldl (fun s cl =>
    let s1 := (heldIn s f cl).foldl (fun s a =>
      modCore (setCtx s a Ctx.reset) (agIdx a) (fun k => { k with victim := none, zeroUntil := none })) s
    modCluster s1 cl (fun k => { k with allocs := k.allocs.filter (fun a => a.world != worldOfFunc f) })) s

/-- Sublists of `n` elements, in the order of the list. -/
def choose : Nat → List α → List (List α)
  | 0, _ => [[]]
  | _ + 1, [] => []
  | n + 1, x :: xs => (choose n xs).map (x :: ·) ++ choose (n + 1) xs

/-- R95: the fewest clusters of `v` whose freeing lets the first waiting unit of `u` fit. -/
def clustersToFree (s : State) (v : Nat) (q : Want) : Option (List Nat) :=
  let held := (permitted s q.w q.launch.record q.launch.trec).filter (fun cl => !(heldIn s v cl).isEmpty)
  let order := sortBy (fun cl => (dedup ((heldIn s v cl).map agIdx)).length * 16 + cl) held
  ((List.range order.length).flatMap (fun n => choose (n + 1) order)).find? (fun l =>
    ((tryPlace (without s v l) q false).filter (capOk s q)).isSome)

/-- R89, R95: the units of a device that free cores do not take, up to one passed over for 1000 ticks. -/
def waitingUnits (s : State) (w : Nat) : List Launch → List Want
  | [] => []
  | l :: ls =>
    match (if eligible s w l then firstUnit s w l else none) with
    | none => waitingUnits s w ls
    | some q =>
      (if (tryPlace s q false).isNone then [q] else []) ++ (if 1000 ≤ passedTicks l q then [] else waitingUnits s w ls)

/-- R399: blocks that a task holds, written since it started and not clean. -/
def dirtyBlocks (s : State) (a : Agent) : Nat :=
  let k := coreOf s (agIdx a)
  (k.written.filter (fun b => heldBlock (ctxOf s a).task b && !k.clean.elem b)).length

/-- R399: the image of a task. The gang's banks count for its last member in the cluster. -/
def imageBytes (s : State) (a : Agent) : Nat :=
  let t := (ctxOf s a).task
  let later := s.ctxs.any (fun p => p.2.live && agTile (agentOf p.1) &&
    clusterOfCore (agIdx (agentOf p.1)) == clusterOfCore (agIdx a) && p.2.task.world == t.world &&
    p.2.task.launch == t.launch && p.2.task.gang == t.gang && decide (t.member < p.2.task.member))
  0x800000 + t.spill + 0x140000 * dirtyBlocks s a + (if later then 0 else 983040 * t.poolbanks)

/-- R399: the units of a cluster's tasks: a lockstep gang's members, or one other task, by lowest core. -/
def sliceUnits (s : State) : List Agent → List (List Agent)
  | [] => []
  | a :: rest =>
    let t := (ctxOf s a).task
    let same := fun (b : Agent) =>
      let u := (ctxOf s b).task
      t.level == 1 && u.level == 1 && u.launch == t.launch && u.gang == t.gang
    if (sliceUnits s rest).any (fun u => u.any same) then
      (sliceUnits s rest).map (fun u => if u.any same then a :: u else u)
    else [a] :: sliceUnits s rest

/-- R399 Est of a unit. -/
def unitEst (s : State) (u : List Agent) : Nat := ceilDiv (u.foldl (fun t a => t + imageBytes s a) 0) 512

/-- R400: the cluster places no gang of the function until its tasks have left. -/
def drainCluster (f cl : Nat) (s : State) : State :=
  modCluster s cl (fun k => { k with drain := if k.drain.elem f then k.drain else k.drain ++ [f] })

/-- R400: the forced drain of an urgent task, which the log reports; it waits while the log is full (R381). -/
def forceDrain (a : Agent) (s : State) : State :=
  let w := (ctxOf s a).task.world
  if logFull s then modCtx s a (fun x => { x with saveDue := 2 })
  else logEvent 0x05 w ([0, 2] ++ leBytes 4 0 ++ leBytes 8 0)
    (drainCluster (funcOfWorld w) (clusterOfCore (agIdx a)) (modCtx s a (fun x => { x with saveDue := 0 })))

/-- R400: Forced of a unit: a forced save, or for an urgent task a forced drain. -/
def forceUnit (s : State) (u : List Agent) : State :=
  u.foldl (fun s a => if agUrgent a then forceDrain a s else modCtx s a (fun x => { x with saveDue := 2 })) s

/-- R399 SliceChoice for the tasks of `f` in a cluster; a unit that an earlier choice saves is not chosen again. -/
def sliceChoice (f cl : Nat) (s : State) : State :=
  let xs := heldIn s f cl
  let D := (funcOf s f).pdl * 4000
  let left := fun (a : Agent) => (ctxOf s a).task.budget - (ctxOf s a).charge
  if xs.all (fun a => decide (left a ≤ D)) then
    drainCluster f cl s
  else
    let units := (sortBy (fun u => u.foldl (fun m a => min m (agIdx a)) 64) (sliceUnits s xs)).filter (fun u =>
      u.all (fun a => (ctxOf s a).saveDue == 0))
    (units.foldl (fun (acc : State × Nat) u =>
      let est := unitEst s u
      if u.all (fun a => (ctxOf s a).task.saveable && !agUrgent a) && decide (acc.2 + est ≤ D) then
        (u.foldl (fun s a => modCtx s a (fun x => { x with saveDue := 1 })) acc.1, acc.2 + est)
      else if u.all (fun a => (ctxOf s a).task.restartable) then (u.foldl (fun s a => discardTask a s) acc.1, acc.2)
      else (forceUnit acc.1 u, acc.2 + est)) (s, 0)).1

/-- R95: the slice ends of a tick. Of several waiting devices the one with the lowest number is served, and of its waiting units
the first in the order of R89 (DESIGN CHOICE, log entry 89). -/
def sliceEnds (s : State) : State :=
  (functions s).foldl (fun s v =>
    if 0 < credit s v || coresHeld s v = 0 then s
    else
      let ask := (functions s).filter (fun u => u != v && mayPlace s u && decide (0 < credit s u))
      match ask.findSome? (fun u =>
        (waitingUnits s (worldOfFunc u) (launchOrder s (worldOfFunc u))).findSome? (clustersToFree s v)) with
      | none => s
      | some l => l.foldl (fun s cl => sliceChoice v cl s) s) s

/-- Functions that hold no core of a cluster no longer drain there (R400). -/
def endDrains (s : State) : State :=
  { s with clusters := s.clusters.map (fun p =>
      (p.1, { p.2 with drain := p.2.drain.filter (fun f => !(heldIn s f p.1).isEmpty) })) }

/-- SCHED_TICK: at GCYC multiples of 4000 (R92, R95, R399). -/
def execSchedTick (s : State) : Out := .next (sliceEnds (tickAll (noteActivity s)))

/-- PLACEMENT_OPPORTUNITY (R89, R94): the scheduler places what is eligible and fits; at a tick, what it has passed over is
counted. -/
def execPlacementOpportunity (s : State) : Out :=
  let s1 := placeAll 64 (failUnfit (noteActivity (endDrains s)))
  .next (if s.gcyc % 4000 = 0 then countPassed s1 else s1)

end Sys2Proof.Machine
end

