-- ==== Sys2Proof/Machine/Entry.lean ====
section
/-!
DEFINITION. How a placed task starts: fills and entry (spec/02_program_image_and_encodings.md R14-R17; spec/04_launch_and_scheduling.md R86,
R439), urgent pre-emption (spec/17_interruption_and_preemption.md R395-R398), slice-end saves and their restoration (R400-R403).
-/

namespace Sys2Proof.Machine

/-! ## Fills (R14-R17) -/

/-- R17: the bound of a context's code section, which is checked at the fill (DESIGN CHOICE, log entry 87). -/
def codeBound (s : State) (a : Agent) : Nat :=
  if agUrgent a then 0x18000 else if urgentLimited s a then 0xE0000 else codeBytes

/-- Fills an optional section at the place that its store's rule gives it (R16, R120, R207, R265), whatever its TARGET
(DEDUCED, log entry 95): its ciphertext and MACs, or the cause with which the fill fails (R17, R14). The bound is checked before
the MACs (DESIGN CHOICE, log entry 87). -/
def fillPart (s : State) (die w : Nat) (f : ImageFile) (kmac : W256) (kind sid bound : Nat) :
    Except Nat (List Byte × List Byte) × State :=
  if sid = 0 then (.ok ([], []), s)
  else
    match secOf f.sections kind sid with
    | none => (.error 0x0A, s)
    | some x =>
      if bound < x.size then (.error 0x09, s)
      else
        match fillSection s die w f kmac x with
        | (.error c, s) => (.error c, s)
        | (.ok none, s) => (.error 0x0A, s)
        | (.ok (some p), s) => (.ok p, s)

/-- R259, R265: a recipe image reaches outside the task's part. -/
def recipeOutside (t : Task) (l : List Byte) : Bool :=
  decide ((if t.urgent then 256 else if t.reduced then 1792 else 2048) < (l.length - 256) / 8) ||
    (List.range 64).any (fun i => !entryHeld t i && numAt l (4 * i) 4 != 0)

/-- R265: puts a recipe image into the store. -/
def putRecipes (t : Task) (l : List Byte) (k : Core) : Core :=
  let base := if t.urgent then 1792 else 0
  let n := (l.length - 256) / 8
  { k with
    steps := (List.range n).foldl (fun m i => tabSet m (base + i) (wd (numAt l (256 + 8 * i) 8))) k.steps
    table := ((List.range 64).filter (entryHeld t)).foldl (fun m i =>
      tabSet m i (BitVec.ofNat 32 (numAt l (4 * i) 4))) k.table }

/-- R16, R170, R397: puts code and its MACs into the instruction scratchpad. -/
def putCode (a : Agent) (d : HalfDesc) (ct macs : List Byte) (k : Core) : Core :=
  if agUrgent a then
    { k with imem := memWrite k.imem (k.urgentHalf * halfBytes + urgentOff) ct, urgentGran := d.ngran }
  else
    let desc := leBytes 2 d.sid ++ leBytes 2 0 ++ leBytes 4 d.ngran ++ leBytes 8 d.nonce.toNat
    { k with imem := memWrite (memWrite (memWrite k.imem 0 ct) codeBytes macs) 0xFFC00 desc }

/-- Entry address of a context's code (R15, R397); one that is not a multiple of 4 is fetched from as it is
(DESIGN CHOICE, log entry 80). -/
def entryPc (s : State) (a : Agent) (entry : Nat) : Nat :=
  if agUrgent a then pcMask ((coreOf s (agIdx a)).urgentHalf * halfBytes + urgentOff + entry) else pcMask entry

/-- R86: the registers of a task at its start, but for its keys and the times of its entry. An MSTART beyond the M-stream
buffer is taken modulo its words (DESIGN CHOICE, log entry 87). -/
def entryCtx (x : Ctx) (l : Launch) : Ctx :=
  let seed := l.record.seedBase + wd x.task.tile
  { Ctx.reset with
    live := true
    task := x.task
    image := x.image
    seed := seed
    lfsr := lfsrSeed seed
    mpc := l.trec.mstart % mpcSize x.task }

/-- The sections of a placed task are filled and checked, and its registers set (R14, R17, R86, R439); the cause of a fill
that fails (DEDUCED, log entry 31). Sections are filled in the order code, mstream, recipe, const, and the first that fails
gives the cause (DESIGN CHOICE, log entry 87). -/
def fillTask (a : Agent) (l : Launch) (s : State) : Except Nat Unit × State :=
  let x := ctxOf s a
  let t := x.task
  let r := l.trec
  let die := dieOf a
  let f : ImageFile := ⟨l.record.image, ⟨l.sections.length, l.image.nonce, l.image.keyid⟩, l.sections⟩
  let km := l.image.kmac
  let sid := ((r.variants.find? (fun v => v.1 = l.record.ncores)).map (·.2)).getD 0
  match fillPart s die t.world f km 1 sid (codeBound s a) with
  | (.error c, s) => (.error c, s)
  | (.ok code, s) =>
    match fillPart s die t.world f km 3 r.msid (4 * mpcSize t) with
    | (.error c, s) => (.error c, s)
    | (.ok ms, s) =>
      match fillPart s die t.world f km 4 r.rsid (256 + 8 * (if t.urgent then 256 else 2048)) with
      | (.error c, s) => (.error c, s)
      | (.ok rs, s) =>
        match fillPart s die t.world f km 5 r.csid (if t.urgent then 0x4000 else 0x10000) with
        | (.error c, s) => (.error c, s)
        | (.ok cs, s) =>
          let rec_ := toBytes (sectionOpen l.image.kenc l.image.nonce r.rsid 0 (toNats rs.1))
          if recipeOutside t rec_ then (.error 0x09, s)
          else
            let d : HalfDesc := ⟨sid, code.1.length / 256, l.image.nonce⟩
            let ys := (List.range 32).filter (fun y => bm r.ymask y && yarnHeld t y)
            let s1 := modCore s (agIdx a) (fun k =>
              let k1 := putCode a d code.1 code.2 (putRecipes t rec_ k)
              { k1 with yarns := ys.foldl (fun m y => tabSet m y (r.yinit.getD y 0)) k1.yarns })
            let e := entryCtx x l
            (.ok (), setCtx s1 a { e with
              image := { l.image with
                codeSid := sid, msid := r.msid, csid := r.csid, mwords := ms.1.length / 4
                kbytes := cs.1.length, codeLen := code.1.length }
              half0 := if agUrgent a then HalfDesc.none else d
              mstream := memWrite [] 0 ms.1
              ktab := memWrite [] 0 cs.1
              seqPc := entryPc s1 a r.entry })

/-- The task's entry bundle issues in the next cycle (R138, R139, R439). -/
def startTask (a : Agent) (s : State) : State :=
  modCtx s a (fun x => { x with
    started := true, issuing := true, clk := 0, start := 1, seqAt := 1, charge := 0, entryAt := s.gcyc + 1 })

/-! ## Control tasks (spec/04_launch_and_scheduling.md R73, R74) -/

/-- R73: the steward section of a control task's record: every CODESID names one with MACs, and the variant of one core is
taken, or else the first (DESIGN CHOICE, log entry 39). -/
def controlSection (f : TaskImage) : Option Section :=
  let vs := f.trec.variants
  if f.trec.isControl && !vs.isEmpty &&
      vs.all (fun v => (secOf f.file.sections 8 v.2).isSome && (macSecOf f.file.sections v.2).isSome) then
    secOf f.file.sections 8 ((vs.find? (fun v => v.1 = 1)).elim ((vs.headD (0, 0)).2) (·.2))
  else none

/-- A control task: what it is launched with (R74) (DESIGN CHOICE, log entry 39). -/
def controlTask (w budget : Nat) : Task :=
  { Task.none with world := w, control := true, ncores := 1, budget := budget }

/-- R73, R76: fills a steward's instruction store and starts the task at ENTRY. -/
def startControl (w n : Nat) (f : TaskImage) (x : Section) (ct : List Byte) (s : State) : State :=
  let a := Agent.steward n
  let s1 := setCtx { s with stewCode := tabSet s.stewCode n (memWrite [] 0 ct), stewMem := tabDel s.stewMem n } a
    { Ctx.reset with
      live := true
      task := controlTask w f.trec.budget
      image := { f.image with codeSid := x.sid, codeLen := ct.length }
      lfsr := lfsrSeed 0
      seqPc := f.trec.entry }
  startTask a s1

/-- R73: the task of a request is read, filled and started. An image that faults as it is read is a BAD_TASK (DESIGN CHOICE,
log entry 83); IMGHASH is not checked (DESIGN CHOICE, log entry 79). -/
def fillControl (q : StartReq) (s : State) : State :=
  let w := worldOfFunc q.function
  match readTask s 4 w q.image q.sid with
  | (.ok (some f), s1) =>
    match (if f.macOk then controlSection f else none) with
    | none => answer "CONTROL_START" 0x0B s1
    | some sec =>
      if 0x20000 < sec.size then answer "CONTROL_START" 0x0B s1
      else
        match fillSection s1 4 w f.file f.image.kmac sec with
        | (.ok (some c), s2) => answer "CONTROL_START" 0 (startControl w q.unit f sec c.1 s2)
        | (_, s2) => answer "CONTROL_START" 0x0B s2
  | (_, s1) => answer "CONTROL_START" 0x0B s1

/-- R73, R114: the request's pages are read at once where they are translated; while some are walked it waits. -/
def readControl (q : StartReq) (s : State) : State :=
  let t := fillControl q s
  if walksFirst 4 s t then { awaitWalks 4 s t with control := some q } else t

/-- R114: the request that waits goes on. -/
def retryControl (s : State) : State := s.control.elim s (fun q => readControl q { s with control := none })

/-! ## Urgent tasks -/

/-- R395: an urgent context whose gang, or whose task alone under level 0, pre-empts a core. -/
def preempts (s : State) (a : Agent) : Bool :=
  let t := (ctxOf s a).task
  let held_ := fun (c : Nat) => holds s (.tile c) || (coreOf s c).zeroUntil.isSome
  agUrgent a && (if t.level = 0 then held_ (agIdx a)
    else s.ctxs.any (fun p => p.2.live && agUrgent (agentOf p.1) && p.2.task.world == t.world && p.2.task.launch == t.launch &&
      p.2.task.gang == t.gang && held_ (agIdx (agentOf p.1))))

/-! ## Slice-end images (R400-R403) -/

/-- R403: the address of a core's image. -/
def coreImageAt (base c : Nat) : Nat := base + 0x2000000 * c
/-- R403: the address of a cluster's pooled image. -/
def poolImageAt (base k : Nat) : Nat := base + 0x80000000 + 0x4000000 * k

/-- The header of a slice-end image. -/
def sliceHead (w number len nonce : Nat) : CkptHead := ⟨0, 0, number, funcOfWorld w, 0, 0, len, nonce⟩

/-- The contents of a gang's banks in a cluster, by position in the allocation. -/
def bankImage (s : State) (cl : Nat) (banks : List Nat) : Mem :=
  (List.zip (List.range banks.length) banks).flatMap (fun p =>
    ((clusterOf s cl).pooled.filter (fun c => c.1 / bankBytes = p.2)).map (fun c => (p.1 * bankBytes + c.1 % bankBytes, c.2)))

/-- Their poisoned lines, by position in the allocation. -/
def bankPoison (s : State) (cl : Nat) (banks : List Nat) : List Nat :=
  (List.zip (List.range banks.length) banks).flatMap (fun p =>
    ((clusterOf s cl).poison.filter (fun l => l / 15360 = p.2)).map (fun l => p.1 * 15360 + l % 15360))

/-- What is saved of a task. -/
def savedOf (s : State) (a : Agent) (number : Nat) (nonce : W256) : Saved :=
  let c := agIdx a
  let k := coreOf s c
  { core := c, number := number, nonce := nonce
    ctx := { ctxOf s a with causes := [], frozen := false, dev := none, saveDue := 0 }
    data := { (if holds s (.urgent c) then corePart false k else k) with victim := none, zeroUntil := none } }

/-- What is saved of its gang's banks in its cluster. -/
def poolOf (s : State) (a : Agent) (number : Nat) (nonce : W256) : SavedPool :=
  let cl := clusterOfCore (agIdx a)
  let t := (ctxOf s a).task
  let banks := allocOf s cl t
  ⟨cl, t.launch, t.gang, number, nonce, bankImage s cl banks, bankPoison s cl banks⟩

/-- R399: a task is the last member of its gang in its cluster to leave with its unit `u`, and the gang holds banks there. -/
def lastOfUnit (s : State) (u : List Agent) (a : Agent) : Bool :=
  !(allocOf s (clusterOfCore (agIdx a)) (ctxOf s a).task).isEmpty &&
    (gangFellows s a).all (fun b => clusterOfCore (agIdx b) != clusterOfCore (agIdx a) || (u.elem b && decide (agentId b < agentId a)))

/-- Writes one image of `n` bytes at most; what its plaintext is, the spec leaves open (log entry 28). -/
def writeImage (s : State) (a : Agent) (w at_ number n : Nat) (nonce : W256) : Except Nat Unit × State :=
  let (len, s) := freeIn s 0 n
  let (v, s) := free s
  writeVirt s (dieOf a) w at_ (ckptSeal (worldOf s w).key (sliceHead w number len (nonce.toNat % 2 ^ 128)) (natBytes len v))

/-- R406: a slice-end save, or its failure, is logged. -/
def logSave (w status number : Nat) (s : State) : State :=
  logEvent 0x05 w ([0, BitVec.ofNat 8 status] ++ leBytes 4 0 ++ leBytes 8 number) s

/-- R400 Save of one task that has been taken: its image is written, and that of its gang's banks under a NONCE of its own
(R401) where it is the last of its unit; or the cause, which is logged (DEDUCED, log entry 29). -/
def saveImages (u : List Agent) (a : Agent) (s : State) : Except Nat (Saved × Option SavedPool) × State :=
  let w := (ctxOf s a).task.world
  let base := (worldOf s w).saveBase
  let (n, s) := nextCheckpoint s w
  let (r, s) := freeRandom s
  let v := savedOf s a n r
  if base = 0 then (.error 0x08, logSave w 1 n s)
  else
    match writeImage s a w (coreImageAt base v.core) n (imageBytes s a) r with
    | (.error c, s) => (.error c, logSave w 1 n s)
    | (.ok _, s) =>
      if lastOfUnit s u a then
        let (r, s) := freeRandom s
        let p := poolOf s a n r
        match writeImage s a w (poolImageAt base p.cluster) n (983040 * (ctxOf s a).task.poolbanks) r with
        | (.error c, s) => (.error c, logSave w 1 n s)
        | (.ok _, s) => (.ok (v, some p), s)
      else (.ok (v, none), s)

/-- A task whose images have been written leaves its core, still to be restored. -/
def leaveSaved (s : State) (p : Agent × Saved × Option SavedPool) : State :=
  let x := ctxOf s p.1
  let w := x.task.world
  modWorld (freeContext .saved p.1 (logSave w (if x.saveDue = 4 then 2 else 0) p.2.1.number s)) w (fun y => { y with
    saved := y.saved ++ [p.2.1], savedPools := y.savedPools ++ p.2.2.toList })

/-- The image at an address is the one saved (R400, R403) (DESIGN CHOICE, log entry 28). -/
def imageFits (s : State) (a : Agent) (w at_ number : Nat) : Bool × State :=
  match readVirt s (dieOf a) w at_ 256 with
  | (.error _, s) => (false, s)
  | (.ok h, s) =>
    let len := numAt h 0x28 8
    let key := (worldOf s w).key
    if ckptHeadOk (some key) (sliceHead w number len 0) h then
      match readVirt s (dieOf a) w at_ (ckptSize len) with
      | (.error _, s) => (false, s)
      | (.ok l, s) => ((ckptOpen key number l).2.isEmpty, s)
    else (false, s)

/-- Puts saved bank contents, with their poison, back into the banks the gang holds now. -/
def putBanks (p : SavedPool) (banks : List Nat) (s : State) : State :=
  modCluster s p.cluster (fun k => { k with
    pooled := p.data.foldl (fun m c => memSet m (banks.getD (c.1 / bankBytes) 0 * bankBytes + c.1 % bankBytes) c.2) k.pooled
    poison := k.poison ++ p.poison.map (fun l => banks.getD (l / 15360) 0 * 15360 + l % 15360) })

/-- The pooled image was saved of this task's gang in the cluster. -/
def poolOfGang (t : Task) (cl : Nat) (p : SavedPool) : Bool := p.cluster == cl && p.launch == t.launch && p.gang == t.gang

/-- R400: a saved task is verified, with its gang's banks where it is the first of its gang to come back to the cluster, and
goes on, or ends with cause 0x0A. -/
def restoreTask (a : Agent) (v : Saved) (s : State) : State :=
  let t := v.ctx.task
  let w := t.world
  let cl := clusterOfCore v.core
  let base := (worldOf s w).saveBase
  let pool := (worldOf s w).savedPools.find? (poolOfGang t cl)
  let (ok1, s) := imageFits s a w (coreImageAt base v.core) v.number
  let (ok2, s) := pool.elim (true, s) (fun p => imageFits s a w (poolImageAt base cl) p.number)
  let fits := ok1 && ok2
  let s := logEvent 0x05 w ([1, if fits then 0 else 1] ++ leBytes 4 0 ++ leBytes 8 v.number) s
  let s := modWorld s w (fun x =>
    let left := x.saved.filter (fun u => u.core != v.core)
    { x with
      saved := left
      savedPools := x.savedPools.filter (fun p => !poolOfGang t cl p ||
        (!fits && left.any (fun u => sameGang t u.ctx.task && clusterOfCore u.core == cl))) })
  if fits then
    let s1 := modCore (setCtx s a v.ctx) v.core (fun _ => v.data)
    pool.elim s1 (fun p => putBanks p (allocOf s1 cl t) s1)
  else cutTask a 0x0A s

/-- The saved image that a placed context is to be restored from. -/
def savedFor (s : State) (a : Agent) : Option Saved :=
  let x := ctxOf s a
  (worldOf s x.task.world).saved.find? (fun v => .tile v.core = a && tidOf v.ctx = tidOf x)

/-- TASK_ENTRY: the fill of a placed task ends. A task whose fill fails ends unretired; one that pre-empts waits for its
victims, of which one that is frozen already is taken now (R395, R398); a saved task goes on where it was, once the log can take
that (R381); every other issues its entry bundle in the next cycle (R439) (DESIGN CHOICE, log entry 26). The fill goes on until
what it reads has been translated (R114, R439). -/
def execTaskEntry (a : Agent) (s : State) : Out :=
  let x := ctxOf s a
  if x.live && !x.started && agTile a && x.fillUntil.elim false (fun t => decide (t ≤ s.gcyc)) then
    let s1 := modCtx s a (fun x => { x with fillUntil := none })
    match savedFor s1 a with
    | some v => .next (if logFull s then s else
        let t := restoreTask a v s1
        if walksFirst (dieOf a) s t then awaitWalks (dieOf a) s t else t)
    | none =>
      match (worldOf s1 x.task.world).launches.find? (fun l => l.n = x.task.launch) with
      | none => .next s1
      | some l =>
        let r := fillTask a l s1
        if walksFirst (dieOf a) s r.2 then .next (awaitWalks (dieOf a) s r.2)
        else
          match r.1 with
          | .error c => .next (cutTask a c r.2)
          | .ok _ =>
            .next (if preempts r.2 a then
                modCore r.2 (agIdx a) (fun k => { k with victim := k.victim.map (fun _ => r.2.gcyc) })
              else startTask a r.2)
  else .next s

/-! ## Taking a context (R395) -/

/-- The bundle due now has Q set and passes its quiet check. -/
def quietBundle (s : State) (a : Agent) : Bool :=
  match nextIssue (ctxOf s a) with
  | none => false
  | some (pc, _) =>
    !fetchRefused s a pc &&
      (match decodeBundle (kindOf a) (fetchWords s a pc) with
        | .ok (h, _) => h.q && isQuiet s a
        | .error _ => false)

/-- R395, R409: a task can be taken now: in a WAITA or TLWAIT wait, or at a quiet bundle; not in a handler, and not where a
deferred trap comes first. -/
def takePoint (s : State) (a : Agent) : Bool :=
  let x := ctxOf s a
  x.live && x.started && !x.texit && x.ended.isNone && x.susp.isNone &&
    !x.causes.any (fun c => c == .debug || c == .urgent) &&
    (match x.wait with
      | some w =>
        match w.what with
        | .monitor _ _ _ _ _ _ _ _ => true
        | .timeline _ _ _ _ => true
        | .xlate w _ _ _ _ => w
        | _ => false
      | none => canIssue x && x.resumeMask == 0 && (dueDeferred x).isNone && quietBundle s a)

/-- R395: takes a context: a quiet bundle does not issue; a wait is abandoned, and its Y slot alone issues again with the
operands it read. -/
def takeContext (a : Agent) (s : State) : State :=
  let x := ctxOf s a
  match x.wait with
  | some w =>
    let done := x.lastSlots.foldl (fun m p => if p.1 = 6 then m else m ||| 2 ^ p.1) 0
    modCtx (releaseMonitor a s) a (fun x => { x with
      wait := none, kept := some (w.opA, w.opB), doneMask := done, resumeMask := done
      cont := some (x.seqPc, x.seqAt), seqPc := x.lastPc, seqAt := x.clk, clk := x.clk - 1
      causes := x.causes.filter (fun c => c != .monitor && c != .timeline) ++ [.urgent] })
  | none =>
    if x.frozen then addCause a .urgent s
    else addCause a .urgent (undoCycle a .urgent 7 (modCtx s a (fun x => { x with doneMask := 0, resumeMask := 0 })))

/-- An urgent context has been filled and waits for the main task of its core to be taken. -/
def urgentWaits (s : State) (c : Nat) : Bool :=
  let u := ctxOf s (.urgent c)
  let k := coreOf s c
  u.live && !u.started && u.fillUntil.isNone && k.victim.isNone && holds s (.tile c)

/-- R139: the context is frozen as a victim of urgent pre-emption; one that a slice end has taken is none. -/
def isVictim (s : State) (a : Agent) : Bool :=
  agTile a && !agUrgent a && (ctxOf s a).causes.elem .urgent && (coreOf s (agIdx a)).victim.isSome

/-- R139: the charge of a context increases in the cycles to come. -/
def charges (s : State) (a : Agent) (x : Ctx) : Bool :=
  x.started && !(worldOf s x.task.world).held && !isVictim s a && !(x.task.level == 1 && (siblings s a).any (isVictim s))

/-- R139: the cycle in which a victim is taken, and its siblings stand frozen with it, is not charged. -/
def uncharge (l : List Agent) (s : State) : State :=
  l.foldl (fun s b => modCtx s b (fun x => { x with charge := x.charge - 1 })) s

/-- VICTIM_TAKE: the main task of a core is taken for the urgent context that waits there (R395). -/
def execVictimTake (core : Nat) (s : State) : Out :=
  if urgentWaits s core then
    let taken := (Agent.tile core :: siblings s (.tile core)).filter (fun b => charges s b (ctxOf s b))
    .next (uncharge taken (modCore (freezeSiblings (.tile core) (takeContext (.tile core) s)) core (fun k =>
      { k with victim := some s.gcyc })))
  else .next s

/-- The members of an urgent gang that have not started. -/
def urgentMembers (s : State) (k : GangKey) : List Agent :=
  (s.ctxs.filter (fun p => p.2.live && !p.2.started && agUrgent (agentOf p.1) && p.2.task.world == k.world &&
    p.2.task.launch == k.launch && p.2.task.gang == k.gang)).map (fun p => agentOf p.1)

/-- The zeroing of a core, if any, is over with this cycle (R106, R398). -/
def zeroingOver (s : State) (c : Nat) : Bool := (coreOf s c).zeroUntil.elim true (fun t => decide (t ≤ s.gcyc))

/-- An urgent context can issue its entry bundle in the next cycle: its fill is over, and its victim was taken 15 cycles
ago, or the core has become free. -/
def urgentReady (s : State) (a : Agent) : Bool :=
  let k := coreOf s (agIdx a)
  (ctxOf s a).fillUntil.isNone && zeroingOver s (agIdx a) &&
    (match k.victim with
      | some t => decide (t + 16 ≤ s.gcyc + 1)
      | none => !holds s (.tile (agIdx a)))

/-- URGENT_ENTRY: the members of an urgent gang start in one cycle, 16 cc after the last victim is taken; under level 0
each on its own (R395). -/
def execUrgentEntry (k : GangKey) (s : State) : Out :=
  let ms := urgentMembers s k
  let alone := ms.all (fun a => (ctxOf s a).task.level == 0)
  let go := if alone then ms.filter (urgentReady s) else if ms.all (urgentReady s) then ms else []
  .next (go.foldl (fun s a => startTask a s) s)

/-- The cores as they are once the zeroings that end with this cycle are over (R106). -/
def zeroedCores (s : State) : State :=
  { s with cores := s.cores.map (fun p => if zeroingOver s p.1 then (p.1, { p.2 with zeroUntil := none }) else p) }

/-- R398: a queued urgent gang takes the still-frozen victim of a core when the core's zeroing is over, and with it those of
every other core whose zeroing is over with this cycle. -/
def urgentTakes (s : State) (core : Nat) : Bool :=
  (coreOf s core).zeroUntil.isSome && holds (placeAll 64 (zeroedCores s)) (.urgent core)

/-- VICTIM_RESUME: a victim goes on in the cycle after the zeroing of the urgent partition ends, unless a queued urgent gang
takes it then (R398). -/
def execVictimResume (core : Nat) (s : State) : Out :=
  if (coreOf s core).victim.isSome && !holds s (.urgent core) && zeroingOver s core && !urgentTakes s core then
    let s1 := modCore s core (fun k => { k with victim := none })
    .next (if 3 ≤ (ctxOf s (.tile core)).saveDue then s1 else dropCause (.tile core) .urgent s1)
  else .next s

/-! ## Slice-end saves (R400) -/

/-- The unit of a task: its lockstep gang, or itself. -/
def unitOf (s : State) (a : Agent) : List Agent := sortBy agentId (a :: siblings s a)

/-- The operations of a task that reach what the task or its gang holds have ended (DEDUCED, log entry 30). -/
def localOpsDone (s : State) (a : Agent) : Bool :=
  !((engineOf s (agEngine a)).ops.any (fun op => op.ag == a && mineOp (ctxOf s a) op &&
    (opOwnDest op || opOwnStore op || (opScopes s op).any (fun k => decide (k ≤ 3)))))

/-- A task of a unit that a slice end has chosen stands at a point where it can be taken, or is a victim already. -/
def saveStands (s : State) (a : Agent) : Bool := (coreOf s (agIdx a)).victim.isSome || takePoint s a

/-- R400: the unit is saved whole; where an image cannot be written it is discarded if it is restartable, and otherwise
each task ends with that cause (DEDUCED, log entry 29) (DEDUCED, log entry 34). -/
def saveUnit (u : List Agent) (s : State) : State :=
  let r := u.foldl (fun (acc : Except Nat (List (Agent × Saved × Option SavedPool)) × State) a =>
    match acc.1 with
    | .error _ => acc
    | .ok l =>
      match saveImages u a acc.2 with
      | (.error c, s) => (.error c, s)
      | (.ok v, s) => (.ok (l ++ [(a, v)]), s)) (.ok [], s)
  match r with
  | (.ok l, s) => l.foldl leaveSaved s
  | (.error c, s) =>
    if u.all (fun a => (ctxOf s a).task.restartable) then u.foldl (fun s a => discardTask a s) s
    else u.foldl (fun s a => cutTask a c s) s

/-- SLICE_SAVE: a unit that a slice end has chosen is taken when every task of it can be; once its operations on what it
holds have ended, it is saved, once the log can take that (R381) (DEDUCED, log entry 30) (DEDUCED, log entry 34). -/
def execSliceSave (a : Agent) (s : State) : Out :=
  let u := unitOf s a
  let due := (ctxOf s a).saveDue
  if due = 0 then .next s
  else if agUrgent a then .next (forceDrain a s)
  else if due ≤ 2 then
    if u.all (saveStands s) then
      .next (u.foldl (fun s b =>
        let s1 := if (coreOf s (agIdx b)).victim.isSome then s else takeContext b s
        modCtx s1 b (fun x => { x with saveDue := due + 2 })) s)
    else .next s
  else if u.all (localOpsDone s) && logSpace s u.length then
    let t := saveUnit u s
    .next (if walksFirst (dieOf a) s t then awaitWalks (dieOf a) s t else t)
  else .next s

end Sys2Proof.Machine
end

