-- ==== Sys2Proof/Machine/Engines.lean ====
section
/-!
DEFINITION. What the engines do after issue: copies (spec/15_async_and_synchronisation_instructions.md R345-R348), home-slice atomics and reductions
(R349, R350; spec/16_fabric_and_switch_trust.md R375-R377), KROT, SEAL, UNSEAL and SCRUB (spec/17_interruption_and_preemption.md R404-R408),
drain atomics (spec/12_matrix_engine_and_recipes.md R272), TLADD (R351), translation fills (spec/05_placement_and_translation.md R112-R114).
When an engine acts, within what the spec allows, is a free value.
-/

namespace Sys2Proof.Machine

/-! ## Translation for engines (R113, R114) -/

/-- Notes that an operation waits for a page (R114). -/
def awaitPage (e num die w va : Nat) (s : State) : State :=
  let m : Miss := ⟨die, w, bf va 55 16⟩
  addMisses [m] (modEngine s e (fun k => { k with ops := k.ops.map (fun op =>
    if op.num = num then { op with waitPage := some m.page } else op) }))

/-- An operation waits for the page of a miss. -/
def opAwaits (op : EngOp) (m : Miss) : Bool :=
  op.waitPage == some m.page && op.world == m.world && dieOf op.ag == m.die

/-- A request waits its turn at the service program of the channel it reaches. -/
def queueRequest (o : HostReq) (w pa : Nat) (s : State) : State :=
  modChan { s with nextId := s.nextId + 1 } (chanOfRow (rowOfAddr pa)) (fun c => { c with reqs := c.reqs ++ [{
    write := o.write
    world := w
    addr := pa
    len := o.len
    data := o.data.take o.len ++ List.replicate (o.len - o.data.length) 0
    poison := false
    tag := o.f
    seq := s.nextId }] })

/-- The host requests that have waited for a miss, and those behind them of the same function while their pages are cached, go
on to their channels, in order (R114, R336); with a fault they complete with Unsupported Request. -/
def releaseHosts (o : Miss) (fault : Bool) (s : State) : State :=
  s.hostWaits.foldl (fun s q =>
    let w := worldOfFunc q.f
    if s.hostWaits.any (fun r => r.f == q.f) then { s with hostWaits := s.hostWaits ++ [q] }
    else if fault && o.die = 4 && o.world = w && q.off / 65536 = o.page then emit s (.unsupported q.f)
    else if (transLookup s 4 w q.off).isNone then { s with hostWaits := s.hostWaits ++ [q] }
    else
      match translate s 4 w q.off q.write with
      | (.error _, s) => emit s (.unsupported q.f)
      | (.ok pa, s) => if targetOf pa = 0 && svcCheck s w pa = 0 then queueRequest q w pa s else emit s (.unsupported q.f))
    { s with hostWaits := [] }

/-- What has waited on the I/O die for pages of a world goes on (R114): launches that are over end, and a CONTROL_START. -/
def afterWalk (w : Nat) (s : State) : State :=
  retryControl ((worldOf s w).launches.foldl (fun s l => closeLaunch w l.n s) s)

/-- The walk of an outstanding miss ends. A fault caches nothing and fails every operation and every host request that waits
(R112-R114). -/
def endWalk (o : Miss) (s : State) : State :=
  let s0 : State := { s with misses := s.misses.filter (fun m => m != o), walks := s.walks.filter (fun p => p.1 != o) }
  match walk s0 o.world (o.page * 65536) with
  | (.ok e, s0) =>
    let s1 := cacheTrans s0 o.die o.world (o.page * 65536) e
    let s2 := releaseHosts o false { s1 with
      engines := s1.engines.map (fun p => (p.1, { p.2 with ops := p.2.ops.map (fun op =>
        if opAwaits op o then { op with waitPage := none } else op) })) }
    if o.die = 4 then afterWalk o.world s2 else s2
  | (.error c, s0) =>
    let hit := s0.engines.flatMap (fun p => (p.2.ops.filter (fun op => opAwaits op o)).map (fun op => (p.1, op.num)))
    let s2 := releaseHosts o true (hit.foldl (fun s q => failOp q.1 q.2 c (modEngine s q.1 (fun k => { k with ops := k.ops.map (fun op =>
      if op.num = q.2 then { op with waitPage := none } else op) }))) s0)
    if o.die = 4 then afterWalk o.world s2 else s2

/-- TRANSLATION_FILL: the walk of an outstanding miss begins, and ends after a free number of cycles (R114). -/
def execTranslationFill (o : Miss) (s : State) : Out :=
  if walking s o then
    let p := walkEnd o s
    .next (if p.1 ≤ s.gcyc then endWalk o p.2 else p.2)
  else .next s

/-- Why an access of an engine does not perform now. -/
inductive Hold where
  | cause (c : Nat)
  | wait
  deriving DecidableEq, Repr

/-- The translation of an address for an operation: its physical address, its failure, or a wait for the fill. -/
def engTranslate (e : Nat) (op : EngOp) (va : Nat) (write : Bool) (s : State) : Except Hold Nat × State :=
  if 2 ^ 56 ≤ va then (.error (.cause 0x08), s)
  else
    match transLookup s (dieOf op.ag) op.world va with
    | some t => (if write && !t.w then .error (.cause 0x08) else .ok (t.frame * 65536 + va % 65536), s)
    | none => (.error .wait, awaitPage e op.num (dieOf op.ag) op.world va s)

/-! ## Pooled banks at the third priority (R200) -/

/-- A bank of a cluster takes no further access in this cycle. -/
def bankTaken (s : State) (cl bank : Nat) : Bool :=
  let k := clusterOf s cl
  k.busyAt == s.gcyc && k.busyBanks.elem bank

/-- A bank grants an access in this cycle (DESIGN CHOICE, log entry 69). -/
def takeBank (cl bank : Nat) (s : State) : State :=
  modCluster s cl (fun k => { k with
    busyAt := s.gcyc, busyBanks := if k.busyAt = s.gcyc then bank :: k.busyBanks else [bank] })

/-- The banks of the gang of an operation in a cluster (R103, R349). -/
def opBanks (s : State) (op : EngOp) (cl : Nat) : List Nat :=
  if kindOf op.ag = .steward then partBanks s cl (funcOfWorld op.world)
  else ((clusterOf s cl).allocs.find? (fun a => a.world = op.world && a.launch = op.tid.1 && a.gang = op.gang)).elim [] (·.banks)

/-- The places of a pooled range of an operation in its issuer's cluster. -/
def opPlaces (s : State) (op : EngOp) (a n : Nat) : List (Option Nat) :=
  (List.range n).map (fun i => pooledPlace (opBanks s op (clusterOfCore (agIdx op.ag))) (a + i))

/-! ## Reading a source -/

/-- What a source gives, or why it gives nothing now. -/
abbrev Read := Except Hold Got

/-- What two reads give in a row. -/
def gotAppend (a b : Got) : Got :=
  let n := a.data.length
  ⟨a.data ++ b.data, a.bad ++ b.bad.map (fun p => (p.1 + n, p.2)), a.pages ++ b.pages.map (fun p => (p.1 + n, p.2))⟩

/-- The part of a range (first, count) that lies in the `n` bytes from `o` on, counted from `o`. -/
def clip (o n : Nat) (first count : Nat) : Option (Nat × Nat) :=
  let lo := max first o
  let hi := min (first + count) (o + n)
  if lo < hi then some (lo - o, hi - lo) else none

/-- The pages of ranges that touch the `n` bytes from `o` on. -/
def clipPages (o n : Nat) (l : List (Nat × Nat × Nat)) : List (Nat × Nat × Nat) :=
  l.filterMap (fun p => (clip o n p.1 p.2.1).map (fun q => (q.1, q.2, p.2.2)))

/-- The `n` bytes from `o` on of what has been read. -/
def gotCut (o n : Nat) (g : Got) : Got :=
  ⟨(g.data.drop o).take n, g.bad.filterMap (fun p => clip o n p.1 p.2), clipPages o n g.pages⟩

/-- R345, R348: the bytes of bad ranges are zeros. -/
def zeroBad (g : Got) : List Byte :=
  if g.bad.isEmpty then g.data
  else (List.zip (List.range g.data.length) g.data).map (fun p =>
    if g.bad.any (fun b => decide (b.1 ≤ p.1) && decide (p.1 < b.1 + b.2)) then 0 else p.2)

/-- The task that issued an operation still runs. -/
def opAlive (s : State) (op : EngOp) : Bool := mineOp (ctxOf s op.ag) op

/-- The custody page that the `n` bytes of an HBM address come from. -/
def custodyPage (s : State) (u n : Nat) : List (Nat × Nat × Nat) :=
  if (regionOf s (pageOfAddr u)).isSome then [(0, n, pageOfAddr u)] else []

/-- A request of the operation for a line is outstanding. -/
def lineAsked (s : State) (e num a : Nat) : Bool := s.fabReqs.any (fun r => r.eng == e && r.num == num && r.opc == 2 && r.unit == a)

/-- Reads a range of a peer package: each line comes in a READ_DATA (R366, R371). -/
def readPeer (e : Nat) (op : EngOp) (pa n : Nat) (s : State) : Read × State :=
  let ls := linesOf pa n
  match op.lost.find? (fun f => ls.elem f.1), ls.find? (fun a => !op.fetched.any (fun f => f.1 = a)) with
  | some f, _ => (.error (.cause f.2), s)
  | none, some a =>
    if lineAsked s e op.num a then (.error .wait, s)
    else if (portFor s (peerOf pa)).isNone then (.error (.cause 0x0C), s)
    else (.error .wait, sendRequest op.world e op.num a none { newMsg 2 (peerOf pa) (fabOffset a) with nline := 1 } s)
  | none, none =>
    let got := fun (a : Nat) => (op.fetched.find? (fun f => f.1 = a)).getD (0, 0, false)
    (.ok ⟨((ls.flatMap (fun a => leBytes 64 (got a).2.1)).drop (pa % 64)).take n, lineRanges pa n (fun a => (got a).2.2), []⟩, s)

/-- Reads a physical range within one page for an operation (DESIGN CHOICE, log entry 9). -/
def readPhys (e : Nat) (op : EngOp) (pa n : Nat) (s : State) : Read × State :=
  let hbm := fun (u : Nat) => (⟨(svcRead s u n).1, lineRanges u n (fun a => (svcLine s a).2), custodyPage s u n⟩ : Got)
  match targetOf pa with
  | 0 =>
    let c := svcCheck s op.world pa
    if c != 0 then (.error (.cause c), s) else (.ok (hbm pa), noteRows s pa n)
  | 1 =>
    if dmaAllowed s op.world then
      let v := free s
      (.ok ⟨leBytes n v.1, [], []⟩, v.2)
    else (.error (.cause 0x09), s)
  | 2 =>
    if ownPackage s pa then
      let c := fabricCause s op.world (fabOffset pa)
      if c != 0 then (.error (.cause c), s)
      else if fabOffset pa < hbmBytes then (.ok (hbm (fabOffset pa)), noteRows s (fabOffset pa) n)
      else (.ok ⟨(fabricRead s (fabOffset pa) n).1, [], []⟩, s)
    else readPeer e op pa n s
  | _ => (.error (.cause 0x08), s)

/-- Reads a pooled range for an operation: every bank it touches must grant it in this cycle (DESIGN CHOICE, log entry 69). -/
def readPooled (op : EngOp) (a n : Nat) (s : State) : Read × State :=
  let cl := clusterOfCore (agIdx op.ag)
  let ps := opPlaces s op a n
  let banks := dedup (ps.filterMap (fun p => p.map placeBank))
  if banks.any (bankTaken s cl) then (.error .wait, s)
  else
    let s1 := banks.foldl (fun s b => takeBank cl b s) s
    (.ok ⟨ps.map (fun p => p.elim 0 (memGet (clusterOf s cl).pooled)),
      lineRanges a n (fun l => (pooledPlace (opBanks s op cl) l).elim false (linePoisoned s cl)), []⟩, s1)

/-- Reads `n` bytes at an address of a space of R342 for an operation. What its task held reads as zeros once the task is
gone (R105). -/
def readSpace (e : Nat) (op : EngOp) (sp a n : Nat) (s : State) : Read × State :=
  let c := agIdx op.ag
  let own := fun (l : List Byte) => (⟨if opAlive s op then l else List.replicate n 0, [], []⟩ : Got)
  match sp with
  | 0 =>
    match engTranslate e op a false s with
    | (.error h, s) => (.error h, s)
    | (.ok pa, s) => readPhys e op pa n s
  | 1 => (.ok (own (memBytes (coreOf s c).spool a n)), s)
  | 2 => readPooled op a n s
  | _ => (.ok (own (memBytes (coreOf s c).spill ((if agUrgent op.ag then 0x70000 else 0) + a) n)), s)

/-- Reads a range that may lie in two pages of device virtual memory, each translated on its own (R320, R348). -/
def readSpan (e : Nat) (op : EngOp) (sp a n : Nat) (s : State) : Read × State :=
  let k := 65536 - a % 65536
  if sp != 0 || n ≤ k then readSpace e op sp a n s
  else
    match readSpace e op sp a k s with
    | (.error h, s) => (.error h, s)
    | (.ok d, s) =>
      match readSpace e op sp (a + k) (n - k) s with
      | (.error h, s) => (.error h, s)
      | (.ok r, s) => (.ok (gotAppend d r), s)

/-! ## Writing a destination -/

/-- R367: the body of a WRITE of one line: its bytes and its mask. -/
def writeBody (off : Nat) (l : List Byte) : List Byte :=
  mergeLine (List.replicate 64 0) off l ++ leBytes 8 ((2 ^ l.length - 1) * 2 ^ off)

/-- R380: the custody pages that a line's bytes come from, one of each region: the line needs tokens of each. -/
def linePages (s : State) (l : List (Nat × Nat × Nat)) : List (Option Nat) :=
  let region := fun (p : Nat) => (regionOf s p).map (fun r => (r.1, r.2.idx))
  let ps := l.map (·.2.2)
  (dedup (ps.map region)).map (fun k => ps.find? (fun p => region p == k))

/-- Sends a line that leaves the package, through the governor where it comes from custody pages (R380). -/
def leave (e : Nat) (op : EngOp) (unit : Nat) (pages : List (Nat × Nat × Nat)) (port : Nat) (out : Output) (s : State) : State :=
  sendLines op.world port (linePages s pages) out (some (e, op.num, unit)) s

/-- Changes an operation in flight. -/
def modOp (e num : Nat) (f : EngOp → EngOp) (s : State) : State :=
  modEngine s e (fun k => { k with ops := k.ops.map (fun op => if op.num = num then f op else op) })

/-- Writes a physical range within one line for an operation: a line with a bad range is poisoned where it carries poison. -/
def writePhys (e : Nat) (op : EngOp) (unit pa : Nat) (g : Got) (s : State) : Except Hold Unit × State :=
  let l := zeroBad g
  let poison := !g.bad.isEmpty
  match targetOf pa with
  | 0 =>
    let c := svcCheck s op.world pa
    if c != 0 then (.error (.cause c), s) else (.ok (), svcWrite s pa l poison)
  | 1 =>
    if dmaAllowed s op.world then
      (.ok (), leave e op unit g.pages 0 (.dmaWrite (funcOfWorld op.world) (pa % 2 ^ 52) l (decide (2 ≤ op.world)) poison)
        (modOp e op.num (fun op => { op with wroteHost := true }) s))
    else (.error (.cause 0x09), s)
  | 2 =>
    if ownPackage s pa then
      let c := fabricCause s op.world (fabOffset pa)
      if c != 0 then (.error (.cause c), s) else (.ok (), fabricWrite s (fabOffset pa) l poison)
    else
      match portFor s (peerOf pa) with
      | none => (.error (.cause 0x0C), s)
      | some p =>
        let d := if poison then List.replicate l.length 0 else l
        let m := { newMsg 1 (peerOf pa) (fabOffset (pa / 64 * 64)) with
          op := poison.toNat, nline := 1, body := writeBody (pa % 64) d }
        (.ok (), leave e op unit g.pages (p + 1) (.fabric m) s)
  | _ => (.error (.cause 0x08), s)

/-- Writes a pooled range within one line for an operation; it carries poison (R345, R202). -/
def writePooled (op : EngOp) (a : Nat) (g : Got) (s : State) : Except Hold Unit × State :=
  let l := zeroBad g
  let poison := !g.bad.isEmpty
  let cl := clusterOfCore (agIdx op.ag)
  match pooledPlace (opBanks s op cl) a with
  | none => (.error (.cause 0x09), s)
  | some p =>
    if bankTaken s cl (placeBank p) then (.error .wait, s)
    else
      let s1 := pooledWrite (takeBank cl (placeBank p) s) cl p l
      (.ok (), if l.length = 64 || poison then setLinePoison s1 cl p poison else s1)

/-- Writes a range within one line of a space of R342 for an operation (R345). What its task held is written no more once the
task is gone (R96, R105). -/
def writeSpace (e : Nat) (op : EngOp) (unit sp a : Nat) (g : Got) (s : State) : Except Hold Unit × State :=
  let c := agIdx op.ag
  let d := zeroBad g
  match sp with
  | 0 =>
    match engTranslate e op a true s with
    | (.error h, s) => (.error h, s)
    | (.ok pa, s) => writePhys e op unit pa g s
  | 2 => writePooled op a g s
  | 1 => (.ok (), if opAlive s op then spoolWrite c a d s else s)
  | 3 => (.ok (), if opAlive s op then spillWrite c ((if agUrgent op.ag then 0x70000 else 0) + a) d s else s)
  | _ =>
    if !opAlive s op then (.ok (), s)
    else if idleHalf (ctxOf s (.tile c)) = halfOf a then (.ok (), halfWrite c a d s) else (.error (.cause 0x09), s)

/-! ## Running an operation -/

/-- The operation of a number. -/
def opOf (s : State) (e num : Nat) : Option EngOp := (engineOf s e).ops.find? (fun op => op.num = num)

/-- The operation has an access outstanding at the fabric or the governor. -/
def opOutstanding (s : State) (e num : Nat) : Bool :=
  s.fabReqs.any (fun r => r.eng == e && r.num == num && r.dom.isNone) ||
    s.governed.any (fun g => g.op.elim false (fun o => o.1 == e && o.2.1 == num))

/-- The operation acts again in the next cycle. -/
def again (e num : Nat) (s : State) : State :=
  modEngine s e (fun k => { k with ops := k.ops.map (fun op => if op.num = num then { op with at_ := s.gcyc + 1 } else op) })

/-- Whether the operation acts in this cycle is a free choice (log entry 3). -/
def engineActs (s : State) : Bool × State := let v := free s; (v.1 % 2 == 0, v.2)

/-- R346, R360: the operations before it in its queue have started, and so have the copies that its engine has taken. -/
def mayStart (s : State) (e : Nat) (op : EngOp) : Bool :=
  op.queued && (engineOf s e).ops.all (fun q => !(queueKind q.kind && q.taken.isNone && decide (q.num < op.num)) || q.started) &&
    s.engines.all (fun p => p.2.ops.all (fun q => q.taken != some e || q.started))

/-- Takes a unit off an operation's list. -/
def dropUnit (e num n : Nat) (s : State) : State :=
  modEngine s e (fun k => { k with ops := k.ops.map (fun op =>
    if op.num = num then { op with todo := op.todo.filter (· != n) } else op) })

/-- Sets the list of units of an operation that starts. -/
def setUnits (e : Nat) (op : EngOp) (l : List Nat) (s : State) : State :=
  setOp s e { op with started := true, todoSet := true, todo := l, at_ := s.gcyc + 1 }

/-- R336: a device read is issued after the operation's last write to host memory; when it completes is free. Where the world's
DMA may not be sent, it fails, and nothing is sent (R63). -/
def hostRead (e : Nat) (op : EngOp) (s : State) : State :=
  let d := free s
  if !dmaAllowed s op.world then
    again e op.num (failOp e op.num 0x09 (modOp e op.num (fun op => { op with hostRead := some s.gcyc }) s))
  else emit (modOp e op.num (fun op => { op with hostRead := some (s.gcyc + 1 + d.1), at_ := s.gcyc + 1 + d.1 }) d.2)
    (.dmaRead (funcOfWorld op.world) (decide (2 ≤ op.world)))

/-- Ends an operation when nothing of it is outstanding; a SEAL or UNSEAL is logged (R406), when the log has room (R381). -/
def endOp (e num : Nat) (s : State) : State :=
  match opOf s e num with
  | none => s
  | some op =>
    if opOutstanding s e num || (logFull s && (op.kind == .seal || op.kind == .unseal)) then again e num s
    else if op.wroteHost && op.hostRead.isNone then hostRead e op s
    else
      let s1 := if op.kind = .seal ∨ op.kind = .unseal then
          logEvent 0x05 op.world ([if op.kind = .seal then 0 else 1, if op.fail.isSome then 1 else 0] ++ leBytes 4 0 ++
            leBytes 8 op.aux) s
        else s
      completeOp s1 e num

/-- Runs an operation at its time: a start waits its turn, a stopped one ends, and otherwise `act` makes its next step. -/
def runOp (e num : Nat) (kinds : List EngKind) (start act : EngOp → State → State) (s : State) : Out :=
  match opOf s e num with
  | none => .next s
  | some op =>
    if !kinds.elem op.kind || decide (s.gcyc < op.at_) then .next s
    else
      let c := engineActs s
      if op.stopped then .next (endOp e num c.2)
      else if !c.1 then .next (again e num c.2)
      else if !op.todoSet then .next (if mayStart c.2 e op || op.taken.isSome then start op c.2 else again e num c.2)
      else .next (act op c.2)

/-! ## Copies (R345, R348) -/

/-- R348: the weight keys of a MODE 1 copy; none where the world holds no such key. -/
def weightKeys (s : State) (op : EngOp) : Option (W256 × W256) :=
  (keyOfWorld s op.world (cpKeyid op.desc) 2).map (fun k =>
    let salt := natBytes 4 (cpObj op.desc)
    (hkdf (keyBytes k) salt (ascii "qualas weight enc"), hkdf (keyBytes k) salt (ascii "qualas weight mac")))

/-- R348: granule `i` of a sealed object opened: its bytes, and whether its check failed. -/
def openGranule (s : State) (op : EngOp) (i : Nat) (ct : List Byte) (mac : Nat) : List Byte × Bool :=
  match weightKeys s op with
  | none => (List.replicate 256 0, true)
  | some k =>
    let g := bf (op.x.toNat + 256 * i) 39 8
    let id := natBytes 4 (cpObj op.desc) ++ natBytes 4 g
    if mac8 k.2 (id ++ toNats ct) = mac then
      (toBytes (xorBytes (toNats ct) (ctrStream k.1 ((List.range 16).map (fun j => id ++ natBytes 4 j ++ [0, 0, 0, 0])))), false)
    else (List.replicate 256 0, true)

/-- Reads the granules that a unit of a MODE 1 copy needs, opened and checked: what they give, and whether a check failed. A
granule whose check fails is bad as a whole, and so is one whose MAC is poisoned; else its poisoned lines are. -/
def readGranules (e : Nat) (op : EngOp) : List Nat → State → Except Hold (Got × Bool) × State
  | [], s => (.ok (⟨[], [], []⟩, false), s)
  | i :: is, s =>
    match readSpan e op 0 (op.x.toNat + 256 * i) 256 s with
    | (.error h, s) => (.error h, s)
    | (.ok d, s) =>
      match readSpan e op 0 (cpMac op.desc + 8 * i) 8 s with
      | (.error h, s) => (.error h, s)
      | (.ok m, s) =>
        let g := openGranule s op i d.data (leNat m.data)
        let got : Got := ⟨g.1, if g.2 || !m.bad.isEmpty then [(0, 256)] else d.bad, d.pages⟩
        match readGranules e op is s with
        | (.error h, s) => (.error h, s)
        | (.ok r, s) => (.ok (gotAppend got r.1, g.2 || r.2), s)

/-- What a unit of a copy moves, and the cause of a failed check or a poisoned source. -/
def unitData (e : Nat) (op : EngOp) (u : CopyUnit) (s : State) : Except Hold (Got × Option Nat) × State :=
  let poison := fun (g : Got) => if g.bad.isEmpty then none else some 0x0B
  if cpMode op.desc = 1 then
    let o := u.src - op.x.toNat
    let first := o / 256
    let r := readGranules e op ((List.range ((o + u.len - 1) / 256 - first + 1)).map (first + ·)) s
    match r with
    | (.error h, s) => (.error h, s)
    | (.ok d, s) =>
      let g := gotCut (o - 256 * first) u.len d.1
      (.ok (g, if d.2 then some 0x0A else poison g), s)
  else
    match readSpan e op (cpSsp op.desc) u.src u.len s with
    | (.error h, s) => (.error h, s)
    | (.ok d, s) => (.ok (d, poison d), s)

/-- Keeps, or lets go, what a copy has read and not yet written. -/
def keepUnit (e num : Nat) (h : Option HeldUnit) (s : State) : State :=
  modEngine s e (fun k => { k with ops := k.ops.map (fun op => if op.num = num then { op with held := h } else op) })

/-- A unit that has been read is written; where its destination must wait it is kept. -/
def writeUnit (e : Nat) (op : EngOp) (h : HeldUnit) (s : State) : State :=
  let u := copyUnit op.desc op.x op.z h.unit
  let written := fun (s : State) => keepUnit e op.num none (dropUnit e op.num h.unit s)
  match writeSpace e op h.unit (cpDsp op.desc) u.dst h.got s with
  | (.error .wait, s) => keepUnit e op.num (some h) s
  | (.error (.cause c), s) => failOp e op.num c (written s)
  | (.ok _, s) =>
    match h.cause with
    | some c => failOp e op.num c (written s)
    | none => written s

/-- A unit of a copy is read, fails or waits. -/
def readUnit (e : Nat) (op : EngOp) (n : Nat) (s : State) : State :=
  match unitData e op (copyUnit op.desc op.x op.z n) s with
  | (.error .wait, s) => s
  | (.error (.cause c), s) => failOp e op.num c (dropUnit e op.num n s)
  | (.ok d, s) => keepUnit e op.num (some ⟨n, d.1, d.2⟩) s

/-- The next step of a copy: what it has read is written, or a unit of free choice is read, or it ends. Reads and writes of one
unit are steps of their own: each performs in its group of its cycle (R196). -/
def copyAct (e : Nat) (op : EngOp) (s : State) : State :=
  match op.held, op.todo with
  | some h, _ => again e op.num (writeUnit e op h s)
  | none, [] => endOp e op.num s
  | none, l =>
    let v := free s
    again e op.num (readUnit e op (l.getD (v.1 % l.length) 0) v.2)

/-- The step of an operation that is due is one that reads, or that reads and writes at once (R196, R209). -/
def engReads (op : EngOp) : Bool :=
  match op.kind with
  | .hatom => !op.performed
  | .seal => op.todoSet && !op.performed && !op.todo.isEmpty
  | .unseal => op.todoSet && !op.performed && !op.todo.isEmpty
  | .cpy => op.todoSet && op.held.isNone && !op.todo.isEmpty
  | .cpyr => op.todoSet && op.held.isNone && !op.todo.isEmpty
  | _ => false

/-- A copy starts. A MODE 1 copy without its key fails and writes nothing (R348). -/
def copyStart (e : Nat) (op : EngOp) (s : State) : State :=
  if cpMode op.desc = 1 && (weightKeys s op).isNone then failOp e op.num 0x0A (setUnits e op [] s)
  else setUnits e op (copyUnits op.desc op.z) s

/-! ## Reductions (R350, R375-R377) -/

/-- R377: contributions merged into window `n`. -/
def countMerged (n k : Nat) (s : State) : State :=
  { s with colls := tabMod ⟨0, none⟩ s.colls n (fun c => { c with value := c.value + k }) }

/-- R375: one merging write of the home collective engine into a window's word. -/
def mergeWord (d : WinDesc) (off op : Nat) (b : Word) (k : Nat) (s : State) : State :=
  let m := wd (memNat s.windowMem off 8)
  countMerged d.window k { s with windowMem := memPutNat s.windowMem off 8 (reduceOp op m b).toNat }

/-- R376: the window installed here for a world, homed at package `h`, that covers an offset of window memory. -/
def windowFor (s : State) (w h off : Nat) : Option WinDesc :=
  match (worldOf s w).job with
  | some j => j.windows.find? (fun d => d.home = h && decide (d.base ≤ off) && decide (off < d.base + d.size))
  | none => none

/-- The contribution of a RED leaves, or is merged here (R376). -/
def redAct (e : Nat) (op : EngOp) (s : State) : State :=
  if op.performed then endOp e op.num s
  else
    match engTranslate e op op.x.toNat true s with
    | (.error .wait, s) => again e op.num s
    | (.error (.cause c), s) => failOp e op.num c (setOp s e { op with performed := true, at_ := s.gcyc + 1 })
    | (.ok pa, s) =>
      let off := fabOffset pa - windowBase
      let done := fun (s : State) => setOp s e { op with performed := true, at_ := s.gcyc + 1 }
      let win := if targetOf pa = 2 ∧ windowBase ≤ fabOffset pa ∧ off < windowBytes then windowFor s op.world (peerOf pa) off else none
      match win with
      | none => failOp e op.num 0x08 (done s)
      | some d =>
        if ownPackage s pa then
          (if d.mode = 1 then failOp e op.num 0x0C (done s) else done (mergeWord d off op.op op.z 1 s))
        else if (portFor s (peerOf pa)).isNone then failOp e op.num 0x0C (done s)
        else done (sendRequest op.world e op.num 0 none
          { newMsg 3 (peerOf pa) (fabOffset pa) with op := op.op + 8 * d.mode, body := leBytes 8 op.z.toNat } s)

/-- COPY_COMPLETE: the next access of a copy or of a reduction performs, or the operation completes (R345, R350). -/
def execCopyComplete (e n : Nat) (s : State) : Out :=
  match opOf s e n with
  | some op =>
    if op.kind = .red then
      if s.gcyc < op.at_ then .next s
      else
        let c := engineActs s
        .next (if op.stopped then endOp e n c.2 else if c.1 && op.queued then redAct e op c.2 else again e n c.2)
    else runOp e n [.cpy, .cpyr] (copyStart e) (copyAct e) s
  | none => .next s

/-! ## Relocation (R347) -/

/-- CPY and CPYR. -/
def copyKind (k : EngKind) : Bool := k == .cpy || k == .cpyr

/-- Copies of a core's queue that have not started. -/
def unstarted (s : State) (c : Nat) : List EngOp :=
  (engineOf s c).ops.filter (fun op => copyKind op.kind && op.queued && !op.started && op.taken.isNone)

/-- The engine of a core runs a copy: of its own queue, or one taken. -/
def engineRuns (s : State) (c : Nat) : Bool :=
  (engineOf s c).ops.any (fun op => copyKind op.kind && op.started && op.taken.isNone) ||
    (clusterCores c).any (fun j => (engineOf s j).ops.any (fun op => op.taken == some c))

/-- The core is held by a task of the world and is not being zeroed. -/
def heldByWorld (s : State) (c w : Nat) : Bool :=
  (coreOf s c).zeroUntil.isNone && [Agent.tile c, .urgent c].any (fun a => (ctxOf s a).live && (ctxOf s a).task.world == w)

/-- COPY_TAKE: an idle copy engine takes the oldest unstarted CPYR of the sibling queue with the most unstarted copies; ties
go to the lowest core (R347). -/
def execCopyTake (core : Nat) (s : State) : Out :=
  if engineRuns s core || !(unstarted s core).isEmpty then .next s
  else
    let cands := ((clusterCores core).filter (· != core)).filter (fun j => !(unstarted s j).isEmpty)
    match (sortBy (fun j => (1000 - (unstarted s j).length) * 4 + j % 4) cands).head? with
    | none => .next s
    | some j =>
      match (unstarted s j).find? (fun op => op.kind == .cpyr && heldByWorld s core op.world) with
      | none => .next s
      | some op => .next (setOp s j { op with taken := some core, at_ := s.gcyc + 1 })

/-! ## Home-slice atomics (R349) -/

/-- An older HATOM of the same task to the same word has still to perform (R329). -/
def atomBehind (s : State) (e : Nat) (op : EngOp) : Bool :=
  (engineOf s e).ops.any (fun q => q.kind == .hatom && decide (q.num < op.num) && q.ag == op.ag && q.tid == op.tid &&
    bits q.x 29 26 == bits op.x 29 26 && q.aux == op.aux && !q.performed)

/-- HATOM_PERFORM: the home bank grants the operation; with RET the old word is then written to its return word, and the
operation completes (R349). A poisoned line is left alone and fails it (R202). -/
def execHatomPerform (e n : Nat) (s : State) : Out :=
  match opOf s e n with
  | none => .next s
  | some op =>
    if op.kind != .hatom || decide (s.gcyc < op.at_) then .next s
    else
      let c := engineActs s
      let s := c.2
      if op.stopped then .next (endOp e n s)
      else if op.performed then
        let s1 := if op.ret && op.fail.isNone && opAlive s op then
            spoolWrite (agIdx op.ag) (hatomReturn op.x) (leBytes 8 op.z.toNat) s else s
        .next (endOp e n s1)
      else
        let cl := bits op.x 29 26
        let bank := placeBank op.aux
        let done := fun (op : EngOp) (s : State) => setOp s e { op with performed := true, at_ := s.gcyc + 1 }
        if s.cutDies.elem (cl / 4) then .next (done { op with fail := some 0x0C } s)
        else if !c.1 || !op.queued || atomBehind s e op || bankTaken s cl bank then .next (again e n s)
        else
          let s1 := takeBank cl bank s
          if !(opBanks s op cl).elem bank then .next (endOp e n (done op s))
          else if linePoisoned s1 cl op.aux then .next (done { op with fail := some 0x0B } s1)
          else
            let m := wd (leNat (pooledBytes s1 cl op.aux 8))
            let s2 := pooledWrite s1 cl op.aux (leBytes 8 (atomicOp op.op m op.z op.cmp).toNat)
            let s3 := done { op with z := m } s2
            .next (if op.ret then s3 else endOp e n s3)

/-! ## KROT (R407) -/

/-- R407: every line of a row moves to the next key generation. -/
def rotateRow (s : State) (q : Nat) : State :=
  let r : RowRef := ⟨q, q⟩
  if isCleared s q then s
  else
    let old := allLines.map (fun i => readLine s r [] i)
    let s1 := modMeta s r (fun x => { x with kg := (x.kg + 1) % 4 })
    let e := (List.zip allLines old).foldl (fun (acc : State × List Nat) p => writeLine acc.1 r acc.2 p.1 p.2.1 p.2.2) (s1, [])
    (closeRow e.1 r e.2 true).1

/-- R407: rotates a row group. -/
def rotateGroup (s : State) (g : Nat) : State := (List.range 256).foldl (fun s i => rotateRow s (g * 256 + i)) s

/-- The next page of a KROT (DEDUCED, log entry 37). -/
def krotAct (e : Nat) (op : EngOp) (s : State) : State :=
  if op.z.toNat ≤ op.aux then endOp e op.num s
  else
    let va := op.x.toNat + 65536 * op.aux
    match engTranslate e op va true s with
    | (.error .wait, s) => again e op.num s
    | (.error (.cause c), s) => again e op.num (setOp (failOp e op.num c s) e
        { op with fail := some c, stopped := true, todo := [] })
    | (.ok pa, s) =>
      let c := if targetOf pa = 0 then svcCheck s op.world pa else 0x09
      if c != 0 then again e op.num (setOp s e { op with fail := some c, stopped := true, todo := [] })
      else
        let g := pageOfAddr pa / 7
        let s1 := if op.bad.elem g then s else rotateGroup (noteSoft s pa) g
        setOp s1 e { op with aux := op.aux + 1, at_ := s.gcyc + 1, bad := if op.bad.elem g then op.bad else g :: op.bad }

/-- KROT_COMPLETE: the next page's row group is rotated, or the operation completes. -/
def execKrotComplete (e n : Nat) (s : State) : Out := runOp e n [.krot] (fun op s => setUnits e op [] s) (krotAct e) s

/-! ## SEAL and UNSEAL (R405, R406) -/

/-- Reads the next piece of an operation's source into its data; a poisoned line fails it (R345, R405) (DEDUCED, log entry 33). -/
def gatherPiece (e : Nat) (op : EngOp) (sp a n o : Nat) (s : State) : State :=
  match readSpace e op sp (a + o) (min (64 - (a + o) % 64) (n - o)) s with
  | (.error .wait, s) => again e op.num s
  | (.error (.cause c), s) => again e op.num (setOp s e { op with fail := some (op.fail.elim c (min c)), stopped := true, todo := [] })
  | (.ok d, s) => setOp s e { op with
      todo := op.todo.filter (· != o)
      data := op.data ++ d.data
      pages := op.pages ++ d.pages.map (fun p => (p.1 + o, p.2))
      fail := if d.bad.isEmpty then op.fail else some (op.fail.elim 0x0B (min 0x0B))
      stopped := !d.bad.isEmpty && op.kind == .seal
      at_ := s.gcyc + 1 }

/-- R380, R405, R406: the custody pages of what `n` bytes from `o` on of the prepared data were read from: the ciphertext of a
checkpoint follows its 256-byte header, which comes from none, and so does not its MACs. -/
def piecePages (op : EngOp) (o n : Nat) : List (Nat × Nat × Nat) :=
  if op.kind = .seal then (if 256 ≤ o then clipPages (o - 256) n op.pages else []) else clipPages (256 + o) n op.pages

/-- Writes the next piece of an operation's prepared data. -/
def spreadPiece (e : Nat) (op : EngOp) (sp a o : Nat) (s : State) : State :=
  let n := min (64 - (a + o) % 64) (op.data.length - o)
  let bad := op.bad.filterMap (fun g => clip o n (256 * g) 256)
  match writeSpace e op o sp (a + o) ⟨(op.data.drop o).take n, bad, piecePages op o n⟩ s with
  | (.error .wait, s) => again e op.num s
  | (.error (.cause c), s) => again e op.num (failOp e op.num c (dropUnit e op.num o s))
  | (.ok _, s) => again e op.num (dropUnit e op.num o s)

/-- The next step of a SEAL: a piece of its source; then the checkpoint is made; then a piece of it is written
(DEDUCED, log entry 33). -/
def sealAct (e : Nat) (op : EngOp) (s : State) : State :=
  match op.todo with
  | o :: _ =>
    if op.performed then spreadPiece e op 0 op.z.toNat o s
    else gatherPiece e op (cpSsp op.desc) op.x.toNat (cpLen op.desc) o s
  | [] =>
    if op.performed then endOp e op.num s
    else
      match (worldOf s op.world).keys.find? (fun k => k.keyid = cpKeyid op.desc) with
      | none => again e op.num (setOp s e { op with fail := some 0x0A, stopped := true })
      | some k =>
        let h : CkptHead := ⟨1, 1, op.aux, funcOfWorld op.world, cpKeyid op.desc, cpObj op.desc, cpLen op.desc,
          op.nonce.toNat % 2 ^ 128⟩
        let d := ckptSeal k.key h (toNats op.data)
        setOp s e { op with performed := true, data := d, todo := pieces op.z.toNat d.length, at_ := s.gcyc + 1 }

/-- A SEAL starts; without its key it fails and writes nothing. -/
def sealStart (e : Nat) (op : EngOp) (s : State) : State :=
  if (worldOf s op.world).keys.any (fun k => k.keyid == cpKeyid op.desc) then
    setUnits e op (pieces op.x.toNat (cpLen op.desc)) s
  else setOp s e { op with started := true, fail := some 0x0A, stopped := true, at_ := s.gcyc + 1 }

/-- SEAL_COMPLETE: the next step of a SEAL (R405). -/
def execSealComplete (e n : Nat) (s : State) : Out := runOp e n [.seal] (sealStart e) (sealAct e) s

/-- R406: the header that an UNSEAL expects. -/
def unsealHead (op : EngOp) : CkptHead := ⟨1, 1, op.aux, 0, cpKeyid op.desc, cpObj op.desc, cpLen op.desc, 0⟩

/-- The next step of an UNSEAL: the header's lines are read and checked; then the rest; then the opened bytes are written. -/
def unsealAct (e : Nat) (op : EngOp) (s : State) : State :=
  let size := ckptSize (cpLen op.desc)
  match op.todo with
  | o :: _ =>
    if op.performed then spreadPiece e op (cpDsp op.desc) op.z.toNat o s
    else gatherPiece e op 0 op.x.toNat size o s
  | [] =>
    if op.performed then endOp e op.num s
    else
      let key := ((worldOf s op.world).keys.find? (fun k => k.keyid = cpKeyid op.desc)).map (·.key)
      if !ckptHeadOk key (unsealHead op) op.data then
        again e op.num (setOp s e { op with fail := some 0x0A, stopped := true })
      else if op.data.length < size then
        setOp s e { op with todo := (pieces op.x.toNat size).filter (fun o => decide (256 ≤ o)), at_ := s.gcyc + 1 }
      else
        let r := ckptOpen (key.getD 0) op.aux op.data
        setOp s e { op with
          performed := true, data := r.1, bad := r.2, todo := pieces op.z.toNat r.1.length
          fail := if r.2.isEmpty then op.fail else some (op.fail.elim 0x0A (min 0x0A)), at_ := s.gcyc + 1 }

/-- UNSEAL_COMPLETE: the next step of an UNSEAL (R406). -/
def execUnsealComplete (e n : Nat) (s : State) : Out :=
  runOp e n [.unseal] (fun op s => setUnits e op (pieces op.x.toNat 256) s) (unsealAct e) s

/-! ## SCRUB (R408) -/

/-- The pieces of a SCRUB: a Spool range by blocks, a pooled range by lines, a landing range at once. -/
def scrubPieces (op : EngOp) : List Nat :=
  let a := op.x.toNat
  let n := op.z.toNat
  match op.op with
  | 0 => (List.range ((a + n - 1) / blockBytes - a / blockBytes + 1)).map (fun i => max a ((a / blockBytes + i) * blockBytes) - a)
  | 1 => pieces a n
  | _ => [0]

/-- R408: zeros of a Spool piece; a held block covered in full becomes clean. -/
def scrubSpool (c lo hi : Nat) (s : State) : State :=
  let b := lo / blockBytes
  modCore s c (fun k =>
    let k1 := markBlocks [b] { k with spool := memZero k.spool lo hi }
    if hi = lo + blockBytes then { k1 with clean := b :: k1.clean } else k1)

/-- The next piece of a SCRUB. -/
def scrubAct (e : Nat) (op : EngOp) (s : State) : State :=
  let a := op.x.toNat
  let n := op.z.toNat
  match op.todo with
  | [] => endOp e op.num s
  | o :: _ =>
    match op.op with
    | 0 =>
      let lo := a + o
      let hi := min (a + n) ((lo / blockBytes + 1) * blockBytes)
      again e op.num (dropUnit e op.num o (if opAlive s op then scrubSpool (agIdx op.ag) lo hi s else s))
    | 1 =>
      match writePooled op (a + o) ⟨List.replicate (min (64 - (a + o) % 64) (n - o)) 0, [], []⟩ s with
      | (.error .wait, s) => again e op.num s
      | (.error (.cause c), s) => again e op.num (failOp e op.num c (dropUnit e op.num o s))
      | (.ok _, s) => again e op.num (dropUnit e op.num o s)
    | _ =>
      let lo := a % 65536
      let zero := fun (s : State) => modChan s (bf a 23 16) (fun c => { c with
        slice := memZero c.slice lo (lo + n)
        slicePoison := c.slicePoison.filter (fun l => decide (l < lo / 64) || decide ((lo + n) / 64 ≤ l)) })
      again e op.num (dropUnit e op.num o (if worldChannel s op.world (bf a 23 16) then zero s else s))

/-- SCRUB_COMPLETE: the next piece of a SCRUB performs, or the operation completes (R408). -/
def execScrubComplete (e n : Nat) (s : State) : Out :=
  runOp e n [.scrub] (fun op s => setUnits e op (scrubPieces op) s) (scrubAct e) s

/-! ## Drain atomics (R272) -/

/-- The place of a drain atomic's pooled word: its cluster and place, while the gang holds it. -/
def drainPlace (s : State) (d : DrainAtomic) : Option (Nat × Nat) :=
  let cl := if d.amx = 2 then clusterOfCore (agIdx d.ag) else bf d.addr 29 26
  let banks := ((clusterOf s cl).allocs.find? (fun a => a.world = d.world && a.launch = d.launch && a.gang = d.gang)).elim
    [] (·.banks)
  (pooledPlace banks (d.addr % 2 ^ 26)).map (fun p => (cl, p))

/-- DRAIN_ATOMIC_PERFORM: the unsigned maximum is written to the word; a poisoned line is left alone (R272, R202). -/
def execDrainAtomicPerform (id : Nat) (s : State) : Out :=
  match s.atomics.find? (fun d => d.id = id) with
  | none => .next s
  | some d =>
    if s.gcyc < d.at_ then .next s
    else
      let gone := fun (s : State) => { s with atomics := s.atomics.filter (fun q => q.id != id) }
      let c := agIdx d.ag
      if d.amx = 1 then
        let x := ctxOf s d.ag
        if x.live && x.task.launch == d.launch && x.task.world == d.world then
          let m := memNat (coreOf s c).spool d.addr 8
          .next (gone (spoolWrite c d.addr (leBytes 8 (max m d.value)) s))
        else .next (gone s)
      else
        match drainPlace s d with
        | none => .next (gone s)
        | some (cl, p) =>
          if bankTaken s cl (placeBank p) then .next s
          else
            let s1 := takeBank cl (placeBank p) s
            if linePoisoned s1 cl p then .next (gone s1)
            else
              let m := leNat (pooledBytes s1 cl p 8)
              .next (gone (pooledWrite s1 cl p (leBytes 8 (max m d.value))))

/-! ## TLADD (R351) -/

/-- The operations that the task issued before a TLADD have completed, and the older TLADDs of the same task have taken effect. The slot and
yarn accesses before it in local order performed in its issue cycle or earlier (R329). -/
def tladdReady (s : State) (t : TlAddOp) : Bool :=
  t.ops.all (fun p => if p.1 = drainEngine then !s.atomics.any (fun d => d.id == p.2)
    else !(engineOf s p.1).ops.any (fun op => op.num == p.2)) &&
    !s.tladds.any (fun q => q.ag == t.ag && q.world == t.world && q.tid == t.tid && q.entry == t.entry && decide (q.id < t.id))

/-- TLADD_EFFECT: a signal timeline advances, saturating (R351). -/
def execTladdEffect (id : Nat) (s : State) : Out :=
  match s.tladds.find? (fun t => t.id = id) with
  | none => .next s
  | some t =>
    if tladdReady s t then
      .next (modWorld { s with tladds := s.tladds.filter (fun q => q.id != id) } t.world (fun w => { w with
        signals := tabMod 0 w.signals t.idx (fun v => min (v + t.amount) (2 ^ 64 - 1)) }))
    else .next s

end Sys2Proof.Machine
end

