-- ==== Sys2Proof/Machine/Wakes.lean ====
section
/-!
DEFINITION. What ends a wait: monitors and timelines (spec/04_launch_and_scheduling.md R77-R80; spec/15_async_and_synchronisation_instructions.md R352;
spec/13_memory_channels_and_segmented_banks.md R317), the landings of a domain and what a completed phase does (spec/15_async_and_synchronisation_instructions.md R354-R357;
spec/16_fabric_and_switch_trust.md R378), fences and full queues (spec/14_memory_model.md R331; spec/15_async_and_synchronisation_instructions.md R346).
-/

namespace Sys2Proof.Machine

/-- The predicate pair that a wait leaves, seen by the bundle that issues next. -/
def putPair (a : Agent) (k : Nat) (v : Bool) (s : State) : State :=
  modCtx s a (fun x => { x with pend := x.pend ++ [⟨x.clk + 1, x.clk, 6, .pair k v⟩] })

/-- Sets the last frozen cycle of a context's wait. -/
def setUntil (a : Agent) (u : Option Nat) (s : State) : State :=
  modCtx s a (fun x => { x with wait := x.wait.map (fun w => { w with until_ := u }) })

/-- A time that is known has come. -/
def isPast (s : State) (u : Option Nat) : Bool := u.elim false (fun t => decide (t ≤ s.gcyc))

/-! ## Monitors (R77-R80) -/

/-- WAITA returns: its entry is given back, and the pair is written. -/
def endMonitor (a : Agent) (k : Nat) (v : Bool) (s : State) : State :=
  putPair a k v (endWait a .monitor (releaseMonitor a s))

/-- R78: a read of the watched word fails: the monitor is released, and the slot alone traps. -/
def trapMonitor (a : Agent) (w : Wait) (cause : Nat) (s : State) : State :=
  let s1 := endWait a .monitor (releaseMonitor a s)
  lateSlotTrap a 6 cause w.undo (modCtx s1 a (fun x => { x with
    kept := if w.reissued then some (w.opA, w.opB) else none }))

/-- The word is read again after a write: the cause of a failed read, or whether the condition holds. -/
def lookAgain (s : State) (a : Agent) (pa cond : Nat) (cmp : Word) : Except Nat Bool :=
  if cond = 4 then .ok true
  else (readWatch s (ctxOf s a).task.world pa).map (fun v => condHolds cond v cmp)

/-- R68, R114: slot Y of a wait that a cause other than its own result ends issues again alone, with the operands it read. -/
def reissueY (a : Agent) (c : Freeze) (v : Wait) (s : State) : State :=
  let x := ctxOf s a
  let done := x.lastSlots.foldl (fun m p => if p.1 = 6 then m else m ||| 2 ^ p.1) 0
  dropCause a c (setCtx s a { x with
    wait := none
    kept := some (v.opA, v.opB)
    resumeMask := done
    cont := some (x.seqPc, x.seqAt)
    seqPc := x.lastPc
    seqAt := x.clk
    clk := x.clk - 1 })

/-- R77, R79: the cycle of the first write that a waiter's monitor has observed since it was armed or looked. -/
def monitorHit (s : State) (a : Agent) : Option Nat := (s.monitors.find? (fun m => m.ag = a)).bind (·.hit)

/-- The monitor of a waiter looks: what it has observed is taken up. -/
def clearHit (a : Agent) (s : State) : State :=
  { s with monitors := s.monitors.map (fun m => if m.ag = a then { m with hit := none } else m) }

/-- R291: the word is read, and its node's check counts, unless the condition asks for any write. -/
def noteLook (cond pa : Nat) (s : State) : State := if cond = 4 then s else noteSoft s pa

/-- MONITOR_WAKE: a write to the watched line is observed, and no later than 512 cc after it the word is read again; a met
condition ends the wait (DEDUCED, log entry 70). A WAITA whose page has been walked is armed, and a LAUNCH whose pages have been
issues again (R114). -/
def execMonitorWake (a : Agent) (s : State) : Out :=
  match (ctxOf s a).wait with
  | none => .next s
  | some w =>
    match w.what with
    | .monitor pa cond cmp k t0 tmo seen die =>
      if !seen then
        match monitorHit s a with
        | some g =>
          let d := freeIn s 0 512
          .next (modCtx d.2 a (fun x => { x with wait := some { w with
            what := .monitor pa cond cmp k t0 tmo true die, until_ := some (g + d.1) } }))
        | none => .next s
      else if isPast s w.until_ then
        let s := clearHit a (noteLook cond pa s)
        match lookAgain s a pa cond cmp with
        | .error c => .next (trapMonitor a w c s)
        | .ok true => .next (endMonitor a k true s)
        | .ok false => .next (modCtx s a (fun x => { x with wait := some { w with
            what := .monitor pa cond cmp k t0 tmo false die, until_ := none } }))
      else .next s
    | .xlate waita cond k tmo l =>
      if l.any s.misses.elem then .next s
      else if waita then
        let s := (watchPlace s a cond w.opA.toNat).elim s (noteSoft s)
        match armWaita a cond k tmo w s with
        | .error c => .next (trapMonitor a w c s)
        | .ok (some v, s) => .next (endMonitor a k v s)
        | .ok (none, s) => .next s
      else .next (reissueY a .launchHold w s)
    | _ => .next s

/-- WAITA_TIMEOUT: the time of TMO has passed; a write that has been observed is still looked at (DEDUCED, log entry 59). -/
def execWaitaTimeout (a : Agent) (s : State) : Out :=
  match (ctxOf s a).wait with
  | none => .next s
  | some w =>
    match w.what with
    | .monitor pa cond cmp k t0 tmo _ _ =>
      if tmo != 0 && decide (t0 + tmo ≤ s.gcyc) then
        let looks := (monitorHit s a).isSome
        let s := if looks then noteLook cond pa s else s
        match (if looks then lookAgain s a pa cond cmp else .ok false) with
        | .error c => .next (trapMonitor a w c s)
        | .ok v => .next (endMonitor a k v s)
      else .next s
    | _ => .next s

/-! ## Timelines (R352, R317) -/

/-- TIMELINE_WAKE: once the timeline has reached the value, TLWAIT ends within 64 cc with its pair, which says what held then
(R352, R360), and the bundle after DWAIT issues in one of the next 16 chc (R317, R414) (DEDUCED, log entry 70). -/
def execTimelineWake (a : Agent) (s : State) : Out :=
  match (ctxOf s a).wait with
  | none => .next s
  | some w =>
    let world := (ctxOf s a).task.world
    match w.what with
    | .timeline t n k ok =>
      if isPast s w.until_ then .next (putPair a k ok (endWait a .timeline s))
      else if w.until_.isNone && tlMet s a world t n then
        let d := freeIn s 0 64
        let v := tlOk s a world t n
        .next (if d.1 = 0 then putPair a k v (endWait a .timeline d.2)
          else modCtx d.2 a (fun x => { x with wait := some { w with what := .timeline t n k v, until_ := some (s.gcyc + d.1) } }))
      else .next s
    | .dwait t n =>
      if isPast s w.until_ then .next (endWait a .timeline s)
      else if w.until_.isNone && decide (n ≤ tlValue s world t) then
        let d := freeIn s 0 15
        .next (setUntil a (some (2 * (nowChc s + d.1) + 1)) d.2)
      else .next s
    | _ => .next s

/-! ## Domains (R354-R357, R378) -/

/-- Contexts that wait for the open phase of a domain. -/
def phaseWaiters (s : State) (k : DomKey) (phase : Nat) : List Agent :=
  (s.ctxs.filter (fun p => p.2.live && domKey p.2.task == k &&
    (match p.2.wait with
      | some w => (match w.what with
        | .barrier n _ => n == phase
        | _ => false)
      | none => false))).map (fun p => agentOf p.1)

/-- R378: a message about a phase of a domain failed: every party that waits for that phase resumes and traps 0x0C before
its next bundle, and so does every party that waits for it later (DEDUCED, log entry 45). -/
def failDom (k : DomKey) (phase : Nat) (s : State) : State :=
  (phaseWaiters s k phase).foldl (fun s a => deferTrap a 0x0C 7 0 0 (endWait a .barrier s))
    (modDom s k (fun d => { d with failed := d.failed || d.phase == phase }))

/-- Sends a message about a phase of a job domain; where no port is up it fails at once (R370). -/
def sendDom (k : DomKey) (phase : Nat) (m : FabMsg) (s : State) : State :=
  match portFor s m.dst with
  | none => failDom k phase s
  | some _ => sendRequest k.world 0 0 phase (some k) m s

/-- The job domain's leader; none for the domain of a gang. -/
def domLeader (s : State) (k : DomKey) : Option Nat :=
  if k.job then (worldOf s k.world).job.map (·.leader) else none

/-- R356, R357: the open phase completes: PHASE increases for every party still in, those that a slice end has saved among
them, and every waiter goes on Tr later; a withdrawal that has not landed has nothing of it left to take back. -/
def finishPhase (k : DomKey) (s : State) : State :=
  match domOf s k with
  | none => s
  | some d =>
    let r := resumeDelay s d.level
    let s1 := modDom r.2 k (fun d => { d with
      arrived := 0
      pending := []
      due := d.due.map (fun q => { q with withdraw := false })
      came := []
      phase := d.phase + 1
      failed := false })
    let s2 := (phaseWaiters s1 k d.phase).foldl (fun s a => setUntil a (some (s.gcyc + r.1 - 1)) s) s1
    let inIt := fun (x : Ctx) => x.live && !x.dropped && domKey x.task == k && x.task.level != 0
    let s3 : State := { s2 with ctxs := s2.ctxs.map (fun p => if inIt p.2 then (p.1, { p.2 with phase := p.2.phase + 1 }) else p) }
    modWorld s3 k.world (fun w => { w with saved := w.saved.map (fun v =>
      if inIt v.ctx then { v with ctx := { v.ctx with phase := v.ctx.phase + 1 } } else v) })

/-- R378: the leader tells every other member that a phase has completed. -/
def tellMembers (k : DomKey) (phase : Nat) (s : State) : State :=
  match (worldOf s k.world).job with
  | none => s
  | some j =>
    if some j.leader = s.pkg then
      ((List.range 1024).filter (fun n => bm j.members.toNat n && some n != s.pkg)).foldl (fun s n =>
        sendDom k phase (newMsg 7 n phase) s) s
    else s

/-- R356: drops, then arrivals, then the check of completion. Counts of arrivals are modulo 2^32: a withdrawn arrival
counts as one taken away (R355) (DEDUCED, log entry 38). -/
def applyLandings (k : DomKey) (arrivals drops : Nat) (s : State) : State :=
  let s1 := modDom s k (fun d => { d with
    expect := d.expect - drops, arrived := (d.arrived + arrivals) % 2 ^ 32 })
  match domOf s1 k with
  | none => s1
  | some d =>
    if d.expect ≤ d.arrived then
      let s2 := finishPhase k s1
      if k.job then tellMembers k d.phase s2
      else if d.expect = 0 && d.due.isEmpty then { s2 with doms := s2.doms.filter (fun d => d.key != k) }
      else s2
    else s1

/-- R355: the release of an arrival or drop has taken effect, and its landing delay has passed. -/
def landReady (s : State) (d : DomDue) : Bool := decide (d.at_ ≤ s.gcyc) && d.ops.all (fun p => !arrivalBusy s d.scope p)

/-- The arrivals that withdrawing drops take back before they have landed. -/
def takenBack (l : List DomDue) (d : DomDue) : Bool := !d.drop && l.any (fun q => q.withdraw && q.ag == d.ag)

/-- BARRIER_LANDING: what lands in a domain in this cycle. A member of a job domain that is not its leader sends the counts
to the leader (R378). -/
def execBarrierLanding (k : DomKey) (s : State) : Out :=
  match domOf s k with
  | none => .next s
  | some d =>
    let l := d.due.filter (landReady s)
    if l.isEmpty then .next s
    else
      let rest := d.due.filter (fun q => !landReady s q)
      let back := rest.filter (takenBack l)
      let drops := (l.filter (·.drop)).length
      let minus := (l.filter (·.withdraw)).length - back.length
      let plus := (l.filter (fun q => !q.drop)).length
      let arrivals := (plus + 2 ^ 32 - minus) % 2 ^ 32
      let s1 := modDom s k (fun d => { d with due := rest.filter (fun q => !takenBack l q) })
      match domLeader s k with
      | some n =>
        if some n = s.pkg then
          .next (applyLandings k arrivals drops (modDom s1 k (fun d => { d with
            came := tabMod 0 d.came n (fun c => (c + arrivals) % 2 ^ 32) })))
        else .next (sendDom k d.phase (newMsg 6 n (arrivals + drops * 2 ^ 32)) s1)
      | none => .next (applyLandings k arrivals drops s1)

/-- BARRIER_RESUME: a party frozen for a phase goes on Tr after it completed; BARA then arrives in the next phase, its
landing delay counted from the cycle of resumption. A failed phase traps 0x0C before its next bundle (R378)
(DEDUCED, log entry 45). -/
def execBarrierResume (a : Agent) (s : State) : Out :=
  match (ctxOf s a).wait with
  | none => .next s
  | some w =>
    match w.what with
    | .barrier phase again =>
      if isPast s w.until_ then
        let s1 := endWait a .barrier s
        .next (if again then domSend s1 a (s.gcyc + 1) false false else s1)
      else
        match domOf s (domKey (ctxOf s a).task) with
        | none => .next (deferTrap a 0x0C 7 0 0 (endWait a .barrier s))
        | some d =>
          if d.failed && d.phase == phase then .next (deferTrap a 0x0C 7 0 0 (endWait a .barrier s)) else .next s
    | _ => .next s

/-! ## Fences and queues -/

/-- R171: a copy or yarn among those given has still to perform in the idle half; the last beat of a yarn performs in the
cycle before it closes (R216). -/
def fillsIdle (s : State) (a : Agent) (ops : List (Nat × Nat)) (ys : List Nat) : Bool :=
  ops.any (idleBusy s a) ||
    ys.any (fun y => (coreOf s (agIdx a)).open_.any (fun o => o.y == y && o.ag == a && yarnOpen s o ((ctxOf s a).clk + 1)))

/-- FENCE_WAIT_END: every access a FENCE waits for has performed (R331), or every transfer into the idle half that an IFENCE
waits for (R171). -/
def execFenceWaitEnd (a : Agent) (s : State) : Out :=
  match (ctxOf s a).wait with
  | none => .next s
  | some w =>
    match w.what with
    | .fence ops scope acq =>
      .next (if ops.any (fenceBusy s scope acq) then s else endWait a .fence s)
    | .ifence ops ys => .next (if fillsIdle s a ops ys then s else endWait a .fence (latchIdle a s))
    | _ => .next s

/-- COPY_QUEUE_ENTRY_FREE: an entry has become free for the operation that froze its issuer (R346). -/
def execCopyQueueEntryFree (a : Agent) (s : State) : Out :=
  match (ctxOf s a).wait with
  | none => .next s
  | some w =>
    match w.what with
    | .queue num =>
      let e := agEngine a
      match opOf s e num with
      | none => .next (endWait a .governor (endWait a .copyQueue s))
      | some op =>
        if queueFull (engineOf s e) (queueKind op.kind) then .next s
        else .next (endWait a .governor (endWait a .copyQueue (setOp s e { op with queued := true })))
    | _ => .next s

end Sys2Proof.Machine
end

