-- ==== Sys2Proof/Machine/Spdm.lean ====
section
/-!
DEFINITION. SPDM on the PF's mailbox (spec/03_admission_and_trust.md R44-R54): the certificates, the measurements, secure sessions, and the
requests that are not tied to a job: BIND, KEY_RELEASE, WORLD_RESUME, CUSTODY_SET, CONTROL_START, DEBUG_POLICY. A response's
payload is the content the spec names; how SPDM frames it is not in the spec (log entry 40).
-/

namespace Sys2Proof.Machine

/-! ## Answers -/

/-- Answers with an SPDM error. -/
def answerError (name err : String) (s : State) : State := emit s (.spdmError name err)
/-- Answers with a payload (DESIGN CHOICE, log entry 40). -/
def respond (name : String) (l : List Byte) (s : State) : State := emit s (.response name l)

/-- R432, R433: until the package is ready the PF answers configuration requests with Request Retry Status. -/
def configReq (name : String) (s : State) (k : State → State) : Out :=
  .next (if s.ready then k s else emit s (.retry name))

/-- R381: while the log's store is full, a request whose event must be logged is answered Busy. -/
def loggedReq (name : String) (s : State) (k : State → State) : Out :=
  configReq name s (fun s => if logFull s then answerError name "Busy" s else k s)

/-! ## Functions and layouts (R48, R49) -/

/-- The function exists and is enabled. -/
def enabledFunc (s : State) (f : Nat) : Bool := f == 0 || (decide (f < 32) && (funcOf s f).vfEnabled)

/-- R48: the 64-byte descriptor. -/
def layoutBytes (y : Layout) : List Byte :=
  leBytes 2 y.clusters.toNat ++ leBytes 2 y.urgent.toNat ++ leBytes 1 y.stewards.toNat ++ leBytes 1 y.pooled ++
    leBytes 2 y.monitors ++ leBytes 32 y.channels.toNat ++ List.replicate 24 0

/-- R48: LAYOUTDIGEST. -/
def layoutDigest (y : Layout) : W256 := sha256W (toNats (layoutBytes y))

/-- The 32 bytes of a digest or nonce. -/
def digestBytes (d : W256) : List Byte := leBytes 32 d.toNat

/-! ## Measurements (R47, R53; spec/16_fabric_and_switch_trust.md R362) -/

/-- The value of a measurement block; none where it is absent. -/
def measureBlock (s : State) (i : Nat) : Option (List Byte) :=
  match i with
  | 1 => some (digestBytes Config.bootRomDigest)
  | 2 => some (digestBytes (Config.spaiqueDigest s.activeDigest))
  | 3 => some (digestBytes (Config.stewardDigest s.activeDigest))
  | 4 => some (digestBytes Config.serviceDigest)
  | 5 => some (leBytes 8 Config.serial.toNat ++ leBytes 1 s.svn ++ leBytes 1 Config.prod.toNat)
  | 6 => some (leBytes 1 s.activeSvn ++ digestBytes (s.staged.elim 0 (·.2)))
  | 7 => some (leBytes 2 s.numVfs ++ leBytes 1 s.vfEnable.toNat ++ [0])
  | 8 => some (leBytes 2 (s.pkg.getD 0xFFFF) ++ leBytes 4 s.ports.toNat)
  | i =>
    if 0x20 ≤ i ∧ i ≤ 0x3F ∧ enabledFunc s (i - 0x20) = true then
      some (digestBytes (layoutDigest (funcOf s (i - 0x20)).layout) ++ leBytes 4 (funcOf s (i - 0x20)).layoutGen)
    else none

/-- The indices of the blocks that are present, ascending. -/
def blockIndices (s : State) : List Nat := (List.range 64).filter (fun i => (measureBlock s i).isSome)

/-- R53 MeasureDigest: none where a selected index is absent. -/
def measureDigest (s : State) (mask : BitVec 64) : Option W256 :=
  let sel := (List.range 64).filter (fun i => bm mask.toNat i)
  if sel.all (fun i => (measureBlock s i).isSome) then
    some (sha256W (toNats (sel.flatMap (fun i => (measureBlock s i).getD []))))
  else none

/-! ## Certificates, evidence, sessions (R45, R46) -/

/-- R45: the device certificate, which the product CA signed: SERIAL and the public key of IK. -/
def deviceCert : List Byte :=
  let body := Config.certBody .device Config.serial idKey.pub
  Config.certFile body (Config.productSign body)

/-- R45: the sealing certificate, signed by IK: SERIAL and the public key of SK. -/
def sealingCert : List Byte :=
  let body := Config.certBody .sealing Config.serial sealKey.pub
  Config.certFile body (toBytes (rsaSign (toNats body)))

/-- R45: the chain of a slot. -/
def certChain (slot : Nat) : List Byte :=
  let chain0 := Config.rootCert ++ Config.productCert ++ deviceCert
  if slot = 0 then chain0 else chain0 ++ sealingCert

/-- R46: only version 1.3 is accepted. -/
def spdmVersion : Nat := 0x13

/-- A request that carries a version: another version is refused with the SPDM error VersionMismatch (PRESUMED, log entry 47). -/
def versionReq (name : String) (version : Nat) (s : State) (k : State → State) : Out :=
  configReq name s (fun s => if version = spdmVersion then k s else answerError name "VersionMismatch" s)

/-- GET_VERSION (R46): version 1.3 only. -/
def execGetVersion (s : State) : Out := configReq "GET_VERSION" s (respond "GET_VERSION" (leBytes 1 spdmVersion))

/-- GET_CAPABILITIES (R46). -/
def execGetCapabilities (s : State) : Out :=
  versionReq "GET_CAPABILITIES" s.mailVersion s (respond "GET_CAPABILITIES" (toBytes (ascii "CERT CHAL MEAS_SIG KEY_EX ENCRYPT MAC HBEAT")))

/-- NEGOTIATE_ALGORITHMS (R46). -/
def execNegotiateAlgorithms (s : State) : Out :=
  versionReq "NEGOTIATE_ALGORITHMS" s.mailVersion s (respond "NEGOTIATE_ALGORITHMS" (toBytes (ascii
    ("BaseAsymAlgo RSASSA_3072 BaseHashAlgo SHA_256 MeasurementHashAlgo SHA_256 " ++
      "DHE FFDHE_3072 AEAD AES_256_GCM MeasurementSpecification DMTF"))))

/-- GET_CERTIFICATE (R45): slots 0 and 1 hold chains, the others are empty. -/
def execGetCertificate (o : CertReq) (s : State) : Out :=
  versionReq "GET_CERTIFICATE" o.version s (fun s =>
    if o.slot ≤ 1 then respond "GET_CERTIFICATE" (((certChain o.slot).drop o.offset).take o.length) s
    else answerError "GET_CERTIFICATE" "InvalidRequest" s)

/-- SET_CERTIFICATE is not accepted (R45). -/
def execSetCertificate (s : State) : Out :=
  configReq "SET_CERTIFICATE" s (answerError "SET_CERTIFICATE" "UnsupportedRequest")

/-- GET_CSR is not accepted (R45). -/
def execGetCsr (s : State) : Out := configReq "GET_CSR" s (answerError "GET_CSR" "UnsupportedRequest")

/-- A response signed by the identity key: the device's nonce, what it says, and a signature over the requester's nonce,
the device's and what it says (log entry 40). -/
def signedResponse (name : String) (nonce : W256) (l : List Byte) (s : State) : State :=
  let r := freeRandom s
  let body := digestBytes r.1 ++ l
  respond name (body ++ toBytes (rsaSign (toNats (digestBytes nonce ++ body)))) r.2

/-- CHALLENGE (R46): answered under the identity key. -/
def execChallenge (o : ChallengeReq) (s : State) : Out :=
  versionReq "CHALLENGE" o.version s (fun s =>
    if o.slot ≤ 1 then signedResponse "CHALLENGE" o.nonce (toBytes (sha256 (toNats (certChain o.slot)))) s
    else answerError "CHALLENGE" "InvalidRequest" s)

/-- A measurement block with its index and length. -/
def blockRecord (s : State) (i : Nat) : List Byte :=
  let l := (measureBlock s i).getD []
  leBytes 1 i ++ leBytes 2 l.length ++ l

/-- GET_MEASUREMENTS (R47): index 0 asks for the number of blocks, 0xFF for all of them. -/
def execGetMeasurements (o : MeasReq) (s : State) : Out :=
  versionReq "GET_MEASUREMENTS" o.version s (fun s =>
    let say := if o.signed then signedResponse "GET_MEASUREMENTS" o.nonce else respond "GET_MEASUREMENTS"
    if o.index = 0 then say (leBytes 1 (blockIndices s).length) s
    else if o.index = 0xFF then say ((blockIndices s).flatMap (blockRecord s)) s
    else if (measureBlock s o.index).isSome then say (blockRecord s o.index) s
    else answerError "GET_MEASUREMENTS" "InvalidRequest" s)

/-- The lowest session number that is not in use (DEDUCED, log entry 41). -/
def freeSession (s : State) : Nat :=
  ((List.range 33).find? (fun i => !s.sessions.any (fun x => x.id == i))).getD 32

/-- KEY_EXCHANGE (R46): opens a session, at most 32. -/
def execKeyExchange (o : ChallengeReq) (s : State) : Out :=
  versionReq "KEY_EXCHANGE" o.version s (fun s =>
    if 32 ≤ s.sessions.length then answerError "KEY_EXCHANGE" "Busy" s
    else if 1 < o.slot then answerError "KEY_EXCHANGE" "InvalidRequest" s
    else
      let i := freeSession s
      let v := free s
      signedResponse "KEY_EXCHANGE" o.nonce (leBytes 2 i ++ leBytes 384 v.1)
        { v.2 with sessions := v.2.sessions ++ [⟨i, false, none⟩] })

/-- The session with a number. -/
def sessionOf (s : State) (n : Nat) : Option Session := s.sessions.find? (fun x => x.id = n)

/-- Changes a session. -/
def modSession (s : State) (n : Nat) (f : Session → Session) : State :=
  { s with sessions := s.sessions.map (fun x => if x.id = n then f x else x) }

/-- The session is established. -/
def sessionOpen (s : State) (n : Nat) : Bool := (sessionOf s n).elim false (·.finished)

/-- FINISH (R46). -/
def execFinish (ses : Nat) (s : State) : Out :=
  versionReq "FINISH" s.mailVersion s (fun s =>
    if (sessionOf s ses).elim false (fun x => !x.finished) then
      respond "FINISH" [] (modSession s ses (fun x => { x with finished := true }))
    else answerError "FINISH" "UnexpectedRequest" s)

/-- HEARTBEAT (R46). -/
def execHeartbeat (ses : Nat) (s : State) : Out :=
  versionReq "HEARTBEAT" s.mailVersion s (fun s =>
    if sessionOpen s ses then respond "HEARTBEAT" [] s else answerError "HEARTBEAT" "UnexpectedRequest" s)

/-- END_SESSION (R50): the session is unbound. -/
def execEndSession (ses : Nat) (s : State) : Out :=
  versionReq "END_SESSION" s.mailVersion s (fun s =>
    if sessionOpen s ses then
      respond "END_SESSION" [] { s with sessions := s.sessions.filter (fun x => x.id != ses) }
    else answerError "END_SESSION" "UnexpectedRequest" s)

/-! ## Requests inside a session (R50) -/

/-- R50: accepted only inside a secure session, and in SPDM 1.3 alone (R46). -/
def inSession (name : String) (ses : Nat) (k : Session → State → State) (s : State) : State :=
  if s.mailVersion = spdmVersion then
    match sessionOf s ses with
    | some x => if x.finished then k x s else answerError name "UnexpectedRequest" s
    | none => answerError name "UnexpectedRequest" s
  else answerError name "VersionMismatch" s

/-- R50: binding session `x` to function `f` leaves each bound to at most one of the other; the function is enabled. -/
def bindOk (s : State) (x : Session) (f : Nat) : Bool :=
  enabledFunc s f && (x.func.isNone || x.func == some f) && !s.sessions.any (fun y => y.id != x.id && y.func == some f)

/-- BIND (R50): a BIND that is refused, with NOT_BOUND, leaves the session unbound (DEDUCED, log entry 41). -/
def execBindSession (ses f : Nat) (s : State) : Out :=
  configReq "BIND" s (inSession "BIND" ses (fun x s =>
    let ok := bindOk s x f
    answer "BIND" (if ok then 0 else 1) (modSession s ses (fun y => { y with func := if ok then some f else none }))))

/-- NOT_BOUND (R53): the session is not bound to the function, or that is disabled. -/
def notBound (s : State) (x : Session) (f : Nat) : Bool := x.func != some f || !enabledFunc s f

/-- The TDI's state is CONFIG_LOCKED or RUN. -/
def tdiLocked (s : State) (f : Nat) : Bool := (funcOf s f).tdi == .locked || (funcOf s f).tdi == .run

/-- R53 up to the check of MINSVN: the first status that applies. -/
def releaseCheck (s : State) (x : Session) (q : KeyReleaseReq) (resume : Bool) : Nat :=
  let f := q.function
  if notBound s x f then 0x01
  else if !resume && (worldOf s (worldOfFunc f)).held then 0x09
  else if q.layoutGen != (funcOf s f).layoutGen || q.layoutDigest != layoutDigest (funcOf s f).layout then 0x02
  else if f != 0 && !tdiLocked s f then 0x03
  else if bm q.mask.toNat 0 || some q.policy != measureDigest s q.mask then 0x04
  else if s.activeSvn < q.minSvn then 0x05 else 0

/-- R52: the message wrapped for this chip opens, and says what the request says: the key. -/
def unwrapKey (q : KeyReleaseReq) : Option W256 :=
  match oaepDecrypt "qualas key" q.wrapped.toNat with
  | none => none
  | some m =>
    if m.length = 37 ∧ bytesNat ((m.drop 32).take 4) = q.keyid ∧ m.getD 36 0 = q.kind ∧ q.keyid ≠ 0 ∧ q.kind ≤ 2 ∧ q.kind ≠ 0 then
      some (keyOf (m.take 32))
    else none

/-- R53: the status of a KEY_RELEASE, and the state after it. -/
def keyRelease (x : Session) (q : KeyReleaseReq) (s : State) : Nat × State :=
  let w := worldOfFunc q.function
  if releaseCheck s x q false != 0 then (releaseCheck s x q false, s)
  else
    match unwrapKey q with
    | none => (0x06, s)
    | some key =>
      if (worldOf s w).keys.any (fun k => k.keyid == q.keyid) then (0x08, s)
      else if 16 ≤ (worldOf s w).keys.length then (0x07, s)
      else (0, modWorld s w (fun y => { y with keys := y.keys ++ [⟨q.keyid, q.kind, key⟩] }))

/-- The little-endian number of `n` bytes at an offset. -/
def fieldAt (l : List Byte) (off n : Nat) : Nat := bytesNat (toNats ((l.drop off).take n))

/-- R51, R68: the fields at their offsets in a payload, after the code byte. -/
def releaseFields (l : List Byte) : KeyReleaseReq where
  function := fieldAt l 0x000 2
  kind := fieldAt l 0x002 1
  resv := fieldAt l 0x003 1
  keyid := fieldAt l 0x004 4
  layoutGen := fieldAt l 0x008 4
  minSvn := fieldAt l 0x00C 4
  layoutDigest := BitVec.ofNat 256 (fieldAt l 0x010 32)
  policy := BitVec.ofNat 256 (fieldAt l 0x030 32)
  mask := BitVec.ofNat 64 (fieldAt l 0x050 8)
  wrapped := BitVec.ofNat 3072 (beNat (toNats ((l.drop 0x058).take 384)))

/-- R51: the request that a KEY_RELEASE payload of 472 bytes makes. -/
def keyReleaseOf (l : List Byte) : Option KeyReleaseReq := if l.length = 472 then some (releaseFields l) else none

/-- R68: the request that a WORLD_RESUME payload makes: bytes 0x000 to 0x057. -/
def worldResumeOf (l : List Byte) : Option KeyReleaseReq := if l.length = 0x58 then some (releaseFields l) else none

/-- R51: the request has the form of the table: the reserved byte is zero. MINSVN above 64 has the form and is above every SVN. -/
def releaseForm (q : KeyReleaseReq) : Bool := q.resv == 0

/-- KEY_RELEASE (R51-R55): logged whether it succeeds or not; refused with NOT_BOUND it concerns no world (DESIGN CHOICE, log
entry 83). A payload without the form is an SPDM error (DESIGN CHOICE, log entry 82). -/
def execKeyRelease (ses : Nat) (q : KeyReleaseReq) (s : State) : Out :=
  loggedReq "KEY_RELEASE" s (inSession "KEY_RELEASE" ses (fun x s =>
    if !releaseForm q then answerError "KEY_RELEASE" "InvalidRequest" s
    else
      let r := keyRelease x q s
      let w := if notBound s x q.function then 0 else worldOfFunc q.function
      answer "KEY_RELEASE" r.1 (logEvent 0x01 w
        (leBytes 2 q.function ++ leBytes 1 q.kind ++ leBytes 1 r.1 ++ leBytes 4 q.keyid) r.2)))

/-- R68: LAUNCH of a world that is held no longer issues again with the operands it read. -/
def reissueLaunches (w : Nat) (s : State) : State :=
  (worldAgents s w).foldl (fun s a =>
    match (ctxOf s a).wait with
    | some v => if v.what = .held then reissueY a .launchHold v s else s
    | none => s) s

/-- R68: KIND and KEYID of a WORLD_RESUME are zero. -/
def resumeForm (q : KeyReleaseReq) : Bool := releaseForm q && q.kind == 0 && q.keyid == 0

/-- WORLD_RESUME (R68). A payload without the form is an SPDM error (DESIGN CHOICE, log entry 82). -/
def execWorldResume (ses : Nat) (q : KeyReleaseReq) (s : State) : Out :=
  configReq "WORLD_RESUME" s (inSession "WORLD_RESUME" ses (fun x s =>
    let st := releaseCheck s x q true
    let w := worldOfFunc q.function
    if !resumeForm q then answerError "WORLD_RESUME" "InvalidRequest" s
    else if st = 0 then answer "WORLD_RESUME" 0 (reissueLaunches w (modWorld s w (fun y => { y with held := false })))
    else answer "WORLD_RESUME" st s))

/-! ## Custody regions (spec/16_fabric_and_switch_trust.md R379) -/

/-- The pages of a range. -/
def pagesOf (first count : Nat) : List Nat := (List.range count).map (fun i => first + i)

/-- R379: a value is out of range, a page is not the world's, or the region overlaps or is in use. -/
def badRegion (s : State) (w : Nat) (q : CustodyReq) : Bool :=
  decide (15 < q.region) || decide (2 ^ 32 < q.rate) || decide (q.burst < 64) || decide (2 ^ 40 < q.burst) ||
    decide (pageCount < q.first + q.count) ||
    !(pagesOf q.first q.count).all (fun p => pageOwner s p == w) ||
    (worldOf s w).regions.any (fun r => r.idx == q.region ||
      (decide (r.first < q.first + q.count) && decide (q.first < r.first + r.count)))

/-- CUSTODY_SET, SET = 1: the region covers the pages, and its bucket is full. -/
def execCustodySet (ses : Nat) (q : CustodyReq) (s : State) : Out :=
  configReq "CUSTODY_SET" s (inSession "CUSTODY_SET" ses (fun x s =>
    let w := worldOfFunc q.function
    if notBound s x q.function || q.function == 0 then answer "CUSTODY_SET" 0x01 s
    else if badRegion s w q then answer "CUSTODY_SET" 0x15 s
    else answer "CUSTODY_SET" 0 (modWorld { s with pageCustody := spanSet s.pageCustody q.first q.count true } w (fun y =>
      { y with regions := y.regions ++ [⟨q.region, q.first, q.count, q.rate, q.burst, q.burst⟩] }))))

/-- Clears the CUSTODY bits of the pages of a region that the world still owns, and frees the region; lines that wait for
its tokens go on (DEDUCED, log entry 44). -/
def freeRegion (w idx : Nat) (s : State) : State :=
  let pages := ((worldOf s w).regions.filter (fun r => r.idx = idx)).flatMap (fun r => pagesOf r.first r.count)
  let spans := (pages.filter (fun p => pageOwner s p = w)).map (fun p => (p, 1, false))
  let mine := fun (g : Governed) => g.world == w && g.region == idx
  let held := s.governed.filter mine
  let s1 := modWorld { s with
    pageCustody := spans ++ s.pageCustody
    governed := s.governed.filter (fun g => !mine g) } w (fun y => { y with regions := y.regions.filter (fun r => r.idx != idx) })
  clearGoverned (held.foldl (fun s g => depart g s) s1)

/-- CUSTODY_SET, SET = 0: the region's flags are cleared and the region is free (DEDUCED, log entry 44). -/
def execCustodyClear (ses : Nat) (q : CustodyReq) (s : State) : Out :=
  configReq "CUSTODY_CLEAR" s (inSession "CUSTODY_CLEAR" ses (fun x s =>
    if notBound s x q.function || q.function == 0 then answer "CUSTODY_CLEAR" 0x01 s
    else if 15 < q.region then answer "CUSTODY_CLEAR" 0x15 s
    else answer "CUSTODY_CLEAR" 0 (freeRegion (worldOfFunc q.function) q.region s)))

/-! ## Control tasks (spec/04_launch_and_scheduling.md R73, R74) -/

/-- R73: the checks on session, world and interface; for a VF the TDI must be in RUN. -/
def startCheck (s : State) (x : Session) (f : Nat) : Nat :=
  if notBound s x f then 0x01
  else if (worldOf s (worldOfFunc f)).held then 0x09
  else if f != 0 && (funcOf s f).tdi != .run then 0x03 else 0

/-- CONTROL_START (R73) (DEDUCED, log entry 43). While pages that it reads are walked it waits, and the requests behind it with
it (R114, R72). -/
def execControlStart (ses : Nat) (q : StartReq) (s : State) : Out :=
  configReq "CONTROL_START" s (inSession "CONTROL_START" ses (fun x s =>
    let st := startCheck s x q.function
    if st != 0 then answer "CONTROL_START" st s
    else if holds s (.steward q.unit) || s.stewZero.any (fun p => p.1 == q.unit) then answer "CONTROL_START" 0x0A s
    else if decide (8 ≤ q.unit) || !bm (funcOf s q.function).layout.stewards.toNat q.unit then answer "CONTROL_START" 0x0B s
    else
      readControl q s))

/-- DEBUG_POLICY (spec/20_observation_and_bring_up.md R427): bits 7 to 3 are zero. -/
def execDebugPolicy (ses f pol : Nat) (s : State) : Out :=
  configReq "DEBUG_POLICY" s (inSession "DEBUG_POLICY" ses (fun x s =>
    if notBound s x f then answer "DEBUG_POLICY" 0x01 s
    else if f = 0 then answer "DEBUG_POLICY" 0 s
    else answer "DEBUG_POLICY" 0 (modWorld s (worldOfFunc f) (fun y => { y with policy := BitVec.ofNat 3 pol }))))

end Sys2Proof.Machine
end

