-- ==== Sys2Proof/Machine/Tdisp.lean ====
section
/-!
DEFINITION. Interfaces and links (spec/03_admission_and_trust.md R56, R60-R65, R70): the TDISP requests, IDE keys, and the
configuration writes of the SR-IOV capability.
-/

namespace Sys2Proof.Machine

/-! ## The state of an interface -/

/-- R433: the TDISP state as a number. -/
def tdiCode : Tdi → Nat
  | .unlocked => 0
  | .locked => 1
  | .run => 2
  | .error => 3

/-- Puts the TDI's state. -/
def setTdi (f : Nat) (t : Tdi) (s : State) : State := modFunc s f (fun v => { v with tdi := t })

/-- R65: entry to ERROR, with teardown; a TDI that is there has entered it. -/
def toError (f : Nat) (s : State) : State :=
  if (funcOf s f).tdi = .error then s else tearDown (worldOfFunc f) 1 (setTdi f .error s)

/-- R61: a TDI in CONFIG_LOCKED or RUN enters ERROR. -/
def enterError (f : Nat) (s : State) : State := if tdiLocked s f then toError f s else s

/-- R65: the interface becomes CONFIG_UNLOCKED after a teardown, with a new memory key (R56). Its IDE stream association is
cleared, its address range stays (DESIGN CHOICE, log entry 88). -/
def unlockTdi (f : Nat) (s : State) : State :=
  freshKey (worldOfFunc f) (modFunc s f (fun v => { v with tdi := .unlocked, nonce := 0, ideStream := none }))

/-! ## TDISP requests (R60, R62, R65) -/

/-- R60: accepted from an established session that is bound to the PF or to the same VF; the interface is an enabled VF
(PRESUMED, log entry 47). -/
def tdispReq (name : String) (ses f : Nat) (s : State) (k : State → State) : Out :=
  configReq name s (inSession name ses (fun x s =>
    if !(x.func == some 0 || x.func == some f) then answerError name "UnexpectedRequest" s
    else if f == 0 || !enabledFunc s f then answerError name "InvalidInterface" s
    else k s))

/-- R60: an IDE stream whose keys have been programmed (DEDUCED, log entry 42). -/
def ideReady (s : State) (ide : Nat) : Bool := !(tabGet Ide.reset s.ides ide).keys.isEmpty

/-- LOCK_INTERFACE: from CONFIG_UNLOCKED; the answer carries a new nonce, with which START_INTERFACE must come
(PRESUMED, log entry 47). The stream that it names becomes the VF's IDE stream association, item 5 of R61, in place of the one
that was written there (DESIGN CHOICE, log entry 88). -/
def execLockInterface (ses f ide : Nat) (s : State) : Out :=
  tdispReq "LOCK_INTERFACE" ses f s (fun s =>
    if (funcOf s f).tdi != .unlocked then answerError "LOCK_INTERFACE" "InvalidInterfaceState" s
    else if !ideReady s ide then answerError "LOCK_INTERFACE" "InvalidRequest" s
    else
      let n := freeRandom s
      respond "LOCK_INTERFACE" (digestBytes n.1)
        (modFunc n.2 f (fun v => { v with tdi := .locked, nonce := n.1, ideStream := some ide })))

/-- R62: the report: two ranges, each with its pages of 4 KiB and whether it is TEE memory, then the layout measurement. -/
def interfaceReport (s : State) (f : Nat) : List Byte :=
  leBytes 4 2 ++ leBytes 4 16 ++ [0] ++ leBytes 4 1048576 ++ [1] ++ (measureBlock s (0x20 + f)).getD []

/-- GET_DEVICE_INTERFACE_REPORT. -/
def execGetDeviceInterfaceReport (ses f : Nat) (s : State) : Out :=
  tdispReq "GET_DEVICE_INTERFACE_REPORT" ses f s (fun s =>
    if tdiLocked s f then respond "GET_DEVICE_INTERFACE_REPORT" (interfaceReport s f) s
    else answerError "GET_DEVICE_INTERFACE_REPORT" "InvalidInterfaceState" s)

/-- GET_DEVICE_INTERFACE_STATE. -/
def execGetDeviceInterfaceState (ses f : Nat) (s : State) : Out :=
  tdispReq "GET_DEVICE_INTERFACE_STATE" ses f s (fun s =>
    respond "GET_DEVICE_INTERFACE_STATE" (leBytes 1 (tdiCode (funcOf s f).tdi)) s)

/-- START_INTERFACE: from CONFIG_LOCKED to RUN, with the nonce of the lock. -/
def execStartInterface (ses f : Nat) (nonce : BitVec 256) (s : State) : Out :=
  tdispReq "START_INTERFACE" ses f s (fun s =>
    if (funcOf s f).tdi != .locked then answerError "START_INTERFACE" "InvalidInterfaceState" s
    else if (funcOf s f).nonce != nonce then answerError "START_INTERFACE" "InvalidNonce" s
    else respond "START_INTERFACE" [] (setTdi f .run s))

/-- R65, R68: a STOP_INTERFACE tears the world down. -/
def stopTears (s : State) (f : Nat) : Bool := tdiLocked s f || (worldOf s (worldOfFunc f)).held

/-- STOP_INTERFACE (R65): the TDI ends in CONFIG_UNLOCKED, after a teardown with a new memory key. While the teardown waits for
channel programs (R322) the TDI stands in ERROR. -/
def stopInterface (f : Nat) (s : State) : State :=
  let s1 := if stopTears s f then tearDown (worldOfFunc f) 2 (setTdi f .error s) else s
  if (worldOf s1 (worldOfFunc f)).tearing.isSome then s1
  else if (funcOf s1 f).tdi == .error then unlockTdi f s1 else s1

/-- STOP_INTERFACE; its teardown must be logged (R381). It stands first in line until the teardown is complete (R72). -/
def execStopInterface (ses f : Nat) (s : State) : Out :=
  tdispReq "STOP_INTERFACE" ses f s (fun s =>
    if logFull s && stopTears s f then answerError "STOP_INTERFACE" "Busy" s
    else
      let s1 := stopInterface f s
      if (worldOf s1 (worldOfFunc f)).tearing.isSome then { s1 with inputs := (s.gcyc, .stopInterface ses f) :: s1.inputs }
      else respond "STOP_INTERFACE" [] s1)

/-! ## IDE (R64) -/

/-- KEY_PROG: programs the key of a key set and sub-stream of one of the 32 streams (PRESUMED, log entry 47). -/
def execKeyProg (o : KeyProg) (s : State) : Out :=
  configReq "KEY_PROG" s (fun s =>
    if 32 ≤ o.stream then answerError "KEY_PROG" "InvalidRequest" s
    else
      let x := tabGet Ide.reset s.ides o.stream
      let rest := x.keys.filter (fun k => !(k.1 == o.keySet && k.2.1 == o.sub))
      respond "KEY_PROG" [] { s with ides := tabSet s.ides o.stream { x with keys := rest ++ [(o.keySet, o.sub, o.key)] } })

/-- K_SET_GO: switches a sub-stream of a stream to a key set whose key has been programmed (PRESUMED, log entry 47). -/
def execKSetGo (stream : Nat) (keySet : IdeKeySet) (s : State) : Out :=
  configReq "K_SET_GO" s (fun s =>
    let x := tabGet Ide.reset s.ides stream
    if x.keys.any (fun k => k.1 == keySet.set && k.2.1 == keySet.sub) then
      respond "K_SET_GO" [] { s with ides := tabSet s.ides stream { x with
        current := x.current.filter (fun c => c.1 != keySet.sub) ++ [(keySet.sub, keySet.set)] } }
    else answerError "K_SET_GO" "InvalidRequest" s)

/-- R64: a TLP on the stream of a VF moves its TDI into ERROR, whatever state it is in. -/
def failsIntegrity (s : State) (f : Nat) : Bool := f != 0 && enabledFunc s f && (funcOf s f).tdi != .error

/-- A TLP of function `f` that fails integrity on its secure stream is rejected; a VF's TDI enters ERROR. -/
def execIdeIntegrityFailure (f : Nat) (s : State) : Out := .next (if failsIntegrity s f then toError f s else s)

/-! ## Configuration space (R49, R56, R61, R70) -/

/-- The VFs that are enabled. -/
def enabledVfs (s : State) : List Nat := (List.range 32).filter (fun f => f != 0 && (funcOf s f).vfEnabled)

/-- R49, R56, R91, R426: a VF as setting VF Enable leaves it: the empty layout, default scheduling and events, a new key. -/
def enableVf (s : State) (f : Nat) : State :=
  freshKey (worldOfFunc f) { s with funcs := tabSet s.funcs f { Func.reset with vfEnabled := true } }

/-- R91: every function has weight 1, cap 64 and PDL 1000. -/
def resetSched (s : State) : State :=
  (List.range 32).foldl (fun s f => modFunc s f (fun v => { v with
    weight := Func.reset.weight, cap := Func.reset.cap, pdl := Func.reset.pdl })) s

/-- VF_ENABLE_SET: VF Enable is set for VFs 1 to `n`; where it is set already, nothing changes. -/
def execVfEnableSet (n : Nat) (s : State) : Out :=
  configReq "VF_ENABLE_SET" s (fun s =>
    if s.vfEnable then s
    else (List.range n).foldl (fun s i => enableVf s (i + 1)) (resetSched { s with vfEnable := true, numVfs := n }))

/-- R70: the longest time, in cc, for which VFs answer with Request Retry Status. -/
def retryBound : Nat := 16000000

/-- R70: what the part does for one VF when VF Enable is cleared: teardown, the TDI is removed, the pages pass to world 1. A
session bound to the VF is then bound to none (DESIGN CHOICE, log entry 81). -/
def removeVf (s : State) (f : Nat) : State :=
  let w := worldOfFunc f
  let s0 := tearDown w 3 s
  let s1 := if (worldOf s0 w).tearing.isSome then modWorld s0 w (fun x => { x with leaving := true }) else pagesToHost w s0
  { s1 with
    funcs := tabDel s1.funcs f
    sessions := s1.sessions.map (fun x => if x.func = some f then { x with func := none } else x)
    clusters := s1.clusters.map (fun p => (p.1, { p.2 with parts := p.2.parts.filter (fun q => q.1 != f) })) }

/-- VF_ENABLE_CLEAR (R70). -/
def execVfEnableClear (s : State) : Out :=
  configReq "VF_ENABLE_CLEAR" s (fun s =>
    if s.vfEnable then
      let s1 := (enabledVfs s).foldl removeVf s
      let t := freeIn s1 0 retryBound
      { t.2 with vfEnable := false, retryUntil := s1.gcyc + t.1 }
    else s)

/-- R61: the write changes the item. -/
def itemChanges (s : State) (o : LockedWrite) : Bool :=
  match o.item with
  | 1 => s.vfBar0 != o.value
  | 2 => s.numVfs != o.value
  | 3 => s.vfMse.toNat != o.value % 2
  | 4 => (funcOf s o.f).bme.toNat != o.value % 2
  | 5 => (funcOf s o.f).ideStream != (if o.value < 32 then some o.value else none)
  | 6 => s.vfBar2 != o.value
  | 7 => (funcOf s o.f).ideRange != o.value
  | _ => false

/-- The item takes its value. -/
def putItem (o : LockedWrite) (s : State) : State :=
  match o.item with
  | 1 => { s with vfBar0 := o.value }
  | 2 => { s with numVfs := o.value }
  | 3 => { s with vfMse := o.value % 2 == 1 }
  | 4 => modFunc s o.f (fun v => { v with bme := o.value % 2 == 1 })
  | 5 => modFunc s o.f (fun v => { v with ideStream := if o.value < 32 then some o.value else none })
  | 6 => { s with vfBar2 := o.value }
  | 7 => modFunc s o.f (fun v => { v with ideRange := o.value })
  | _ => s

/-- The VFs whose item a write names: all of them for the SR-IOV capability of the PF. -/
def itemVfs (s : State) (o : LockedWrite) : List Nat := if o.item ≤ 3 || o.item == 6 then enabledVfs s else [o.f]

/-- R70: a VF that VF Enable has been set for again answers with Request Retry Status while the teardown goes on; the items in
the PF's capabilities are not its own (DEDUCED, log entry 48). -/
def vfRetries (s : State) (o : LockedWrite) : Bool :=
  o.item == 4 && o.f != 0 && s.vfEnable && decide (s.gcyc < s.retryUntil)

/-- LOCKED_ITEM_WRITE (R61): the write takes effect, and a locked TDI whose item changed enters ERROR. -/
def execLockedItemWrite (o : LockedWrite) (s : State) : Out :=
  configReq "LOCKED_ITEM_WRITE" s (fun s =>
    if vfRetries s o then emit s (.retry "LOCKED_ITEM_WRITE")
    else if itemChanges s o then ((itemVfs s o).filter (fun f => f != 0)).foldl (fun s f => enterError f s) (putItem o s)
    else s)

end Sys2Proof.Machine
end

