-- ==== Sys2Proof/Machine/Hosts.lean ====
section
/-!
DEFINITION. What the host asks of memory and channels: range 1 of a VF and the PF's window (spec/03_admission_and_trust.md R63, R437), the
requests that a service program serves (spec/13_memory_channels_and_segmented_banks.md R305), and the start and stop of static programs
(spec/13_memory_channels_and_segmented_banks.md R299-R304).
-/

namespace Sys2Proof.Machine

/-! ## Requests of the host (R63, R437) -/

/-- R63: bytes in range 1 and in the PF's window. -/
def rangeBytes : Nat := 0x100000000

/-- R63, R68: the function's range 1 is open: its TDI is in RUN and its world is not held. -/
def rangeRun (s : State) (f : Nat) : Bool := (funcOf s f).tdi == .run && !(worldOf s (worldOfFunc f)).held

/-- R63: a request to range 1 may be translated: RUN, the trusted bit, the VF's IDE stream, one page of 4 KiB. -/
def rangeOpen (s : State) (o : HostReq) : Bool :=
  o.f != 0 && enabledFunc s o.f && rangeRun s o.f && o.trusted && o.onStream &&
    decide (o.off % 4096 + o.len ≤ 4096) && decide (o.off + o.len ≤ rangeBytes)

/-- HOST_RANGE1_REQUEST: checked and translated; it reaches package HBM only. One whose page is not cached waits for its walk,
and those of its function that arrive later wait behind it (R114, R336) (DESIGN CHOICE, log entry 74). -/
def execHostRange1Request (o : HostReq) (s : State) : Out :=
  let w := worldOfFunc o.f
  if rangeOpen s o then
    if (transLookup s 4 w o.off).isNone || s.hostWaits.any (fun q => q.f == o.f) then
      .next (addMisses (if (transLookup s 4 w o.off).isNone then [⟨4, w, o.off / 65536⟩] else [])
        { s with hostWaits := s.hostWaits ++ [o] })
    else
    match translate s 4 w o.off o.write with
    | (.error _, s) => .next (emit s (.unsupported o.f))
    | (.ok pa, s) =>
      .next (if targetOf pa = 0 && svcCheck s w pa = 0 then queueRequest o w pa s else emit s (.unsupported o.f))
  else .next (emit s (.unsupported o.f))

/-- PF_WINDOW_REQUEST (R437): untranslated, to a page of world 1. -/
def execPfWindowRequest (o : HostReq) (s : State) : Out :=
  let pa := s.winbase.toNat + o.off
  .next (if o.off + o.len ≤ rangeBytes && decide (o.off % 4096 + o.len ≤ 4096) && svcCheck s 1 pa = 0 then queueRequest o 1 pa s
    else emit s (.unsupported o.f))

/-! ## The service program (R305) -/

/-- The bytes of a read, a poisoned line as zeros, and whether there is one (R63). -/
def readLines (s : State) (u n : Nat) : List Byte × Bool :=
  let ls := (linesOf u n).map (fun a => svcLine s a)
  (((ls.flatMap (fun d => if d.2 then List.replicate 64 0 else d.1)).drop (u % 64)).take n, ls.any (·.2))

/-- One request: a failure, or a range 1 that is no longer open (R63), completes with Unsupported Request; the lines of a custody
page pass the governor on their way to the host (R380). -/
def serveReq (r : SvcReq) (s : State) : State :=
  if svcCheck s r.world r.addr != 0 || (r.tag != 0 && !rangeRun s r.tag) then emit s (.unsupported r.tag)
  else if r.write then svcWrite s r.addr r.data r.poison
  else
    let d := readLines s r.addr r.len
    let out := Output.completion r.tag d.1 d.2
    let s1 := (linesOf r.addr r.len).foldl noteSoft s
    sendLines r.world 0 ((linesOf r.addr r.len).map (fun u => some (pageOfAddr u))) out none s1

/-- R336: a write of the same function that arrived earlier still waits at some channel. -/
def behindWrite (s : State) (r : SvcReq) : Bool :=
  s.chans.any (fun p => p.2.reqs.any (fun q => q.write && q.tag == r.tag && decide (q.seq < r.seq)))

/-- SERVICE_REQUEST: the oldest request of a channel is served, behind the earlier writes of its function, or a stop that is
ready passes the channel back
(DESIGN CHOICE, log entry 67). -/
def execServiceRequest (ch : Nat) (s : State) : Out :=
  .next (if stopReady s ch then giveBack ch s
    else
      match (chanOf s ch).reqs with
      | [] => s
      | r :: rest => if behindWrite s r then s else serveReq r (modChan s ch (fun c => { c with reqs := rest })))

/-! ## Static programs (R299, R300) -/

/-- R299: the section of a channel program: KIND 7, within the instruction store, its image's key installed. -/
def readProgram (s : State) (w : Nat) (q : StartReq) : Option (ImageFile × Image × Section × List Byte) × State :=
  match readImage s 4 w q.image with
  | (.ok (some f), s) =>
    match keyOfWorld s w f.head.keyid 1, secOf f.sections 7 q.sid with
    | some key, some x =>
      let k := imageKeys key f.head.nonce
      if 0x40000 < x.size then (none, s)
      else
        match fillSection s 4 w f k.2 x with
        | (.ok (some c), s) =>
          (some (f, { Image.none with
            keyid := f.head.keyid, nonce := f.head.nonce, kenc := k.1, kmac := k.2, codeSid := x.sid, codeLen := c.1.length, key := key }, x, c.1), s)
        | (_, s) => (none, s)
    | _, _ => (none, s)
  | (_, s) => (none, s)

/-- What the service program completes before it hands a channel over: the channel's requests, with what the same functions
sent before them to any channel, in order of arrival (R300, R336). -/
def acceptedBefore (s : State) (ch : Nat) : List SvcReq :=
  sortBy (·.seq) ((s.chans.flatMap (·.2.reqs)).filter (fun q =>
    (chanOf s ch).reqs.any (fun r => q.tag == r.tag && decide (q.seq ≤ r.seq))))

/-- The service program completes requests, in the order given. -/
def serveNow (l : List SvcReq) (s : State) : State :=
  l.foldl (fun s r => serveReq r s) { s with chans := s.chans.map (fun e =>
    (e.1, { e.2 with reqs := e.2.reqs.filter (fun q => !l.elem q) })) }

/-- R300, R104: the service program completes what it has accepted, closes its banks and cache rows, and the core and slice are
zeroed, 64 chc; then the static program starts at offset 0 (ZEROING_COMPLETE) (DESIGN CHOICE, log entry 56). -/
def handOver (w ch : Nat) (img : Image) (code : List Byte) (s : State) : State :=
  let s2 := closeChannel ch (serveNow (acceptedBefore s ch) s)
  let s3 := modChan s2 ch (fun c => { Chan.reset with
    func := funcOfWorld w
    pin := c.pin
    istore := memWrite [] 0 code
    starting := true
    zeroUntil := some (s.gcyc + 128) })
  setCtx s3 (.channel ch) { Ctx.reset with
    live := true
    task := { Task.none with world := w }
    image := img
    lfsr := lfsrSeed 0 }

/-- CHANNEL_START (R299): it hands the channel over, and stands first in line (R72) until the program's first bundle has issued;
then it is answered. -/
def execChannelStart (ses : Nat) (q : StartReq) (s : State) : Out :=
  configReq "CHANNEL_START" s (inSession "CHANNEL_START" ses (fun x s =>
    let w := worldOfFunc q.function
    let c := chanOf s q.unit
    let st := startCheck s x q.function
    if st != 0 then answer "CHANNEL_START" st s
    else if c.starting && c.func == q.function then
      answer "CHANNEL_START" 0 (modChan s q.unit (fun c => { c with starting := false }))
    else if chanTaken c then answer "CHANNEL_START" 0x0C s
    else if !(decide (q.unit < 256) && bm (funcOf s q.function).layout.channels.toNat q.unit) ||
        s.cutDies.elem (q.unit / 64) then answer "CHANNEL_START" 0x0D s
    else
      match readProgram s w q with
      | (some (_, img, _, code), s1) =>
        let s2 := handOver w q.unit img code s1
        { s2 with inputs := (s.gcyc, .channelStart ses q) :: s2.inputs }
      | (none, s1) => answer "CHANNEL_START" 0x0D s1))

/-- R299, R304: the answer to a CHANNEL_STOP: the fault record, zero if the program did not trap. -/
def stopAnswer (r : Option (Nat × Nat)) (s : State) : State :=
  let v := r.getD (0, 0)
  emit s (.status "CHANNEL_STOP" 0 (leBytes 1 v.1 ++ leBytes 4 v.2))

/-- CHANNEL_STOP (R299): a running program is stopped, and the answer comes when the channel has passed back; until then
the request stands first in line (R72). -/
def execChannelStop (ses : Nat) (q : StopReq) (s : State) : Out :=
  configReq "CHANNEL_STOP" s (inSession "CHANNEL_STOP" ses (fun x s =>
    let c := chanOf s q.unit
    if notBound s x q.f then answer "CHANNEL_STOP" 0x01 s
    else if c.owner != 0 && c.owner == worldOfFunc q.f then
      let s1 := if c.stopping then s else stopChannel q.unit (some (0, 0)) s
      { s1 with inputs := (s.gcyc, .channelStop ses q) :: s1.inputs }
    else if c.faultRec.isSome && c.func == q.f then
      stopAnswer c.faultRec (modChan s q.unit (fun c => { c with faultRec := none, func := 0 }))
    else answer "CHANNEL_STOP" 0x0D s))

end Sys2Proof.Machine
end

