-- ==== Sys2Proof/Machine/Hypervisor.lean ====
section
/-!
DEFINITION. The commands of the hypervisor on the PF's mailbox (spec/03_admission_and_trust.md R59, R66-R69;
spec/04_launch_and_scheduling.md R91; spec/13_memory_channels_and_segmented_banks.md R287, R319; spec/16_fabric_and_switch_trust.md R362, R384;
spec/20_observation_and_bring_up.md R426), and its writes to registers of PF BAR0.
-/

namespace Sys2Proof.Machine

/-! ## Statuses of R59 -/

def badArg : Nat := 1
def notOwner : Nat := 2
def lockedStatus : Nat := 3
def badImage : Nat := 4
def svnLow : Nat := 5
def busyStatus : Nat := 6

/-! ## Layouts (R48, R49, R102) -/

/-- R59: the function of a LAYOUT_SET may be named: the PF, or a VF within NumVFs that is enabled. -/
def layoutFunc (s : State) (f : Nat) : Bool := f == 0 || (enabledFunc s f && decide (f ≤ s.numVfs))

/-- R102: pooled banks of a cluster that the layouts of the other functions reserve. -/
def reservedBanks (s : State) (f cl : Nat) : Nat :=
  ((List.range 32).filter (fun g => g != f && enabledFunc s g && bm (funcOf s g).layout.clusters.toNat cl)).foldl
    (fun n g => n + (funcOf s g).layout.pooled) 0

/-- R48, R49, R102: the descriptor and the counter allow the layout. -/
def layoutOk (s : State) (f : Nat) (y : Layout) (resv : Nat) : Bool :=
  layoutFunc s f && resv == 0 && decide (y.pooled ≤ 64) && decide (y.monitors ≤ 1088) && s.layoutGen != 0xFFFFFFFF &&
    (List.range 16).all (fun cl => !bm y.clusters.toNat cl || decide (reservedBanks s f cl + y.pooled ≤ 64))

/-- R102: the partition of a function in a cluster under a new layout: banks it has had, then the lowest of those in no other
partition, ascending (DESIGN CHOICE, log entry 89). -/
def newPart (k : Cluster) (f n : Nat) : List Nat :=
  let others := (k.parts.filter (fun p => p.1 != f)).flatMap (·.2)
  let old := ((k.parts.find? (fun p => p.1 = f)).elim [] (·.2)).take n
  sortBy id (old ++ ((List.range 64).filter (fun b => !others.elem b && !old.elem b)).take (n - old.length))

/-- Every cluster's partition of the function under a layout. -/
def setParts (f : Nat) (y : Layout) (s : State) : State :=
  (List.range 16).foldl (fun s cl =>
    let n := if bm y.clusters.toNat cl then y.pooled else 0
    if n = 0 && (partBanks s cl f).isEmpty then s
    else modCluster s cl (fun k =>
      let part := if n = 0 then [] else [(f, newPart k f n)]
      { k with parts := k.parts.filter (fun p => p.1 != f) ++ part })) s

/-- LAYOUT_SET: the layout is replaced and takes the next LAYOUTGEN; a locked TDI enters ERROR, also where the descriptor
repeats the layout it had (R59, R61) (DESIGN CHOICE, log entry 83). -/
def execLayoutSet (f : Nat) (y : Layout) (resv : Nat) (s : State) : Out :=
  configReq "LAYOUT_SET" s (fun s =>
    if layoutOk s f y resv then
      let s1 := setParts f y { s with layoutGen := s.layoutGen + 1 }
      answer "LAYOUT_SET" 0 (enterError f (modFunc s1 f (fun v => { v with layout := y, layoutGen := s1.layoutGen })))
    else answer "LAYOUT_SET" badArg s)

/-! ## Pages (R57, R59, R286, R297) -/

/-- R297: every node of a span of groups can take one more clearing. -/
def clrRoom (s : State) (group count : Nat) : Bool :=
  (List.range count).all (fun i => (List.range 4).all (fun j => decide (clrOf s ((group + i) * 256 + 64 * j) < 2 ^ 24 - 1)))

/-- R286: a span of whole groups within HBM. -/
def groupSpan (first count : Nat) : Bool :=
  first % 7 == 0 && count % 7 == 0 && decide (first + count ≤ pageCount)

/-- The owners of the groups of a span of pages. -/
def spanOwners (s : State) (first count : Nat) : List Nat := (List.range (count / 7)).map (fun i => pageOwner s (first + 7 * i))

/-- A span of pages passes to a world in one step: WORLD, CUSTODY clear, the rows cleared, no translation of them left
(R59, R115, R297). -/
def passPages (first count w : Nat) (s : State) : State :=
  let s1 := clearGroups s (first / 7) (count / 7) true
  dropPageTrans { s1 with
    pageWorld := spanSet s1.pageWorld first count w
    pageCustody := spanSet s1.pageCustody first count false } first count

/-- PAGE_ASSIGN. -/
def execPageAssign (first count world : Nat) (s : State) : Out :=
  configReq "PAGE_ASSIGN" s (fun s =>
    if !groupSpan first count || decide (world < 2) || decide (32 < world) then answer "PAGE_ASSIGN" badArg s
    else if (spanOwners s first count).any (fun w => w != 1) then answer "PAGE_ASSIGN" notOwner s
    else if !clrRoom s (first / 7) (count / 7) then answer "PAGE_ASSIGN" badArg s
    else answer "PAGE_ASSIGN" 0 (passPages first count world s))

/-- R59, R68: the status of a PAGE_RECLAIM; a count of 0 names no page and is OK, as it is for PAGE_ASSIGN (DESIGN CHOICE, log
entry 83). -/
def reclaimStatus (s : State) (first count : Nat) : Nat :=
  if !groupSpan first count then badArg
  else
    match spanOwners s first count with
    | [] => 0
    | w :: ws =>
      if w < 2 || ws.any (fun v => v != w) then notOwner
      else if tdiLocked s (funcOfWorld w) then lockedStatus
      else if !clrRoom s (first / 7) (count / 7) then badArg else 0

/-- R68: a held world is torn down before its pages are taken. -/
def tearHeld (w : Nat) (s : State) : State := if (worldOf s w).held then tearDown w 4 s else s

/-- PAGE_RECLAIM; one that tears a held world down stands first in line until the teardown is complete (R72, R322). -/
def execPageReclaim (first count : Nat) (s : State) : Out :=
  configReq "PAGE_RECLAIM" s (fun s =>
    let st := reclaimStatus s first count
    if st = 0 && !(spanOwners s first count).isEmpty then
      let s1 := tearHeld (pageOwner s first) s
      if (worldOf s1 (pageOwner s first)).tearing.isSome then
        { s1 with inputs := (s.gcyc, .pageReclaim first count) :: s1.inputs }
      else answer "PAGE_RECLAIM" 0 (passPages first count 1 s1)
    else answer "PAGE_RECLAIM" st s)

/-! ## Firmware (R66-R69) -/

/-- R58: the address of byte `n` of the device area. -/
def deviceArea (n : Nat) : Nat :=
  let p := n / 65536
  let k := p / 7
  ((0xF0000 + k / 4 * 256 + 252 + k % 4) * 7 + p % 7) * 65536 + n % 65536

/-- R58: where the staged image lies in the device area. -/
def stageOff : Nat := 0x1000000

/-- Writes an image into world 0's memory, line by line, also where a static program holds the channel: R301 does not name
Spaique's own writes (DESIGN CHOICE, log entry 88). A line on a die that is cut off is not written (R421). -/
def stageImage (l : List Byte) (s : State) : State :=
  (splitLines (l.length + 1) stageOff l).foldl (fun s p =>
    if s.cutDies.elem (dieOfRow (rowOfAddr (deviceArea p.1))) then s else svcWriteLine s (deviceArea p.1) p.2 false) s

/-- R66: each certificate is signed with the key of the next one, and the key of the last is the Caergan root's, of which the
boot ROM holds a digest. -/
def chainHolds : List Config.SignedCert → Bool
  | [] => false
  | [c] => sha256W (toNats (Config.keyForm c.key)) == Config.rootKeyDigest
  | c :: d :: l => rsaVerify d.key (toNats c.body) c.sig && chainHolds (d :: l)

/-- R66, R67: the SVN of an image whose form, signature and certificates hold. -/
def imageSvn (l : List Byte) : Option Nat :=
  match Config.firmwareFile l with
  | none => none
  | some f =>
    let signedBy := fun (c : Config.SignedCert) => rsaVerify c.key (toNats f.signed) f.sig
    if f.svn ≤ 64 && f.certs.head?.elim false signedBy && chainHolds f.certs then some f.svn else none

/-- FW_STAGE (R67): the image is copied from host memory and checked (DEDUCED, log entry 58). -/
def execFwStage (addr len : Nat) (s : State) : Out :=
  configReq "FW_STAGE" s (fun s =>
    if 0x4000000 < len then answer "FW_STAGE" badImage s
    else
      let l := memBytes s.host addr len
      match imageSvn l with
      | none => answer "FW_STAGE" badImage s
      | some svn =>
        if svn < s.svn then answer "FW_STAGE" svnLow s
        else answer "FW_STAGE" 0 { stageImage l s with staged := some (svn, sha256W (toNats l)) })

/-- R68: a locked TDI moves to CONFIG_UNLOCKED without teardown, and its world is held. -/
def holdWorld (s : State) (f : Nat) : State :=
  if tdiLocked s f then
    modWorld (modFunc s f (fun v => { v with tdi := .unlocked, nonce := 0 })) (worldOfFunc f) (fun x => { x with held := true })
  else s

/-- R68: every SPDM session ends: those of requesters, those with admitted switches, each of which is logged (R373), and those
of admissions that run, which end as unreachable (DESIGN CHOICE, log entry 52). -/
def endSessions (s : State) : State :=
  let s1 := (openSwitches s).foldl (fun s p => endSwitch p.1 p.2 s) { s with sessions := [], admissions := [] }
  s.admissions.foldl (fun s a => answerAdmit a.world a.ordinal 0x10 a.digest s) s1

/-- FW_ACTIVATE (R68) (DESIGN CHOICE, log entry 49). The image that is now active is staged no longer (DESIGN CHOICE, log entry
83). -/
def execFwActivate (s : State) : Out :=
  configReq "FW_ACTIVATE" s (fun s =>
    match s.staged with
    | none => answer "FW_ACTIVATE" badImage s
    | some (svn, digest) =>
      let s1 := (enabledVfs s).foldl holdWorld { endSessions s with activeSvn := svn, activeDigest := digest, staged := none }
      answer "FW_ACTIVATE" 0 (logEvent 0x04 0 (leBytes 1 svn ++ leBytes 5 0 ++ leBytes 8 digest.toNat) s1))

/-- FW_COMMIT (R69): fuses are blown up to the active image's SVN. -/
def execFwCommit (s : State) : Out :=
  configReq "FW_COMMIT" s (fun s => answer "FW_COMMIT" 0 { s with svn := max s.svn s.activeSvn })

/-! ## Scheduling, events, the fabric, the log -/

/-- SCHED_SET (R91): takes effect at the next tick. -/
def execSchedSet (f w cap pdl : Nat) (s : State) : Out :=
  configReq "SCHED_SET" s (fun s =>
    if enabledFunc s f && decide (1 ≤ w) && decide (w < 256) && decide (1 ≤ cap) && decide (cap ≤ 64) && decide (1 ≤ pdl) &&
        decide (pdl < 65536) then
      answer "SCHED_SET" 0 (modFunc s f (fun v => { v with sched := some (w, cap, pdl) }))
    else answer "SCHED_SET" badArg s)

/-- EVENT_SET (R426). -/
def execEventSet (f : Nat) (allow mode : BitVec 256) (s : State) : Out :=
  configReq "EVENT_SET" s (fun s =>
    if enabledFunc s f then answer "EVENT_SET" 0 (modFunc s f (fun v => { v with allow := allow, mode := mode }))
    else answer "EVENT_SET" badArg s)

/-- FABRIC_SET (R362). -/
def execFabricSet (pkg ports : Nat) (s : State) : Out :=
  configReq "FABRIC_SET" s (fun s =>
    if 1023 < pkg then answer "FABRIC_SET" badArg s
    else if s.worlds.any (fun p => p.2.job.isSome) then answer "FABRIC_SET" lockedStatus s
    else answer "FABRIC_SET" 0 { s with pkg := some pkg, ports := BitVec.ofNat 32 ports })

/-- R384: the digest of the entry last written to the ring. -/
def lastWritten (s : State) : W256 := (s.log.held.head?).elim s.log.last (·.prev)

/-- LOG_SIGN (R384): a head of the entry last written; with none written there is nothing to sign
(DESIGN CHOICE, log entry 49). -/
def execLogSign (s : State) : Out :=
  configReq "LOG_SIGN" s (fun s =>
    if s.log.head = 0 then answer "LOG_SIGN" badArg s
    else answer "LOG_SIGN" 0 (signHead (s.log.head - 1) (lastWritten s) s))

/-! ## Near rows (R287, R289) -/

/-- R287: the first pages of the groups of a quarter of a channel. -/
def quarterPages (ch h : Nat) : List Nat := (List.range 64).map (fun sub => (ch * 256 + sub * 4 + h) * 7)

/-- The quarters whose PIN bit changes from `v`. -/
def turned (old new : Nat) (v : Bool) : List Nat :=
  [0, 1, 2, 3].filter (fun h => bm old h == v && bm new h == !v)

/-- R289: the victim pointers after a NEAR_SET. -/
def movePointers (old new : Nat) (t : Tab Nat) : Tab Nat :=
  if (turned old new true).isEmpty then
    t.map (fun p => (p.1, if bm new (p.2 / 8) then nextCacheRow (BitVec.ofNat 4 new) p.2 else p.2))
  else []

/-- A quarter passes to a world: its pages, their translations. -/
def passQuarter (ch h w : Nat) (s : State) : State :=
  (quarterPages ch h).foldl (fun s p =>
    dropPageTrans { s with
      pageWorld := spanSet s.pageWorld p 7 w
      pageCustody := spanSet s.pageCustody p 7 false } p 7) s

/-- R287: the rows of a quarter of a channel. -/
def quarterRow (ch h q : Nat) : Bool := (quarterPages ch h).elem (q / 256 * 7)

/-- R287, R290, R297: the quarters that become pinned are cleaned, and pass to world 1 with their rows cleared; a row that is no
cache row has TAG zero. -/
def pinQuarter (ch h : Nat) (s : State) : State :=
  let qs := (chanOf s ch).valid.filter (fun q => slabRow q / 8 = h)
  let s1 := qs.foldl (fun s q => invalidateRow (writeBack s ch q) ch q) s
  let s2 : State := { s1 with rows := s1.rows.map (fun p => (p.1, if quarterRow ch h p.1 then { p.2 with tag := 0 } else p.2)) }
  (quarterPages ch h).foldl (fun s p => clearGroups s (p / 7) 1 true) (passQuarter ch h 1 s2)

/-- NEAR_SET (R287). -/
def execNearSet (ch pin : Nat) (s : State) : Out :=
  configReq "NEAR_SET" s (fun s =>
    let c := chanOf s ch
    let old := c.pin.toNat
    let owned := fun (l : List Nat) (w : Nat) => l.all (fun h => (quarterPages ch h).all (fun p => pageOwner s p == w))
    if 16 ≤ pin then answer "NEAR_SET" badArg s
    else if chanTaken c then answer "NEAR_SET" busyStatus s
    else if !owned (turned old pin true) 1 || !owned (turned old pin false) 0 then answer "NEAR_SET" notOwner s
    else
      let s1 := (turned old pin false).foldl (fun s h => pinQuarter ch h s) s
      let s2 := (turned old pin true).foldl (fun s h => passQuarter ch h 0 s) s1
      answer "NEAR_SET" 0 (modChan s2 ch (fun c => { c with
        pin := BitVec.ofNat 4 pin, victims := movePointers old pin c.victims })))

/-! ## PAGE_MOVE (R319) -/

/-- The lines of a group with their usable offsets in it, as they are read. -/
def groupLines (s : State) (g : Nat) : List (Nat × List Byte × Bool) :=
  (List.range 7168).map (fun i =>
    let d := svcLine s (g * 458752 + 64 * i)
    (64 * i, d.1, d.2))

/-- The channel of the group whose first page is `p`. -/
def chanOfPage (p : Nat) : Nat := chanOfRow (p / 7 * 256)

/-- PAGE_MOVE: the lines pass to the destination group under the world's key, each read noted against its node (R291); the source
group is cleared and passes to world 1. Answers the poisoned lines. -/
def movePages (src dst : Nat) (s : State) : Nat × State :=
  let w := pageOwner s src
  let lines := groupLines s (src / 7)
  let s0 := lines.foldl (fun s l => noteSoft s (src / 7 * 458752 + l.1)) s
  let s1 : State := { s0 with
    pageWorld := spanSet s.pageWorld dst 7 w
    pageCustody := (List.range 7).foldl (fun t i => spanSet t (dst + i) 1 (pageCustody s (src + i))) s.pageCustody }
  let s2 := lines.foldl (fun s l => svcWriteLine s (dst / 7 * 458752 + l.1) l.2.1 l.2.2) s1
  ((lines.filter (·.2.2)).length, dropPageTrans (passPages src 7 1 s2) dst 7)

/-- R421: every access to the group's stack fails: no service program runs on its channel (DESIGN CHOICE, log entry 92). -/
def groupCut (s : State) (p : Nat) : Bool := s.cutDies.elem (chanOfPage p / 64)

/-- PAGE_MOVE. -/
def execPageMove (src dst : Nat) (s : State) : Out :=
  configReq "PAGE_MOVE" s (fun s =>
    let fail := fun (st : Nat) => emit s (.status "PAGE_MOVE" st (leBytes 4 0))
    if !groupSpan src 7 || !groupSpan dst 7 then fail badArg
    else if decide (pageOwner s src < 2) || pageOwner s dst != 1 then fail notOwner
    else if chanTaken (chanOf s (chanOfPage src)) || chanTaken (chanOf s (chanOfPage dst)) || groupCut s src || groupCut s dst then
      fail busyStatus
    else
      let r := movePages src dst s
      emit (logEvent 0x08 (pageOwner s src) (leBytes 4 src ++ leBytes 4 dst ++ leBytes 4 r.1) r.2)
        (.status "PAGE_MOVE" 0 (leBytes 4 r.1)))

/-! ## Registers of PF BAR0 -/

/-- WINBASE (R437): bits 38-32, at most 111, every other bit zero. -/
def execWinbaseWrite (v : Word) (s : State) : Out :=
  .next (if v.toNat = bits v 38 32 * 2 ^ 32 && decide (bits v 38 32 ≤ 111) then { s with winbase := v } else s)

/-- World 1's TROOT (R109): its cached translations go. -/
def execTrootWrite (v : Word) (s : State) : Out :=
  .next (dropWorldTrans (modWorld s 1 (fun x => { x with troot := v.toNat })) 1)

/-- R381: written entries that the host has not consumed (DEDUCED, log entry 50). -/
def logOutstanding (s : State) : Bool := s.log.head != s.log.ack

/-- LOGBASE (R381): 4 KiB aligned. -/
def execLogbaseWrite (v : Word) (s : State) : Out :=
  .next (if logOutstanding s || v.toNat % 4096 != 0 then s else { s with log := { s.log with base := v.toNat } })

/-- LOGSIZE (R381): 2^12 to 2^24. -/
def execLogsizeWrite (v : Word) (s : State) : Out :=
  .next (if logOutstanding s || decide (v.toNat < 2 ^ 12) || decide (2 ^ 24 < v.toNat) then s
    else { s with log := { s.log with size := v.toNat } })

/-- LOGACK (R381). -/
def execLogackWrite (v : Word) (s : State) : Out := .next { s with log := { s.log with ack := v.toNat } }

/-- REGISTER_WRITE (R4): registers with no behaviour of their own take their writable fields; others ignore the write. -/
def execRegisterWrite (off : Nat) (v : Word) (s : State) : Out :=
  .next (match off with
    | 0x220 => { s with log := { s.log with headAddr := v.toNat } }
    | 0x400 => { s with dbg := { s.dbg with core := v.toNat % 128 } }
    | 0x428 => { s with dbg := { s.dbg with tracebase := v - wd (v.toNat % 4096) } }
    | 0x438 => { s with dbg := { s.dbg with stateidx := wd (v.toNat % 2 ^ 32) } }
    | _ => s)

end Sys2Proof.Machine
end

