-- ==== Sys2Proof/Machine/Fabric.lean ====
section
/-!
DEFINITION. Messages between packages as they arrive (spec/16_fabric_and_switch_trust.md R361-R378): the checks of every message,
requests served, responses, time-outs and ports.
-/

namespace Sys2Proof.Machine

/-! ## Receiving a message (R366-R368) -/

/-- The world that has joined a job here, and its membership. -/
def jobWorld (s : State) (djob : Nat) : Option (Nat × Job) :=
  s.worlds.findSome? (fun p => match p.2.job with
    | some j => if j.djob = djob then some (p.1, j) else none
    | none => none)

/-- The fabric-space offset of a message (R366). -/
def msgOff (m : FabMsg) : Nat := m.addr % 2 ^ 42

/-- R365, R386: a membership that has ended here whose key seals the RED or MERGE, and which had a window homed here that the
message names. -/
def leftFor (s : State) (m : FabMsg) (row : Nat) : Option Job :=
  let o := msgOff m - windowBase
  if (row == 3 || row == 4) && m.opc == row && (jobWorld s m.djob).isNone then
    s.leftJobs.find? (fun j => j.djob == m.djob && (openMsg j.kt m).isSome && decide (tabGet 0 j.lastCtr m.src < m.ctr) &&
      j.windows.any (fun d => some d.home == s.pkg && decide (windowBase ≤ msgOff m) && decide (d.base ≤ o) &&
        decide (o < d.base + d.size)))
  else none

/-- R367, R368, R378: the STATUS with which a message is dropped; none when it is accepted. `row` is the opcode that the
receiver takes it for (DEDUCED, log entry 51). -/
def dropStatus (s : State) (m : FabMsg) (row : Nat) : Option Nat :=
  if m.opc != row then some 0
  else if (leftFor s m row).isSome then none
  else
    match jobWorld s m.djob with
    | none => some 2
    | some (_, j) =>
      if (openMsg j.kt m).isNone then some 3
      else if m.ctr ≤ tabGet 0 j.lastCtr m.src then some 4 else none

/-- Enters a drop in the log (R383). -/
def logDrop (m : FabMsg) (st : Nat) (s : State) : State :=
  logEvent 0x0C ((jobWorld s m.djob).elim 0 (·.1)) (leBytes 2 m.src ++ leBytes 1 m.opc ++ leBytes 1 st ++ leBytes 8 m.ctr) s

/-- The response to a request. -/
def reply (w : Nat) (m : FabMsg) (st : Nat) (s : State) : State :=
  sendMsg w { newMsg (0x80 + m.opc) m.src 0 with rid := m.rid, status := st } s

/-- The message is dropped: it is logged, and a request whose tag or counter fails is answered (DEDUCED, log entry 51). -/
def dropMsg (m : FabMsg) (st row : Nat) (s : State) : State :=
  let s1 := logDrop m st s
  match jobWorld s m.djob with
  | some (w, _) => if (st == 3 || st == 4) && decide (row < 0x80) then reply w m st s1 else s1
  | none => s1

/-- R365, R386: a RED or MERGE for a window that was removed with its membership is answered with MODE, under the key of the job
that was left (DEDUCED, log entry 51). -/
def answerLeft (m : FabMsg) (row : Nat) (s : State) : State :=
  match leftFor s m row, portFor s m.src with
  | some j, some p =>
    let a := sealMsg j.kt { newMsg (0x80 + m.opc) m.src 0 with
      rid := m.rid, status := 4, src := s.pkg.getD 0xFFFF, ctr := j.ctr, djob := j.djob, port := p }
    let s1 : State := { s with leftJobs := s.leftJobs.map (fun k =>
      if k = j then { j with ctr := j.ctr + 1, lastCtr := tabSet j.lastCtr m.src m.ctr } else k) }
    emit s1 (.fabric a)
  | _, _ => s

/-- Receives a message for this package: dropped, or accepted with its body in plaintext and its CTR noted. -/
def receive (row : Nat) (m : FabMsg) (k : Nat → Job → FabMsg → State → State) (s : State) : Out :=
  if some m.dst != s.pkg then .next s
  else
    match dropStatus s m row, jobWorld s m.djob with
    | some st, _ => .next (dropMsg m st row s)
    | none, none => .next (answerLeft m row s)
    | none, some (w, j) =>
      let s1 := modWorld s w (fun x => { x with job := x.job.map (fun j => { j with lastCtr := tabSet j.lastCtr m.src m.ctr }) })
      .next (k w j { m with body := (openMsg j.kt m).getD [] } s1)

/-! ## Serving requests (R369, R371) -/

/-- R369: the STATUS for a cause. -/
def statusOf (c : Nat) : Nat := if c = 0 then 0 else if c = 0x08 then 1 else if c = 0x09 then 2 else if c = 0x0A then 3 else 4

/-- R369: the cause for a STATUS. -/
def causeOf (st : Nat) : Nat := if st = 0 then 0 else if st = 1 then 0x08 else if st = 2 then 0x09 else if st = 3 then 0x0A else 0x0C

/-- R371: aligned, 1-4 lines, in one region of R363. -/
def msgRange (m : FabMsg) : Bool :=
  let o := msgOff m
  let e := o + 64 * m.nline
  o % 64 == 0 && decide (1 ≤ m.nline) && decide (m.nline ≤ 4) && decide (m.addr < 2 ^ 42) &&
    (decide (e ≤ hbmBytes) || (decide (windowBase ≤ o) && decide (e ≤ windowBase + windowBytes)))

/-- The offsets of a message's lines. -/
def msgLines (m : FabMsg) : List Nat := (List.range m.nline).map (fun i => msgOff m + 64 * i)

/-- The STATUS of a WRITE or READ. -/
def lineStatus (s : State) (w : Nat) (m : FabMsg) : Nat :=
  if msgRange m then
    statusOf (((msgLines m).map (fabricCause s w)).find? (fun c => c != 0) |>.getD 0)
  else 1

/-- The bytes of a line after those that a mask marks are written. -/
def maskMerge (mask : Nat) (new old : List Byte) : List Byte :=
  (List.range 64).map (fun i => if bm mask i then new.getD i 0 else old.getD i 0)

/-- R371: writes the marked bytes of one line in one step; a poisoned line writes zeros. -/
def writeMasked (off mask : Nat) (l : List Byte) (poison : Bool) (s : State) : State :=
  let d := if poison then List.replicate 64 0 else l
  if mask = 0 then s
  else if off < hbmBytes then svcMergeLine s off (mask == 2 ^ 64 - 1) (maskMerge mask d) poison
  else
    let o := off - windowBase
    { s with windowMem := memWrite s.windowMem o (maskMerge mask d (memBytes s.windowMem o 64)) }

/-- WRITE. -/
def execFabWrite (m : FabMsg) : State → Out :=
  receive 1 m (fun w _ m s =>
    let st := lineStatus s w m
    if st != 0 then reply w m st s
    else
      let s1 := (List.range m.nline).foldl (fun s i =>
        writeMasked (msgOff m + 64 * i) (leNat ((m.body.drop (64 * m.nline + 8 * i)).take 8)) ((m.body.drop (64 * i)).take 64)
          (bm m.op i) s) s
      reply w m 0 s1)

/-- The lines of a READ: their bytes, a poisoned line as zeros, and the marks of the poisoned ones (R371). -/
def readMsgLines (s : State) (m : FabMsg) : List Byte × Nat :=
  let l := (msgLines m).map (fun o => fabricRead s o 64)
  (l.flatMap (fun d => if d.2 then List.replicate 64 0 else d.1),
    (l.zipIdx).foldl (fun n d => if d.1.2 then n + 2 ^ d.2 else n) 0)

/-- READ: the answer carries the lines; those of a custody page pass the governor (R380). -/
def execFabRead (m : FabMsg) : State → Out :=
  receive 2 m (fun w _ m s =>
    let st := lineStatus s w m
    if st != 0 then reply w m st s
    else
      let d := readMsgLines s m
      let a : FabMsg := { newMsg 0x82 m.src 0 with rid := m.rid, nline := m.nline, op := d.2, body := d.1 }
      let s1 := (msgLines m).foldl (fun s o => if o < hbmBytes then noteRows s o 64 else s) s
      sendLines w ((portFor s m.src).elim 0 (· + 1))
        ((msgLines m).map (fun o => if o < hbmBytes then some (pageOfAddr o) else none)) (.fabric a) none s1)

/-! ## Reductions (R376, R377) -/

/-- The word of window memory that a RED or MERGE names: its offset, and the window installed here for it. -/
def redPlace (s : State) (w : Nat) (m : FabMsg) : Option (Nat × WinDesc) :=
  let o := msgOff m - windowBase
  if windowBase ≤ msgOff m ∧ o < windowBytes then (windowAt s w o).map (fun d => (o, d)) else none

/-- R363, R376: the offset lies in window memory and names a word. -/
def redAddrOk (m : FabMsg) : Bool :=
  decide (windowBase ≤ msgOff m) && decide (msgOff m < windowBase + windowBytes) && msgOff m % 8 == 0

/-- RED: one merging write in endpoint mode. One with M = 1 is answered with MODE, wherever it points; so is one that names no
window of endpoint mode. -/
def execRedMessage (m : FabMsg) : State → Out :=
  receive 3 m (fun w _ m s =>
    if !bm m.op 3 && !redAddrOk m then reply w m 1 s
    else
      match redPlace s w m with
      | some (o, d) =>
        if d.mode = 0 && !bm m.op 3 then reply w m 0 (mergeWord d o (m.op % 8) (wd (leNat (m.body.take 8))) 1 s)
        else reply w m 4 s
      | none => reply w m 4 s)

/-- SRC is an admitted switch that a descriptor names (R366). -/
def namesSwitch (d : WinDesc) (src : Nat) : Bool := decide (0x8000 ≤ src) && decide (src < 0x8100) && bm d.switches.toNat (src - 0x8000)

/-- MERGE: accepted for a word of an in-switch window whose descriptor names its sender; any other is answered with MODE. -/
def execMergeMessage (m : FabMsg) : State → Out :=
  receive 4 m (fun w _ m s =>
    match redPlace s w m with
    | some (o, d) =>
      let k := m.addr / 2 ^ 48
      if redAddrOk m && d.mode = 1 && namesSwitch d m.src && k != 0 then
        reply w m 0 (mergeWord d o (m.op % 8) (wd (leNat (m.body.take 8))) k s)
      else reply w m 4 s
    | none => reply w m 4 s)

/-! ## Job domains (R378) -/

/-- The job domain of a membership. -/
def jobDom (w : Nat) (j : Job) : DomKey := ⟨w, 0, j.djob, true⟩

/-- R355, R356, R378: the arrivals that a message's count stands for, as the leader counts it modulo 2^32. A count below zero
takes arrivals back, and those only that its sender has in the open phase: a drop takes no arrival out of a phase that has
completed (DEDUCED, log entry 38). -/
def countFrom (d : Option Dom) (src n : Nat) : Nat :=
  if n < 2 ^ 31 then n
  else (2 ^ 32 - min (2 ^ 32 - n) (d.elim 0 (fun d => tabGet 0 d.came src))) % 2 ^ 32

/-- ARRIVE: the leader applies the counts in the cycle in which it accepts them. -/
def execArrive (m : FabMsg) : State → Out :=
  receive 6 m (fun w j m s =>
    if some j.leader = s.pkg then
      let k := jobDom w j
      let n := countFrom (domOf s k) m.src (m.addr % 2 ^ 32)
      let s1 := modDom (reply w m 0 s) k (fun d => { d with came := tabMod 0 d.came m.src (fun c => (c + n) % 2 ^ 32) })
      applyLandings k n (m.addr / 2 ^ 32) s1
    else reply w m 2 s)

/-- COMPLETE: the phase completes at the member. -/
def execCompleteMessage (m : FabMsg) : State → Out :=
  receive 7 m (fun w j m s =>
    if m.src = j.leader && some j.leader != s.pkg then
      let s1 := reply w m 0 s
      if (domOf s1 (jobDom w j)).elim false (fun d => d.phase == m.addr) then finishPhase (jobDom w j) s1 else s1
    else reply w m 2 s)

/-! ## Responses (R369) -/

/-- R376: who may answer a request. A RED in in-switch mode is merged by a switch that the descriptor names; the home answers it
only with a failure. Any other request is answered by its destination. -/
def answers (s : State) (r : FabReq) (m : FabMsg) : Bool :=
  if r.opc = 3 then
    match windowFor s r.world r.dst (r.addr - windowBase) with
    | some d => if d.mode = 1 then namesSwitch d m.src || (r.dst == m.src && m.status != 0) else r.dst == m.src
    | none => r.dst == m.src
  else r.dst == m.src

/-- The request that a response answers. -/
def requestOf (s : State) (w opc : Nat) (m : FabMsg) : Option FabReq :=
  s.fabReqs.find? (fun r => r.rid == m.rid && r.world == w && r.opc == opc && answers s r m)

/-- A request is no longer in flight. -/
def endRequest (r : FabReq) (s : State) : State := { s with fabReqs := s.fabReqs.filter (fun q => q.rid != r.rid) }

/-- The operation goes on in the next cycle. -/
def nudge (r : FabReq) (s : State) : State := again r.eng r.num s

/-- A request fails with a cause: its operation, or the phase of its domain (R378). -/
def failRequest (r : FabReq) (c : Nat) (s : State) : State :=
  match r.dom with
  | some k => failDom k r.unit (endRequest r s)
  | none => nudge r (failUnit r c (endRequest r s))

/-- A response to a request of opcode `opc`; `k` takes what it delivers. -/
def response (opc : Nat) (m : FabMsg) (k : FabReq → FabMsg → State → State) : State → Out :=
  receive (0x80 + opc) m (fun w _ m s =>
    match requestOf s w opc m with
    | none => s
    | some r => if m.status = 0 then k r m (endRequest r s) else failRequest r (causeOf m.status) s)

/-- WRITE_ACK: every line of the WRITE has performed. -/
def execWriteAck (m : FabMsg) : State → Out := response 1 m (fun r _ s => nudge r s)

/-- READ_DATA: the line has arrived. -/
def execReadData (m : FabMsg) : State → Out :=
  response 2 m (fun r m s =>
    nudge r (modEngine s r.eng (fun k => { k with ops := k.ops.map (fun op =>
      if op.num = r.num then { op with fetched := op.fetched ++ [(r.unit, leNat (m.body.take 64), bm m.op 0)] } else op) })))

/-- RED_ACK: from the home package, or from a switch that has merged the contribution. -/
def execRedAck (m : FabMsg) : State → Out := response 3 m (fun r _ s => nudge r s)

/-- MERGE_ACK answers a switch; a package that receives one has no request for it. -/
def execMergeAck (m : FabMsg) : State → Out := receive 0x84 m (fun _ _ _ s => s)

/-- ARRIVE_ACK. -/
def execArriveAck (m : FabMsg) : State → Out := response 6 m (fun _ _ s => s)

/-- COMPLETE_ACK. -/
def execCompleteAck (m : FabMsg) : State → Out := response 7 m (fun _ _ s => s)

/-- FABRIC_TIMEOUT (R369, R378). -/
def execFabricTimeout (rid : Nat) (s : State) : Out :=
  match s.fabReqs.find? (fun r => r.rid = rid && decide (r.deadline ≤ s.gcyc)) with
  | none => .next s
  | some r => .next (failRequest r 0x0C s)

/-- STANDARD_REQUEST (R361) (DESIGN CHOICE, log entry 74). -/
def execStandardRequest (src : Nat) (s : State) : Out := .next (emit s (.fabricUnsupported src))

/-! ## Ports (R362, R370) -/

/-- R386: what waits at the governor for a port that goes down fails with 0x0C; its tokens are not returned. -/
def failHeld (p : Nat) (s : State) : State :=
  let mine := fun (g : Governed) => g.port == p + 1
  (s.governed.filter mine).foldl (fun s g => g.op.elim s (fun o => again o.1 o.2.1 (failOp o.1 o.2.1 0x0C s)))
    (clearGoverned { s with governed := s.governed.filter (fun g => !mine g) })

/-- PORT_DOWN: what the port carried, or was to carry (R386), fails. -/
def execPortDown (p : Nat) (s : State) : Out :=
  let s1 : State := { s with portsUp := s.portsUp &&& ~~~(BitVec.ofNat 32 (2 ^ p)) }
  .next (failHeld p ((s.fabReqs.filter (fun r => r.port = p)).foldl (fun s r => failRequest r 0x0C s) s1))

/-- PORT_UP: an enabled port comes up; a port that FABRIC_SET has not enabled stays down. -/
def execPortUp (p : Nat) (s : State) : Out :=
  .next (if bm s.ports.toNat p then { s with portsUp := s.portsUp ||| BitVec.ofNat 32 (2 ^ p) } else s)

/-! ## Joining a job (R364, R365) -/

/-- R364: the job key of a wrapped message that says what the request says. -/
def unwrapJob (q : JobJoinReq) : Option (List Nat) :=
  match oaepDecrypt "qualas job" q.wrapped.toNat with
  | none => none
  | some m => if m.length = 36 ∧ bytesNat (m.drop 32) = q.djob then some (m.take 32) else none

/-- R364: the checks before the key is unwrapped. -/
def joinCheck (s : State) (x : Session) (q : JobJoinReq) : Nat :=
  let f := q.function
  let w := worldOfFunc f
  if notBound s x f then 0x01
  else if (worldOf s w).held then 0x09
  else if q.layoutGen != (funcOf s f).layoutGen || q.layoutDigest != layoutDigest (funcOf s f).layout then 0x02
  else if f != 0 && (funcOf s f).tdi != .run then 0x03
  else if f == 0 || q.djob == 0 || q.parties == 0 || decide (65536 < q.parties) ||
      !s.pkg.elim false (fun p => bm q.members.toNat p) || !(decide (q.leader < 1024) && bm q.members.toNat q.leader) then 0x0F
  else if (worldOf s w).job.isSome || (jobWorld s q.djob).isSome then 0x0E else 0

/-- R365: membership, with its two keys, and the job's domain. -/
def joinJob (q : JobJoinReq) (key : List Nat) (s : State) : State :=
  let w := worldOfFunc q.function
  let salt := natBytes 4 q.djob
  let j : Job := {
    djob := q.djob
    leader := q.leader
    parties := q.parties
    members := q.members
    kt := hkdf key salt (ascii "qualas fabric traffic")
    kd := hkdf key salt (ascii "qualas window desc")
    ctr := 1
    lastCtr := []
    switches := []
    windows := [] }
  let d : Dom := {
    key := jobDom w j
    level := 4
    expect := q.parties
    arrived := 0
    phase := 0
    pending := []
    due := []
    came := []
    failed := false }
  modWorld { s with doms := s.doms ++ [d], leftJobs := s.leftJobs.filter (fun k => k.djob != q.djob) } w
    (fun x => { x with job := some j })

/-- Logs a join or leave (R383). -/
def logJob (w djob op st leader : Nat) (s : State) : State :=
  logEvent 0x09 w (leBytes 4 djob ++ leBytes 1 op ++ leBytes 1 st ++ leBytes 2 leader) s

/-- JOB_JOIN (R364). -/
def execJobJoin (ses : Nat) (q : JobJoinReq) (s : State) : Out :=
  loggedReq "JOB_JOIN" s (inSession "JOB_JOIN" ses (fun x s =>
    let w := if notBound s x q.function then 0 else worldOfFunc q.function
    let done := fun (st : Nat) (s : State) => answer "JOB_JOIN" st (logJob w q.djob 0 st q.leader s)
    let st := joinCheck s x q
    if st != 0 then done st s
    else
      match unwrapJob q with
      | none => done 0x06 s
      | some key => done 0 (joinJob q key s)))

/-- JOB_LEAVE (R365). -/
def execJobLeave (ses f djob : Nat) (s : State) : Out :=
  loggedReq "JOB_LEAVE" s (inSession "JOB_LEAVE" ses (fun x s =>
    let w := worldOfFunc f
    let j := (worldOf s w).job.bind (fun j => if j.djob = djob then some j else none)
    let st := if startCheck s x f != 0 then startCheck s x f else if j.isNone then 0x0F else 0
    let s1 := logJob (if notBound s x f then 0 else w) djob 1 st (j.elim 0 (·.leader)) s
    answer "JOB_LEAVE" st (if st = 0 then leaveJob w s1 else s1)))

/-! ## Switches (R372, R373) -/

/-- R372: cc within which a switch must respond, 10 ms. -/
def switchTime : Nat := 40000000

/-- R372: the four steps of an admission; the fourth is taken in two, the session and the ADMIT inside it. -/
def admitStep : Nat := 5

/-- R373: the status when step `n` fails. -/
def stepFailure (n : Nat) : Nat := 0x0F + min n 4

/-- An admission ends with a status: it is logged with the first bytes of the measurement digest, and answered. -/
def endAdmission (a : Admission) (st : Nat) (s : State) : State :=
  let s1 : State := { s with admissions := s.admissions.filter (fun b => !(b.world == a.world && b.ordinal == a.ordinal)) }
  let s2 := if st = 0 then
      modWorld s1 a.world (fun x => { x with job := x.job.map (fun j => { j with switches := j.switches ++ [(a.ordinal, true)] }) })
    else s1
  answerAdmit a.world a.ordinal st a.digest s2

/-- R372, R374: a message of Caergan's own to an admitted or opened switch, in its secure session. -/
def tellSwitch (w ordinal dst : Nat) (l : List Byte) (s : State) : State :=
  sendMsg w { newMsg 5 dst 0 with body := Config.spdmSecure w ordinal (Config.spdmVendor Config.vendorId l) } s

/-- R372: what ADMIT, code 0x20, carries: DJOB, ORDINAL and KT. -/
def admitBytes (j : Job) (ordinal : Nat) : List Byte := leBytes 1 0x20 ++ leBytes 4 j.djob ++ leBytes 2 ordinal ++ leBytes 32 j.kt.toNat

/-- R372, step 1: the terms that an admission asks for. -/
def switchTerms : Config.SpdmTerms where
  version := spdmVersion
  asym := "RSASSA_3072"
  hash := "SHA_256"
  dhe := "FFDHE_3072"
  aead := "AES_256_GCM"
  caps := ["CERT", "MEAS_SIG", "KEY_EX", "ENCRYPT", "MAC"]

/-- R372, step 1: the switch has agreed to the version and the algorithms, and has the capabilities required. -/
def termsOk (t : Config.SpdmTerms) : Bool :=
  t.version == switchTerms.version && t.asym == switchTerms.asym && t.hash == switchTerms.hash && t.dhe == switchTerms.dhe &&
    t.aead == switchTerms.aead && switchTerms.caps.all t.caps.elem

/-- The messages of an admission's step to the switch: SPDM requests, or at last ADMIT in the secure session. -/
def askSwitch (a : Admission) (s : State) : State :=
  if a.step = admitStep then
    (worldOf s a.world).job.elim s (fun j => tellSwitch a.world a.ordinal a.swid (admitBytes j a.ordinal) s)
  else sendMsg a.world { newMsg 5 a.swid 0 with body := Config.spdmAsk a.step switchTerms } s

/-- R372, R373: the request can be taken up (DESIGN CHOICE, log entry 52). -/
def admitCheck (s : State) (x : Session) (q : SwitchReq) : Nat :=
  if notBound s x q.function then 0x01
  else
    match (worldOf s (worldOfFunc q.function)).job with
    | none => 0x0F
    | some j =>
      if some j.leader != s.pkg || q.resv != 0 || decide (255 < q.ordinal) || bm q.mask.toNat 0 || bm q.mask.toNat 255 ||
          j.switches.any (fun p => p.1 == q.ordinal) ||
          s.admissions.any (fun a => a.world == worldOfFunc q.function && a.ordinal == q.ordinal) then 0x0F else 0

/-- SWITCH_ADMIT: the steps of R372 begin; each message from the switch takes them further. -/
def execSwitchAdmit (ses : Nat) (q : SwitchReq) (s : State) : Out :=
  loggedReq "SWITCH_ADMIT" s (inSession "SWITCH_ADMIT" ses (fun x s =>
    let w := if notBound s x q.function then 0 else worldOfFunc q.function
    let st := admitCheck s x q
    let a : Admission := ⟨w, q.ordinal, q.swid, 1, s.gcyc + switchTime, q.root, q.policy, q.mask, 0⟩
    if st != 0 then answerAdmit w q.ordinal st 0 s
    else askSwitch a { s with admissions := s.admissions ++ [a] }))

/-- SWITCH_ADMIT_TIMEOUT (R373). -/
def execSwitchAdmitTimeout (ordinal : Nat) (s : State) : Out :=
  match s.admissions.find? (fun a => a.ordinal = ordinal && decide (a.deadline ≤ s.gcyc)) with
  | none => .next s
  | some a => .next (endAdmission a 0x10 s)

/-- R53, R372: MeasureDigest over the blocks of a switch that a mask selects; none where one is absent. -/
def switchDigest (mask : BitVec 256) (blocks : List (Nat × List Byte)) : Option W256 :=
  let sel := (List.range 256).filter (fun i => bm mask.toNat i)
  let value := fun (i : Nat) => (blocks.find? (fun b => b.1 = i)).map (·.2)
  if sel.all (fun i => (value i).isSome) then some (sha256W (toNats (sel.flatMap (fun i => (value i).getD [])))) else none

/-- An admission goes on with a later state of its attempt: the switch is asked further. -/
def goAdmission (a : Admission) (s : State) : State :=
  let b := { a with deadline := s.gcyc + switchTime }
  askSwitch b { s with admissions := s.admissions.map (fun c => if c.world = a.world ∧ c.ordinal = a.ordinal then b else c) }

/-- R372, R373: a message from a switch whose admission runs. What its bytes say is not in the spec (DESIGN CHOICE, log entry 52):
the step goes on, is done, or fails. -/
def stepAdmission (a : Admission) (m : FabMsg) (s : State) : State :=
  let failed := endAdmission a (stepFailure a.step) s
  let next := { a with step := a.step + 1 }
  let said := Config.switchSays a.step m.body
  if said = .more then goAdmission a s
  else
    match a.step, said with
    | 1, .negotiated t => if termsOk t then goAdmission next s else failed
    | 2, .chain root ok => if ok && sha256W (toNats root) == a.root then goAdmission next s else failed
    | 3, .measured blocks signed =>
      let d := switchDigest a.mask blocks
      let known := fun (b : Admission) => { b with digest := d.elim 0 (·.toNat) }
      if signed && d == some a.policy then goAdmission (known next) s else endAdmission (known a) (stepFailure 3) s
    | 4, .opened => goAdmission next s
    | 5, .status n => if n = 0 then endAdmission a 0 s else failed
    | _, _ => failed

/-- R373: where a message ends the session with an admitted switch, that is logged; the switch stays admitted (DESIGN CHOICE, log
entry 52). -/
def switchSession (w ordinal : Nat) (m : FabMsg) (s : State) : State :=
  if Config.switchSays 0 m.body = .ended then
    endSwitch w ordinal s
  else s

/-- MGMT: plaintext, with neither tag nor counter; at the leader it comes from a switch. -/
def execMgmt (m : FabMsg) (s : State) : Out :=
  if some m.dst != s.pkg then .next s
  else if m.opc != 5 then .next (logDrop m 0 s)
  else
    match s.admissions.find? (fun a => a.swid = m.src) with
    | some a => .next (stepAdmission a m s)
    | none =>
      match jobWorld s m.djob with
      | some (w, j) =>
        if some j.leader = s.pkg && j.switches.any (fun p => p.2 && p.1 + 0x8000 == m.src) then
          .next (switchSession w (m.src - 0x8000) m s)
        else .next s
      | none => .next s

/-! ## Reduction windows (R374) -/

/-- The first 56 bytes of a descriptor. -/
def winBytes (d : WinDesc) : List Nat :=
  natBytes 4 d.djob ++ natBytes 1 d.window ++ natBytes 1 d.mode ++ natBytes 2 d.home ++ natBytes 4 d.base ++ natBytes 4 d.size ++
    natBytes 32 d.switches.toNat ++ natBytes 8 d.resv

/-- R374: the MAC of a descriptor. -/
def winMac (kd : W256) (d : WinDesc) : Nat := mac8 kd (winBytes d)

/-- R374: the geometry of a window. -/
def winRange (d : WinDesc) : Bool :=
  decide (d.window < 64) && d.base % 64 == 0 && d.size % 64 == 0 && decide (64 ≤ d.size) && decide (d.base + d.size ≤ windowBytes) &&
    d.resv == 0

/-- R374: what make checks. -/
def makeOk (s : State) (j : Job) (d : WinDesc) : Bool :=
  some j.leader == s.pkg && d.djob == j.djob && decide (d.home < 1024) && bm j.members.toNat d.home && winRange d &&
    d.mode == 0 && d.mac == 0

/-- The ordinals a descriptor names. -/
def namedSwitches (d : WinDesc) : List Nat := (List.range 256).filter (fun n => bm d.switches.toNat n)

/-- R374: the mode of a window. -/
def winMode (j : Job) (d : WinDesc) : Nat :=
  if d.switches != 0 && (namedSwitches d).all (fun n => j.switches.elem (n, true)) then 1 else 0

/-- The 64 bytes of a descriptor. -/
def descBytes (d : WinDesc) : List Byte := toBytes (winBytes d ++ natBytes 8 d.mac)

/-- R374: a window in in-switch mode is told to every switch that it names, as code 0x21. -/
def tellWindow (w : Nat) (d : WinDesc) (s : State) : State :=
  if d.mode = 1 then (namedSwitches d).foldl (fun s n => tellSwitch w n (0x8000 + n) (leBytes 1 0x21 ++ descBytes d) s) s else s

/-- WINDOW_SET, OP = 0: the leader makes a descriptor, and tells the switches that it names. A reserved byte that is not zero is
a failed check (DESIGN CHOICE, log entry 82). -/
def execWindowSetMake (ses f : Nat) (q : WindowReq) (s : State) : Out :=
  configReq "WINDOW_SET_MAKE" s (inSession "WINDOW_SET_MAKE" ses (fun x s =>
    let w := worldOfFunc f
    if notBound s x f then answer "WINDOW_SET_MAKE" 0x01 s
    else
      match (worldOf s w).job with
      | none => answer "WINDOW_SET_MAKE" 0x14 s
      | some j =>
        if q.resv = 0 && makeOk s j q.desc then
          let d1 := { q.desc with mode := winMode j q.desc }
          let d2 := { d1 with mac := winMac j.kd d1 }
          emit (tellWindow w d2 s) (.status "WINDOW_SET_MAKE" 0 (descBytes d2))
        else answer "WINDOW_SET_MAKE" 0x14 s))

/-- Windows homed here, of every world. -/
def homedWindows (s : State) : List WinDesc :=
  s.worlds.flatMap (fun p => p.2.job.elim [] (fun j => j.windows.filter (fun d => some d.home == s.pkg)))

/-- R374: what install checks. -/
def installOk (s : State) (j : Job) (d : WinDesc) : Bool :=
  d.djob == j.djob && d.mac == winMac j.kd d &&
    (some d.home != s.pkg ||
      !(homedWindows s).any (fun v => v.window == d.window ||
        (decide (v.base < d.base + d.size) && decide (d.base < v.base + v.size))))

/-- The window is installed; at its home its range is zeroed (R374). Its collective timeline keeps its VALUE: only device
reset starts one at 0 (R337). -/
def installWindow (w : Nat) (d : WinDesc) (s : State) : State :=
  let s1 := modWorld s w (fun x => { x with job := x.job.map (fun j => { j with windows := j.windows ++ [d] }) })
  if some d.home = s.pkg then
    { s1 with windowMem := memZero s1.windowMem d.base (d.base + d.size) }
  else s1

/-- WINDOW_SET, OP = 1: any member installs a descriptor; each install is logged. A reserved byte that is not zero is a failed
check (DESIGN CHOICE, log entry 82). -/
def execWindowSetInstall (ses f : Nat) (q : WindowReq) (s : State) : Out :=
  loggedReq "WINDOW_SET_INSTALL" s (inSession "WINDOW_SET_INSTALL" ses (fun x s =>
    let w := worldOfFunc f
    if notBound s x f then answer "WINDOW_SET_INSTALL" 0x01 s
    else
      match (worldOf s w).job with
      | none => answer "WINDOW_SET_INSTALL" 0x14 s
      | some j =>
        let d := q.desc
        if q.resv = 0 && installOk s j d then
          answer "WINDOW_SET_INSTALL" 0 (logEvent 0x0A w
            (leBytes 4 d.djob ++ leBytes 1 d.window ++ leBytes 1 d.mode ++ leBytes 2 d.home) (installWindow w d s))
        else answer "WINDOW_SET_INSTALL" 0x14 s))

end Sys2Proof.Machine
end

