-- ==== Sys2Proof/Machine/Debug.lean ====
section
/-!
DEFINITION. The host debugger (spec/20_observation_and_bring_up.md R427-R431): its commands, its registers, and what a host read of the
PF's registers and of a VF's status page gives (R433).
-/

namespace Sys2Proof.Machine

/-! ## Commands (R428) -/

/-- The world whose policy a command is checked against: that of the selected context at this moment. -/
def debugWorld (s : State) : Nat := (ctxOf s (debugAgent s)).task.world

/-- DBGSTAT[1]: the last command was refused, or not. -/
def setDenied (d : Bool) (s : State) : State := { s with dbg := { s.dbg with stat := if d then 2 else 0 } }

/-- A command that the policy must allow: refused, it has no effect but DENIED. -/
def debugCommand (allowed : Bool) (k : State → State) (s : State) : Out :=
  .next (if allowed then k (setDenied false s) else setDenied true s)

/-- DATA of a TYPE 0x03 entry (R431). -/
def debugData (s : State) (kind worlds : Nat) : List Byte :=
  leBytes 1 kind ++ leBytes 5 worlds ++ leBytes 1 s.dbg.core ++ leBytes 1 Config.prod.toNat

/-- STOP is taken up: the context stops before its next bundle; for a tenant world it is logged (R431). -/
def askStop (s : State) : State :=
  let n := agentId (debugAgent s)
  let w := debugWorld s
  let s1 := if s.dbg.stopNext.elem n || s.dbg.stopped.elem n then s
    else { s with dbg := { s.dbg with stopNext := s.dbg.stopNext ++ [n] } }
  if 2 ≤ w then logEvent 0x03 w (debugData s 1 (2 ^ w)) s1 else s1

/-- R430, R136: a context stops before the bundle that is due, and its lockstep siblings freeze in the same cycles; one that
a sibling's stop of this cycle has frozen already stops where it stands. -/
def stopBefore (a : Agent) (s : State) : State :=
  let s0 := if (ctxOf s a).frozen then s else undoCycle a .debug 7 s
  let s1 := addCause a .debug (modCtx s0 a (fun x => { x with doneMask := stopMask x x.resumeMask }))
  let s2 := freezeSiblings a s1
  { s2 with dbg := { s2.dbg with
      stopped := s2.dbg.stopped ++ [agentId a]
      stopNext := s2.dbg.stopNext.filter (· != agentId a) } }

/-- The stops whose bundle is due. -/
def stopsDue (s : State) : List Agent :=
  (s.dbg.stopNext.map agentOf).filter (fun a => canIssue (ctxOf s a) && s.gcyc % agUnit a == 0)

/-- STOP: as a step before issue, what was asked for; from the host, the command (R430). -/
def execDbgStop (s : State) : Out :=
  if s.phase = 1 then .next ((stopsDue s).foldl (fun s a => stopBefore a s) s)
  else debugCommand (policyStop s (debugWorld s)) askStop s

/-- R430: the stopped context goes on in the next cycle; with `one`, for one bundle. -/
def goOn (one : Bool) (s : State) : State :=
  let a := debugAgent s
  if s.dbg.stopped.elem (agentId a) then
    { dropCause a .debug (modCtx s a (fun x => { x with stepOne := one })) with
      dbg := { s.dbg with stopped := s.dbg.stopped.filter (· != agentId a) } }
  else s

/-- RESUME. -/
def execDbgResume (s : State) : Out := debugCommand (policyStop s (debugWorld s)) (goOn false) s

/-- STEP. -/
def execDbgStep (s : State) : Out := debugCommand (policyStop s (debugWorld s)) (goOn true) s

/-- The worlds whose state is released (R431). -/
def releasedWorlds (s : State) : Nat :=
  (List.range 33).foldl (fun n w => if policyCapture s w then n + 2 ^ w else n) 0

/-- Writes held entries while the ring has room. -/
def flushLog : Nat → State → State
  | 0, s => s
  | n + 1, s =>
    match execLogEntryWrite s with
    | .next s1 => flushLog n s1
    | _ => s

/-- The registers and SRAM cells that a world owns (R104): of the cores its tasks are placed on, of the banks of its gangs, of
its channels with their slices, and of the stewards that run for it. -/
def cellsOf (s : State) (w : Nat) : Cells :=
  let mine := fun (a : Agent) => (ctxOf s a).live && (ctxOf s a).task.world == w
  let banks := fun (cl : Nat) => ((clusterOf s cl).allocs.filter (fun q => q.world = w)).flatMap (·.banks)
  { ctxs := s.ctxs.filter (fun p => mine (agentOf p.1))
    cores := s.cores.filter (fun p => mine (.tile p.1) || mine (.urgent p.1))
    pooled := s.clusters.map (fun p => (p.1, p.2.pooled.filter (fun c => (banks p.1).elem (c.1 / bankBytes))))
    chans := s.chans.filter (fun p => p.2.owner = w)
    stewMem := s.stewMem.filter (fun p => mine (.steward p.1))
    stewCode := s.stewCode.filter (fun p => mine (.steward p.1)) }

/-- R431: the scan readout of a world's cells; all of them read as zero where its policy has no CAPTURE. How many lines they make
is not in the spec; released lines of a world with custody regions wait at the governor for the tokens of its lowest-numbered
region (DESIGN CHOICE, log entry 84). -/
def scanWorld (s : State) (w : Nat) : State :=
  if !policyCapture s w then emit s (.scan w 0 ⟨[], [], [], [], [], []⟩)
  else
    let v := free s
    match captureRegion s w with
    | none => emit v.2 (.scan w v.1 (cellsOf s w))
    | some r => offer ⟨w, r.idx, 33, v.1, .scan w v.1 (cellsOf s w), none, 0⟩ v.2

/-- FREEZE (R431): logged, a head signed, the clocks stopped, and the released state read out. -/
def execFreeze (s : State) : Out :=
  let s1 := logEvent 0x03 0 (debugData s 0 (releasedWorlds s)) s
  let s2 := flushLog s1.log.held.length s1
  let s3 := if s2.log.head = 0 then s2 else signHead (s2.log.head - 1) (lastWritten s2) s2
  .next (setDenied false ((List.range 33).foldl scanWorld { s3 with frozenPkg := true }))

/-- BKPTPC: needs STOP. -/
def execBkptpcWrite (v : Word) (s : State) : Out :=
  debugCommand (policyStop s (debugWorld s)) (fun s =>
    { s with dbg := { s.dbg with bkptpc := wd (bits v 23 0 + bits v 31 31 * 2 ^ 31) } }) s

/-- TRACECTL: needs TRACE. -/
def execTracectlWrite (v : Word) (s : State) : Out :=
  debugCommand (policyTrace s (debugWorld s)) (fun s =>
    { s with dbg := { s.dbg with tracectl := wd (bits v 7 4 * 16 + bits v 1 0) } }) s

/-! ## What a host read gives -/

/-- R430: class, index, cell and value of an in-flight entry. -/
def entryOf : Pend → Nat × Nat × Nat × Nat
  | .sreg r c v => (0, r, c, v.toNat)
  | .vreg _ q c v => (1, q, c, v.toNat)
  | .pair k v => (2, k, 0, v.toNat)
  | .stage g => (2, 8, 0, g.toNat)
  | .vp k v => (2, k, 0, v.toNat)
  | .vacc _ k _ v => (3, k, 0, v.toNat)
  | .recvt _ _ q c => (1, q, c, 0)
  | .ldc _ r c _ => (0, r, c, 0)
  | .latom _ _ _ _ r c _ => (0, r, c, 0)
  | .latomPool _ _ _ _ r c _ => (0, r, c, 0)
  | .latomPerform _ _ _ _ r c _ => (0, r, c, 0)
  | .sendt _ v => (4, 0, 0, v.toNat)
  | .stc a v => (4, a, 0, v.toNat)
  | .store _ l => (4, 0, 0, leNat (l.map (·.2)))
  | .lc v => (4, 0, 0, v.toNat)
  | .csr n v => (4, n, 0, v.toNat)
  | .yset y _ lo hi => (4, y, 0, lo.toNat + hi.toNat * 2 ^ 64)
  | .mparm p v => (4, p, 0, v.toNat)
  | .mstep _ i v => (4, i, 0, v.toNat)

/-- R430: an in-flight entry: the cycles until it lands or performs, and its class, index, cell and value. -/
structure FlightEntry where
  due : Nat
  target : Nat × Nat × Nat × Nat
  deriving DecidableEq, Repr

/-- R430, R392: the beats of an agent's yarns, those in flight with what they carry, and of each open yarn the next beat to be
read, as entries; `t` is the cycle their distances are kept from. -/
def yarnEntries (s : State) (a : Agent) (t : Nat) : List FlightEntry :=
  let k := coreOf s (agIdx a)
  (k.beats.filter (fun b => b.ag == a)).map (fun b => ⟨b.deliver - t,
    if yqDk b.desc = 4 then (1, routeQueue (yqDstBase b.desc % 256), 0, leNat (b.data.map (·.toNat)))
    else (4, b.y, 0, leNat (b.data.map (·.toNat)))⟩) ++
  (k.open_.filter (fun o => o.ag == a)).map (fun o => ⟨o.next - t, (4, o.y, 0, 0)⟩)

/-- R430, R392: the remaining cycles of a matrix call, and a branch target still to issue. -/
def otherEntries (t : Nat) (c : Option MatCall) (b : Option Branch) : List FlightEntry :=
  c.elim [] (fun c => [⟨c.t0 + c.cycles - t, (3, 0, 0, 0)⟩]) ++ b.elim [] (fun b => [⟨b.due - t, (4, 0, 0, b.target)⟩])

/-- R430: what a context has in flight, with what a trap has suspended, as in-flight entries (DESIGN CHOICE, log entry 94). -/
def entriesOf (s : State) (a : Agent) : List FlightEntry :=
  let x := ctxOf s a
  let of_ := fun (t : Nat) (l : List InFlight) => l.map (fun p => (⟨p.due - t, entryOf p.act⟩ : FlightEntry))
  of_ x.clk x.pend ++ otherEntries x.clk x.call x.branch ++
    x.susp.elim [] (fun u => of_ u.tau u.pend ++ otherEntries u.tau u.call u.branch) ++
    yarnEntries s a (x.susp.elim x.clk (·.tau))

/-- R430: word `n` of an entry. -/
def entryWord (e : FlightEntry) (n : Nat) : Nat :=
  let d := e.target
  if n = 0 then e.due % 2 ^ 16 + d.1 * 2 ^ 16 + d.2.1 % 256 * 2 ^ 24 + d.2.2.1 % 4 * 2 ^ 32
  else d.2.2.2 / 2 ^ (64 * (n - 1)) % 2 ^ 64

/-- R430: a CSR as the host reads it: of a stopped context, DONEMASK is what its stopped bundle has done. -/
def stateCsr (s : State) (a : Agent) (n : Nat) : Nat :=
  if csrAccess a n = .none then 0
  else if n = 0x024 && s.dbg.stopped.elem (agentId a) then (ctxOf s a).resumeMask
  else (csrValue s a n).toNat

/-- R430: STATEDATA as STATEIDX selects it. -/
def stateData (s : State) : Nat :=
  let a := debugAgent s
  let x := ctxOf s a
  let i := s.dbg.stateidx.toNat
  if !policyStop s (debugWorld s) then 0
  else
    match bf i 31 24 with
    | 0 => stateCsr s a (bf i 11 0)
    | 1 => if bf i 6 2 = 0 then 0 else (ringCell (sregOf x (bf i 6 2)) (bf i 1 0)).toNat
    | 2 => ((entriesOf s a)[bf i 13 6]?).elim 0 (fun e => entryWord e (bf i 5 0))
    | _ => 0

/-- DBGSTAT (R428). -/
def debugStat (s : State) : Nat :=
  let a := debugAgent s
  (s.dbg.stopped.elem (agentId a)).toNat + s.dbg.stat + (entriesOf s a).length % 256 * 2 ^ 16

/-- What a host read of a register of PF BAR0 gives; WO and unlisted registers read zero (R4). -/
def pfRegister (s : State) (off : Nat) : Nat :=
  match off with
  | 0x100 => (worldOf s 1).troot
  | 0x108 => s.winbase.toNat
  | 0x200 => s.log.base
  | 0x208 => s.log.size
  | 0x210 => s.log.head
  | 0x218 => s.log.ack
  | 0x220 => s.log.headAddr
  | 0x400 => s.dbg.core
  | 0x410 => debugStat s
  | 0x418 => s.dbg.bkptpc.toNat
  | 0x420 => s.dbg.tracectl.toNat
  | 0x428 => s.dbg.tracebase.toNat
  | 0x430 => s.dbg.tracehead
  | 0x438 => s.dbg.stateidx.toNat
  | 0x440 => stateData s
  | 0x448 => s.dbg.evdeny.toNat
  | _ => 0

/-- R433: the status register of the PF's extended capability. -/
def statusRegister (s : State) : Nat := s.ready.toNat + s.failedBring.toNat * 2 + s.failCode.toNat * 2 ^ 16

/-- R433: a VF's status page: the first word, and its launch timeline. -/
def statusPage (s : State) (f off : Nat) : Nat :=
  let w := worldOf s (worldOfFunc f)
  if off = 0 then s.ready.toNat + w.held.toNat * 2 + tdiCode (funcOf s f).tdi * 4
  else if off = 8 then w.launchTl.value else 0

end Sys2Proof.Machine
end

