-- ==== Sys2Proof/Machine/Resets.lean ====
section
/-!
DEFINITION. Resets, bring-up and the loss of dies (spec/03_admission_and_trust.md R71; spec/20_observation_and_bring_up.md R421, R432-R434).
-/

namespace Sys2Proof.Machine

/-- R56: fresh memory keys for worlds 0 and 1; world 1's policy has every bit set (R427) (DESIGN CHOICE, log entry 7). -/
def hostKeys (s : State) : State :=
  let a := freeRandom s
  let b := freeRandom a.2
  { b.2 with worlds := [(0, { World.reset with key := a.1 }), (1, { World.reset with key := b.1, policy := 7 })] }

/-- R382: entry 0 of the custody log, with 14 random bytes. -/
def firstEntry (s : State) : State :=
  let r := freeRandom s
  logEvent 0x0B 0 (leBytes 14 r.1.toNat) r.2

/-- What any reset keeps: the fuses and the active firmware, the cells of HBM (no zeros are written to it, R432), and what is
outside the package. Everything else is as `State.reset` has it (R71) (DEDUCED, log entry 53). -/
def keepReset (s : State) : State :=
  { State.reset with
    phase := 8
    outbox := s.outbox
    freeCtr := s.freeCtr
    hbm := s.hbm
    rows := s.rows
    eccLines := s.eccLines
    eccMeta := s.eccMeta
    svn := s.svn
    activeSvn := s.activeSvn
    activeDigest := s.activeDigest
    host := s.host }

/-- DEVICE_RESET: bring-up begins (R432), GCYC counts from 0 (R138). -/
def execDeviceReset (s : State) : Out :=
  let s1 := hostKeys (keepReset s)
  let t := freeIn s1 1 bringUpBound
  .next { t.2 with
    inputs := s.inputs.map (fun p => (p.1 - s.gcyc, p.2))
    bringUp := some t.1 }

/-- R71: what a hot reset or a link-down leaves. GCYC counts on, a bring-up in progress and a freeze go on, and dies that are
cut off stay so until device reset (R138, R421, R431) (DEDUCED, log entry 53). -/
def hotState (s : State) : State :=
  let s1 : State := { keepReset s with
    gcyc := s.gcyc
    inputs := s.inputs
    bringUp := s.bringUp
    ready := s.ready
    failedBring := s.failedBring
    failCode := s.failCode
    frozenPkg := s.frozenPkg
    poweredOff := s.poweredOff
    cutDies := s.cutDies }
  if s.ready then firstEntry (hostKeys s1) else hostKeys s1

/-- HOT_RESET (R71). -/
def execHotReset (s : State) : Out := .next (hotState s)

/-- LINK_DOWN (R71). -/
def execLinkDown (s : State) : Out := .next (hotState s)

/-- THERMAL_TRIP (R434): the dies are powered off, and the host sees a link-down (DEDUCED, log entry 66). -/
def execThermalTrip (s : State) : Out := .next { hotState s with poweredOff := true }

/-- BRING_UP_COMPLETE (R432, R433): the package is ready, or what failed is in FAILCODE and it is never ready. Which of the
two is free. -/
def execBringUpComplete (s : State) : Out :=
  if s.bringUp.elim false (fun t => decide (t ≤ s.gcyc)) then
    let v := free s
    let code := BitVec.ofNat 16 v.1 &&& 0xFF1F#16
    .next (if v.1 % 2 = 0 || code == 0 then firstEntry { v.2 with bringUp := none, ready := true }
      else { v.2 with bringUp := none, failedBring := true, failCode := code })
  else .next s

/-! ## A die is cut off (R421) -/

/-- The contexts on a die that a task or program holds. -/
def agentsOn (s : State) (d : Nat) : List Agent :=
  (s.ctxs.filter (fun p => p.2.live && dieOf (agentOf p.1) == d)).map (fun p => agentOf p.1)

/-- An operation whose engine, or whose issuer's pooled banks, lie on the die. -/
def opOnDie (d : Nat) (op : EngOp) : Bool := dieOf op.ag == d

/-- The operations of the engines of a die stop, and fail with 0x0C (DEDUCED, log entry 54). -/
def cutEngines (d : Nat) (s : State) : State :=
  { s with engines := s.engines.map (fun p => (p.1, { p.2 with ops := p.2.ops.map (fun op =>
      if opOnDie d op then
        { op with todo := [], stopped := true, fail := some (op.fail.elim 0x0C (min 0x0C)), at_ := s.gcyc + 1 }
      else op) })) }

/-- A WAITA on a line of the die's stacks looks again, and its read fails. -/
def cutWatchers (d : Nat) (s : State) : State :=
  { s with ctxs := s.ctxs.map (fun p => (p.1, { p.2 with wait := p.2.wait.map (fun w =>
      match w.what with
      | .monitor pa c m k t0 tmo _ die =>
        if dieOfRow (rowOfAddr pa) = d then
          { w with what := .monitor pa (if c = 4 then 0 else c) m k t0 tmo true die, until_ := some s.gcyc }
        else w
      | _ => w) })) }

/-- DIE_CUT_OFF: every task of the die ends with 0x0C, the programs of its channels end, and nothing reaches it again
(DEDUCED, log entry 54). -/
def execDieCutOff (d : Nat) (s : State) : Out :=
  if s.cutDies.elem d then .next s
  else
    let s1 : State := { s with cutDies := s.cutDies ++ [d] }
    let s2 := (agentsOn s1 d).foldl (fun s a =>
      match a with
      | .channel n => giveBack n (stopChannel n (some (0x0C, 0)) s)
      | _ => cutTask a 0x0C s) s1
    .next (cutWatchers d (cutEngines d s2))

end Sys2Proof.Machine
end

