-- ==== Sys2Proof/Machine/Agenda.lean ====
section
/-!
DEFINITION. The order of the steps of a cycle, and the time of the next cycle in which anything is due (log entry 1).
A cycle has nine groups of steps: 0 what lands at its start, 1 what comes before issue, 2 the bundles that issue, 3 reads,
4 writes (spec/06_fetch_and_issue.md R125, R134; spec/09_spool_yarns_and_cluster_memory.md R196), 5 the engines, 6 what retires, 7 what wakes, 8 the package as a whole and what comes from outside. Between two cycles the clocks of the contexts go on (R135-R139).
-/

namespace Sys2Proof.Machine

/-! ## Who has something due -/

/-- The agents of the contexts that satisfy `p`, in ascending order. -/
def agentsWhere (s : State) (p : Agent → Ctx → Bool) : List Agent :=
  (s.ctxs.filter (fun e => e.2.live && p (agentOf e.1) e.2)).map (fun e => agentOf e.1)

/-- The agent's clock has a cycle in this cc (R1). -/
def ticksNow (s : State) (a : Agent) : Bool := s.gcyc % agUnit a == 0

/-- Cores of the clusters whose yarn engines hold open yarns or beats. -/
def yarnCores (s : State) : List Nat :=
  (List.range 16).flatMap (fun cl =>
    let cs := clusterCores (4 * cl)
    if cs.any (fun c => !(coreOf s c).open_.isEmpty || !(coreOf s c).beats.isEmpty) then cs else [])

/-- Channels that satisfy `p`. -/
def chansWhere (s : State) (p : Nat → Chan → Bool) : List Nat := (s.chans.filter (fun e => p e.1 e.2)).map (·.1)

/-- R313: a channel's next refresh tick, in chc. -/
def nextRefresh (c : Chan) : Nat := c.refBase + 7800 * (c.ticks + 1)

/-- The banks of a channel whose busy time has ended (R307). -/
def endedBanks (s : State) (c : Chan) : List Nat :=
  (c.banks.filter (fun e => match e.2 with
    | .busy u => decide (u ≤ nowChc s)
    | _ => false)).map (·.1)

/-- A tick of the scheduler and the governor (R91, R380). -/
def isTick (s : State) : Bool := s.gcyc % 4000 == 0 && s.bringUp.isNone

/-- The units that a slice end has chosen, by their first member (R399). -/
def dueUnits (s : State) (p : Nat → Bool) : List Agent :=
  agentsWhere s (fun a x => p x.saveDue && (unitOf s a).head? == some a)

/-! ## Waits -/

/-- The step that would end or change a context's wait in this cycle, if it is due. -/
def wakeStep (s : State) (a : Agent) (x : Ctx) : List Instr :=
  match x.wait with
  | none => []
  | some w =>
    match w.what with
    | .monitor _ _ _ _ t0 tmo seen _ =>
      if tmo != 0 && decide (t0 + tmo ≤ s.gcyc) then [.waitaTimeout a]
      else if isPast s w.until_ || (!seen && (monitorHit s a).isSome) then [.monitorWake a] else []
    | .xlate _ _ _ _ l => if l.any s.misses.elem then [] else [.monitorWake a]
    | .timeline t n _ _ =>
      if isPast s w.until_ || (w.until_.isNone && tlMet s a x.task.world t n) then [.timelineWake a] else []
    | .dwait t n =>
      if isPast s w.until_ || (w.until_.isNone && decide (n ≤ tlValue s x.task.world t)) then [.timelineWake a] else []
    | .barrier phase _ =>
      if isPast s w.until_ || (w.until_.isNone &&
          (domOf s (domKey x.task)).elim true (fun d => d.failed && d.phase == phase)) then [.barrierResume a] else []
    | .fence ops scope acq => if ops.any (fenceBusy s scope acq) then [] else [.fenceWaitEnd a]
    | .ifence ops ys =>
      if fillsIdle s a ops ys then [] else [.fenceWaitEnd a]
    | .iverify _ _ => if isPast s w.until_ then [.iverifyFreezeEnd a] else []
    | .queue num =>
      match opOf s (agEngine a) num with
      | none => [.copyQueueEntryFree a]
      | some op => if queueFull (engineOf s (agEngine a)) (queueKind op.kind) then [] else [.copyQueueEntryFree a]
    | .held => []
    | .precharge => if isPast s w.until_ then [.prechargeFreezeEnd (agIdx a)] else []

/-- The wakes of this cycle. -/
def wakeSteps (s : State) : List Instr := s.ctxs.flatMap (fun e => if e.2.live then wakeStep s (agentOf e.1) e.2 else [])

/-- Domains with something that lands. -/
def domSteps (s : State) : List Instr :=
  (s.doms.filter (fun d => d.due.any (landReady s))).map (fun d => .barrierLanding d.key)

/-! ## The steps of each group -/

/-- Group 0: what lands at the start of the cycle. -/
def landSteps (s : State) : List Instr :=
  (agentsWhere s (fun a x => !x.frozen && (x.pend.any (fun p => landsAtStart p.act && decide (p.due ≤ x.clk)) ||
      x.branch.elim false (fun b => b.due == x.clk && (b.eret || b.swap)) || (poisonedAtomic s a).isSome))).map (fun a => .resultLanding a .landing) ++
    (yarnCores s).map (fun c => .yarnBeat c .write) ++
    (chansWhere s (fun _ c => c.owner != 0 && nowChc s == nextRefresh c)).map .refreshTick ++
    s.chans.flatMap (fun e => (endedBanks s e.2).map (fun b => .bankBusyEnd e.1 b))

/-- Group 1: what is taken before the bundles issue. -/
def takeSteps (s : State) : List Instr :=
  (if s.dbg.stopNext.any (fun n => canIssue (ctxOf s (agentOf n)) && ticksNow s (agentOf n)) then [.dbgStop] else []) ++
    ((List.range 64).filter (fun c => urgentWaits s c && takePoint s (.tile c))).map .victimTake ++
    ((dueUnits s (fun n => n == 1 || n == 2)).filter (fun a => !agUrgent a && (unitOf s a).all (saveStands s))).map .sliceSave ++
    (agentsWhere s (fun a x => x.started && !x.task.control && agTile a && decide (x.task.budget < x.charge))).map .deadlineFault

/-- Group 2: the bundles. -/
def issueSteps (s : State) : List Instr :=
  (agentsWhere s (fun a x => canIssue x && ticksNow s a)).map .bundleIssue

/-- The vectors delivered in this cycle still wait for a RECVT: the cycle stands again later, when the context goes on
(R392). -/
def inboxStands (x : Ctx) : Bool := x.frozen || x.susp.isSome

/-- SENDT vectors that no RECVT of their cycle has taken (R211, R219), and the state without them. -/
def leftVectors (s : State) : List Instr × State :=
  (s.ctxs.flatMap (fun e => if inboxStands e.2 then []
      else e.2.inbox.map (fun p => Instr.streamFault ⟨agentOf e.1, 3, true, p.1⟩)),
    { s with ctxs := s.ctxs.map (fun e => if e.2.inbox.isEmpty || inboxStands e.2 then e else (e.1, { e.2 with inbox := [] })) })

/-- The step of an engine operation, by its kind. -/
def opStep (e : Nat) (op : EngOp) : Instr :=
  match op.kind with
  | .cpy => .copyComplete e op.num
  | .cpyr => .copyComplete e op.num
  | .red => .copyComplete e op.num
  | .hatom => .hatomPerform e op.num
  | .krot => .krotComplete e op.num
  | .seal => .sealComplete e op.num
  | .unseal => .unsealComplete e op.num
  | .scrub => .scrubComplete e op.num

/-- The steps of the engines' operations that are due and that `p` picks. -/
def opSteps (s : State) (p : EngOp → Bool) : List Instr :=
  s.engines.flatMap (fun e => (e.2.ops.filter (fun op => decide (op.at_ ≤ s.gcyc) && p op)).map (opStep e.1))

/-- The drain atomics that are due, of the Spool or of pooled memory. -/
def drainSteps (s : State) (spool : Bool) : List Instr :=
  (s.atomics.filter (fun d => decide (d.at_ ≤ s.gcyc) && (d.amx == 1) == spool)).map (fun d => .drainAtomicPerform d.id)

/-- Group 3: first what lands in domains once the operations before it have performed, in a cycle before this one (R355);
then the reads, those of the engines with the lowest priority at a bank (R200), and last the atomics of home slices and drains,
which read and write (R349, R272). -/
def readSteps (s : State) : List Instr :=
  domSteps s ++ (yarnCores s).map (fun c => .yarnBeat c .read) ++
    (chansWhere s (fun ch c => c.bursts.any (fun b => b.write && b.ds && decide (b.step < 4) && burstDue s ch b))).map .dwrComplete ++
    ((List.range 16).filter (fun cl => !(pooledReqs s cl).isEmpty ||
      (clusterCores (4 * cl)).any (fun c => [Agent.tile c, .urgent c].any (fun a => (ctxOf s a).causes.elem .pooled)))).map
        .pooledGrant ++
    (agentsWhere s (fun _ x => !x.frozen && callBusy x x.clk)).map (fun a => .stepExecution a .read) ++
    opSteps s engReads ++ drainSteps s false

/-- Group 4: the writes. -/
def writeSteps (s : State) : List Instr :=
  (agentsWhere s (fun _ x => x.call.elim false (fun c => c.fault.isSome))).map .callFault ++
    (agentsWhere s (fun _ x => !x.frozen && x.pend.any (fun p => decide (p.due ≤ x.clk) && performsNow p.act))).map
      (fun a => .resultLanding a .write) ++
    (yarnCores s).map (fun c => .yarnBeat c .write) ++
    (agentsWhere s (fun _ x => !x.frozen && callBusy x x.clk)).map (fun a => .stepExecution a .write) ++
    (chansWhere s (fun ch c => c.bursts.any (fun b => !b.write && burstDue s ch b))).map .drdLanding ++
    (chansWhere s (fun ch c => c.bursts.any (fun b => b.write && b.step == 4 && burstDue s ch b))).map .dwrComplete

/-- Cores whose engine may take a sibling's copy (R347). -/
def takers (s : State) : List Nat :=
  (List.range 64).filter (fun c => (clusterCores c).any (fun j => j != c && (unstarted s j).any (fun op => op.kind == .cpyr)))

/-- Group 5: the engines. -/
def engineSteps (s : State) : List Instr :=
  (if isTick s then [Instr.governorTick] else []) ++
    (s.misses.filter (fun m => walking s m && (s.walks.find? (fun p => p.1 = m)).elim true (fun p => decide (p.2 ≤ s.gcyc)))).map
      .translationFill ++
    (takers s).map .copyTake ++
    opSteps s (fun op => !engReads op) ++ drainSteps s true ++
    s.tladds.map (fun t => .tladdEffect t.id) ++
    (chansWhere s (fun ch c => !c.reqs.isEmpty || stopReady s ch)).map .serviceRequest

/-- Group 6: what retires. -/
def endSteps (s : State) : List Instr :=
  (agentsWhere s (fun a _ => exitReady s a)).map .taskRetire

/-- The zeroing has ended in an earlier cycle (R106). -/
def zeroed (s : State) (u : Option Nat) : Bool := u.elim false (fun t => decide (t < s.gcyc))

/-- The resources that are free from this cycle on. -/
def zeroSteps (s : State) : List Instr :=
  let past := zeroed s
  (s.cores.filter (fun e => past e.2.zeroUntil)).map (fun e => .zeroingComplete (.core e.1)) ++
    (s.chans.filter (fun e => past e.2.zeroUntil)).map (fun e => .zeroingComplete (.channel e.1)) ++
    (s.stewZero.filter (fun p => decide (p.2 < s.gcyc))).map (fun p => .zeroingComplete (.steward p.1)) ++
    s.clusters.flatMap (fun e => (e.2.zeroing.filter (fun p => decide (p.2 < s.gcyc))).map (fun p =>
      .zeroingComplete (.pooled e.1 p.1)))

/-- R89: a tick, or a cycle in which a core becomes free. -/
def placementDue (s : State) : Bool := isTick s || s.cores.any (fun e => zeroed s e.2.zeroUntil)

/-- The urgent gangs that have not started. -/
def urgentGangs (s : State) : List GangKey :=
  dedup ((agentsWhere s (fun a x => agUrgent a && !x.started)).map (fun a =>
    let t := (ctxOf s a).task
    ⟨t.world, t.launch, t.gang⟩))

/-- Contexts whose fill ends in this cycle. -/
def fillSteps (s : State) : List Instr :=
  (agentsWhere s (fun a x => agTile a && !x.started && isPast s x.fillUntil)).map .taskEntry

/-- Cores with a victim that no urgent task holds any longer. -/
def resumable (s : State) : List Nat :=
  (s.cores.filter (fun e => e.2.victim.isSome && !holds s (.urgent e.1) && zeroingOver s e.1)).map (·.1)

/-! ## What comes from outside (R72, R381, R431, R434; log entry 2) -/

/-- What Spaique does not handle in order: TLPs, writes of registers, messages between packages, and what befalls the
package. -/
def outOfOrder : Instr → Bool
  | .hostRange1Request _ => true
  | .pfWindowRequest _ => true
  | .winbaseWrite _ => true
  | .trootWrite _ => true
  | .logbaseWrite _ => true
  | .logsizeWrite _ => true
  | .logackWrite _ => true
  | .bkptpcWrite _ => true
  | .tracectlWrite _ => true
  | .registerWrite _ _ => true
  | .dbgStop => true
  | .dbgStep => true
  | .dbgResume => true
  | .freeze => true
  | .ideIntegrityFailure _ => true
  | .portUp _ => true
  | .portDown _ => true
  | .dieCutOff _ => true
  | .deviceReset => true
  | .hotReset => true
  | .linkDown => true
  | .thermalTrip => true
  | _ => false

/-- A message between packages, and the opcode its row takes it for. -/
def messageOf : Instr → Option (FabMsg × Nat)
  | .fabWrite m => some (m, 1)
  | .fabRead m => some (m, 2)
  | .redMessage m => some (m, 3)
  | .mergeMessage m => some (m, 4)
  | .mgmt m => some (m, 5)
  | .arrive m => some (m, 6)
  | .completeMessage m => some (m, 7)
  | .writeAck m => some (m, 0x81)
  | .readData m => some (m, 0x82)
  | .redAck m => some (m, 0x83)
  | .mergeAck m => some (m, 0x84)
  | .arriveAck m => some (m, 0x86)
  | .completeAck m => some (m, 0x87)
  | _ => none

/-- What needs clocks that a FREEZE has stopped (R431) (DESIGN CHOICE, log entry 65). -/
def needsClocks (i : Instr) : Bool :=
  (messageOf i).isSome ||
    (match i with
      | .hostRange1Request _ => true
      | .pfWindowRequest _ => true
      | .standardRequest _ => true
      | _ => false)

/-- The state of the package lets it take an input at all: one that is off takes only a device reset (R434)
(DESIGN CHOICE, log entry 65) (DEDUCED, log entry 66). -/
def takeable (s : State) (i : Instr) : Bool :=
  if s.poweredOff then (match i with
    | .deviceReset => true
    | _ => false)
  else !(s.frozenPkg && needsClocks i)

/-- How many log entries a teardown of a world makes: its own, and one for each of its admissions that run (R373). -/
def tearEntries (s : State) (w : Nat) : Nat := 1 + (s.admissions.filter (fun a => a.world = w)).length

/-- How many entries the event of an input would make in the log (R383). -/
def mustLog (s : State) (i : Instr) : Nat :=
  let tears := fun (l : List Nat) => l.foldl (fun n f => n + tearEntries s (worldOfFunc f)) 0
  match messageOf i with
  | some (m, row) => (some m.dst == s.pkg && (row == 5 || (dropStatus s m row).isSome)).toNat
  | none =>
    match i with
    | .vfEnableClear => if s.vfEnable then tears (enabledVfs s) else 0
    | .lockedItemWrite o => if itemChanges s o then tears ((itemVfs s o).filter (tdiLocked s)) else 0
    | .ideIntegrityFailure f => if failsIntegrity s f then tears [f] else 0
    | .layoutSet f _ _ => if tdiLocked s f then tears [f] else 0
    | .pageReclaim first _ =>
      let w := pageOwner s first
      if (worldOf s w).held then tearEntries s w else 0
    | .stopInterface _ f => if stopTears s f && !logFull s then tears [f] else 0
    | .jobLeave _ f _ => if logFull s then 0 else tearEntries s (worldOfFunc f)
    | .dieCutOff _ => (s.worlds.filter (fun p => p.2.tearing.isSome)).length
    | .pageMove _ _ => 1
    | .fwActivate => if s.staged.isSome then 1 + (openSwitches s).length + s.admissions.length else 0
    | .dbgStop => (decide (2 ≤ debugWorld s) && policyStop s (debugWorld s)).toNat
    | .freeze => 1
    | _ => 0

/-- R299: a channel's program that has been started has still to issue its first bundle. -/
def yetToIssue (s : State) (ch : Nat) : Bool :=
  (chanOf s ch).starting && (ctxOf s (.channel ch)).lastAt == 0 && !(chanOf s ch).stopping

/-- An input has to wait: the log's store has no room for the events that must be logged (R381), or it is a CHANNEL_STOP whose
program has still to stop, or a CHANNEL_START whose program has still to begin (R299). -/
def mustWait (s : State) (i : Instr) : Bool :=
  !logSpace s (mustLog s i) ||
    (match i with
      | .channelStop _ q => (chanOf s q.unit).stopping
      | .channelStart _ q => yetToIssue s q.unit
      | _ => false)

/-- A teardown waits for channel programs to stop (R322). -/
def tearsDown (s : State) : Bool := s.worlds.any (fun p => p.2.tearing.isSome)

/-- The input that is taken next, and the others. Requests that Spaique handles in order wait behind one that has to wait, and
for a teardown that has begun (R72), or for the pages of a CONTROL_START (R114) (DESIGN CHOICE, log entry 2). -/
def pickInput (s : State) : Bool → List (Nat × Instr) → Option (Instr × List (Nat × Instr))
  | _, [] => none
  | blocked, (t, i) :: l =>
    let due := decide (t ≤ s.gcyc) && takeable s i
    let keep := fun (b : Bool) => (pickInput s b l).map (fun r => (r.1, (t, i) :: r.2))
    if !due then keep blocked
    else if outOfOrder i || (messageOf i).isSome || needsClocks i then (if mustWait s i then keep blocked else some (i, l))
    else if blocked || tearsDown s || s.control.isSome || mustWait s i then keep true
    else some (i, l)

/-- A slub buffer has a record to write: its oldest, of a world with a SLUBBASE (R422). -/
def slubReady (s : State) (e : Nat × SlubBuf) : Bool := e.2.recs.head?.any (fun r => (worldOf s r.world).slubBase != 0)

/-- The steps of Spaique that time alone makes due. -/
def timedSteps (s : State) : List Instr :=
  (if isPast s s.bringUp then [Instr.bringUpComplete] else []) ++
    (s.fabReqs.filter (fun r => decide (r.deadline ≤ s.gcyc))).map (fun r => .fabricTimeout r.rid) ++
    (if logFull s then [] else
      (s.admissions.filter (fun m => decide (m.deadline ≤ s.gcyc))).map (fun m => .switchAdmitTimeout m.ordinal)) ++
    (if s.log.held.isEmpty || !logRoom s then [] else [.logEntryWrite]) ++
    (if isInterval s || !s.egressDone.isEmpty && !logFull s then [.egressInterval] else [])

/-- Group 8: the package as a whole. What is placed or started here runs from the next cycle on. -/
def packageSteps (s : State) : List Instr :=
  ((yarnCores s).filter (fun c => !(storeBeats s c).isEmpty)).map (fun c => .yarnBeat c .write) ++ zeroSteps s ++ (if isTick s then [Instr.schedTick] else []) ++
    (if placementDue s then [Instr.placementOpportunity] else []) ++
    fillSteps s ++ (urgentGangs s).map .urgentEntry ++ (resumable s).map .victimResume ++
    (dueUnits s (fun n => n == 3 || n == 4)).map .sliceSave ++
    (if logFull s then [] else (agentsWhere s (fun a x => agUrgent a && x.saveDue != 0)).map .sliceSave) ++
    (s.slubs.filter (slubReady s)).map (fun e => .slubWrite e.1) ++ timedSteps s

/-- Enters group `p` of the cycle: its agenda is what is due as the state stands. A package whose clocks are stopped takes
only the steps of Spaique, the governor and the log (R431); one that is off none (R434) (DESIGN CHOICE, log entry 1). -/
def enterPhase (p : Nat) (s : State) : State :=
  let s : State := { s with phase := p }
  if s.poweredOff then s
  else if s.frozenPkg then
    (if p = 5 && isTick s then { s with agenda := [.governorTick] }
    else if p = 8 then { s with agenda := timedSteps s }
    else s)
  else
    match p with
    | 0 => { s with agenda := landSteps s }
    | 1 => { s with agenda := takeSteps s }
    | 2 => { s with agenda := issueSteps s }
    | 3 =>
      let l := leftVectors s
      { l.2 with agenda := l.1 ++ readSteps l.2 }
    | 4 => { s with agenda := writeSteps s }
    | 5 => { s with agenda := engineSteps s }
    | 6 => { s with agenda := endSteps s }
    | 7 => { s with agenda := wakeSteps s }
    | _ => { s with agenda := packageSteps s }

/-! ## The next cycle in which anything is due -/

/-- The causes that hold of a context in the next cycle. The last cycle of a handler's run is the one before that in which
the suspended state resumes (R394) (DEDUCED, log entry 17). -/
def liveCauses (x : Ctx) : List Freeze :=
  if x.branch.elim false (fun b => b.eret && decide (b.due ≤ x.clk + 1)) && x.causes.all (· == .handler) then [] else x.causes

/-- R392: a context runs a handler in the next cycle. -/
def handles (x : Ctx) : Bool := (liveCauses x).elem .handler

/-- R136: a context `y` freezes its lockstep sibling `x` in the next cycle. Handlers of two members that trapped in one cycle
run side by side (DEDUCED, log entry 17). -/
def freezesOther (x y : Ctx) : Bool :=
  y.started && (liveCauses y).any (fun c => !ownCause c && !(c == .handler && handles x))

/-- The causes that freeze a context in the next cycle; a running handler keeps its context's clock going
(DEDUCED, log entry 17). -/
def nextCauses (s : State) (a : Agent) (x : Ctx) : List Freeze :=
  liveCauses x ++ (if x.task.level = 1 && (siblings s a).any (fun b => freezesOther x (ctxOf s b)) then [.sibling] else [])

/-- The context is frozen in the next cycle. -/
def willFreeze (s : State) (a : Agent) (x : Ctx) : Bool := (nextCauses s a x).any (· != .handler)

/-- The first GCYC cycle after this one that is the `n`-th next cycle of an agent's clock. -/
def cycleIn (s : State) (a : Agent) (n : Nat) : Nat := (s.gcyc / agUnit a + n) * agUnit a

/-- The times at which a context next has something due, whatever else happens. -/
def ctxDue (s : State) (a : Agent) (x : Ctx) : List Nat :=
  let soon := s.gcyc + 1
  (if x.started && agTile a && !x.task.control && charges s a x then [soon + (x.task.budget - x.charge)] else []) ++
    (match x.wait with
      | none => []
      | some w => w.until_.toList ++ (match w.what with
        | .monitor _ _ _ _ t0 tmo _ _ => if tmo = 0 then [] else [t0 + tmo]
        | _ => [])) ++
    (if (wakeStep s a x).isEmpty then [] else [soon]) ++
    (if x.saveDue != 0 || x.texit || !x.inbox.isEmpty || x.dev.isSome && !willFreeze s a x then [soon] else []) ++
    (if willFreeze s a x then (if x.causes.elem .pooled then [soon] else [])
    else if !x.started then (if agTile a then [x.fillUntil.elim soon (max soon)] else [])
    else if !x.pend.isEmpty || x.call.isSome then [soon]
    else if x.issuing then
      [cycleIn s a ((nextIssue x).elim 1 (fun p => p.2 - x.clk)),
        cycleIn s a (x.branch.elim (2 ^ 20) (fun b => b.due - x.clk))]
    else [])

/-- The times at which a channel next has something due. -/
def chanDue (s : State) (n : Nat) (c : Chan) : List Nat :=
  (if c.owner = 0 then [] else [2 * nextRefresh c]) ++ c.zeroUntil.toList.map (· + 1) ++
    c.banks.filterMap (fun e => match e.2 with
      | .busy u => some (2 * u)
      | _ => none) ++
    (if c.bursts.isEmpty && c.reqs.isEmpty && !stopReady s n then [] else [s.gcyc + 1])

/-- The times at which the engines next have something due. -/
def engineDue (s : State) : List Nat :=
  s.engines.flatMap (fun e => e.2.ops.map (·.at_)) ++ s.atomics.map (·.at_) ++
    s.walks.map (·.2) ++
    (if s.misses.all (fun m => !walking s m || s.walks.any (fun p => p.1 = m)) && s.tladds.isEmpty then [] else [s.gcyc + 1])

/-- The times at which the package as a whole next has something due; ticks come at every multiple of 4000. -/
def packageDue (s : State) : List Nat :=
  let soon := s.gcyc + 1
  [(s.gcyc / 4000 + 1) * 4000] ++ s.bringUp.toList ++
    (if s.log.held.isEmpty || !logRoom s then [] else [soon]) ++
    (if s.egressDone.isEmpty || logFull s then [] else [soon]) ++
    (if s.slubs.any (slubReady s) || !(yarnCores s).isEmpty || !(domSteps s).isEmpty ||
      !(resumable s).isEmpty then [soon] else []) ++
    s.cores.flatMap (fun e => e.2.zeroUntil.toList.flatMap (fun t => [t, t + 1])) ++
    s.stewZero.map (·.2 + 1) ++ s.clusters.flatMap (fun e => e.2.zeroing.map (·.2 + 1)) ++
    s.doms.flatMap (fun d => d.due.map (·.at_)) ++ s.fabReqs.map (·.deadline) ++ s.admissions.map (·.deadline)

/-- The next GCYC cycle in which anything is due. -/
def nextDue (s : State) : Nat :=
  let soon := s.gcyc + 1
  let base := (s.inputs.filter (fun p => takeable s p.2)).map (·.1)
  let all := if s.poweredOff then base
    else base ++ packageDue s ++ (if s.frozenPkg then []
      else s.ctxs.flatMap (fun e => if e.2.live then ctxDue s (agentOf e.1) e.2 else []) ++
        s.chans.flatMap (fun e => chanDue s e.1 e.2) ++ engineDue s)
  match all with
  | [] => soon
  | t :: ts => ts.foldl (fun m u => min m (max soon u)) (max soon t)

/-! ## Time passes -/

/-- R171: the yarns that an IFENCE waits for go on for `n` frozen cycles of their issuer: its clock goes on, and everything
else of it stands still, which is to say that it moves on with the clock (DEDUCED, log entry 76). -/
def runFenced (a : Agent) (n : Nat) (ys : List Nat) (s : State) : State :=
  shiftYarns a n (fun y => !ys.elem y) (modCtx s a (fun x => { x with
    clk := x.clk + n
    ttOff := x.ttOff + n
    lastAt := x.lastAt + n
    seqAt := x.seqAt + n
    cont := x.cont.map (fun c => (c.1, c.2 + n))
    branch := shiftBranch n x.branch
    pend := shiftPend n x.pend
    call := x.call.map (fun c => { c with t0 := c.t0 + n })
    deferred := x.deferred.map (fun d => { d with at_ := d.at_ + n }) }))

/-- The yarns that go on while their issuer is frozen. -/
def fencedYarns (x : Ctx) : List Nat :=
  match x.wait with
  | none => []
  | some w =>
    match w.what with
    | .ifence _ ys => ys.filter (fencedYarn x)
    | _ => []

/-- R438: the deviation of a context ends after the first cycle that was not one of it. -/
def closeDeviation (a : Agent) (x : Ctx) (s : State) : State :=
  if x.frozen || x.causes.elem .handler then s else endDeviation a s

/-- R135, R438: a context's clock over the cycles up to `g`, and its deviation: it counts the frozen cycles, and ends with
its record after the first cycle that is not frozen (DESIGN CHOICE, log entry 73). -/
def advanceCtx (s0 : State) (g : Nat) (a : Agent) (s : State) : State :=
  let x := ctxOf s0 a
  let n := g / agUnit a - s0.gcyc / agUnit a
  if n = 0 || !x.started then s
  else
    let s := closeDeviation a x s
    let causes := nextCauses s0 a x
    let frozen := causes.any (· != .handler)
    let first := (s0.gcyc / agUnit a + 1) * agUnit a
    let slot := fun (c : Freeze) => if c == .pooled then (if (lslotWant x).isSome then 2 else 7) else if c == .rekey || c == .rollover || (c == .timeline && kindOf a == .channel) then 2
      else if c == .monitor || c == .timeline || c == .barrier || c == .copyQueue || c == .governor then 6
      else if c == .fence then (match x.wait.map (·.what) with
        | some (.fence _ _ _) => 6
        | _ => 0)
      else 7
    let dev := match causes with
      | [] => (ctxOf s a).dev
      | c :: _ => some (match (ctxOf s a).dev with
        | some d => { d with cycles := d.cycles + n }
        | none => ⟨c, first, n, slot c⟩)
    let s2 := modCtx s a (fun x => { x with
      frozen := frozen
      dev := dev
      clk := if frozen then x.clk else x.clk + n
      charge := if charges s0 a x then x.charge + (g - max s0.gcyc x.entryAt) else x.charge })
    let ys := fencedYarns x
    let s3 := if frozen && !ys.isEmpty then runFenced a n ys s2 else s2
    if causes.isEmpty then s3 else countEvent a 0x03 n s3

/-- R92: what each function's placed tasks charge over the cycles passed. -/
def holdCores (n : Nat) (s : State) : State :=
  (functions s).foldl (fun s f =>
    let k := (placedTasks s f).length
    if k = 0 then s else modFunc s f (fun v => { v with heldCc := v.heldCc + k * n })) s

/-- Time passes to cycle `g`, in which something is due. -/
def advance (g : Nat) (s : State) : State :=
  if s.frozenPkg || s.poweredOff then { s with gcyc := g, monWrites := [] }
  else
    let s := noteActivity s
    let s1 := (s.ctxs.filter (fun e => e.2.live)).foldl (fun t e => advanceCtx s g (agentOf e.1) t) s
    { holdCores (g - s.gcyc) s1 with gcyc := g, monWrites := [] }

/-- Goes on to the next group with a step in it: through the groups of this cycle, then to what has come from outside, and then
to the next cycle in which anything is due (DESIGN CHOICE, log entry 1). -/
def refill : Nat → State → State
  | 0, s => s
  | n + 1, s =>
    if !s.agenda.isEmpty then s
    else if s.phase < 8 then refill n (enterPhase (s.phase + 1) s)
    else
      match pickInput s false s.inputs with
      | some (i, l) => { s with agenda := [i], inputs := l }
      | none => refill n (enterPhase 0 (advance (nextDue s) s))

end Sys2Proof.Machine
end

