-- ==== Sys2Proof/Machine/Dispatch.lean ====
section
/-!
DEFINITION. One arm per instruction: each calls its one meaning.
-/

namespace Sys2Proof.Machine

/-- What an instruction, or another step of the package, does: its meaning. -/
def exec (i : Instr) (s : State) : Host.Outcome State Fault Refusal :=
  match i with
  | .add o => Sys2Proof.Machine.execAdd o s
  | .sub o => Sys2Proof.Machine.execSub o s
  | .and o => Sys2Proof.Machine.execAnd o s
  | .or o => Sys2Proof.Machine.execOr o s
  | .xor o => Sys2Proof.Machine.execXor o s
  | .andn o => Sys2Proof.Machine.execAndn o s
  | .min o => Sys2Proof.Machine.execMin o s
  | .max o => Sys2Proof.Machine.execMax o s
  | .mins o => Sys2Proof.Machine.execMins o s
  | .maxs o => Sys2Proof.Machine.execMaxs o s
  | .shl o => Sys2Proof.Machine.execShl o s
  | .shr o => Sys2Proof.Machine.execShr o s
  | .sra o => Sys2Proof.Machine.execSra o s
  | .fsl o => Sys2Proof.Machine.execFsl o s
  | .fsr o => Sys2Proof.Machine.execFsr o s
  | .mul o => Sys2Proof.Machine.execMul o s
  | .mulh o => Sys2Proof.Machine.execMulh o s
  | .mulhs o => Sys2Proof.Machine.execMulhs o s
  | .div o => Sys2Proof.Machine.execDiv o s
  | .divs o => Sys2Proof.Machine.execDivs o s
  | .rem o => Sys2Proof.Machine.execRem o s
  | .rems o => Sys2Proof.Machine.execRems o s
  | .mov o => Sys2Proof.Machine.execMov o s
  | .clz o => Sys2Proof.Machine.execClz o s
  | .ctz o => Sys2Proof.Machine.execCtz o s
  | .popc o => Sys2Proof.Machine.execPopc o s
  | .brev o => Sys2Proof.Machine.execBrev o s
  | .sel o => Sys2Proof.Machine.execSel o s
  | .adds o => Sys2Proof.Machine.execAdds o s
  | .cmp o => Sys2Proof.Machine.execCmp o s
  | .cmpi o => Sys2Proof.Machine.execCmpi o s
  | .fcmp o => Sys2Proof.Machine.execFcmp o s
  | .addi o => Sys2Proof.Machine.execAddi o s
  | .andi o => Sys2Proof.Machine.execAndi o s
  | .ori o => Sys2Proof.Machine.execOri o s
  | .xori o => Sys2Proof.Machine.execXori o s
  | .shli o => Sys2Proof.Machine.execShli o s
  | .shri o => Sys2Proof.Machine.execShri o s
  | .srai o => Sys2Proof.Machine.execSrai o s
  | .lim o => Sys2Proof.Machine.execLim o s
  | .lih o => Sys2Proof.Machine.execLih o s
  | .pand o => Sys2Proof.Machine.execPand o s
  | .por o => Sys2Proof.Machine.execPor o s
  | .pxor o => Sys2Proof.Machine.execPxor o s
  | .pandn o => Sys2Proof.Machine.execPandn o s
  | .pset o => Sys2Proof.Machine.execPset o s
  | .fadd o => Sys2Proof.Machine.execFadd o s
  | .fsub o => Sys2Proof.Machine.execFsub o s
  | .fmul o => Sys2Proof.Machine.execFmul o s
  | .fmin o => Sys2Proof.Machine.execFmin o s
  | .fmax o => Sys2Proof.Machine.execFmax o s
  | .ffma o => Sys2Proof.Machine.execFfma o s
  | .fcvt o => Sys2Proof.Machine.execFcvt o s
  | .qlen o => Sys2Proof.Machine.execQlen o s
  | .qclr o => Sys2Proof.Machine.execQclr o s
  | .csrrd o => Sys2Proof.Machine.execCsrrd o s
  | .csrwr o => Sys2Proof.Machine.execCsrwr o s
  | .br o => Sys2Proof.Machine.execBr o s
  | .brl o => Sys2Proof.Machine.execBrl o s
  | .bri o => Sys2Proof.Machine.execBri o s
  | .loop o => Sys2Proof.Machine.execLoop o s
  | .loopi o => Sys2Proof.Machine.execLoopi o s
  | .loopiK o => Sys2Proof.Machine.execLoopiK o s
  | .bswap o => Sys2Proof.Machine.execBswap o s
  | .ifence o => Sys2Proof.Machine.execIfence o s
  | .iverify o => Sys2Proof.Machine.execIverify o s
  | .trap o => Sys2Proof.Machine.execTrap o s
  | .eret o => Sys2Proof.Machine.execEret o s
  | .texit o => Sys2Proof.Machine.execTexit o s
  | .bkpt o => Sys2Proof.Machine.execBkpt o s
  | .ldb o => Sys2Proof.Machine.execLdb o s
  | .ldbu o => Sys2Proof.Machine.execLdbu o s
  | .ldh o => Sys2Proof.Machine.execLdh o s
  | .ldhu o => Sys2Proof.Machine.execLdhu o s
  | .ldw o => Sys2Proof.Machine.execLdw o s
  | .ldwu o => Sys2Proof.Machine.execLdwu o s
  | .ldd o => Sys2Proof.Machine.execLdd o s
  | .stb o => Sys2Proof.Machine.execStb o s
  | .sth o => Sys2Proof.Machine.execSth o s
  | .stw o => Sys2Proof.Machine.execStw o s
  | .std o => Sys2Proof.Machine.execStd o s
  | .lds o => Sys2Proof.Machine.execLds o s
  | .sts o => Sys2Proof.Machine.execSts o s
  | .ldc o => Sys2Proof.Machine.execLdc o s
  | .stc o => Sys2Proof.Machine.execStc o s
  | .ldk o => Sys2Proof.Machine.execLdk o s
  | .vld o => Sys2Proof.Machine.execVld o s
  | .vst o => Sys2Proof.Machine.execVst o s
  | .vstm o => Sys2Proof.Machine.execVstm o s
  | .vlds o => Sys2Proof.Machine.execVlds o s
  | .vsts o => Sys2Proof.Machine.execVsts o s
  | .latom o => Sys2Proof.Machine.execLatom o s
  | .sendt o => Sys2Proof.Machine.execSendt o s
  | .recvt o => Sys2Proof.Machine.execRecvt o s
  | .vadd o => Sys2Proof.Machine.execVadd o s
  | .vsub o => Sys2Proof.Machine.execVsub o s
  | .vmul o => Sys2Proof.Machine.execVmul o s
  | .vfma o => Sys2Proof.Machine.execVfma o s
  | .vfms o => Sys2Proof.Machine.execVfms o s
  | .vaccr o => Sys2Proof.Machine.execVaccr o s
  | .vmin o => Sys2Proof.Machine.execVmin o s
  | .vmax o => Sys2Proof.Machine.execVmax o s
  | .vabs o => Sys2Proof.Machine.execVabs o s
  | .vneg o => Sys2Proof.Machine.execVneg o s
  | .vand o => Sys2Proof.Machine.execVand o s
  | .vor o => Sys2Proof.Machine.execVor o s
  | .vxor o => Sys2Proof.Machine.execVxor o s
  | .vandn o => Sys2Proof.Machine.execVandn o s
  | .vshl o => Sys2Proof.Machine.execVshl o s
  | .vshr o => Sys2Proof.Machine.execVshr o s
  | .vsra o => Sys2Proof.Machine.execVsra o s
  | .vfsl o => Sys2Proof.Machine.execVfsl o s
  | .vfsr o => Sys2Proof.Machine.execVfsr o s
  | .vcmp o => Sys2Proof.Machine.execVcmp o s
  | .vsel o => Sys2Proof.Machine.execVsel o s
  | .vcvt o => Sys2Proof.Machine.execVcvt o s
  | .vqnt o => Sys2Proof.Machine.execVqnt o s
  | .vdqnt o => Sys2Proof.Machine.execVdqnt o s
  | .vrmax o => Sys2Proof.Machine.execVrmax o s
  | .vrmin o => Sys2Proof.Machine.execVrmin o s
  | .vramax o => Sys2Proof.Machine.execVramax o s
  | .vradd o => Sys2Proof.Machine.execVradd o s
  | .vscan o => Sys2Proof.Machine.execVscan o s
  | .vperm o => Sys2Proof.Machine.execVperm o s
  | .vrot o => Sys2Proof.Machine.execVrot o s
  | .vbcast o => Sys2Proof.Machine.execVbcast o s
  | .vextr o => Sys2Proof.Machine.execVextr o s
  | .viota o => Sys2Proof.Machine.execViota o s
  | .vpack o => Sys2Proof.Machine.execVpack o s
  | .vunpk o => Sys2Proof.Machine.execVunpk o s
  | .vclz o => Sys2Proof.Machine.execVclz o s
  | .vpopc o => Sys2Proof.Machine.execVpopc o s
  | .vexp2 o => Sys2Proof.Machine.execVexp2 o s
  | .vlog2 o => Sys2Proof.Machine.execVlog2 o s
  | .vrcp o => Sys2Proof.Machine.execVrcp o s
  | .vrsq o => Sys2Proof.Machine.execVrsq o s
  | .vpand o => Sys2Proof.Machine.execVpand o s
  | .vpor o => Sys2Proof.Machine.execVpor o s
  | .vpxor o => Sys2Proof.Machine.execVpxor o s
  | .vpset o => Sys2Proof.Machine.execVpset o s
  | .vpcnt o => Sys2Proof.Machine.execVpcnt o s
  | .mcall o => Sys2Proof.Machine.execMcall o s
  | .mparm o => Sys2Proof.Machine.execMparm o s
  | .mstep o => Sys2Proof.Machine.execMstep o s
  | .msteprd o => Sys2Proof.Machine.execMsteprd o s
  | .mzero o => Sys2Proof.Machine.execMzero o s
  | .mzeroAll o => Sys2Proof.Machine.execMzeroAll o s
  | .mmpc o => Sys2Proof.Machine.execMmpc o s
  | .yset o => Sys2Proof.Machine.execYset o s
  | .yget o => Sys2Proof.Machine.execYget o s
  | .ygo o => Sys2Proof.Machine.execYgo o s
  | .yhalt o => Sys2Proof.Machine.execYhalt o s
  | .yhaltAll o => Sys2Proof.Machine.execYhaltAll o s
  | .cpy o => Sys2Proof.Machine.execCpy o s
  | .cpyr o => Sys2Proof.Machine.execCpyr o s
  | .hatom o => Sys2Proof.Machine.execHatom o s
  | .red o => Sys2Proof.Machine.execRed o s
  | .tladd o => Sys2Proof.Machine.execTladd o s
  | .tlwait o => Sys2Proof.Machine.execTlwait o s
  | .tlpoll o => Sys2Proof.Machine.execTlpoll o s
  | .tlrd o => Sys2Proof.Machine.execTlrd o s
  | .waita o => Sys2Proof.Machine.execWaita o s
  | .bar o => Sys2Proof.Machine.execBar o s
  | .bara o => Sys2Proof.Machine.execBara o s
  | .bard o => Sys2Proof.Machine.execBard o s
  | .fence o => Sys2Proof.Machine.execFence o s
  | .launch o => Sys2Proof.Machine.execLaunch o s
  | .krot o => Sys2Proof.Machine.execKrot o s
  | .seal o => Sys2Proof.Machine.execSeal o s
  | .unseal o => Sys2Proof.Machine.execUnseal o s
  | .scrub o => Sys2Proof.Machine.execScrub o s
  | .dact o => Sys2Proof.Machine.execDact o s
  | .dactReg o => Sys2Proof.Machine.execDactReg o s
  | .drd o => Sys2Proof.Machine.execDrd o s
  | .dwr o => Sys2Proof.Machine.execDwr o s
  | .dpre o => Sys2Proof.Machine.execDpre o s
  | .dprea o => Sys2Proof.Machine.execDprea o s
  | .dref o => Sys2Proof.Machine.execDref o s
  | .drefp o => Sys2Proof.Machine.execDrefp o s
  | .dprom o => Sys2Proof.Machine.execDprom o s
  | .dpromReg o => Sys2Proof.Machine.execDpromReg o s
  | .dclean o => Sys2Proof.Machine.execDclean o s
  | .dcleanReg o => Sys2Proof.Machine.execDcleanReg o s
  | .dinit o => Sys2Proof.Machine.execDinit o s
  | .dwait o => Sys2Proof.Machine.execDwait o s
  | .bundleIssue c => Sys2Proof.Machine.execBundleIssue c s
  | .deadlineFault c => Sys2Proof.Machine.execDeadlineFault c s
  | .streamFault o => Sys2Proof.Machine.execStreamFault o s
  | .callFault c => Sys2Proof.Machine.execCallFault c s
  | .yarnBeat core st => Sys2Proof.Machine.execYarnBeat core st s
  | .drainAtomicPerform id => Sys2Proof.Machine.execDrainAtomicPerform id s
  | .pooledGrant cl => Sys2Proof.Machine.execPooledGrant cl s
  | .translationFill o => Sys2Proof.Machine.execTranslationFill o s
  | .monitorWake c => Sys2Proof.Machine.execMonitorWake c s
  | .waitaTimeout c => Sys2Proof.Machine.execWaitaTimeout c s
  | .timelineWake c => Sys2Proof.Machine.execTimelineWake c s
  | .tladdEffect id => Sys2Proof.Machine.execTladdEffect id s
  | .barrierLanding d => Sys2Proof.Machine.execBarrierLanding d s
  | .barrierResume c => Sys2Proof.Machine.execBarrierResume c s
  | .fenceWaitEnd c => Sys2Proof.Machine.execFenceWaitEnd c s
  | .copyQueueEntryFree c => Sys2Proof.Machine.execCopyQueueEntryFree c s
  | .copyTake core => Sys2Proof.Machine.execCopyTake core s
  | .copyComplete e n => Sys2Proof.Machine.execCopyComplete e n s
  | .hatomPerform e n => Sys2Proof.Machine.execHatomPerform e n s
  | .krotComplete e n => Sys2Proof.Machine.execKrotComplete e n s
  | .sealComplete e n => Sys2Proof.Machine.execSealComplete e n s
  | .unsealComplete e n => Sys2Proof.Machine.execUnsealComplete e n s
  | .scrubComplete e n => Sys2Proof.Machine.execScrubComplete e n s
  | .taskRetire c => Sys2Proof.Machine.execTaskRetire c s
  | .zeroingComplete r => Sys2Proof.Machine.execZeroingComplete r s
  | .taskEntry c => Sys2Proof.Machine.execTaskEntry c s
  | .sliceSave c => Sys2Proof.Machine.execSliceSave c s
  | .victimTake core => Sys2Proof.Machine.execVictimTake core s
  | .urgentEntry k => Sys2Proof.Machine.execUrgentEntry k s
  | .victimResume core => Sys2Proof.Machine.execVictimResume core s
  | .refreshTick ch => Sys2Proof.Machine.execRefreshTick ch s
  | .drdLanding ch => Sys2Proof.Machine.execDrdLanding ch s
  | .dwrComplete ch => Sys2Proof.Machine.execDwrComplete ch s
  | .serviceRequest ch => Sys2Proof.Machine.execServiceRequest ch s
  | .slubWrite u => Sys2Proof.Machine.execSlubWrite u s
  | .fabricTimeout rid => Sys2Proof.Machine.execFabricTimeout rid s
  | .resultLanding c st => Sys2Proof.Machine.execResultLanding c st s
  | .stepExecution c st => Sys2Proof.Machine.execStepExecution c st s
  | .iverifyFreezeEnd c => Sys2Proof.Machine.execIverifyFreezeEnd c s
  | .prechargeFreezeEnd ch => Sys2Proof.Machine.execPrechargeFreezeEnd ch s
  | .bankBusyEnd ch bank => Sys2Proof.Machine.execBankBusyEnd ch bank s
  | .switchAdmitTimeout ordinal => Sys2Proof.Machine.execSwitchAdmitTimeout ordinal s
  | .channelStop ses q => Sys2Proof.Machine.execChannelStop ses q s
  | .dieCutOff d => Sys2Proof.Machine.execDieCutOff d s
  | .portDown p => Sys2Proof.Machine.execPortDown p s
  | .ideIntegrityFailure f => Sys2Proof.Machine.execIdeIntegrityFailure f s
  | .vfEnableSet n => Sys2Proof.Machine.execVfEnableSet n s
  | .lockedItemWrite o => Sys2Proof.Machine.execLockedItemWrite o s
  | .hostRange1Request o => Sys2Proof.Machine.execHostRange1Request o s
  | .pfWindowRequest o => Sys2Proof.Machine.execPfWindowRequest o s
  | .getCertificate o => Sys2Proof.Machine.execGetCertificate o s
  | .challenge o => Sys2Proof.Machine.execChallenge o s
  | .getMeasurements o => Sys2Proof.Machine.execGetMeasurements o s
  | .keyExchange o => Sys2Proof.Machine.execKeyExchange o s
  | .finish ses => Sys2Proof.Machine.execFinish ses s
  | .heartbeat ses => Sys2Proof.Machine.execHeartbeat ses s
  | .endSession ses => Sys2Proof.Machine.execEndSession ses s
  | .bindSession ses f => Sys2Proof.Machine.execBindSession ses f s
  | .keyRelease ses q => Sys2Proof.Machine.execKeyRelease ses q s
  | .custodySet ses q => Sys2Proof.Machine.execCustodySet ses q s
  | .custodyClear ses q => Sys2Proof.Machine.execCustodyClear ses q s
  | .worldResume ses q => Sys2Proof.Machine.execWorldResume ses q s
  | .controlStart ses q => Sys2Proof.Machine.execControlStart ses q s
  | .channelStart ses q => Sys2Proof.Machine.execChannelStart ses q s
  | .jobJoin ses q => Sys2Proof.Machine.execJobJoin ses q s
  | .jobLeave ses f djob => Sys2Proof.Machine.execJobLeave ses f djob s
  | .switchAdmit ses q => Sys2Proof.Machine.execSwitchAdmit ses q s
  | .windowSetMake ses f w => Sys2Proof.Machine.execWindowSetMake ses f w s
  | .windowSetInstall ses f w => Sys2Proof.Machine.execWindowSetInstall ses f w s
  | .debugPolicy ses f pol => Sys2Proof.Machine.execDebugPolicy ses f pol s
  | .lockInterface ses f ide => Sys2Proof.Machine.execLockInterface ses f ide s
  | .getDeviceInterfaceReport ses f => Sys2Proof.Machine.execGetDeviceInterfaceReport ses f s
  | .getDeviceInterfaceState ses f => Sys2Proof.Machine.execGetDeviceInterfaceState ses f s
  | .startInterface ses f nonce => Sys2Proof.Machine.execStartInterface ses f nonce s
  | .stopInterface ses f => Sys2Proof.Machine.execStopInterface ses f s
  | .keyProg o => Sys2Proof.Machine.execKeyProg o s
  | .kSetGo stream keySet => Sys2Proof.Machine.execKSetGo stream keySet s
  | .layoutSet f y resv => Sys2Proof.Machine.execLayoutSet f y resv s
  | .pageAssign first count world => Sys2Proof.Machine.execPageAssign first count world s
  | .pageReclaim first count => Sys2Proof.Machine.execPageReclaim first count s
  | .fwStage addr len => Sys2Proof.Machine.execFwStage addr len s
  | .schedSet f w cap pdl => Sys2Proof.Machine.execSchedSet f w cap pdl s
  | .nearSet ch pin => Sys2Proof.Machine.execNearSet ch pin s
  | .pageMove src dst => Sys2Proof.Machine.execPageMove src dst s
  | .fabricSet pkg ports => Sys2Proof.Machine.execFabricSet pkg ports s
  | .eventSet f allow mode => Sys2Proof.Machine.execEventSet f allow mode s
  | .winbaseWrite v => Sys2Proof.Machine.execWinbaseWrite v s
  | .trootWrite v => Sys2Proof.Machine.execTrootWrite v s
  | .logbaseWrite v => Sys2Proof.Machine.execLogbaseWrite v s
  | .logsizeWrite v => Sys2Proof.Machine.execLogsizeWrite v s
  | .logackWrite v => Sys2Proof.Machine.execLogackWrite v s
  | .bkptpcWrite v => Sys2Proof.Machine.execBkptpcWrite v s
  | .tracectlWrite v => Sys2Proof.Machine.execTracectlWrite v s
  | .registerWrite off v => Sys2Proof.Machine.execRegisterWrite off v s
  | .standardRequest src => Sys2Proof.Machine.execStandardRequest src s
  | .fabWrite m => Sys2Proof.Machine.execFabWrite m s
  | .fabRead m => Sys2Proof.Machine.execFabRead m s
  | .redMessage m => Sys2Proof.Machine.execRedMessage m s
  | .mergeMessage m => Sys2Proof.Machine.execMergeMessage m s
  | .mgmt m => Sys2Proof.Machine.execMgmt m s
  | .arrive m => Sys2Proof.Machine.execArrive m s
  | .completeMessage m => Sys2Proof.Machine.execCompleteMessage m s
  | .writeAck m => Sys2Proof.Machine.execWriteAck m s
  | .readData m => Sys2Proof.Machine.execReadData m s
  | .redAck m => Sys2Proof.Machine.execRedAck m s
  | .mergeAck m => Sys2Proof.Machine.execMergeAck m s
  | .arriveAck m => Sys2Proof.Machine.execArriveAck m s
  | .completeAck m => Sys2Proof.Machine.execCompleteAck m s
  | .portUp p => Sys2Proof.Machine.execPortUp p s
  | .placementOpportunity => Sys2Proof.Machine.execPlacementOpportunity s
  | .schedTick => Sys2Proof.Machine.execSchedTick s
  | .governorTick => Sys2Proof.Machine.execGovernorTick s
  | .egressInterval => Sys2Proof.Machine.execEgressInterval s
  | .logEntryWrite => Sys2Proof.Machine.execLogEntryWrite s
  | .deviceReset => Sys2Proof.Machine.execDeviceReset s
  | .bringUpComplete => Sys2Proof.Machine.execBringUpComplete s
  | .hotReset => Sys2Proof.Machine.execHotReset s
  | .linkDown => Sys2Proof.Machine.execLinkDown s
  | .thermalTrip => Sys2Proof.Machine.execThermalTrip s
  | .vfEnableClear => Sys2Proof.Machine.execVfEnableClear s
  | .getVersion => Sys2Proof.Machine.execGetVersion s
  | .setCertificate => Sys2Proof.Machine.execSetCertificate s
  | .getCsr => Sys2Proof.Machine.execGetCsr s
  | .fwActivate => Sys2Proof.Machine.execFwActivate s
  | .fwCommit => Sys2Proof.Machine.execFwCommit s
  | .logSign => Sys2Proof.Machine.execLogSign s
  | .dbgStop => Sys2Proof.Machine.execDbgStop s
  | .dbgStep => Sys2Proof.Machine.execDbgStep s
  | .dbgResume => Sys2Proof.Machine.execDbgResume s
  | .freeze => Sys2Proof.Machine.execFreeze s
  | .getCapabilities => Sys2Proof.Machine.execGetCapabilities s
  | .negotiateAlgorithms => Sys2Proof.Machine.execNegotiateAlgorithms s

end Sys2Proof.Machine
end

