-- ==== Sys2Proof/Machine/Run.lean ====
section
/-!
DEFINITION. One step: a row of the opcode table with, for a bundle, the slots it issues (spec/06_fetch_and_issue.md R121, R134);
and how a word is put where the next step fetches it.
-/

namespace Sys2Proof.Machine

/-- The slots of the open bundle issue in order, and the bundle ends. -/
def issueSlots : Nat → State → Out
  | 0, s => .next (finishBundle s)
  | n + 1, s =>
    match nextSlot 8 s with
    | none => .next (finishBundle s)
    | some (i, s1) =>
      match exec i s1 with
      | .next s2 => issueSlots n s2
      | .fault f => .fault f
      | .refused r => .refused r

/-- What follows the meaning of a row: the slots of a bundle that has opened; then every context whose task is terminated
ends. -/
def afterExec (o : Out) : Out :=
  match o with
  | .next s =>
    match s.cur with
    | none => .next (settle s)
    | some _ =>
      match issueSlots 8 s with
      | .next s1 => .next (settle s1)
      | o => o
  | o => o

/-- The state after the bundle that is due at a context has issued, as the state stands; the same where it cannot. -/
def issued (s : State) (a : Agent) : State :=
  match exec (.bundleIssue a) s with
  | .next s1 =>
    match (if s1.cur.isSome then issueSlots 8 s1 else .next s1) with
    | .next s2 => s2
    | _ => s
  | _ => s

/-- The bundle that is due at a context would trap into a handler, as the state stands. -/
def trapsNow (s : State) (a : Agent) : Bool := !(ctxOf s a).estatH && (ctxOf (issued s a) a).estatH

/-- The bundle that is due at a context would trap into a handler, or stop the context for the debugger (R430). -/
def stopsNow (s : State) (a : Agent) : Bool :=
  trapsNow s a || !(ctxOf s a).causes.elem .debug && (ctxOf (issued s a) a).causes.elem .debug

/-- The state in which a context's bundle asks for its bank (R202): those of the lower cores of its cluster have issued. -/
def lowerIssued (s : State) (b : Agent) : State :=
  (s.agenda.filterMap (fun i => match i with
    | .bundleIssue c => if agTile c && clusterOfCore (agIdx c) == clusterOfCore (agIdx b) && decide (agIdx c < agIdx b) then some c
      else none
    | _ => none)).foldl issued s

/-- R392, R430, R136: the members of a lockstep gang freeze in the very cycle in which one of them traps or stops, so the one
that would issues first; its siblings then issue nothing in that cycle, but for those that would trap in it themselves
(DEDUCED, log entry 17). -/
def trapFirst (s : State) : State :=
  match s.agenda with
  | .bundleIssue a :: rest =>
    if (ctxOf s a).task.level ≠ 1 then s
    else if (ctxOf s a).frozen then
      let s1 := redoCycle a s
      if trapsNow s1 a then s1 else s
    else if stopsNow s a then s
    else
      match (siblings s a).find? (fun b => rest.elem (.bundleIssue b) && stopsNow (lowerIssued s b) b) with
      | none => s
      | some b => { s with agenda := .bundleIssue b :: .bundleIssue a :: rest.filter (fun i => i != .bundleIssue b) }
  | _ => s

/-- One step, from the steps due in the state. A package that is off, with no device reset to come, stays as it is. -/
def runStep (s : State) : Out :=
  if s.poweredOff && s.agenda.isEmpty && !s.inputs.any (fun p => takeable s p.2) then .fault .poweredOff
  else
    let s1 := trapFirst (refill 24 s)
    match s1.agenda with
    | [] => .next s1
    | i :: rest => afterExec (exec i { s1 with agenda := rest })

/-! ## Placing a word (log entry 2) -/

/-- The agent that runs a word of a slot of a core kind. -/
def wordAgent : CoreKind → Agent
  | .tile => .tile 0
  | .channel => .channel 0
  | .steward => .steward 0

/-- The task of a placed word: world 1, nothing bound. -/
def wordTask : Task := { Task.none with world := 1, budget := 2 ^ 62, ncores := 1, spill := 458752 }

/-- The header of a bundle of one slot; a slot Y of a tile core stands under Q, which waits need (R80, R130). -/
def wordHeader (k : CoreKind) (sl : Slot) : Header := ⟨2 ^ (6 - sl.num), k == .tile && sl == .y, false, 0⟩

/-- The bytes of a bundle of one word, sealed as code granules are, under a key, nonce and section of zero and one. -/
def sealedBundle (k : CoreKind) (sl : Slot) (w : Nat) : List Byte :=
  toBytes (sectionOpen 0 0 1 0 (toNats (bytesOfWord (encodeHeader (wordHeader k sl)) ++ bytesOfWord w)))

/-- The image of a placed word. -/
def wordImage : Image := ⟨0, 0, 0, 0, 1, 0, 0, 0, 0, 256, 0⟩

/-- The context's next bundle is at address 0 of its code, and issues in this cycle. -/
def wordCtx (x : Ctx) : Ctx :=
  { x with
    live := true
    started := true
    issuing := true
    task := if x.live then x.task else wordTask
    image := wordImage
    half0 := ⟨1, 1, 0⟩
    activeHalf := 0
    seqPc := 0
    seqAt := x.clk
    branch := none
    wait := none
    causes := []
    frozen := false
    deferred := []
    ended := none }

/-- Puts the bundle into the code store of the agent. -/
def putBundle (a : Agent) (l : List Byte) (s : State) : State :=
  match a with
  | .tile c => modCore s c (fun k => { k with imem := memWrite k.imem 0 l })
  | .urgent c => modCore s c (fun k => { k with imem := memWrite k.imem 0 l })
  | .channel n => modChan s n (fun c => { c with istore := memWrite c.istore 0 l, owner := 1, refreshFault := false })
  | .steward n => { s with stewCode := tabMod [] s.stewCode n (fun m => memWrite m 0 l) }

/-- A bundle of one word, for a slot of a core kind, as the next step's. -/
def placeWord (k : CoreKind) (sl : Slot) (w : Nat) (s : State) : State :=
  let a := wordAgent k
  let s1 := putBundle a (sealedBundle k sl w) (modCtx s a wordCtx)
  { s1 with
    phase := 2
    cur := none
    agenda := [.bundleIssue a]
    poweredOff := false }

/-- A table word, where the decoder of table words reads it. -/
def placeTableWord (w : Nat) (s : State) : State :=
  match tableSlot w with
  | some (k, sl, _) => placeWord k sl w s
  | none => placeWord .tile .a w s

end Sys2Proof.Machine
end

