-- ==== Sys2Proof/Machine/Step.lean ====
section
/-!
DEFINITION. The step of the machine, and the state whose next step runs a given word.
-/

namespace Sys2Proof.Machine

/-- One step: the next row of the opcode table that is due, with the slots of a bundle it opens. -/
def step (s : State) : Host.Outcome State Fault Refusal := runStep s

/-- `s` with a word of the opcode table stored where `step` fetches its next instruction. -/
def State.withFetchWord (s : State) (_nbits w : Nat) : State := placeTableWord w s

end Sys2Proof.Machine
end

