-- ==== Sys2Proof/Safety.lean ====
section
/-!
DEFINITION. The terms in which statements about the machine are made: when a slot runs, what its sources and its
destination are, how a result is left in flight, and what a step keeps.
-/

namespace Sys2Proof.Machine

/-! ## Slots (spec/02_program_image_and_encodings.md R21; spec/06_fetch_and_issue.md R125, R128) -/

/-- The bundle `u` is open and the guard of the slot being issued is true. -/
def slotRuns (g : Nat) (u : Issue) (s : State) : Prop := s.cur = some u ∧ guardTrue g s = true

/-- The outcome of a slot that completes and leaves `s`: the counters of event 0x02 count it (R425). -/
def slotDone (u : Issue) (s : State) : Out := .next (countEvent u.ag 0x02 1 s)

/-- Two Source steps in field order yield `x` and `y` and leave `t`. -/
def readsTwo (a : Nat) (m : Bool) (b : Nat) (n : Bool) (s : State) (x y : Word) (t : State) : Prop :=
  ∃ s1, source a m s = .ok (x, s1) ∧ source b n s1 = .ok (y, t)

/-- A slot of the RR layout reads `x` and `y`, reserves the cell `c` and leaves `t`. -/
def readsRR (o : RR) (s : State) (x y : Word) (c : Option Nat) (t : State) : Prop :=
  ∃ s2, readsTwo o.a o.m o.b o.n s x y s2 ∧ dest o.d o.q s2 = .ok (c, t)

/-- A slot reads one source `x`, reserves the cell `c` of its destination and leaves `t`. -/
def readsOne (a : Nat) (m : Bool) (d : Nat) (q : Bool) (s : State) (x : Word) (c : Option Nat) (t : State) : Prop :=
  ∃ s1, source a m s = .ok (x, s1) ∧ dest d q s1 = .ok (c, t)

/-- A slot of the RR layout that peeks its destination as a third source `z` (R140). -/
def readsRRD (o : RR) (s : State) (x y z : Word) (c : Option Nat) (t : State) : Prop :=
  ∃ s2 s3, readsTwo o.a o.m o.b o.n s x y s2 ∧ source o.d false s2 = .ok (z, s3) ∧ dest o.d o.q s3 = .ok (c, t)

/-- The instruction completes from `s`: the only result in flight that it adds to `t` is a word of latency `L` for the
reserved cell of register `d`, and the word meets `P`. -/
def landsWord (i : Instr) (s : State) (u : Issue) (L d : Nat) (c : Option Nat) (t : State) (P : Word → Prop) : Prop :=
  ∃ v : Word, exec i s = slotDone u (landReg L d c v t) ∧ P v

/-- The instruction completes from `s`: it adds a predicate pair of latency 1 to `t`. -/
def landsPair (i : Instr) (s : State) (u : Issue) (k : Nat) (t : State) (P : Bool → Prop) : Prop :=
  ∃ v : Bool, exec i s = slotDone u (land 1 (.pair k v) t) ∧ P v

/-- The slot traps with a cause: the state is that of the trap entry alone (R5, R390). -/
def slotTraps (i : Instr) (s : State) (cause : Nat) : Prop := exec i s = .next (slotTrap cause s)

/-! ## Vectors (spec/10_vector_instructions.md R226-R229) -/

/-- A vector slot of type `ty`: its queues are of the task's profile, and its one vector source yields `x` and leaves `t`. -/
def readsV1 (a : Nat) (m : Bool) (dst : Nat) (s : State) (x : Vec) (t : State) : Prop :=
  qHeld a s = true ∧ routeHeld dst s = true ∧ vsource (fileA s) a m s = .ok (x, t)

/-- A vector slot with two vector sources. -/
def readsV2 (a : Nat) (m : Bool) (b : Nat) (n : Bool) (dst : Nat) (s : State) (x y : Vec) (t : State) : Prop :=
  qHeld b s = true ∧ ∃ s1, readsV1 a m dst s x s1 ∧ vsource (fileB s1) b n s1 = .ok (y, t)

/-- The instruction completes from `s` wherever its destination `dst` takes a result: the lanes of width `w` that it routes
with latency `L` from `t` meet `P`. -/
def landsLanes (i : Instr) (s : State) (u : Issue) (L dst : Nat) (ty : VType) (zx : Bool) (w : Nat) (t : State)
    (P : List Nat → Prop) : Prop :=
  ∃ l : List Nat, P l ∧ ∀ t1, routeLanes L dst ty zx w l t = .ok t1 → exec i s = slotDone u t1

/-- `l` holds the lanes of a vector of type `ty`: `f` of each lane that the predicate `m` governs, and 0 in the others. -/
def lanesAre (ty : VType) (m : W256) (f : Nat → Nat) (l : List Nat) : Prop :=
  l.length = ty.nl ∧ ∀ i : Nat, i < ty.nl → l.getD i 0 = if governs m ty.w i then f i else 0

/-! ## What is kept -/

/-- Every part of the state but the contexts and the open bundle is the same. -/
def onlyContexts (s t : State) : Prop := t = { s with ctxs := t.ctxs, cur := t.cur }

/-- Every part of the state but the contexts, the tile cores and the open bundle is the same. -/
def onlyCores (s t : State) : Prop := t = { s with ctxs := t.ctxs, cores := t.cores, cur := t.cur }

/-- Every context but that of `a` is the same. -/
def otherContexts (a : Agent) (s t : State) : Prop :=
  ∀ k : Nat, k ≠ agentId a → tabGet Ctx.reset t.ctxs k = tabGet Ctx.reset s.ctxs k

/-- R136, R392: every context but that of `a` is the same, or is that of a lockstep sibling of `a` whose cycle in progress
freezes, which event 0x03 counts (R425). -/
def otherButSiblings (a : Agent) (s t : State) : Prop :=
  ∀ k : Nat, k ≠ agentId a →
    let x := tabGet Ctx.reset s.ctxs k
    let y := tabGet Ctx.reset t.ctxs k
    y = x ∨ ((∃ b ∈ siblings s a, k = agentId b) ∧
      y = { x with clk := x.clk - 1, lastAt := 0, frozen := true, dev := y.dev, evcnt := y.evcnt })

/-- Every tile core but core `c` is the same. -/
def otherCores (c : Nat) (s t : State) : Prop :=
  ∀ k : Nat, k ≠ c → tabGet Core.reset t.cores k = tabGet Core.reset s.cores k

/-! ## What a slot word names (spec/06_fetch_and_issue.md R128; spec/10_vector_instructions.md R226) -/

/-- What a slot word names: the scalar registers and the vector queues (file number times 16, plus the queue) that it pops or
writes, and whether it stores. Its other operands are only read. -/
structure Named where
  regs : List Nat
  queues : List Nat
  stores : Bool
  deriving DecidableEq, Repr

/-- A source register is named where it is popped. -/
def poppedRegs (r : Nat) (pop : Bool) : List Nat := if pop then [r] else []

/-- A source queue is named where it is popped. -/
def poppedV (f : VFile) (q : Nat) (pop : Bool) : List Nat := if pop then [fileNo f * 16 + q] else []

/-- The register that a vector destination routes to. -/
def routeRegs (t : Nat) : List Nat := if dstScalar t then [t % 32] else []

/-- The queue that a vector destination routes to. -/
def routeCell (t : Nat) : List Nat := [fileNo (routeFile t) * 16 + routeQueue t]

/-- The queue of a destination that may be a scalar register. -/
def routeQueues (t : Nat) : List Nat := if dstScalar t then [] else routeCell t

/-- The names of a scalar word: the S slot's arithmetic, and the loads and stores of the L slot. -/
def scalarNamed : Instr → Option Named
  | .add o | .sub o | .and o | .or o | .xor o | .andn o | .min o | .max o | .mins o | .maxs o | .shl o | .shr o | .sra o
  | .fsl o | .fsr o | .mul o | .mulh o | .mulhs o | .div o | .divs o | .rem o | .rems o | .fadd o | .fsub o | .fmul o
  | .fmin o | .fmax o => some ⟨o.d :: poppedRegs o.a o.m ++ poppedRegs o.b o.n, [], false⟩
  | .mov o | .clz o | .ctz o | .popc o | .brev o => some ⟨o.d :: poppedRegs o.a o.m, [], false⟩
  | .sel o => some ⟨o.d :: poppedRegs o.a o.m ++ poppedRegs o.b o.n, [], false⟩
  | .adds o => some ⟨o.d :: poppedRegs o.a o.m ++ poppedRegs o.b o.n, [], false⟩
  | .ffma o => some ⟨o.d :: poppedRegs o.a o.m ++ poppedRegs o.b o.n, [], false⟩
  | .fcvt o => some ⟨o.d :: poppedRegs o.a o.m, [], false⟩
  | .cmp o | .fcmp o => some ⟨poppedRegs o.a o.m ++ poppedRegs o.b o.n, [], false⟩
  | .cmpi o => some ⟨poppedRegs o.a o.m, [], false⟩
  | .addi o | .andi o | .ori o | .xori o | .shli o | .shri o | .srai o | .ldb o | .ldbu o | .ldh o | .ldhu o | .ldw o
  | .ldwu o | .ldd o | .ldk o => some ⟨o.d :: poppedRegs o.a o.m, [], false⟩
  | .lim o | .lih o | .lds o => some ⟨[o.d], [], false⟩
  | .pand _ | .por _ | .pxor _ | .pandn _ | .pset _ => some ⟨[], [], false⟩
  | .qlen o => some ⟨[o.d], [], false⟩
  | .csrrd o => some ⟨[o.d], [], false⟩
  | .stb o | .sth o | .stw o | .std o => some ⟨poppedRegs o.d o.q ++ poppedRegs o.a o.m, [], true⟩
  | .sts o => some ⟨poppedRegs o.d o.q, [], true⟩
  | _ => none

/-- The names of a vector word, of the V slots or the L slot. -/
def vectorNamed (s : State) : Instr → Option Named
  | .vadd o | .vsub o | .vmul o | .vmin o | .vmax o | .vand o | .vor o | .vxor o | .vandn o | .vfsl o | .vfsr o | .vsel o
  | .vdqnt o | .vperm o =>
    some ⟨routeRegs o.t, poppedV (fileA s) o.a o.m ++ poppedV (fileB s) o.b o.n ++ routeQueues o.t, false⟩
  | .vqnt o => some ⟨[], poppedV (fileA s) o.a o.m ++ poppedV (fileB s) o.b o.n ++ routeCell o.t, false⟩
  | .vfma o | .vfms o => some ⟨[], poppedV (fileA s) o.a o.m ++ poppedV (fileB s) o.b o.n, false⟩
  | .vcmp o => some ⟨[], poppedV (fileA s) o.a o.m ++ poppedV (fileB s) o.b o.n, false⟩
  | .vabs o | .vneg o | .vclz o | .vpopc o | .vrmax o | .vrmin o | .vramax o | .vradd o | .vscan o | .vunpk o
  | .vexp2 o | .vlog2 o | .vrcp o | .vrsq o => some ⟨routeRegs o.t, poppedV (fileA s) o.a o.m ++ routeQueues o.t, false⟩
  | .vpack o => some ⟨[], poppedV (fileA s) o.a o.m ++ routeCell o.t, false⟩
  | .vcvt o => some ⟨[], poppedV (fileA s) o.a o.m ++ routeCell o.t, false⟩
  | .vshl o | .vshr o | .vsra o | .vbcast o | .vextr o =>
    some ⟨routeRegs o.t, poppedV (fileA s) o.a o.m ++ poppedV (fileB s) o.b o.n ++ routeQueues o.t, false⟩
  | .vrot o => some ⟨routeRegs o.t, poppedV (fileA s) o.a o.m ++ poppedV (fileB s) o.b o.n ++ routeQueues o.t, false⟩
  | .vaccr o => some ⟨[], routeCell o.t, false⟩
  | .viota o => some ⟨[], routeCell o.t, false⟩
  | .vpand _ | .vpor _ | .vpxor _ | .vpset _ => some ⟨[], [], false⟩
  | .vpcnt o => some ⟨[o.t % 32], [], false⟩
  | .vld o => some ⟨poppedRegs o.a o.m, routeCell o.t, false⟩
  | .vlds o => some ⟨[], routeCell o.t, false⟩
  | .vst o => some ⟨poppedRegs o.a o.m, poppedV .vst o.s o.q, true⟩
  | .vstm o => some ⟨poppedRegs o.a o.m, poppedV .vst o.s o.q, true⟩
  | .vsts o => some ⟨[], poppedV .vst o.s o.q, true⟩
  | _ => none

/-- What a slot word with the names `n` may leave in flight: results for the registers and queues that it names, predicates,
accumulator lanes, and a store where it stores. -/
def inFlightOf (n : Named) : Pend → Bool
  | .sreg r _ _ => n.regs.elem r
  | .vreg f q _ _ => n.queues.elem (fileNo f * 16 + q)
  | .pair _ _ | .vp _ _ | .vacc _ _ _ _ => true
  | .store _ _ => n.stores
  | _ => false

/-- The frame of a slot word with the names `n`, from `s` to `t`: every part of the machine but the contexts and the tile
cores is the same, and every context and core but its own; of its own context, all but the scalar queues, what is in flight,
the LFSR and the event counters, and every register that it does not name; of its core, all but the vector queues (every byte
of the Spool and the spill memory, then), and every queue that it does not name; and it adds to what is in flight only what
its names allow. -/
def keepsRest (n : Named) (u : Issue) (s t : State) : Prop :=
  let x := ctxOf s u.ag
  let y := ctxOf t u.ag
  let k := coreOf s (agIdx u.ag)
  let l := coreOf t (agIdx u.ag)
  onlyCores s t ∧ t.cur = s.cur ∧ otherContexts u.ag s t ∧ otherCores (agIdx u.ag) s t ∧
  y = { x with sregs := y.sregs, pend := y.pend, lfsr := y.lfsr, evcnt := y.evcnt } ∧
  (∀ r : Nat, r ∉ n.regs → sregOf y r = sregOf x r) ∧
  (∃ p : List InFlight, y.pend = x.pend ++ p ∧ ∀ q ∈ p, inFlightOf n q.act = true) ∧
  l = { k with vqs := l.vqs } ∧
  ∀ q : Nat, q ∉ n.queues → tabGet (Ring.empty 0) l.vqs q = tabGet (Ring.empty 0) k.vqs q

/-- The words that change nothing but the context that issues them: branches, loops, code change, the L slot's pooled
accesses and atomics, and the M slot's words that keep the core's tables and banks. -/
def ownContextOnly : Instr → Bool
  | .br _ | .brl _ | .bri _ | .loop _ | .loopi _ | .loopiK _ | .eret _ | .trap _ | .ifence _ | .iverify _ | .bswap _ | .qclr _
  | .fence _ | .mcall _ | .mparm _ | .mstep _ | .msteprd _ | .mmpc _ | .yset _ | .yget _ | .ldc _ | .stc _ | .latom _
  | .tlpoll _ => true
  | _ => false

/-! ## Which slots hold which words (spec/02_program_image_and_encodings.md R24-R27) -/

/-- The opcode maps of the slots. -/
inductive WordMap where
  | scalar
  | control
  | load
  | vector
  | matrix
  | sync
  | channel
  deriving DecidableEq, Repr

/-- The map that a slot word belongs to; none for a row that has no word. -/
def mapOf : Instr → Option WordMap
  | .add _ | .sub _ | .and _ | .or _ | .xor _ | .andn _ | .min _ | .max _ | .mins _ | .maxs _ | .shl _ | .shr _
  | .sra _ | .fsl _ | .fsr _ | .mul _ | .mulh _ | .mulhs _ | .div _ | .divs _ | .rem _ | .rems _ | .mov _ | .clz _
  | .ctz _ | .popc _ | .brev _ | .sel _ | .adds _ | .cmp _ | .cmpi _ | .fcmp _ | .addi _ | .andi _ | .ori _ | .xori _
  | .shli _ | .shri _ | .srai _ | .lim _ | .lih _ | .pand _ | .por _ | .pxor _ | .pandn _ | .pset _ | .fadd _ | .fsub _
  | .fmul _ | .fmin _ | .fmax _ | .ffma _ | .fcvt _ | .qlen _ | .qclr _ | .csrrd _ | .csrwr _ => some .scalar
  | .br _ | .brl _ | .bri _ | .loop _ | .loopi _ | .loopiK _ | .bswap _ | .ifence _ | .iverify _ | .trap _ | .eret _
  | .texit _ | .bkpt _ => some .control
  | .ldb _ | .ldbu _ | .ldh _ | .ldhu _ | .ldw _ | .ldwu _ | .ldd _ | .stb _ | .sth _ | .stw _ | .std _ | .lds _
  | .sts _ | .ldc _ | .stc _ | .ldk _ | .vld _ | .vst _ | .vstm _ | .vlds _ | .vsts _ | .latom _ | .sendt _ | .recvt _ => some .load
  | .vadd _ | .vsub _ | .vmul _ | .vfma _ | .vfms _ | .vaccr _ | .vmin _ | .vmax _ | .vabs _ | .vneg _ | .vand _
  | .vor _ | .vxor _ | .vandn _ | .vshl _ | .vshr _ | .vsra _ | .vfsl _ | .vfsr _ | .vcmp _ | .vsel _ | .vcvt _
  | .vqnt _ | .vdqnt _ | .vrmax _ | .vrmin _ | .vramax _ | .vradd _ | .vscan _ | .vperm _ | .vrot _ | .vbcast _
  | .vextr _ | .viota _ | .vpack _ | .vunpk _ | .vclz _ | .vpopc _ | .vexp2 _ | .vlog2 _ | .vrcp _ | .vrsq _ | .vpand _
  | .vpor _ | .vpxor _ | .vpset _ | .vpcnt _ => some .vector
  | .mcall _ | .mparm _ | .mstep _ | .msteprd _ | .mzeroAll _ | .mzero _ | .mmpc _ => some .matrix
  | .yset _ | .yget _ | .ygo _ | .yhalt _ | .yhaltAll _ | .cpy _ | .cpyr _ | .hatom _ | .red _ | .tladd _ | .tlwait _
  | .tlpoll _ | .tlrd _ | .waita _ | .bar _ | .bara _ | .bard _ | .fence _ | .launch _ | .krot _ | .seal _ | .unseal _
  | .scrub _ => some .sync
  | .dact _ | .dactReg _ | .drd _ | .dwr _ | .dpre _ | .dprea _ | .dref _ | .drefp _ | .dprom _ | .dpromReg _
  | .dclean _ | .dcleanReg _ | .dinit _ | .dwait _ => some .channel
  | _ => none

/-- The maps that a slot of a core kind reads its words by (R24, R26, R27). -/
def slotMaps : CoreKind → Slot → List WordMap
  | _, .a => [.scalar, .control]
  | _, .b => [.scalar]
  | .channel, .l => [.channel]
  | _, .l => [.load]
  | _, .v0 => [.vector]
  | _, .v1 => [.vector]
  | _, .m => [.matrix]
  | _, .y => [.sync]

/-- The slot `sl` of a core of kind `k` takes the instruction: the slot exists, its map has the instruction, and the core kind
does not leave its major, or the instruction, out (R27, R349). -/
def slotTakes (k : CoreKind) (sl : Slot) (i : Instr) : Bool :=
  k.hasSlot sl && (mapOf i).any (slotMaps k sl).elem && !unassignedOn k sl (bf (encodeWord i) 27 22) && allowedOn k i

end Sys2Proof.Machine
end

