-- ==== Sys2Proof/Certificates/Slice0/Obligations.lean ====
section
/-!
DEFINITION. The statements for the provers.
-/

open Sys2Proof Sys2Proof.Machine

/-! ## Scalar instructions (spec/07_scalar_and_control_instructions.md) -/

/-- R143, R140, R141, R145: Every ALU instruction completes with latency 1, and its word is the one the table gives. The
funnel shifts peek their destination as a third source and shift the 128-bit value by b[5:0]. Multiplication completes with
latency 3, division and remainder with latency 20, with the corners of the table. -/
def Obligations.AluAndMulDivResult : Prop :=
  (∀ (o : RR) (s t : State) (u : Issue) (x y : Word) (c : Option Nat),
     slotRuns o.g u s → readsRR o s x y c t →
     landsWord (.add o) s u 1 o.d c t (fun v => v.toNat = (x.toNat + y.toNat) % 2 ^ 64) ∧
     landsWord (.sub o) s u 1 o.d c t (fun v => (v.toNat : Int) = ((x.toNat : Int) - y.toNat) % (2 ^ 64 : Nat)) ∧
     landsWord (.and o) s u 1 o.d c t (fun v => ∀ i : Nat, v.getLsbD i = (x.getLsbD i && y.getLsbD i)) ∧
     landsWord (.or o) s u 1 o.d c t (fun v => ∀ i : Nat, v.getLsbD i = (x.getLsbD i || y.getLsbD i)) ∧
     landsWord (.xor o) s u 1 o.d c t (fun v => ∀ i : Nat, v.getLsbD i = (x.getLsbD i ^^ y.getLsbD i)) ∧
     landsWord (.andn o) s u 1 o.d c t (fun v => ∀ i : Nat, i < 64 → v.getLsbD i = (x.getLsbD i && !y.getLsbD i)) ∧
     landsWord (.min o) s u 1 o.d c t (fun v => v = if x.toNat ≤ y.toNat then x else y) ∧
     landsWord (.max o) s u 1 o.d c t (fun v => v = if y.toNat ≤ x.toNat then x else y) ∧
     landsWord (.mins o) s u 1 o.d c t (fun v => v = if x.toInt ≤ y.toInt then x else y) ∧
     landsWord (.maxs o) s u 1 o.d c t (fun v => v = if y.toInt ≤ x.toInt then x else y) ∧
     landsWord (.shl o) s u 1 o.d c t (fun v => v.toNat = x.toNat * 2 ^ (y.toNat % 64) % 2 ^ 64) ∧
     landsWord (.shr o) s u 1 o.d c t (fun v => v.toNat = x.toNat / 2 ^ (y.toNat % 64)) ∧
     landsWord (.sra o) s u 1 o.d c t (fun v => v.toInt = x.toInt / (2 ^ (y.toNat % 64) : Nat))) ∧
  (∀ (o : RR) (s t : State) (u : Issue) (x y z : Word) (c : Option Nat),
     slotRuns o.g u s → readsRRD o s x y z c t →
     landsWord (.fsl o) s u 1 o.d c t (fun v =>
       v.toNat = (z.toNat * 2 ^ 64 + x.toNat) * 2 ^ (y.toNat % 64) / 2 ^ 64 % 2 ^ 64) ∧
     landsWord (.fsr o) s u 1 o.d c t (fun v =>
       v.toNat = (x.toNat * 2 ^ 64 + z.toNat) / 2 ^ (y.toNat % 64) % 2 ^ 64)) ∧
  (∀ (o : RR) (s t : State) (u : Issue) (x y : Word) (c : Option Nat),
     slotRuns o.g u s → readsRR o s x y c t →
     landsWord (.mul o) s u 3 o.d c t (fun v => v.toNat = x.toNat * y.toNat % 2 ^ 64) ∧
     landsWord (.mulh o) s u 3 o.d c t (fun v => v.toNat = x.toNat * y.toNat / 2 ^ 64) ∧
     landsWord (.mulhs o) s u 3 o.d c t (fun v => v.toInt = x.toInt * y.toInt / (2 ^ 64 : Nat)) ∧
     landsWord (.div o) s u 20 o.d c t (fun v =>
       v.toNat = if y.toNat = 0 then 2 ^ 64 - 1 else x.toNat / y.toNat) ∧
     landsWord (.divs o) s u 20 o.d c t (fun v =>
       if y.toInt = 0 then v.toInt = -1
       else if x.toInt = -(2 ^ 63 : Nat) ∧ y.toInt = -1 then v.toInt = -(2 ^ 63 : Nat)
       else v.toInt = x.toInt.tdiv y.toInt) ∧
     landsWord (.rem o) s u 20 o.d c t (fun v => v.toNat = if y.toNat = 0 then x.toNat else x.toNat % y.toNat) ∧
     landsWord (.rems o) s u 20 o.d c t (fun v => v.toInt = if y.toInt = 0 then x.toInt else x.toInt.tmod y.toInt))

/-- R146, R147, R141: The unary instructions complete with latency 1. The immediate instructions of the RI layout complete
with latency 1; the immediate of the first four is sign-extended. LIM lands its sign-extended immediate; LIH shifts the
peeked old word left by 16 and fills in its immediate. -/
def Obligations.UnaryAndImmediateResult : Prop :=
  (∀ (o : RU) (s t : State) (u : Issue) (x : Word) (c : Option Nat),
     slotRuns o.g u s → readsOne o.a o.m o.d o.q s x c t →
     landsWord (.mov o) s u 1 o.d c t (fun v => v = x) ∧
     landsWord (.clz o) s u 1 o.d c t (fun v =>
       if x.toNat = 0 then v.toNat = 64
       else v.toNat < 64 ∧ 2 ^ (63 - v.toNat) ≤ x.toNat ∧ x.toNat < 2 ^ (64 - v.toNat)) ∧
     landsWord (.ctz o) s u 1 o.d c t (fun v =>
       if x.toNat = 0 then v.toNat = 64
       else v.toNat < 64 ∧ x.toNat % 2 ^ v.toNat = 0 ∧ x.toNat / 2 ^ v.toNat % 2 = 1) ∧
     landsWord (.popc o) s u 1 o.d c t (fun v => v.toNat = ((List.range 64).filter (fun i => x.getLsbD i)).length) ∧
     landsWord (.brev o) s u 1 o.d c t (fun v => ∀ i : Nat, i < 64 → v.getLsbD i = x.getLsbD (63 - i))) ∧
  (∀ (o : RI) (s t : State) (u : Issue) (x : Word) (c : Option Nat),
     slotRuns o.g u s → readsOne o.a o.m o.d o.q s x c t →
     landsWord (.addi o) s u 1 o.d c t (fun v => (v.toNat : Int) = (x.toNat + sext 10 o.i) % (2 ^ 64 : Nat)) ∧
     landsWord (.andi o) s u 1 o.d c t (fun v => v = x &&& BitVec.ofInt 64 (sext 10 o.i)) ∧
     landsWord (.ori o) s u 1 o.d c t (fun v => v = x ||| BitVec.ofInt 64 (sext 10 o.i)) ∧
     landsWord (.xori o) s u 1 o.d c t (fun v => v = x ^^^ BitVec.ofInt 64 (sext 10 o.i)) ∧
     landsWord (.shli o) s u 1 o.d c t (fun v => v.toNat = x.toNat * 2 ^ o.i % 2 ^ 64) ∧
     landsWord (.shri o) s u 1 o.d c t (fun v => v.toNat = x.toNat / 2 ^ o.i) ∧
     landsWord (.srai o) s u 1 o.d c t (fun v => v.toInt = x.toInt / (2 ^ o.i : Nat))) ∧
  (∀ (o : RL) (s t : State) (u : Issue) (c : Option Nat), slotRuns o.g u s → o.i < 65536 →
     (dest o.d o.q s = .ok (c, t) → landsWord (.lim o) s u 1 o.d c t (fun v => v.toInt = sext 16 o.i)) ∧
     (∀ x, readsOne o.d false o.d o.q s x c t →
       landsWord (.lih o) s u 1 o.d c t (fun v => v.toNat = (x.toNat * 65536 + o.i) % 2 ^ 64)))

/-- R144, R152: ADDS is a word of major 0x04 in the RR layout with k in F, and computes a + (b << k) modulo 2^64 with latency
1. SEL is a word of major 0x03; it reads both sources, with their pops, and lands a where its predicate is 1, else b, with
latency 1. -/
def Obligations.AddsAndSelResult : Prop :=
  (∀ (o : RRK), (Instr.adds o).isWf = true →
     (let w := encodeWord (.adds o)
      bf w 27 22 = 0x04 ∧ bf w 21 17 = o.d ∧ bm w 16 = o.q ∧ bf w 15 11 = o.a ∧ bm w 10 = o.m ∧ bf w 9 5 = o.b ∧
       bm w 4 = o.n ∧ bf w 3 0 = o.k ∧ o.k ≤ 15) ∧
     ∀ (s t : State) (u : Issue) (x y : Word) (c : Option Nat),
       slotRuns o.g u s → readsRR ⟨o.g, o.d, o.q, o.a, o.m, o.b, o.n⟩ s x y c t →
       landsWord (.adds o) s u 1 o.d c t (fun v => v.toNat = (x.toNat + y.toNat * 2 ^ o.k) % 2 ^ 64)) ∧
  (∀ (o : RRP), (Instr.sel o).isWf = true → bf (encodeWord (.sel o)) 27 22 = 0x03 ∧ o.p ≤ 15 ∧
     ∀ (s t : State) (u : Issue) (x y : Word) (c : Option Nat),
       slotRuns o.g u s → readsRR ⟨o.g, o.d, o.q, o.a, o.m, o.b, o.n⟩ s x y c t →
       landsWord (.sel o) s u 1 o.d c t (fun v => v = if predOf (curCtx s) o.p then x else y))

/-- R149, R157: The integer compares write a pair with the condition of their code; CMPI compares with its sign-extended
immediate. FCMP.cc writes a pair: eq, lt, ge, le and gt are false and ne is true where an operand is NaN; un and or say
whether one is. -/
def Obligations.CompareResult : Prop :=
  (∀ (s t : State) (u : Issue) (x y : Word) (cc : Nat) (v : Bool), cc < 8 →
     (v = true ↔ (cc = 0 ∧ x = y) ∨ (cc = 1 ∧ x ≠ y) ∨ (cc = 2 ∧ x.toInt < y.toInt) ∨ (cc = 3 ∧ y.toInt ≤ x.toInt) ∨
       (cc = 4 ∧ x.toNat < y.toNat) ∨ (cc = 5 ∧ y.toNat ≤ x.toNat) ∨ (cc = 6 ∧ x &&& y ≠ 0) ∨ (cc = 7 ∧ x &&& y = 0)) →
     (∀ o : CmpRR, o.c = cc → slotRuns o.g u s → readsTwo o.a o.m o.b o.n s x y t →
       landsPair (.cmp o) s u o.p t (fun r => r = v)) ∧
     (∀ o : CmpRI, o.c = cc → slotRuns o.g u s → source o.a o.m s = .ok (x, t) → y.toInt = sext 10 o.i →
       landsPair (.cmpi o) s u o.p t (fun r => r = v))) ∧
  (∀ (o : CmpRR) (s t : State) (u : Issue) (x y : Word), o.c < 8 →
     slotRuns o.g u s → readsTwo o.a o.m o.b o.n s x y t →
     landsPair (.fcmp o) s u o.p t (fun v =>
       let un := isNaN (fpArg x) || isNaN (fpArg y)
       (un = true → (v = true ↔ o.c = 1 ∨ o.c = 6)) ∧
       (un = false →
         (o.c = 0 → v = eqV (fpArg x) (fpArg y)) ∧ (o.c = 1 → v = !eqV (fpArg x) (fpArg y)) ∧
         (o.c = 2 → v = ltV (fpArg x) (fpArg y)) ∧ (o.c = 3 → v = !ltV (fpArg x) (fpArg y)) ∧
         (o.c = 4 → v = !ltV (fpArg y) (fpArg x)) ∧ (o.c = 5 → v = ltV (fpArg y) (fpArg x)) ∧
         (o.c = 6 → v = false) ∧ (o.c = 7 → v = true))))

/-- R151: PSET is a word of major 0x12, with pk one of the three pairs, and writes the pair (v, NOT v) with latency 1. -/
def Obligations.PsetResult : Prop :=
  ∀ (o : Sys2Proof.PSet), (Instr.pset o).isWf = true → bf (encodeWord (.pset o)) 27 22 = 0x12 ∧ 1 ≤ o.p ∧ o.p ≤ 3 ∧
    ∀ (s : State) (u : Issue), slotRuns o.g u s → landsPair (.pset o) s u o.p s (fun v => v = o.v)

/-- R148, R150: Predicate logic on any two predicates writes a pair with latency 1. A pair that lands leaves p2k and p2k+1
complementary and every other predicate as it was; p0 reads as 1 and p1 as 0. -/
def Obligations.PredicateResult : Prop :=
  (∀ (o : PLog) (s : State) (u : Issue), slotRuns o.g u s →
     landsPair (.pand o) s u o.p s (fun v => v = (predOf (curCtx s) o.a && predOf (curCtx s) o.b)) ∧
     landsPair (.por o) s u o.p s (fun v => v = (predOf (curCtx s) o.a || predOf (curCtx s) o.b)) ∧
     landsPair (.pxor o) s u o.p s (fun v => v = (predOf (curCtx s) o.a ^^ predOf (curCtx s) o.b)) ∧
     landsPair (.pandn o) s u o.p s (fun v => v = (predOf (curCtx s) o.a && !predOf (curCtx s) o.b))) ∧
  ((∀ (x : Ctx), predOf x 0 = true ∧ predOf x 1 = false) ∧
   (∀ (a : Agent) (s : State) (due iss slot k : Nat) (v : Bool), 1 ≤ k → k ≤ 3 →
     let x := ctxOf (landOne a ⟨due, iss, slot, .pair k v⟩ s) a
     predOf x (2 * k) = v ∧ predOf x (2 * k + 1) = !v ∧
       ∀ p : Nat, p < 16 → p ≠ 2 * k → p ≠ 2 * k + 1 → predOf x p = predOf (ctxOf s a) p))

/-- R153, R154, R155, R156, R183, R184: One rounding in RMODE, and latency 4; FMIN and FMAX are exact. FFMA rounds
(-1)^NP a b + (-1)^NA x once, x the peeked old word of d; FCVT converts by its code; both with latency 4. In SR a rounding
takes one draw: the low 32 bits of the LFSR after 32 of its steps, and the LFSR stays there; in another mode it takes none.
That FCVT takes its draw for every code, the exact f.bf among them, is log entry 13 (DEDUCED). -/
def Obligations.FloatResult : Prop :=
  (∀ (o : RR) (s s2 t : State) (u : Issue) (x y : Word) (c : Option Nat),
     slotRuns o.g u s → readsTwo o.a o.m o.b o.n s x y s2 →
     (dest o.d o.q (takeRmode s2).2.2 = .ok (c, t) →
       let mode := (curCtx s).rmode
       let down := mode == 3
       let fp := fun (r : Val) => wd (roundTo .fp32 mode false (takeRmode s2).2.1 r)
       landsWord (.fadd o) s u 4 o.d c t (fun v => v = fp (addV down (fpArg x) (fpArg y))) ∧
       landsWord (.fsub o) s u 4 o.d c t (fun v => v = fp (addV down (fpArg x) (negV (fpArg y)))) ∧
       landsWord (.fmul o) s u 4 o.d c t (fun v => v = fp (mulV (fpArg x) (fpArg y)))) ∧
     (dest o.d o.q s2 = .ok (c, t) →
       landsWord (.fmin o) s u 4 o.d c t (fun v => v = wd (roundTo .fp32 1 false 0 (minNum (fpArg x) (fpArg y)))) ∧
       landsWord (.fmax o) s u 4 o.d c t (fun v => v = wd (roundTo .fp32 1 false 0 (maxNum (fpArg x) (fpArg y)))))) ∧
  ((∀ (o : RRF) (s s2 s3 t : State) (u : Issue) (x y z : Word) (c : Option Nat),
     slotRuns o.g u s → readsTwo o.a o.m o.b o.n s x y s2 → source o.d false s2 = .ok (z, s3) →
     dest o.d o.q (takeRmode s3).2.2 = .ok (c, t) →
     let mode := (curCtx s).rmode
     let p := mulV (fpArg x) (fpArg y)
     landsWord (.ffma o) s u 4 o.d c t (fun v =>
       v = wd (roundTo .fp32 mode false (takeRmode s3).2.1
         (addV (mode == 3) (if o.v then negV p else p) (if o.u then negV (fpArg z) else fpArg z))))) ∧
   (∀ (o : RUF) (s s1 t : State) (u : Issue) (x : Word) (c : Option Nat),
     slotRuns o.g u s → source o.a o.m s = .ok (x, s1) → dest o.d o.q (takeRmode s1).2.2 = .ok (c, t) →
     let mode := (curCtx s).rmode
     let draw := (takeRmode s1).2.1
     landsWord (.fcvt o) s u 4 o.d c t (fun v =>
       (o.f = 0 → v = toInt64 (-(2 ^ 63 : Nat)) (2 ^ 63 - 1 : Nat) mode draw (fpArg x)) ∧
       (o.f = 1 → v = toInt64 0 (2 ^ 64 - 1 : Nat) mode draw (fpArg x)) ∧
       (o.f = 2 → v = wd (roundTo .fp32 mode false draw (.fin (decide (x.toInt < 0)) x.toInt.natAbs 0))) ∧
       (o.f = 3 → v = wd (roundTo .fp32 mode false draw (.fin false x.toNat 0))) ∧
       (o.f = 4 → v = wd (roundTo .bf16 mode false draw (fpArg x))) ∧
       (o.f = 5 → v = wd (roundTo .fp32 mode false draw (Fmt.bf16.decode x.toNat))) ∧
       (o.f = 6 → v = wd (roundTo .fp32 1 false 0 (rintVal mode draw (fpArg x))))))) ∧
  (∀ s : State,
     let l := (curCtx s).lfsr
     let r := takeRmode s
     r.1 = (curCtx s).rmode ∧ onlyContexts s r.2.2 ∧ otherContexts (curAgent s) s r.2.2 ∧
     ((curCtx s).rmode = 4 → r.2.1 = (lfsrSteps 32 l).toNat % 2 ^ 32 ∧ curCtx r.2.2 = { curCtx s with lfsr := lfsrSteps 32 l }) ∧
     ((curCtx s).rmode ≠ 4 → r.2.1 = 0 ∧ curCtx r.2.2 = curCtx s)) ∧
  (∀ l : Word, lfsrStep l = if l.getLsbD 0 then (l >>> 1) ^^^ 0xD800000000000000#64 else l >>> 1)

/-- R158, R159, R160, R153, R161, R302, R387, R424: QLEN lands the length of a queue as earlier slots leave it; QCLR empties a
queue at issue and keeps its head and its cells, and does nothing to s0. CSRRD lands the value of a CSR that its core kind
may read; CSRWR puts the write in flight for the next cycle where the entry is RW (and R424 does not deny it); either traps
0x0D where the access is not given. What the CSRs read as after a write takes effect: TVEC, RMODE, SEED, VICSEL, PRED. The
cycle in which a write takes effect is log entry 14 (DEDUCED). -/
def Obligations.QueueAndCsrResult : Prop :=
  ((∀ (o : QLen) (s t : State) (u : Issue) (c : Option Nat), slotRuns o.g u s → dest o.d o.q s = .ok (c, t) →
     landsWord (.qlen o) s u 1 o.d c t (fun v => v.toNat = (if o.a = 0 then 0 else (sregOf (curCtx s) o.a).len) % 2 ^ 64)) ∧
   (∀ (o : QReg) (s : State) (u : Issue), slotRuns o.g u s →
     ∃ t, exec (.qclr o) s = slotDone u t ∧ (o.a = 0 → t = s) ∧
       (o.a ≠ 0 → sregOf (curCtx t) o.a = { sregOf (curCtx s) o.a with
           len := 0, gone := (sregOf (curCtx s) o.a).gone + (sregOf (curCtx s) o.a).len } ∧
         ∀ r : Nat, r ≠ o.a → sregOf (curCtx t) r = sregOf (curCtx s) r))) ∧
  ((∀ (o : CsrRd) (s : State) (u : Issue), slotRuns o.g u s →
     (csrAccess u.ag o.c = .none → slotTraps (.csrrd o) s 0x0D) ∧
     (csrAccess u.ag o.c ≠ .none → ∀ (c : Option Nat) (t : State), dest o.d o.q s = .ok (c, t) →
       landsWord (.csrrd o) s u 1 o.d c t (fun v => v = csrValue s u.ag o.c))) ∧
   (∀ (o : CsrWr) (s t : State) (u : Issue) (x : Word), slotRuns o.g u s → source o.a o.m s = .ok (x, t) →
     (csrAccess u.ag o.c ≠ .rw → slotTraps (.csrwr o) s 0x0D) ∧
     (csrAccess u.ag o.c = .rw → evselDenied s o.c x = false →
       exec (.csrwr o) s = slotDone u (land 1 (.csr o.c x) t)))) ∧
  (∀ (a : Agent) (v : Word) (s : State),
     csrValue (applyCsr a 0x025 v s) a 0x025 = wd (v.toNat % 2 ^ 21 / 4 * 4) ∧
     csrValue (applyCsr a 0x01A v s) a 0x01A = (if v.toNat % 8 ≤ 4 then wd (v.toNat % 8) else 0) ∧
     csrValue (applyCsr a 0x01B v s) a 0x01B = v ∧
     csrValue (applyCsr a 0x043 v s) a 0x043 = wd (v.toNat % 2 ^ 11) ∧
     (∀ k : Nat, k = 2 ∨ k = 4 ∨ k = 6 →
       predOf (ctxOf (applyCsr a 0x019 v s) a) k = v.getLsbD k ∧
       predOf (ctxOf (applyCsr a 0x019 v s) a) (k + 1) = !v.getLsbD k) ∧
     (∀ k : Nat, 8 ≤ k → k < 16 → predOf (ctxOf (applyCsr a 0x019 v s) a) k = predOf (ctxOf s a) k))

/-- R128, R141, R204, R205, R207, R208, R229: Every scalar word, every scalar load and store, and every vector word of the V
slots and vector load and store of the L slot, either takes its trap or keeps everything but its context's scalar queues,
LFSR, counters and what is in flight, and its core's vector queues; of the queues it changes only those it names, and memory
keeps every byte until a store lands. R159, R161: CSRWR traps, with EVDENY counted where R424 denies it, or keeps everything
but the queue it pops, its context's counters and the write that it puts in flight; and the write, when it takes effect,
changes what its register holds and nothing else. That it takes effect for slots of the next cycle is log entry 14 (DEDUCED).
-/
def Obligations.SlotFrame : Prop :=
  (∀ (i : Instr) (n : Named) (s t : State) (u : Issue), scalarNamed i = some n ∨ vectorNamed s i = some n → s.cur = some u →
    exec i s = .next t → (∃ c : Nat, t = slotTrap c s) ∨ keepsRest n u s t) ∧
  (∀ (o : CsrWr) (s t : State) (u : Issue), s.cur = some u → exec (.csrwr o) s = .next t →
    (∃ c : Nat, t = slotTrap c s ∨ t = slotTrap c (noteEvDeny s)) ∨
    (onlyContexts s t ∧ t.cur = s.cur ∧ otherContexts u.ag s t ∧
      (let x := ctxOf s u.ag
       let y := ctxOf t u.ag
       y = { x with sregs := y.sregs, pend := y.pend, evcnt := y.evcnt } ∧
       (∀ r : Nat, r ∉ poppedRegs o.a o.m → sregOf y r = sregOf x r) ∧
       ∃ p : List InFlight, y.pend = x.pend ++ p ∧ ∀ q ∈ p, ∃ v : Word, q.act = .csr o.c v))) ∧
  (∀ (a : Agent) (n : Nat) (v : Word) (s : State),
    let t := applyCsr a n v s
    let x := ctxOf s a
    let y := ctxOf t a
    let w := x.task.world
    (n < 0x030 ∨ 0x033 < n → onlyContexts s t ∧ t.cur = s.cur ∧ otherContexts a s t ∧
      (n = 0x019 → y = { x with preds := y.preds }) ∧ (n = 0x01A → y = { x with rmode := y.rmode }) ∧
      (n = 0x01B → y = { x with seed := y.seed, lfsr := y.lfsr }) ∧ (n = 0x01C → y = { x with vtype0 := y.vtype0 }) ∧
      (n = 0x01D → y = { x with vtype1 := y.vtype1 }) ∧ (n = 0x025 → y = { x with tvec := y.tvec }) ∧
      (0x034 ≤ n → n ≤ 0x037 → y = { x with evsel := y.evsel }) ∧ (n = 0x043 → y = { x with vicsel := y.vicsel })) ∧
    (0x030 ≤ n → n ≤ 0x033 → t = { s with worlds := t.worlds, trans := t.trans } ∧ (n ≠ 0x030 → t.trans = s.trans) ∧
      (∀ k : Nat, k ≠ w → worldOf t k = worldOf s k) ∧
      worldOf t w = { worldOf s w with troot := (worldOf t w).troot, saveBase := (worldOf t w).saveBase
                                       cmplBase := (worldOf t w).cmplBase, slubBase := (worldOf t w).slubBase }))

/-! ## Control (spec/07_scalar_and_control_instructions.md; spec/17_interruption_and_preemption.md) -/

/-- R163, R164, R165: BR and BRL with a true guard complete as taken branches to PC + 4 times their offset, due at t + 3. BRL
also lands in s31, with latency 1, the address of the first bundle in stream order that does not issue because of the branch:
the successor of its last shadow bundle, or its own where none issues. BRI completes as a taken branch to its operand, and
traps 0x07 on one that is not aligned or too large. -/
def Obligations.BranchResult : Prop :=
  ∀ (s : State) (u : Issue),
    (∀ o : Br, slotRuns o.g u s →
      ∃ a : Nat, exec (.br o) s = slotDone u (takeBranch a false false s) ∧
        a < 2 ^ 21 ∧ (a : Int) % (2 ^ 21 : Nat) = ((u.pc : Int) + 4 * sext 22 o.o) % (2 ^ 21 : Nat)) ∧
    (∀ o : Brl, slotRuns o.g u s → ∀ (c : Option Nat) (t : State), dest 31 o.l s = .ok (c, t) →
      let header := peekHeader s u.ag
      ∃ a r : Nat, exec (.brl o) s = slotDone u (takeBranch a false false (landReg 1 31 c (wd r) t)) ∧
        a < 2 ^ 21 ∧ (a : Int) % (2 ^ 21 : Nat) = ((u.pc : Int) + 4 * sext 21 o.o) % (2 ^ 21 : Nat) ∧
        (2 ≤ u.hdr.idle ∨ header u.succ = none → r = u.succ) ∧
        (u.hdr.idle ≤ 1 → ∀ h : Nat × Nat, header u.succ = some h →
          let next := pcMask (u.succ + h.1)
          (u.hdr.idle = 1 ∨ 1 ≤ h.2 ∨ header next = none → r = next) ∧
          (u.hdr.idle = 0 → h.2 = 0 → ∀ k : Nat × Nat, header next = some k → r = pcMask (next + k.1)))) ∧
    (∀ o : SA, slotRuns o.g u s → ∀ (x : Word) (t : State), source o.a o.m s = .ok (x, t) →
      (x.toNat < 2 ^ 21 ∧ x.toNat % 4 = 0 → exec (.bri o) s = slotDone u (takeBranch x.toNat false false t)) ∧
      (2 ^ 21 ≤ x.toNat ∨ x.toNat % 4 ≠ 0 → slotTraps (.bri o) s 0x07)) ∧
    (∀ (a : Nat) (w e : Bool), s.cur = some u →
      (curCtx (takeBranch a w e s)).branch = some ⟨a, u.t + 3, w, e⟩ ∧
      (takeBranch a w e s).cur = some { u with taken := true })

/-- R166, R167, R168, R169: LOOP and LOOPI open a loop, its LC and its stage predicates landing after one cycle, and trap
0x04 in a shadow cycle or while a loop is open; LOOPI.k closes any loop. A loop-end step shifts the stage predicates, starts
a trip while REMAIN is not 0, and goes on at START while a stage within STAGES is set; else the loop closes. -/
def Obligations.LoopResult : Prop :=
  (∀ (s : State) (u : Issue), u.succ < 2 ^ 21 →
     let opens := fun (i : Instr) (t : State) (n st : Nat) => ∃ w : Word,
       exec i s = slotDone u (land 1 (.stage (if n = 0 then 0 else 1)) (land 1 (.lc w) t)) ∧
       lcOpen w = true ∧ lcStages w = st ∧ lcStart w = u.succ ∧ lcRemain w = n - 1
     let free := lcOpen (curCtx s).lc = false ∧ u.shadow = false
     (∀ o : Sys2Proof.Loop, o.s < 8 → slotRuns o.g u s → ∀ (x : Word) (t : State), source o.a o.m s = .ok (x, t) →
       (free → opens (.loop o) t (x.toNat % 2 ^ 32) o.s) ∧ (¬ free → slotTraps (.loop o) s 0x04)) ∧
     (∀ o : LoopI, o.s < 8 → o.c < 2 ^ 16 → slotRuns o.g u s →
       (free → opens (.loopi o) s o.c o.s) ∧ (¬ free → slotTraps (.loopi o) s 0x04)) ∧
     (∀ o : G, slotRuns o.g u s → exec (.loopiK o) s = slotDone u (land 1 (.stage 0) (land 1 (.lc 0) s)))) ∧
  (∀ (stages start remain stage : Nat), stages < 8 → start < 2 ^ 21 → remain < 2 ^ 32 → stage < 256 →
     let r := loopEnd (lcWord stages start remain) stage
     let g := stage * 2 % 256 + (if 0 < remain then 1 else 0)
     if g % 2 ^ (stages + 1) = 0 then r = (0, 0, false)
     else r.1 = g ∧ r.2.2 = true ∧ lcOpen r.2.1 = true ∧ lcStages r.2.1 = stages ∧ lcStart r.2.1 = start ∧
       lcRemain r.2.1 = remain - 1)

/-- R171, R172, R173, R27: IFENCE with nothing outstanding latches the idle half and sets the fence state, and else waits;
IVERIFY needs the fence state, answers (0,1) at once on a range outside NGRAN and else freezes 16 c cycles; BSWAP branches
into the idle half. On a steward core IFENCE has no effect and IVERIFY writes (0,1). -/
def Obligations.CodeChangeResult : Prop :=
  ∀ (s : State) (u : Issue),
    (∀ o : G, slotRuns o.g u s → agTile u.ag = true → agUrgent u.ag = false →
      (idleCopies s = [] → idleYarns s = [] → exec (.ifence o) s = slotDone u (latchIdle u.ag s)) ∧
      (¬ (idleCopies s = [] ∧ idleYarns s = []) → exec (.ifence o) s = slotDone u (beginWait u.ag .fence
        ⟨.ifence (idleCopies s) (idleYarns s), curWord s, 0, 0, curUndo [] none s, false, none⟩ s))) ∧
    (∀ (o : G) (n : Nat), slotRuns o.g u s → u.ag = .steward n → exec (.ifence o) s = slotDone u s) ∧
    (∀ (o : IVer) (x y : Word) (t : State), slotRuns o.g u s → readsTwo o.a o.m o.b o.n s x y t →
      (∀ n : Nat, u.ag = .steward n → landsPair (.iverify o) s u o.p t (fun v => v = false)) ∧
      (agTile u.ag = true → agUrgent u.ag = false →
        ((curCtx s).fence = false → slotTraps (.iverify o) s 0x04) ∧
        ((curCtx s).fence = true →
          let n := (halfDesc (curCtx t) (idleHalf (curCtx t))).ngran
          (y.toNat = 0 ∨ n < x.toNat + y.toNat → landsPair (.iverify o) s u o.p t (fun v => v = false)) ∧
          (0 < y.toNat → x.toNat + y.toNat ≤ n → exec (.iverify o) s = slotDone u (beginWait u.ag .fence
            ⟨.iverify o.p (verifyGranules t u.ag x.toNat y.toNat), curWord t, 0, 0, curUndo [] none t, false,
              some (t.gcyc + 16 * y.toNat)⟩ t))))) ∧
    (∀ o : Bswap, slotRuns o.g u s → (curCtx s).estatH = false → agUrgent u.ag = false →
      ((curCtx s).fence = true →
        exec (.bswap o) s = slotDone u (takeBranch (idleHalf (curCtx s) * halfBytes + 4 * o.o) true false s)) ∧
      ((curCtx s).fence = false → slotTraps (.bswap o) s 0x04))

/-- R174, R394, R393, R96: TRAP and BKPT outside debug mode take trap 0x0E, their own slot done; BKPT in debug mode stops the
core with its slot done; ERET in a handler is a taken branch to FAULTPC, and elsewhere traps 0x0D; with a false guard none
has an effect. TEXIT ends the issue of its task and drops it from its domain; in a handler the suspended state is discarded.
-/
def Obligations.TrapAndExitResult : Prop :=
  (∀ (s : State) (u : Issue), s.cur = some u →
     (∀ o : Code, guardTrue o.g s = true → exec (.trap o) s = .next (slotTrapWith 1 0x0E s) ∧
       (debugMode s u.ag = false → exec (.bkpt o) s = .next (slotTrapWith 1 0x0E s)) ∧
       (debugMode s u.ag = true → exec (.bkpt o) s = .next (stopInBundle false 1 s))) ∧
     (∀ o : G, guardTrue o.g s = true →
       ((curCtx s).estatH = true → exec (.eret o) s = slotDone u (takeBranch (curCtx s).faultPc false true s)) ∧
       ((curCtx s).estatH = false → slotTraps (.eret o) s 0x0D)) ∧
     (∀ o : Code, guardTrue o.g s = false → exec (.trap o) s = .next s ∧ exec (.bkpt o) s = .next s) ∧
     (∀ o : G, guardTrue o.g s = false → exec (.eret o) s = .next s)) ∧
  (∀ (o : G) (s : State) (u : Issue), slotRuns o.g u s →
     ∃ t, exec (.texit o) s = slotDone u t ∧
       (ctxOf t u.ag).texit = true ∧ (ctxOf t u.ag).issuing = false ∧ (ctxOf t u.ag).susp = none ∧
       (ctxOf t u.ag).sregs = (ctxOf s u.ag).sregs ∧ (ctxOf t u.ag).pend = (ctxOf s u.ag).pend ∧
       ((ctxOf s u.ag).task.level ≠ 0 → (ctxOf t u.ag).dropped = true))

/-- R121, R148, R162, R390, R392: Branches, loops, the code-change words, the pooled and atomic words and the M and Y words
that leave the core's tables alone change their own context only, their traps included, but that a trap freezes the cycle of
lockstep siblings; and not its task, vector state, matrix parameters, type and mode registers or trap vector. -/
def Obligations.ContextFrame : Prop :=
  ∀ (i : Instr) (s t : State) (u : Issue), ownContextOnly i = true → s.cur = some u → exec i s = .next t →
    onlyContexts s t ∧ otherButSiblings u.ag s t ∧
    (let x := ctxOf s u.ag
     let y := ctxOf t u.ag
     y.task = x.task ∧ y.vps = x.vps ∧ y.vaccs = x.vaccs ∧ y.mps = x.mps ∧ y.vtype0 = x.vtype0 ∧ y.vtype1 = x.vtype1 ∧
      y.rmode = x.rmode ∧ y.seed = x.seed ∧ y.lfsr = x.lfsr ∧ y.tvec = x.tvec ∧ y.evsel = x.evsel ∧ y.image = x.image ∧
      y.ktab = x.ktab ∧ y.mstream = x.mstream)

/-! ## Loads, stores and atomics (spec/09_spool_yarns_and_cluster_memory.md; spec/04_launch_and_scheduling.md) -/

/-- R204, R197, R198, R76, R126, R393: On a tile core outside a handler, a scalar load of a held Spool address that is
aligned lands the little-endian number there, sign- or zero-extended, at t + 2 + d, d the ring distance from the block to the
L slot's station. A scalar store reads its data register, then its address, and performs in its issue cycle at the address
that its base and scaled immediate give. A scalar load or store traps 0x0D in a handler, 0x09 outside the Spool or on a block
that is not held, and 0x07 on an address that is not aligned. On a steward core loads and stores reach its local store of
2^17 bytes; a load lands at t + 2. -/
def Obligations.LoadStoreResult : Prop :=
  (∀ (o : RI) (s t : State) (u : Issue) (x : Word) (c : Option Nat),
     slotRuns o.g u s → agTile u.ag = true → (curCtx s).estatH = false → readsOne o.a o.m o.d o.q s x c t →
     let m := (coreOf s (agIdx u.ag)).spool
     let loads := fun (i : Instr) (n : Nat) (P : Nat → Word → Prop) => ∀ a : Nat,
       a = (addInt x (sext 10 o.i * n)).toNat → a < 0x1400000 → a % n = 0 →
       heldBlock (curCtx s).task (a / 0x140000) = true →
       landsWord i s u (2 + ringDist (blockPos (a / 0x140000)) (stationPos 1)) o.d c t (P (memNat m a n))
     loads (.ldb o) 1 (fun k v => v.toInt = sext 8 k) ∧ loads (.ldbu o) 1 (fun k v => v.toNat = k) ∧
     loads (.ldh o) 2 (fun k v => v.toInt = sext 16 k) ∧ loads (.ldhu o) 2 (fun k v => v.toNat = k) ∧
     loads (.ldw o) 4 (fun k v => v.toInt = sext 32 k) ∧ loads (.ldwu o) 4 (fun k v => v.toNat = k) ∧
     loads (.ldd o) 8 (fun k v => v.toNat = k)) ∧
  (∀ (o : RI) (s t : State) (u : Issue) (v x : Word),
     slotRuns o.g u s → agTile u.ag = true → (curCtx s).estatH = false → readsTwo o.d o.q o.a o.m s v x t →
     let stores := fun (i : Instr) (n : Nat) => ∀ a : Nat,
       a = (addInt x (sext 10 o.i * n)).toNat → a < 0x1400000 → a % n = 0 →
       heldBlock (curCtx s).task (a / 0x140000) = true →
       exec i s = slotDone u (landAt u.t (.store .spool (cellsAt a (leBytes n v.toNat))) t)
     stores (.stb o) 1 ∧ stores (.sth o) 2 ∧ stores (.stw o) 4 ∧ stores (.std o) 8) ∧
  (∀ (o : RI) (s t : State) (u : Issue), slotRuns o.g u s → agTile u.ag = true →
     let both := fun (l st : Instr) (n : Nat) =>
       ((curCtx s).estatH = true → slotTraps l s 0x0D ∧ slotTraps st s 0x0D) ∧
       ((curCtx s).estatH = false → ∀ (cause : Nat) (x : Word),
         (let a := (addInt x (sext 10 o.i * n)).toNat
          if 0x1400000 ≤ a then cause = 0x09 else if a % n ≠ 0 then cause = 0x07
          else cause = 0x09 ∧ heldBlock (curCtx s).task (a / 0x140000) = false) →
         (source o.a o.m s = .ok (x, t) → slotTraps l s cause) ∧
         (∀ v : Word, readsTwo o.d o.q o.a o.m s v x t → slotTraps st s cause))
     both (.ldb o) (.stb o) 1 ∧ both (.ldbu o) (.stb o) 1 ∧ both (.ldh o) (.sth o) 2 ∧ both (.ldhu o) (.sth o) 2 ∧
     both (.ldw o) (.stw o) 4 ∧ both (.ldwu o) (.stw o) 4 ∧ both (.ldd o) (.std o) 8) ∧
  (∀ (o : RI) (s t : State) (u : Issue) (k : Nat), slotRuns o.g u s → u.ag = .steward k → (curCtx s).estatH = false →
     let m := tabGet [] s.stewMem k
     let fits := fun (x : Word) (a n : Nat) => a = (addInt x (sext 10 o.i * n)).toNat ∧ a < 2 ^ 17 ∧ a % n = 0
     let loads := fun (i : Instr) (n : Nat) (P : Nat → Word → Prop) => ∀ (x : Word) (c : Option Nat) (a : Nat),
       readsOne o.a o.m o.d o.q s x c t → fits x a n → landsWord i s u 2 o.d c t (P (memNat m a n))
     let stores := fun (i : Instr) (n : Nat) => ∀ (v x : Word) (a : Nat),
       readsTwo o.d o.q o.a o.m s v x t → fits x a n →
       exec i s = slotDone u (landAt u.t (.store .spool (cellsAt a (leBytes n v.toNat))) t)
     loads (.ldb o) 1 (fun k v => v.toInt = sext 8 k) ∧ loads (.ldbu o) 1 (fun k v => v.toNat = k) ∧
     loads (.ldh o) 2 (fun k v => v.toInt = sext 16 k) ∧ loads (.ldhu o) 2 (fun k v => v.toNat = k) ∧
     loads (.ldw o) 4 (fun k v => v.toInt = sext 32 k) ∧ loads (.ldwu o) 4 (fun k v => v.toNat = k) ∧
     loads (.ldd o) 8 (fun k v => v.toNat = k) ∧
     stores (.stb o) 1 ∧ stores (.sth o) 2 ∧ stores (.stw o) 4 ∧ stores (.std o) 8)

/-- R199, R201, R205, R206, R207, R209: LDS and STS reach the task's spill window, as far as its profile's part of the store
goes; LDK lands eight decrypted bytes of the constant table, which holds the const section from its first byte on whatever
the section's TARGET is (log entry 95, DEDUCED). LDC, STC and LATOM put their access in flight: on pooled memory it
arbitrates from the issue cycle on, and LATOM on the Spool performs at t + 3 and lands its old word at t + 4 + d. -/
def Obligations.SpillConstantPooledResult : Prop :=
  ((∀ (o : RL) (s t : State) (u : Issue) (c : Option Nat), slotRuns o.g u s → o.i * 8 + 8 ≤ spillSize (curCtx s).task →
     let p := (if (curCtx s).task.urgent then 0x70000 else 0) + o.i * 8
     (dest o.d o.q s = .ok (c, t) →
       landsWord (.lds o) s u 1 o.d c t (fun v => v.toNat = memNat (coreOf s (agIdx u.ag)).spill p 8)) ∧
     (∀ x : Word, source o.d o.q s = .ok (x, t) →
       exec (.sts o) s = slotDone u (landAt u.t (.store .spill (cellsAt p (leBytes 8 x.toNat))) t))) ∧
   (∀ (o : RI) (s t : State) (u : Issue) (x : Word) (c : Option Nat),
     slotRuns o.g u s → readsOne o.a o.m o.d o.q s x c t →
     let p := (addInt x (sext 10 o.i * 8)).toNat
     (curCtx s).image.csid ≠ 0 → p < (curCtx s).image.kbytes → p % 8 = 0 →
     landsWord (.ldk o) s u 6 o.d c t (fun v =>
       v = wd (bytesNat (sectionOpen (curCtx s).image.kenc (curCtx s).image.nonce (curCtx s).image.csid p
         (toNats (memBytes (curCtx s).ktab p 8))))))) ∧
  ((∀ (o : RI) (s t t1 : State) (u : Issue) (v x : Word) (k : Nat),
     slotRuns o.g u s → agTile u.ag = true →
     k = (addInt x (sext 10 o.i * 8)).toNat →
     k < (allocOf s (clusterOfCore (agIdx u.ag)) (curCtx s).task).length * 983040 → k % 8 = 0 →
     (source o.a o.m s = .ok (x, t) → ldcPoison t k = false → ∀ c : Option Nat, dest o.d o.q t = .ok (c, t1) →
       exec (.ldc o) s = slotDone u (landAt u.t (.ldc k o.d (c.getD 4)
         (curUndo (popped o.a o.m x) (grown (curCtx t) o.d o.q c) t)) t1)) ∧
     (readsTwo o.d o.q o.a o.m s v x t → exec (.stc o) s = slotDone u (landAt u.t (.stc k v) t))) ∧
   (∀ (o : Latom) (s s2 s3 t : State) (u : Issue) (x y z : Word) (c : Option Nat),
     slotRuns o.g u s → agTile u.ag = true → readsTwo o.a o.m o.b o.n s x y s2 →
     (if o.o = 7 then source o.d false s2 = .ok (z, s3) else z = 0 ∧ s3 = s2) → dest o.d o.q s3 = .ok (c, t) →
     (o.p = true → x.toNat < (allocOf s (clusterOfCore (agIdx u.ag)) (curCtx s).task).length * 983040 → x.toNat % 8 = 0 →
       exec (.latom o) s = slotDone u (landAt u.t (.latomPool x.toNat o.o y z o.d (c.getD 4)
         (curUndo (popped o.a o.m x ++ popped o.b o.n y) (grown (curCtx s3) o.d o.q c) s3)) t)) ∧
     (o.p = false → (curCtx s).estatH = false → x.toNat < 0x1400000 → x.toNat % 8 = 0 →
       heldBlock (curCtx s).task (x.toNat / 0x140000) = true →
       exec (.latom o) s = slotDone u (land 3 (.latom x.toNat o.o y z o.d (c.getD 4)
         (1 + ringDist (blockPos (x.toNat / 0x140000)) (stationPos 1))) t))))

/-- R197, R208, R210, R211: The vector loads and stores and the gang network: a VLD lands at t + 2 + d, a VST or VSTM
performs at t + d, a spill access takes one cycle, SENDT delivers at t + 8, and RECVT lands the vector that the network
delivers. -/
def Obligations.VectorMemoryResult : Prop :=
  ∀ (s t t1 : State) (u : Issue), agTile u.ag = true →
    let task := (curCtx s).task
    let at_ := fun (x : Word) (i k : Nat) => (addInt x (sext 8 i * k)).toNat
    let inSpool := fun (a : Nat) => a + 256 ≤ 0x1400000 ∧ a / 0x140000 = (a + 255) / 0x140000 ∧
      heldBlock task (a / 0x140000) = true
    let free := (curCtx s).estatH = false
    (∀ (o : VLd) (x : Word) (c : Nat), slotRuns o.g u s → free → source o.a o.m s = .ok (x, t) →
      let a := at_ x o.i 64
      inSpool a → a % 64 = 0 → vdest o.t t = .ok (c, t1) →
      exec (.vld o) s = slotDone u (land (2 + ringDist (blockPos (a / 0x140000)) (stationPos (fileStation (routeFile o.t))))
        (.vreg (routeFile o.t) (routeQueue o.t) c (vecOfBytes (memBytes (coreOf s (agIdx u.ag)).spool a 256))) t1)) ∧
    (∀ (o : VSt) (v : Vec) (x : Word), slotRuns o.g u s → free → vsource .vst o.s o.q s = .ok (v, t) →
      source o.a o.m t = .ok (x, t1) →
      let a := at_ x o.i 64
      inSpool a → a % 64 = 0 →
      exec (.vst o) s = slotDone u (land (ringDist (blockPos (a / 0x140000)) (stationPos 4))
        (.store .spool (cellsAt a (vecBytes v))) t1)) ∧
    (∀ (o : VStM) (v : Vec) (x : Word), slotRuns o.g u s → free → vsource .vst o.s o.q s = .ok (v, t) →
      source o.a o.m t = .ok (x, t1) →
      let a := at_ x o.i 1
      inSpool a →
      exec (.vstm o) s = slotDone u (land (ringDist (blockPos (a / 0x140000)) (stationPos 4))
        (.store .spool (maskedCells (vpOf (curCtx s) o.p) a (vecBytes v))) t1)) ∧
    (let base := fun (i : Nat) => (if task.urgent then 0x70000 else 0) + i * 256
     (∀ (o : VLdS) (c : Nat), slotRuns o.g u s → o.i * 256 + 256 ≤ spillSize task → vdest o.t s = .ok (c, t) →
       exec (.vlds o) s = slotDone u (land 1 (.vreg (routeFile o.t) (routeQueue o.t) c
         (vecOfBytes (memBytes (coreOf s (agIdx u.ag)).spill (base o.i) 256))) t)) ∧
     (∀ (o : VStS) (v : Vec), slotRuns o.g u s → o.i * 256 + 256 ≤ spillSize task → vsource .vst o.s o.q s = .ok (v, t) →
       exec (.vsts o) s = slotDone u (landAt u.t (.store .spill (cellsAt (base o.i) (vecBytes v))) t))) ∧
    (∀ (o : SendT) (v : Vec), slotRuns o.g u s → free → task.timed = true → vsource .vst o.s o.q s = .ok (v, t) →
      exec (.sendt o) s = slotDone u (land 8 (.sendt o.c v) t)) ∧
    (∀ (o : RecvT) (v : Vec) (c : Nat), slotRuns o.g u s → free → task.timed = true →
      (curCtx s).inbox.find? (fun p => p.1 = o.f) = some (o.f, v) →
      vdest o.t (modCur s (fun x => { x with inbox := x.inbox.filter (fun q => q.1 != o.f) })) = .ok (c, t) →
      exec (.recvt o) s = slotDone u (land 1 (.vreg (routeFile o.t) (routeQueue o.t) c v) t))

/-- R2, R75, R76, R196: A store that performs writes exactly its cells, in the Spool and spill store of a tile core and in the
local store of a steward core: on a memory in canonical form every byte it names reads as the
byte stored, every other as before, and the form is kept. -/
def Obligations.StorePerforms : Prop :=
  ∀ (a : Agent) (p n : Nat) (l : List Byte) (s : State), agTile a = true → l.length = n →
    let k := coreOf s (agIdx a)
    let spool := (coreOf (performStore a .spool (cellsAt p l) s) (agIdx a)).spool
    let spill := (coreOf (performStore a .spill (cellsAt p l) s) (agIdx a)).spill
    (Memory.wf k.spool = true → Memory.wf spool = true ∧
      (∀ i : Nat, i < n → memGet spool (p + i) = l.getD i 0) ∧
      ∀ b : Nat, b < p ∨ p + n ≤ b → memGet spool b = memGet k.spool b) ∧
    (Memory.wf k.spill = true → Memory.wf spill = true ∧
      (∀ i : Nat, i < n → memGet spill (p + i) = l.getD i 0) ∧
      ∀ b : Nat, b < p ∨ p + n ≤ b → memGet spill b = memGet k.spill b) ∧
    ∀ u : Nat, Memory.wf (tabGet [] s.stewMem u) = true →
      let t := performStore (.steward u) .spool (cellsAt p l) s
      Memory.wf (tabGet [] t.stewMem u) = true ∧
      (∀ i : Nat, i < n → memGet (tabGet [] t.stewMem u) (p + i) = l.getD i 0) ∧
      (∀ b : Nat, b < p ∨ p + n ≤ b → memGet (tabGet [] t.stewMem u) b = memGet (tabGet [] s.stewMem u) b) ∧
      (∀ v : Nat, v ≠ u → tabGet [] t.stewMem v = tabGet [] s.stewMem v) ∧ t.cores = s.cores ∧ t.ctxs = s.ctxs

/-! ## Vector instructions (spec/10_vector_instructions.md) -/

/-- R229, R232, R233, R234, R238, R240, R242, R247: The two-source lane instructions complete: in every lane that the
predicate governs stands the operation on the lanes of a and b, and zero in the others; a rounding takes the draw of its
lane. -/
def Obligations.VectorTwoSource : Prop :=
  ∀ (o : VAB) (s t : State) (u : Issue) (x y : Vec),
    slotRuns o.g u s → readsV2 o.a o.m o.b o.n o.t s x y t →
    let ty := curVType s
    let m := vpOf (curCtx s) o.l
    let a := elem ty.w x.toNat
    let b := elem ty.w y.toNat
    let lands := fun (i : Instr) (L draws : Nat) (f : List Nat → Nat → Nat) =>
      landsLanes i s u L o.t ty false ty.w (takeDraws ty.mode draws t).2 (lanesAre ty m (f (takeDraws ty.mode draws t).1))
    lands (.vadd o) 3 (laneDraws ty) (fun d i => arithLane ty (· + ·) addV (a i) (b i) (drawAt d i)) ∧
    lands (.vsub o) 3 (laneDraws ty) (fun d i =>
      arithLane ty (· - ·) (fun r p q => addV r p (negV q)) (a i) (b i) (drawAt d i)) ∧
    lands (.vmul o) 4 (laneDraws ty) (fun d i => arithLane ty (· * ·) (fun _ p q => mulV p q) (a i) (b i) (drawAt d i)) ∧
    lands (.vmin o) 3 0 (fun _ i => minMaxLane ty false (a i) (b i)) ∧
    lands (.vmax o) 3 0 (fun _ i => minMaxLane ty true (a i) (b i)) ∧
    lands (.vand o) 3 0 (fun _ i => a i &&& b i) ∧
    lands (.vor o) 3 0 (fun _ i => a i ||| b i) ∧
    lands (.vxor o) 3 0 (fun _ i => a i ^^^ b i) ∧
    lands (.vandn o) 3 0 (fun _ i => a i &&& (2 ^ ty.w - 1 - b i)) ∧
    lands (.vfsl o) 3 0 (fun _ i => (a i * 2 ^ ty.w + b i) * 2 ^ ty.shift / 2 ^ ty.w % 2 ^ ty.w) ∧
    lands (.vfsr o) 3 0 (fun _ i => (a i * 2 ^ ty.w + b i) / 2 ^ ty.shift % 2 ^ ty.w) ∧
    lands (.vperm o) 5 0 (fun _ i => if b i < ty.nl then a (b i) else 0) ∧
    landsLanes (.vsel o) s u 3 o.t ty false ty.w (takeDraws ty.mode 0 t).2 (fun l => l.length = ty.nl ∧
      ∀ i : Nat, i < ty.nl → l.getD i 0 = if governs m ty.w i then a i else b i)

/-- R229, R234, R238, R239, R247, R248, R249: The one-source lane instructions complete. The shifts, rotation, broadcast and
extraction take their count from their immediate, or from b. The value that VEXP2 and VLOG2 round is computed to 300 bits
(log entry 16, UNVERIFIED): that this rounds as the exact value does is the model's. -/
def Obligations.VectorOneSource : Prop :=
  (∀ (o : VA) (s t : State) (u : Issue) (x : Vec),
     slotRuns o.g u s → readsV1 o.a o.m o.t s x t →
     let ty := curVType s
     let m := vpOf (curCtx s) o.l
     let a := elem ty.w x.toNat
     let plain := fun (i : Instr) (L : Nat) (f : Nat → Nat) =>
       landsLanes i s u L o.t ty false ty.w (takeDraws ty.mode 0 t).2 (lanesAre ty m f)
     let rounds := fun (i : Instr) (f : Val → Val) => landsLanes i s u 8 o.t ty false ty.w (takeDraws ty.mode ty.nl t).2
       (lanesAre ty m (fun k => ty.elem.round ty.mode ty.sat (drawAt (takeDraws ty.mode ty.nl t).1 k) (f (ty.elem.val (a k)))))
     plain (.vabs o) 3 (fun i => absLane ty (a i)) ∧
     plain (.vneg o) 3 (fun i => negLane ty (a i)) ∧
     plain (.vclz o) 3 (fun i => clzFrom (a i) ty.w) ∧
     plain (.vpopc o) 3 (fun i => popCount (a i) ty.w) ∧
     plain (.vunpk o) 5 (fun i =>
       if ty.u then elem ty.field x.toNat i else intCode ty.w (sext ty.field (elem ty.field x.toNat i))) ∧
     (ty.isFloat = true →
       rounds (.vexp2 o) exp2V ∧ rounds (.vlog2 o) log2V ∧ rounds (.vrcp o) rcpV ∧ rounds (.vrsq o) rsqV) ∧
     (dstScalar o.t = false → landsLanes (.vpack o) s u 5 o.t ty false ty.field t (fun l => l.length = ty.nl ∧
       ∀ i : Nat, i < ty.nl → l.getD i 0 = if governs m ty.w i then a i % 2 ^ ty.field else 0))) ∧
  (∀ (s t : State) (u : Issue) (x : Vec) (b : Option Nat),
     let ty := curVType s
     let a := elem ty.w x.toNat
     let reads := fun (g qa : Nat) (m : Bool) (qb : Nat) (n : Bool) (dst : Nat) (imm : Bool) =>
       slotRuns g u s ∧ (if imm then b = none ∧ readsV1 qa m dst s x t
         else ∃ y : Vec, b = some y.toNat ∧ readsV2 qa m qb n dst s x y t)
     (∀ o : VABI, reads o.g o.a o.m o.b o.n o.t o.i →
       let m := vpOf (curCtx s) o.l
       let imm := o.n.toNat * 16 + o.b
       let count := fun (i : Nat) => match b with | none => imm | some v => elem ty.w v i
       let k := (match b with | none => imm | some v => elem ty.w v 0) % ty.nl
       landsLanes (.vshl o) s u 3 o.t ty false ty.w t (lanesAre ty m (fun i =>
         if ty.w ≤ count i then 0 else a i * 2 ^ count i % 2 ^ ty.w)) ∧
       landsLanes (.vshr o) s u 3 o.t ty false ty.w t (lanesAre ty m (fun i =>
         if ty.w ≤ count i then 0 else a i / 2 ^ count i)) ∧
       landsLanes (.vsra o) s u 3 o.t ty false ty.w t (lanesAre ty m (fun i =>
         intCode ty.w (sext ty.w (a i) / (2 ^ min (count i) ty.w : Nat)))) ∧
       landsLanes (.vbcast o) s u 3 o.t ty false ty.w t (lanesAre ty m (fun _ => a k)) ∧
       landsLanes (.vextr o) s u 3 o.t ty false ty.w t (lanesAre ty m (fun i => if i = 0 then a k else 0))) ∧
     (∀ o : VABUI, reads o.g o.a o.m o.b o.n o.t o.i →
       let k := (match b with | none => o.n.toNat * 16 + o.b | some v => elem ty.w v 0) % ty.nl
       landsLanes (.vrot o) s u 5 o.t ty false ty.w t (lanesAre ty (vpOf (curCtx s) o.l) (fun i =>
         if o.u then a ((i + ty.nl - k) % ty.nl) else a ((i + k) % ty.nl)))))

/-- R190, R191, R245, R246: The reductions and the scan complete with the result of each group of lanes, the lanes that the
predicate does not govern entering as the identity. That a NaN which VRMAX or VRMIN yields is the canonical one in a group of
one lane too is log entry 15 (DEDUCED). -/
def Obligations.VectorGroups : Prop :=
  ∀ (o : VA) (s t : State) (u : Issue) (x : Vec),
    slotRuns o.g u s → readsV1 o.a o.m o.t s x t →
    let ty := curVType s
    let m := vpOf (curCtx s) o.l
    let lands := fun (i : Instr) (zx : Bool) (L draws : Nat) (f : List Nat → List Nat) =>
      landsLanes i s u L o.t ty zx ty.w (takeDraws ty.mode draws t).2 (fun l => l = f (takeDraws ty.mode draws t).1)
    let groups := fun (ident : Nat) (f : Nat → Nat) => groupsOf ty m x.toNat ident f
    lands (.vrmax o) false 6 0 (fun _ => padLanes ty ((groups (extremeLane ty true) id).map (extremeGroup ty true))) ∧
    lands (.vrmin o) false 6 0 (fun _ => padLanes ty ((groups (extremeLane ty false) id).map (extremeGroup ty false))) ∧
    lands (.vramax o) true 6 0 (fun _ => padLanes ty ((groups 0 (magLane ty)).map (ramaxGroup ty))) ∧
    lands (.vradd o) false 6 (treeDraws ty) (fun d => padLanes ty (eachGroup (fun g ds =>
      ([(treeSum ty (log2p ty.group) g ds).1], (treeSum ty (log2p ty.group) g ds).2)) (groups (zeroIdentity ty) id) d)) ∧
    lands (.vscan o) false 7 (scanDraws ty) (fun d =>
      zeroFalse m ty.w (eachGroup (scanGroup ty (log2p ty.group) 1) (groups (zeroIdentity ty) id) d))

/-- R181, R243, R244: The conversions complete. VQNT and VDQNT, of a float type and a narrow format, scale lane i by the
block scale of its 32 lanes; a lane whose scale is -128 is zero. -/
def Obligations.VectorConvert : Prop :=
  (∀ (o : VAR) (s t : State) (u : Issue) (x : Vec), slotRuns o.g u s → readsV1 o.a o.m o.t s x t → dstScalar o.t = false →
    let ty := curVType s
    let src := if o.r then ty.conv else ty.elem
    let dst := if o.r then ty.elem else ty.conv
    let n := 2048 / max src.width dst.width
    landsLanes (.vcvt o) s u 4 o.t ty false dst.width (takeDraws ty.mode n t).2 (fun l => l.length = n ∧
      ∀ i : Nat, i < n → l.getD i 0 = if governs (vpOf (curCtx s) o.l) (max src.width dst.width) i then
        dst.round ty.mode ty.sat (drawAt (takeDraws ty.mode n t).1 i) (src.val (elem src.width x.toNat i)) else 0)) ∧
  (∀ (o : VAB) (s t : State) (u : Issue) (x y : Vec), slotRuns o.g u s → readsV2 o.a o.m o.b o.n o.t s x y t →
    let ty := curVType s
    let d := takeDraws ty.mode ty.nl t
    let gov := governs (vpOf (curCtx s) o.l) ty.w
    ty.isFloat = true → 1 ≤ ty.ct → ty.ct ≤ 7 →
    (dstScalar o.t = false → landsLanes (.vqnt o) s u 6 o.t ty false ty.conv.width d.2 (fun l => l.length = ty.nl ∧
      ∀ i : Nat, i < ty.nl → l.getD i 0 = if gov i ∧ blockScale y.toNat i ≠ -128 then
        ty.conv.round ty.mode ty.sat (drawAt d.1 i) (scaleV (-(blockScale y.toNat i)) (ty.elem.val (elem ty.w x.toNat i)))
      else 0)) ∧
    landsLanes (.vdqnt o) s u 4 o.t ty false ty.w d.2 (lanesAre ty (vpOf (curCtx s) o.l) (fun i =>
      if blockScale y.toNat i = -128 then 0
      else ty.elem.round ty.mode ty.sat (drawAt d.1 i)
        (scaleV (blockScale y.toNat i) (ty.conv.val (elem ty.conv.width x.toNat i))))))

/-- R235, R236, R237, R241: VFMA and VFMS leave new accumulator lanes in flight with latency 5; VACCR reads half an
accumulator, with Z zeroing all of it at t + 1; VCMP writes a pair of lane predicates with latency 3. -/
def Obligations.VectorAccumulate : Prop :=
  (∀ (o : VAB) (s t : State) (u : Issue) (x y : Vec) (neg : Bool),
    slotRuns o.g u s → qHeld o.a s = true → qHeld o.b s = true →
    (∃ s1, vsource (fileA s) o.a o.m s = .ok (x, s1) ∧ vsource (fileB s1) o.b o.n s1 = .ok (y, t)) →
    let ty := curVType s
    let n := fmaLanes ty
    let d := takeDraws ty.mode (if ty.isFloat then n else 0) t
    let m := vpOf (curCtx s) o.l
    let acc := (vaccOf (curCtx s) (curUnit s) (o.t % 4)).toNat
    exec (if neg then .vfms o else .vfma o) s = slotDone u (land 5 (.vacc (curUnit s) (o.t % 4)
      (BitVec.ofNat 128 (joinElems 1 ((List.range n).map (fun i => (fmaWrites ty m i).toNat))))
      (BitVec.ofNat 4096 (joinElems 32 ((List.range n).map (fun i => fmaLane ty m neg x.toNat y.toNat acc i (drawAt d.1 i))))))
      d.2)) ∧
  (∀ (o : VAccR) (s : State) (u : Issue), slotRuns o.g u s → routeHeld o.t s = true →
    let acc := (vaccOf (curCtx s) (curUnit s) o.k).toNat
    let v := lanesVec 32 (zeroFalse (vpOf (curCtx s) o.l) 32 ((List.range 64).map (fun i => elem 32 acc (64 * o.h.toNat + i))))
    let zeroed := fun (t : State) => if o.z then land 1 (.vacc (curUnit s) o.k (BitVec.allOnes 128) 0) t else t
    (dstAcc o.t = true → exec (.vaccr o) s = slotDone u (zeroed s)) ∧
    (dstAcc o.t = false → ∀ (c : Nat) (t : State), vdest o.t s = .ok (c, t) →
      exec (.vaccr o) s = slotDone u (zeroed (land 3 (.vreg (routeFile o.t) (routeQueue o.t) c v) t)))) ∧
  (∀ (o : VABC) (s t : State) (u : Issue) (x y : Vec), slotRuns o.g u s → qHeld o.a s = true → qHeld o.b s = true →
    (∃ s1, vsource (fileA s) o.a o.m s = .ok (x, s1) ∧ vsource (fileB s1) o.b o.n s1 = .ok (y, t)) →
    let ty := curVType s
    let cs := (List.range ty.nl).map (fun i => (governs (vpOf (curCtx s) o.l) ty.w i,
      vcmpLane ty o.c (elem ty.w x.toNat i) (elem ty.w y.toNat i)))
    exec (.vcmp o) s = slotDone u (land 3 (.vp (o.t % 8 + 1) (predLanes ty.w (cs.map (fun p => p.1 && !p.2))))
      (land 3 (.vp (o.t % 8) (predLanes ty.w (cs.map (fun p => p.1 && p.2)))) t)))

/-- R23, R226, R227, R229, R230, R250, R251: Lane-predicate logic lands after one cycle; VPCNT pushes the number of true
lanes, or the first of them; VIOTA lands the lane numbers. Where a vector result goes: a queue of the routed file, in the
cell that Dest chose; a scalar register, pushed, which takes lane 0: sign-extended for a signed integer type,
zero-extended for an unsigned one, for a floating type, and for VRAMAX; and the traps of a vector slot: 0x01 on a type it does not accept, then 0x09
on a queue outside the profile. -/
def Obligations.VectorPredicatesAndRouting : Prop :=
  ((∀ (o : VPLog) (s : State) (u : Issue), slotRuns o.g u s →
     let a := vpOf (curCtx s) o.a
     let b := if o.n then ~~~vpOf (curCtx s) o.b else vpOf (curCtx s) o.b
     let lands := fun (i : Instr) (v : W256) => exec i s = slotDone u (land 1 (.vp (o.t % 8) v) s)
     lands (.vpand o) (a &&& b) ∧ lands (.vpor o) (a ||| b) ∧ lands (.vpxor o) (a ^^^ b)) ∧
   (∀ (o : VPSet) (s : State) (u : Issue), slotRuns o.g u s →
     ∃ v : W256, exec (.vpset o) s = slotDone u (land 1 (.vp (o.t % 8) v) s) ∧ ∀ i : Nat, i < 256 → v.getLsbD i = o.v) ∧
   (∀ (o : VPCnt) (s t : State) (u : Issue) (c : Option Nat), slotRuns o.g u s → dest (o.t % 32) true s = .ok (c, t) →
     let ty := curVType s
     let l := (List.range ty.nl).filter (fun i => governs (vpOf (curCtx s) o.a) ty.w i)
     landsWord (.vpcnt o) s u 3 (o.t % 32) c t (fun v => v = wd (if o.x = 0 then l.length else l.headD ty.nl))) ∧
   (∀ (o : VT) (s t : State) (u : Issue) (c : Nat), slotRuns o.g u s → routeHeld o.t s = true → vdest o.t s = .ok (c, t) →
     let ty := curVType s
     ∃ l : List Nat, exec (.viota o) s = slotDone u (land 3 (.vreg (routeFile o.t) (routeQueue o.t) c (lanesVec ty.w l)) t) ∧
       l.length = ty.nl ∧ ∀ i : Nat, i < ty.nl → l.getD i 0 = if governs (vpOf (curCtx s) o.l) ty.w i then
         (match ty.elem with | .int w _ => i % 2 ^ w | .flt f => roundTo f 0 false 0 (.fin false i 0)) else 0)) ∧
  ((∀ (L d : Nat) (ty : VType) (zx : Bool) (w : Nat) (l : List Nat) (s : State),
     (dstScalar d = true → ∀ (c : Option Nat) (t : State), dest (d % 32) true s = .ok (c, t) →
       ∃ v : Word, routeLanes L d ty zx w l s = .ok (landReg L (d % 32) c v t) ∧
         (ty.et ≤ 2 → zx = false → ty.u = false → v.toInt = sext ty.w (l.getD 0 0)) ∧
         (ty.et ≤ 2 → zx = false → ty.u = true → v.toNat = l.getD 0 0 % 2 ^ ty.w) ∧
         (3 ≤ ty.et ∨ zx = true → v.toNat = l.getD 0 0 % 2 ^ 64)) ∧
     (dstScalar d = false → ∀ (c : Nat) (t : State), vdest d s = .ok (c, t) →
       routeLanes L d ty zx w l s = .ok (land L (.vreg (routeFile d) (routeQueue d) c (lanesVec w l)) t))) ∧
   (∀ (o : VAB) (s : State) (u : Issue), slotRuns o.g u s →
     ((curVType s).isFloat = false → slotTraps (.vqnt o) s 0x01 ∧ slotTraps (.vdqnt o) s 0x01) ∧
     (qHeld o.a s = false ∨ qHeld o.b s = false ∨ routeHeld o.t s = false →
       slotTraps (.vadd o) s 0x09 ∧ slotTraps (.vmul o) s 0x09 ∧ slotTraps (.vperm o) s 0x09)) ∧
   (∀ (o : VA) (s : State) (u : Issue), slotRuns o.g u s → (curVType s).isFloat = false →
     slotTraps (.vexp2 o) s 0x01 ∧ slotTraps (.vlog2 o) s 0x01 ∧ slotTraps (.vrcp o) s 0x01 ∧ slotTraps (.vrsq o) s 0x01))

/-- R155, R232, R234, R240: Integer lanes: an 8-, 16- or 32-bit sum, difference or product wraps, or with SAT stays within the
range of the type; the smaller or larger of two lanes is one of the two, by their values in the type. A funnel shift by the
whole width yields b to the left and a to the right, and one by 0 yields a to the left and b to the right. The canonical NaN
is the result of FADD, FSUB and FMUL on a NaN operand, of the sum of opposite infinities and of zero times infinity, in every
rounding mode. -/
def Obligations.LaneArithmetic : Prop :=
  (∀ (ty : VType) (a b d : Nat), ty.et ≤ 2 → a < 2 ^ ty.w → b < 2 ^ ty.w →
     let p := intOf ty.w ty.u a
     let q := intOf ty.w ty.u b
     let lo : Int := if ty.u then 0 else -(2 ^ (ty.w - 1) : Nat)
     let hi : Int := if ty.u then (2 ^ ty.w : Nat) - 1 else (2 ^ (ty.w - 1) : Nat) - 1
     ∀ (f : Int → Int → Int) (g : Bool → Val → Val → Val),
       (ty.sat = false → (arithLane ty f g a b d : Int) = f p q % (2 ^ ty.w : Nat)) ∧
       (ty.sat = true → lo ≤ f p q → f p q ≤ hi → (arithLane ty f g a b d : Int) = f p q % (2 ^ ty.w : Nat)) ∧
       (ty.sat = true → f p q < lo → (arithLane ty f g a b d : Int) = lo % (2 ^ ty.w : Nat)) ∧
       (ty.sat = true → hi < f p q → (arithLane ty f g a b d : Int) = hi % (2 ^ ty.w : Nat)) ∧
       minMaxLane ty false a b = (if q < p then b else a) ∧ minMaxLane ty true a b = (if p < q then b else a)) ∧
  (∀ (mode draw : Nat) (down : Bool) (x y : Val),
     ((isNaN x || isNaN y) = true →
       roundTo .fp32 mode false draw (addV down x y) = 0x7FC00000 ∧ roundTo .fp32 mode false draw (mulV x y) = 0x7FC00000) ∧
     (∀ b : Bool, roundTo .fp32 mode false draw (addV down (.inf b) (.inf (!b))) = 0x7FC00000) ∧
     (∀ (a b : Bool) (e : Int), roundTo .fp32 mode false draw (mulV (.fin a 0 e) (.inf b)) = 0x7FC00000 ∧
       roundTo .fp32 mode false draw (mulV (.inf b) (.fin a 0 e)) = 0x7FC00000)) ∧
  (∀ (o : VAB) (s t : State) (u : Issue) (x y : Vec), slotRuns o.g u s → readsV2 o.a o.m o.b o.n o.t s x y t →
     let ty := curVType s
     let lanes := fun (i : Instr) (v : Vec) => landsLanes i s u 3 o.t ty false ty.w (takeDraws ty.mode 0 t).2
       (lanesAre ty (vpOf (curCtx s) o.l) (elem ty.w v.toNat))
     (ty.w ≤ ty.shamt → lanes (.vfsl o) y ∧ lanes (.vfsr o) x) ∧ (ty.shamt = 0 → lanes (.vfsl o) x ∧ lanes (.vfsr o) y))

/-! ## Matrix slot and yarns (spec/12_matrix_engine_and_recipes.md; spec/09_spool_yarns_and_cluster_memory.md) -/

/-- R120, R274, R275, R277, R278, R280, R281, R282, R283, R393: Outside a handler and outside a running call every M word
completes and MPC moves on one: MPARM, MSTEP, MSTEPRD and the zeroing of accumulator banks; MMPC sets MPC. Within a call every
M word traps 0x04, and in a handler 0x0D; a step, table entry, bank or MPC that the context does not hold traps 0x09. MCALL
latches the call: its cycles, the decrypted M-stream word at MPC, the parameters and the reverse mark, from the issue cycle
on, where the word, the table entry and the recipe are legal and the block count agrees; else it traps: 0x01 on no word at
MPC, on a reserved field of it, and on an entry that is not valid or has a reserved bit, 0x09 on an entry it does not hold,
what the walk of the recipe finds, and 0x04 on another count. The walk finds 0x01 past the last step and on an illegal field,
0x09 on a step that is not held and on a substitution out of range, and what a step's ranges give. The buffer holds the
M-stream section from word 0 on whatever the section's TARGET is (R120; log entry 95, DEDUCED). -/
def Obligations.MatrixResult : Prop :=
  (∀ (s : State) (u : Issue),
     let ready := (curCtx s).estatH = false ∧ callBusy (curCtx s) u.t = false
     let mayUse := fun (isTable : Bool) (i : Word) =>
       (if isTable then entryHeld (curCtx s).task i.toNat else stepHeld (curCtx s).task i.toNat) = true
     let k := coreOf s (agIdx u.ag)
     let zeroed := fun (p : Nat → Bool) =>
       advanceMpc (modCore (countEvent u.ag 0x06 1 s) (agIdx u.ag) (zeroBanks p))
     (∀ (o : MParm) (x : Word) (t : State), slotRuns o.g u s → ready → source o.a o.m s = .ok (x, t) →
       exec (.mparm o) s = slotDone u (advanceMpc (land 1 (.mparm o.p x) t))) ∧
     (∀ (o : MStep) (x y : Word) (t : State), slotRuns o.g u s → ready → readsTwo o.a o.m o.b o.n s x y t → mayUse o.t x →
       exec (.mstep o) s = slotDone u (advanceMpc (land 1 (.mstep o.t x.toNat y) t))) ∧
     (∀ (o : MStepRd) (x : Word) (c : Option Nat) (t : State), slotRuns o.g u s → ready →
       readsOne o.a o.m o.d o.q s x c t → mayUse o.t x →
       exec (.msteprd o) s = slotDone u (advanceMpc (landReg 2 o.d c
         (if o.t then wd (tabGet 0 k.table x.toNat).toNat else tabGet 0 k.steps x.toNat) t))) ∧
     (∀ o : MZero, slotRuns o.g u s → ready → bankHeld (curCtx s).task o.k = true →
       exec (.mzero o) s = slotDone u (zeroed (fun b => b == o.k))) ∧
     (∀ o : G, slotRuns o.g u s → ready → exec (.mzeroAll o) s = slotDone u (zeroed (bankHeld (curCtx s).task))) ∧
     (∀ (o : SA) (x : Word) (t : State), slotRuns o.g u s → ready → source o.a o.m s = .ok (x, t) →
       ((curCtx s).task.urgent = false →
         ∃ t1, exec (.mmpc o) s = slotDone u t1 ∧ (curCtx t1).mpc = x.toNat % 2 ^ 16 ∧ onlyContexts t t1) ∧
       ((curCtx s).task.urgent = true →
         (x.toNat / 2 ^ 12 % 16 = 0 →
           ∃ t1, exec (.mmpc o) s = slotDone u t1 ∧ (curCtx t1).mpc = x.toNat % 2 ^ 12 ∧ onlyContexts t t1) ∧
         (x.toNat / 2 ^ 12 % 16 ≠ 0 → slotTraps (.mmpc o) s 0x09))) ∧
     (∀ (o : MStep) (x y : Word) (t : State), slotRuns o.g u s → ready → readsTwo o.a o.m o.b o.n s x y t → ¬ mayUse o.t x →
       slotTraps (.mstep o) s 0x09) ∧
     (∀ (o : MStepRd) (x : Word) (t : State), slotRuns o.g u s → ready → source o.a o.m s = .ok (x, t) → ¬ mayUse o.t x →
       slotTraps (.msteprd o) s 0x09) ∧
     (∀ o : MZero, slotRuns o.g u s → ready → bankHeld (curCtx s).task o.k = false → slotTraps (.mzero o) s 0x09) ∧
     (let barred := fun (g : Nat) (i : Instr) => slotRuns g u s →
        ((curCtx s).estatH = true → slotTraps i s 0x0D) ∧
        ((curCtx s).estatH = false → callBusy (curCtx s) u.t = true → slotTraps i s 0x04)
      (∀ o : MCall, barred o.g (.mcall o)) ∧ (∀ o : MParm, barred o.g (.mparm o)) ∧ (∀ o : MStep, barred o.g (.mstep o)) ∧
      (∀ o : MStepRd, barred o.g (.msteprd o)) ∧ (∀ o : MZero, barred o.g (.mzero o)) ∧
      (∀ o : G, barred o.g (.mzeroAll o)) ∧ (∀ o : SA, barred o.g (.mmpc o)))) ∧
  (∀ (o : MCall) (s : State) (u : Issue), slotRuns o.g u s → (curCtx s).estatH = false → callBusy (curCtx s) u.t = false →
     let x := curCtx s
     let mw := mstreamWord x
     let e := (tabGet 0 (coreOf s (agIdx u.ag)).table o.i).toNat
     let walked := walkRecipe s (agIdx u.ag) x.task (latchParams x) (bf e 10 0) (2 ^ 80) ⟨bf e 10 0, 0, 0, [], [], []⟩
     (x.image.msid = 0 ∨ x.image.mwords ≤ x.mpc → slotTraps (.mcall o) s 0x01) ∧
     (x.image.msid ≠ 0 → x.mpc < x.image.mwords → bf mw 11 0 ≠ 0 ∨ 6 < bf mw 15 12 → slotTraps (.mcall o) s 0x01) ∧
     (x.image.msid ≠ 0 → x.mpc < x.image.mwords → bf mw 11 0 = 0 → bf mw 15 12 ≤ 6 →
       (entryHeld x.task o.i = false → slotTraps (.mcall o) s 0x09) ∧
       (entryHeld x.task o.i = true → bm e 31 = false ∨ bf e 30 11 ≠ 0 → slotTraps (.mcall o) s 0x01) ∧
       (entryHeld x.task o.i = true → bm e 31 = true → bf e 30 11 = 0 →
         (∀ c : Nat, walked = .error c → slotTraps (.mcall o) s c) ∧
         (∀ k : WalkAt, walked = .ok k →
           (k.c ≠ o.b → slotTraps (.mcall o) s 0x04) ∧
           (k.c = o.b → ∃ t, exec (.mcall o) s = slotDone u t ∧ onlyContexts s t ∧
             (curCtx t).call = some ⟨u.t, o.b, mw, latchParams x, k.plan.reverse, none⟩ ∧
             (curCtx t).mpc = (x.mpc + 1) % mpcSize x.task))))) ∧
  (∀ (s : State) (core : Nat) (t : Task) (p : List Word) (i0 n : Nat) (k : WalkAt),
     let goes := walkRecipe s core t p i0 (n + 1) k
     let st := substStep (tabGet 0 (coreOf s core).steps k.i).toNat p
     (2047 < k.i → goes = .error 0x01) ∧
     (k.i ≤ 2047 → stepHeld t k.i = false → goes = .error 0x09) ∧
     (k.i ≤ 2047 → stepHeld t k.i = true → st = none → goes = .error 0x09) ∧
     (∀ w : Nat, k.i ≤ 2047 → stepHeld t k.i = true → st = some w →
       (fieldsOk w = false → goes = .error 0x01) ∧
       (fieldsOk w = true → stKind w ≠ 6 → rangesCause s core t p w (tabGet 0 k.execs k.i) ≠ 0 →
         goes = .error (rangesCause s core t p w (tabGet 0 k.execs k.i)))))

/-- R192, R258, R261, R262, R263, R267, R269, R271, R272, R276, R279: What a running call's step does in its cycles. MAC and
MACS, in the cycle in which a K-block is read: the block that the keep mask drops does nothing, one whose tags do not fit is a
call fault, and any other is folded into each cell of the step's bank, with the elements and scales of the operand files, dense
or 2:4, and nothing else of the core changes. ZERO zeroes its bank. A drain reads its bank in its first cycle, and its bytes, in
row or column order with the draws of SR, perform in the drain file in its last; in that cycle Z zeroes the bank, and AMX issues
an atomic of the greatest magnitude. The last cycle of the call ends it. -/
def Obligations.MatrixStepResult : Prop :=
  ∀ (a : Agent) (s : State),
    let x := ctxOf s a
    let k := coreOf s (agIdx a)
    (exec (.stepExecution a .landing) s = .next s ∧
     ((x.frozen = true ∨ callBusy x x.clk = false) →
       exec (.stepExecution a .read) s = .next s ∧ exec (.stepExecution a .write) s = .next s)) ∧
    ∀ (call : MatCall) (it : PlanItem), x.frozen = false → x.call = some call → callBusy x x.clk = true → call.fault = none →
      itemAt call.plan (x.clk - call.t0) = some it →
      let o := x.clk - call.t0 - it.start
      let w := it.step
      let bank := stBank w
      (stIsMac w = true → o % stepC w = 0 →
        let j := o / stepC w
        let nb := it.nb + j
        let kept := call.mw / 2 ^ (16 + nb % 16) % 2 = 1
        let a0 := stAbase w * 64 + (stAinc w * it.n * (stKb w + 1) + j) * blockA (stFa w)
        let b0 := stBbase w * 64 + (stBinc w * it.n * (stKb w + 1) + j) * blockB (stFb w)
        let fits := fun (tags : Tab (BitVec 14)) (f : Nat) (g : Bool) (lo n : Nat) => ∀ i : Nat, i < n / 16 →
          let v := (tabGet 0 tags (lo / 16 + i)).toNat
          v / 2 ^ 10 = f ∧ (v / 2 ^ 8 % 4 = 0 ∨ v / 2 ^ 8 % 4 = g.toNat + 1)
        let fitsA := fits k.atags (stFa w) (stGa w) a0 (blockA (stFa w))
        let fitsB := fits k.btags (stFb w) (stGb w) b0 (blockB (stFb w))
        let seg := fun (base f : Nat) (g : Bool) (p h : Nat) =>
          if g then base + ((2 * (p / 16) + h) * 16 + p % 16) * (segBytes f / 2) else base + p * segBytes f
        let bitsOf := fun (m : Mem) (f : Nat) (g : Bool) (at_ : Nat) => leNat (memBytes m at_ (if g then segBytes f / 2 else segBytes f))
        let scale := fun (tags : Tab (BitVec 14)) (at_ : Nat) => sext 8 ((tabGet 0 tags (at_ / 16)).toNat % 256)
        let value := fun (f v n : Nat) => ((fmtOf f).getD .fp32).decode (elem ((fmtOf f).getD .fp32).width v n)
        let denseA := fun (r h : Nat) => (List.range 16).map (fun i =>
          (i, value (stFa w) (bitsOf k.afile (stFa w) (stGa w) (seg a0 (stFa w) (stGa w) r h)) (if stGa w then i else 16 * h + i)))
        let sparseA := fun (r h : Nat) =>
          let v := bitsOf k.afile (stFa w) (stGa w) (seg a0 (stFa w) (stGa w) r h)
          let width := ((fmtOf (stFa w)).getD .fp32).width
          let n := if stGa w then 16 else 32
          (List.range 4).flatMap (fun i =>
            let g := (if stGa w then 0 else 4 * h) + i
            let nibble := v / 2 ^ (n / 2 * width) / 2 ^ (4 * g) % 16
            let i0 := if call.mw / 2 ^ 12 % 16 = 0 then nibble % 4 else (pselPair (call.mw / 2 ^ 12 % 16)).1
            let i1 := if call.mw / 2 ^ 12 % 16 = 0 then nibble / 4 else (pselPair (call.mw / 2 ^ 12 % 16)).2
            if i0 = i1 then [(4 * i + i0, value (stFa w) v (2 * g))]
            else [(4 * i + i0, value (stFa w) v (2 * g)), (4 * i + i1, value (stFa w) v (2 * g + 1))])
        let products := fun (r c : Nat) => [0, 1].flatMap (fun h =>
          let at_ := seg a0 (stFa w) (stGa w) r h
          let bt := seg b0 (stFb w) (stGb w) c h
          if scale k.atags at_ = -128 ∨ scale k.btags bt = -128 then []
          else (if stKind w = 2 then sparseA r h else denseA r h).map (fun p => scaleV (scale k.atags at_ + scale k.btags bt)
            (mulV p.2 (value (stFb w) (bitsOf k.bfile (stFb w) (stGb w) bt) (if stGb w then p.1 else 16 * h + p.1)))))
        ∃ t, exec (.stepExecution a .read) s = .next t ∧
          (∀ c : Nat, c ≠ agIdx a → coreOf t c = coreOf s c) ∧
          { coreOf t (agIdx a) with accs := [] } = { k with accs := [] } ∧
          (¬ kept → (coreOf t (agIdx a)).accs = k.accs ∧ (ctxOf t a).call = some call) ∧
          (kept → ¬ fitsA → (coreOf t (agIdx a)).accs = k.accs ∧
            (ctxOf t a).call = some { call with fault := some (0x11 * 2 ^ 24 + it.idx * 2 ^ 13 + nb % 8192) }) ∧
          (kept → fitsA → ¬ fitsB → (coreOf t (agIdx a)).accs = k.accs ∧
            (ctxOf t a).call = some { call with fault := some (0x12 * 2 ^ 24 + it.idx * 2 ^ 13 + nb % 8192) }) ∧
          (kept → fitsA → fitsB → (ctxOf t a).call = some call ∧
            (∀ r c : Nat, r < 96 → c < 256 → (bankList (coreOf t (agIdx a)) bank).getD (256 * r + c) 0 =
              foldCell ((bankList k bank).getD (256 * r + c) 0) (products r c) % 2 ^ 32) ∧
            ((k.accs.map (·.1)).Pairwise (· < ·) → ∀ b : Nat, b ≠ bank →
              bankList (coreOf t (agIdx a)) b = bankList k b))) ∧
      (stIsMac w = true → o % stepC w ≠ 0 → ∃ t, exec (.stepExecution a .read) s = .next t ∧ t.cores = s.cores ∧
        (ctxOf t a).call = some call ∧ (ctxOf t a).pend = x.pend) ∧
      (stKind w = 3 → ∃ t, exec (.stepExecution a .read) s = .next t ∧
        bankList (coreOf t (agIdx a)) bank = List.replicate 24576 0 ∧ ∀ c : Nat, c ≠ agIdx a → coreOf t c = coreOf s c) ∧
      (stIsDrain w = true → o = 0 →
        let draws := drawsFor (stMode w) 24576 x.lfsr
        let fm := (fmtOf (stFmt w)).getD .fp32
        ∃ (t : State) (l : List Byte), exec (.stepExecution a .read) s = .next t ∧ t.cores = s.cores ∧
          (ctxOf t a).lfsr = draws.2 ∧ l.length = 24576 * fm.width / 8 ∧
          (ctxOf t a).pend = x.pend ++ [⟨x.clk + (if stKind w = 4 then 48 else 64) - 1, x.clk, 5,
            .store .dfile (cellsAt (stDoff w * 64) l)⟩] ∧
          ∀ r c : Nat, r < 96 → c < 256 →
            let n := if stKind w = 4 then 256 * r + c else 96 * c + r
            leNat l / 2 ^ (fm.width * n) % 2 ^ fm.width = roundTo fm (stMode w) (stSat w) (draws.1.getD n 0)
              (scaleV (-(stDsc w)) (Fmt.fp32.decode ((bankList k bank).getD (256 * r + c) 0))) % 2 ^ fm.width) ∧
      (stIsDrain w = true → o ≠ 0 → ∃ t, exec (.stepExecution a .read) s = .next t ∧ t.cores = s.cores ∧
        (ctxOf t a).pend = x.pend ∧ (ctxOf t a).lfsr = x.lfsr) ∧
      (∃ t, exec (.stepExecution a .write) s = .next t ∧
        ((ctxOf t a).call = none ↔ call.t0 + call.cycles ≤ x.clk + 1) ∧
        (∀ c : Nat, c ≠ agIdx a → coreOf t c = coreOf s c) ∧
        ((stIsDrain w = false ∨ o + 1 ≠ stepCycles w) → t.cores = s.cores ∧ t.nextId = s.nextId) ∧
        (stIsDrain w = true → o + 1 = stepCycles w →
          (stZ w = true → bankList (coreOf t (agIdx a)) bank = List.replicate 24576 0) ∧
          (stZ w = false → t.cores = s.cores) ∧
          (stAmx w = 0 → t.nextId = s.nextId ∧ t.atomics.length = s.atomics.length) ∧
          (stAmx w ≠ 0 → ∃ d : DrainAtomic, t.atomics.getLast? = some d ∧ t.atomics.length = s.atomics.length + 1 ∧
            d.id = s.nextId ∧ d.ag = a ∧ d.amx = stAmx w ∧ d.world = x.task.world ∧ d.launch = x.task.launch ∧
            d.gang = x.task.gang ∧ d.at_ = s.gcyc + 1 ∧ d.addr = (call.params.getD (stAmp w) 0).toNat ∧
            (let magnitude := fun (e : Nat) => if 0x7F800000 < e % 2 ^ 31 then 0x7FC00000 else e % 2 ^ 31
             (∀ e ∈ bankList k bank, magnitude e ≤ d.value) ∧ (∃ e ∈ bankList k bank, d.value = magnitude e)))))

/-- R213, R220, R221, R222, R223: YSET lands half a descriptor, YGET lands a quarter of one, YGO opens a yarn whose
descriptor is valid and whose every beat is in range, or does nothing on an empty one; YHALT ends a yarn at the beats it has
read, YHALT.all every one of the context. -/
def Obligations.YarnResult : Prop :=
  ∀ (s : State) (u : Issue),
    let c := agIdx u.ag
    let held := fun (y : Nat) => yarnHeld (curCtx s).task y = true
    let q := fun (y : Nat) => yarnReg (coreOf s c) y
    (∀ (o : YSet) (x y : Word) (t : State), slotRuns o.g u s → held o.y → readsTwo o.a o.m o.b o.n s x y t →
      exec (.yset o) s = slotDone u (land 1 (.yset o.y o.h x y) t)) ∧
    (∀ (o : YGet) (cell : Option Nat) (t : State), slotRuns o.g u s → held o.y → dest o.d o.q s = .ok (cell, t) →
      landsWord (.yget o) s u 1 o.d cell t (fun v => v.toNat = (q o.y).toNat / 2 ^ (64 * o.w) % 2 ^ 64)) ∧
    (∀ (o : YGo) (x y : Word) (t : State), slotRuns o.g u s → held o.y → (curCtx s).estatH = false →
      readsTwo o.a o.m o.b o.n s x y t → isOpen t c o.y u.t = false →
      (yarnEmpty (q o.y) = true → exec (.ygo o) s = slotDone u t) ∧
      (yarnEmpty (q o.y) = false → yarnValid (q o.y) = true → isNetYarn (q o.y) = false →
        beatsCause t u.ag (q o.y) (x.toNat % 2 ^ 32) (y.toNat % 2 ^ 32) (yqBeats (q o.y)) 0 = 0 →
        (yqGeom (q o.y) = 0 ∨ scalesCause (yarnSrcTask t u.ag (q o.y)) (q o.y) (streamBlocks (q o.y)) 0 = 0) →
        exec (.ygo o) s = slotDone u (modCore t c (fun k => { k with
          open_ := k.open_ ++ [⟨o.y, u.ag, q o.y, x.toNat % 2 ^ 32, y.toNat % 2 ^ 32, u.t, 0, yqBeats (q o.y) - 1⟩] })))) ∧
    (∀ o : YHalt, slotRuns o.g u s → held o.y → (curCtx s).estatH = false →
      exec (.yhalt o) s = slotDone u (haltYarn c o.y u.t s)) ∧
    (∀ o : G, slotRuns o.g u s → (curCtx s).estatH = false →
      exec (.yhaltAll o) s = slotDone u (haltAll u.ag u.t s))

/-- R128, R171, R195, R196, R214, R215, R216, R217, R218, R219: What a beat of a yarn reads and delivers. A beat's addresses and
cycles are those of its descriptor and of the distances on the ring, on its own core or over the network; in its read cycle it
takes the bytes of its source, those of a block whose scale is -128 as zeros, and the lines of a pooled source wait for their
banks. A beat for a queue takes its Dest step at the start of its cycle of delivery, one for a store or an operand file is
written in the cycle before it, and one that finds no room in its queue, or an instruction half that is not idle, is a stream
fault. The clauses say this of cycles in which nothing is lost on the way and one beat arrives. -/
def Obligations.YarnBeatResult : Prop :=
  (∀ (s : State) (o : OpenYarn) (n : Nat),
     let q := o.desc
     let b := readBeat s o n
     let size := if yqDk q = 4 then 256 else 512
     let way := fun (x y : Nat) => if yqAnti q then (x + 32 - y) % 32 else (y + 32 - x) % 32
     let from_ := match yqSk q with
       | 1 => 2 * (b.srcAddr / 0x140000) | 2 => 2 * (b.srcAddr / 0x140000) | 3 => 17 | 4 => 29 | _ => 15
     let till := match yqDk q with
       | 1 => 2 * (b.dstAddr / 0x140000) | 2 => 17 | 3 => 29
       | 4 => 2 * fileStation (routeFile (yqDstBase q % 256)) + 1 | 5 => 11 | 6 => 13 | _ => 31
     let enters := if yqSk q = 3 then 14 else 1
     let raw := match yqSk q with
       | 1 => memBytes (coreOf s b.src).spool b.srcAddr size
       | 2 => memBytes (coreOf s b.src).spool b.srcAddr size
       | 4 => memBytes (coreOf s b.src).spill (spillBase (ctxOf s o.ag).task + b.srcAddr) size
       | 5 => memBytes (coreOf s b.src).dfile b.srcAddr size
       | _ => List.replicate size 0
     let block := segBytes (yqFmt q) * (if yqGeom q = 2 then 8 else 1)
     let scale := fun (i : Nat) => sext 8 (memGet (coreOf s b.src).spool
       (yqScBase q + (n * size + i) / block * yqScStride q)).toNat
     b.read = o.t + yqStart q + n * yqPeriod q ∧
     (b.srcAddr : Int) = ((yqSrcBase q : Int) + o.x + (n % yqIcnt q : Nat) * yqIstride q + (n / yqIcnt q : Nat) * yqOstride q) %
       2 ^ 32 ∧
     b.dstAddr = (yqDstBase q + o.z + n * size) % 2 ^ 32 ∧ b.enter = b.read + enters ∧
     (isNetYarn q = false → b.src = agIdx o.ag ∧ b.dsts = [agIdx o.ag] ∧
       b.deliver = b.read + enters + way from_ till + (if yqDk q = 2 then 13 else 0)) ∧
     (isNetYarn q = true → b.src = (if yqSk q = 2 then agIdx o.ag / 4 * 4 + yqScore q else agIdx o.ag) ∧
       (let out := 2 * (10 + b.src % 4) + 1
        b.cross = b.read + enters + way from_ out ∧ b.deliver = b.cross + 6 + way out till)) ∧
     (yqGeom q = 0 → b.data = raw) ∧
     (yqGeom q ≠ 0 → ∀ i : Nat, i < size → b.data.getD i 0 = if scale i = -128 then 0 else raw.getD i 0) ∧
     b.wantRead = (if yqSk q = 3 then List.range (size / 64) else []) ∧
     (yqDk q = 5 ∨ yqDk q = 6 → ∀ g : Nat, g < 32 → (b.tags.getD g 0).toNat = (yqFmt q * 2 ^ 10 + yqGeom q * 2 ^ 8 +
       (if yqGeom q = 0 then 0 else (scale (16 * g) % 256).toNat)) % 2 ^ 14)) ∧
  (∀ (s : State) (core : Nat),
     let k := coreOf s core
     let due := k.open_.filter (fun o => yarnRuns s o.ag o.y && decide (o.next ≤ o.last) &&
       decide (o.t + yqStart o.desc + o.next * yqPeriod o.desc = (ctxOf s o.ag).clk))
     (∀ b ∈ k.beats, b.dsts ≠ [] ∧ beatLosses s b (ctxOf s b.ag).clk = []) →
     ∃ t, exec (.yarnBeat core .read) s = .next t ∧ t.agenda = s.agenda ∧
       (coreOf t core).beats = k.beats ++ due.map (fun o => readBeat s o o.next) ∧
       (coreOf t core).open_ = k.open_.map (fun o => if due.elem o then { o with next := o.next + 1 } else o) ∧
       (coreOf t core).spool = k.spool ∧ ∀ c : Nat, c ≠ core → coreOf t c = coreOf s c) ∧
  (∀ (s : State) (core : Nat),
     (∀ p : Nat × Beat, p ∈ storeBeats s core ↔ p.1 ∈ clusterCores core ∧ p.2 ∈ (coreOf s p.1).beats ∧ core ∈ p.2.dsts ∧
       yarnRuns s p.2.ag p.2.y = true ∧ yqDk p.2.desc ≠ 4 ∧ yqDk p.2.desc ≠ 2 ∧
       p.2.deliver = (ctxOf s p.2.ag).clk + 1) ∧
     ∀ (c : Nat) (b : Beat), s.phase ≠ 0 → s.phase ≠ 8 → storeBeats s core = [(c, b)] → nearWait s core b = false →
       (∀ i ∈ clusterCores core, ∀ q ∈ (coreOf s i).beats, q.granted = []) →
       ∃ t, exec (.yarnBeat core .write) s = .next t ∧
         (let k := coreOf s core
          let k1 := coreOf t core
          (yqDk b.desc = 1 → k1.spool = memWrite k.spool b.dstAddr b.data ∧ k1.spill = k.spill) ∧
          (yqDk b.desc = 3 → k1.spill = memWrite k.spill (spillBase (ctxOf s b.ag).task + b.dstAddr) b.data ∧ k1.spool = k.spool) ∧
          (yqDk b.desc = 5 → k1.afile = memWrite k.afile b.dstAddr b.data ∧
            (∀ g : Nat, g < b.tags.length → tabGet 0 k1.atags (b.dstAddr / 16 + g) = b.tags.getD g 0) ∧
            ∀ g : Nat, g < b.dstAddr / 16 ∨ b.dstAddr / 16 + b.tags.length ≤ g → tabGet 0 k1.atags g = tabGet 0 k.atags g) ∧
          (yqDk b.desc = 6 → k1.bfile = memWrite k.bfile b.dstAddr b.data ∧
            (∀ g : Nat, g < b.tags.length → tabGet 0 k1.btags (b.dstAddr / 16 + g) = b.tags.getD g 0) ∧
            ∀ g : Nat, g < b.dstAddr / 16 ∨ b.dstAddr / 16 + b.tags.length ≤ g → tabGet 0 k1.btags g = tabGet 0 k.btags g) ∧
          (yqDk b.desc = 7 →
            (idleHalf (ctxOf s (.tile core)) = halfOf b.dstAddr → k1.imem = memWrite k.imem b.dstAddr b.data) ∧
            (idleHalf (ctxOf s (.tile core)) ≠ halfOf b.dstAddr → k1.imem = k.imem ∧
              t.agenda = .streamFault ⟨b.ag, 5, false, b.y⟩ :: s.agenda)))) ∧
  (∀ (s : State) (core c : Nat) (b : Beat), s.phase = 0 →
     arriving s core (fun b t => yqDk b.desc == 4 && b.deliver == t) = [(c, b)] →
     let code := yqDstBase b.desc % 256
     let r := vqOf (coreOf s core) (routeFile code) (routeQueue code)
     (∀ (cell : Nat) (r1 : Machine.Ring Vec), ringDest r (routePush code) = .ok (cell, r1) → ∃ t, exec (.yarnBeat core .write) s = .next t ∧
       vqOf (coreOf t core) (routeFile code) (routeQueue code) = ringPut r1 cell (vecOfBytes b.data) ∧ t.agenda = s.agenda) ∧
     (∀ e : Nat, ringDest r (routePush code) = .error e → ∃ t, exec (.yarnBeat core .write) s = .next t ∧
       vqOf (coreOf t core) (routeFile code) (routeQueue code) = r ∧
       t.agenda = .streamFault ⟨b.ag, 4, false, b.y⟩ :: s.agenda))

/-! ## Engine operations and synchronisation (spec/15_async_and_synchronisation_instructions.md; spec/17_interruption_and_preemption.md) -/

/-- R340, R344, R349, R350, R403, R405, R406, R407, R408: Each engine instruction completes by issuing one operation of the
next number, latched with its operands, to its core's engine; those with a destination land the number. While the queue has
room nothing waits. SEAL takes the next checkpoint number of its world and a fresh random value, and issues its operation
with both. -/
def Obligations.EngineIssueResult : Prop :=
  (∀ (s : State) (u : Issue) (x y : Word) (t : State),
     let e := agEngine u.ag
     let desc := fun (k : Nat) => if agTile u.ag then yarnReg (coreOf s (agIdx u.ag)) k else 0
     let n := (engineOf s e).issued + 1
     let room := fun (copies : Bool) => queueLoad (engineOf s e) copies < (if copies then 16 else 64)
     let issues := fun (i : Instr) (k : EngKind) (d : Nat) (des : W256) (q : EngOp → Prop) => ∀ (c : Option Nat) (t1 : State),
       dest d false t = .ok (c, t1) → ∃ op : EngOp, q op ∧ op.num = n ∧ op.kind = k ∧ op.ag = u.ag ∧ op.x = x ∧ op.z = y ∧
         op.desc = des ∧ op.queued = true ∧
         exec i s = slotDone u (modEngine (landReg 1 d c (wd n) t1) e
           (fun k => { k with issued := n, ops := k.ops ++ [op] }))
     (∀ o : Cpy, slotRuns o.g u s → readsTwo o.a o.m o.b o.n s x y t → yarnHeld (curCtx s).task o.y = true → room true →
       rowsOk t (desc o.y) x y = true → (cpMode (desc o.y) = 0 ∨ x.toNat % 256 = 0) →
       (copyValid (desc o.y) false (kindOf u.ag == .steward) = true → issues (.cpy o) .cpy o.d (desc o.y) (fun _ => True)) ∧
       (copyValid (desc o.y) true (kindOf u.ag == .steward) = true → issues (.cpyr o) .cpyr o.d (desc o.y) (fun _ => True))) ∧
     (∀ o : Krot, slotRuns o.g u s → readsTwo o.a o.m o.b o.n s x y t → room true → x.toNat % 2 ^ 16 = 0 →
       x.toNat < 2 ^ 56 → 1 ≤ y.toNat → y.toNat ≤ 2 ^ 20 → issues (.krot o) .krot o.d 0 (fun _ => True)) ∧
     (∀ o : Scrub, slotRuns o.g u s → readsTwo o.a o.m o.b o.n s x y t → room true → x.toNat % 64 = 0 → y.toNat % 64 = 0 →
       64 ≤ y.toNat → y.toNat ≤ 0x1400000 → scrubOk t o.p x y = true →
       issues (.scrub o) .scrub o.d 0 (fun op => op.op = o.p)) ∧
     (∀ o : Cpy, slotRuns o.g u s → readsTwo o.a o.m o.b o.n s x y t → yarnHeld (curCtx s).task o.y = true → room true →
       unsealValid (desc o.y) = true → x.toNat % 256 = 0 → localOk t u.ag (cpDsp (desc o.y)) y.toNat (cpLen (desc o.y)) = true →
       issues (.unseal o) .unseal o.d (desc o.y) (fun op => op.aux = cpMac (desc o.y))) ∧
     (∀ o : HAtom, slotRuns o.g u s → readsTwo o.a o.m o.b o.n s x y t → room false → hatomOwned t o.r x = true →
       x.toNat % 8 = 0 → bits x 34 32 = 0 →
       ∃ op : EngOp, exec (.hatom o) s = slotDone u (issueOp op t) ∧ op.num = n ∧ op.kind = .hatom ∧ op.x = x ∧ op.z = y ∧
         op.op = o.o ∧ op.scope = o.s ∧ op.ret = o.r ∧ op.queued = true) ∧
     (∀ o : Red, slotRuns o.g u s → readsTwo o.a o.m o.b o.n s x y t → room false → x.toNat % 8 = 0 →
       ∃ op : EngOp, exec (.red o) s = slotDone u (issueOp op t) ∧ op.num = n ∧ op.kind = .red ∧ op.x = x ∧ op.z = y ∧
         op.op = o.o ∧ op.queued = true)) ∧
  (∀ (o : Cpy) (s : State) (u : Issue) (x y : Word) (t : State) (c : Option Nat) (t1 : State),
     slotRuns o.g u s → agTile u.ag = true → readsTwo o.a o.m o.b o.n s x y t → yarnHeld (curCtx s).task o.y = true →
     let q := yarnReg (coreOf s (agIdx u.ag)) o.y
     let e := agEngine u.ag
     let w := (curCtx s).task.world
     let k := ((worldOf s w).ckptCtr + 1) % 2 ^ 56
     queueLoad (engineOf s e) true < 16 → sealValid q = true → localOk t u.ag (cpSsp q) x.toNat (cpLen q) = true →
     y.toNat % 256 = 0 →
     dest o.d false { (modWorld t w (fun v => { v with ckptCtr := k })) with freeCtr := t.freeCtr + 1 } = .ok (c, t1) →
     ∃ op : EngOp, exec (.seal o) s = slotDone u (issueOp op (landReg 1 o.d c (wd op.num) t1)) ∧
       op.num = (engineOf s e).issued + 1 ∧ op.kind = .seal ∧ op.desc = q ∧ op.x = x ∧ op.z = y ∧ op.aux = k ∧
       op.nonce = Config.freeKey s.freeCtr ∧ (worldOf t1 w).ckptCtr = k)

/-- R351, R352, R353, R78, R79, R80, R291: TLADD leaves its advance pending behind the task's operations; TLPOLL lands (Ok, NOT Ok);
TLWAIT on a timeline that is met lands the same pair, and else waits; TLRD lands a timeline's value, its issued number or its
fail record, and E = 3 clears the record. WAITA waits for the walk of a page that its die does not hold; on an HBM line it
answers (0,1) at once with no free entry, (1,0) where the condition holds already, and else takes an entry of its die's table,
which observes what is written to the line from this cycle on, and waits; an address that is refused, misaligned or no HBM
takes its trap, and so does a read that fails. A read of the word is an access to its row's node (R291). That a wait is
frozen from the cycle after is log entry 19 (DESIGN CHOICE). -/
def Obligations.TimelineAndMonitorResult : Prop :=
  (∀ (s t : State) (u : Issue),
     let w := (curCtx s).task.world
     (∀ (o : TlAdd) (x : Word) (h : Nat), slotRuns o.g u s → source o.b o.n s = .ok (x, t) → handle o.k 1 1 t = .ok h →
       exec (.tladd o) s = slotDone u { t with
         nextId := t.nextId + 1
         tladds := t.tladds ++ [{ id := t.nextId, ag := u.ag, tid := tidOf (curCtx t), entry := (curCtx t).entryAt, world := w
                                  idx := tlIndex h, amount := x.toNat, ops := taskOps t u.ag, due := u.t }] }) ∧
     (∀ (o : TlWait) (x : Word) (h : Nat), slotRuns o.g u s → source o.b o.n s = .ok (x, t) → handle o.k 1 5 t = .ok h →
       let ok := decide (x.toNat ≤ tlValue t w h) && !(tlFail t u.ag w h).elim false (fun f => decide (f.2 ≤ x.toNat))
       exec (.tlpoll o) s = slotDone u (land 1 (.pair o.p ok) t) ∧
       ((curCtx s).estatH = false → (kindOf u.ag ≠ .tile ∨ curQuiet s = true) → (curCtx s).kept = none →
         ∀ z : State, source 0 false s = .ok (0, z) → source o.b o.n z = .ok (x, t) →
         (tlMet t u.ag w h x.toNat = true → exec (.tlwait o) s = slotDone u (land 1 (.pair o.p ok) t)) ∧
         (tlMet t u.ag w h x.toNat = false → exec (.tlwait o) s = slotDone u (beginWait u.ag .timeline
           ⟨.timeline h x.toNat o.p false, curWord t, 0, x, curUndo (popped 0 false 0 ++ popped o.b o.n x) none t, false, none⟩
           t)))) ∧
     (∀ (o : TlRd) (h : Nat) (c : Option Nat), slotRuns o.g u s → handle o.k (if o.e = 1 then 5 else 1) 5 s = .ok h →
       dest o.d false s = .ok (c, t) →
       ∃ v : Word, exec (.tlrd o) s = slotDone u (if o.e = 3 then clearFail u.ag w h (landReg 1 o.d c v t)
           else landReg 1 o.d c v t) ∧
         (o.e = 0 → v = wd (tlValue s w h)) ∧ (o.e = 1 → v = wd (engineOf s (tlIndex h)).issued) ∧
         (2 ≤ o.e → v = wd (failWord (tlFail s u.ag w h) (tlDead s h))))) ∧
  (∀ (o : WaitA) (s t : State) (u : Issue) (x c : Word),
     slotRuns o.g u s → (curCtx s).estatH = false → (kindOf u.ag ≠ .tile ∨ curQuiet s = true) → (curCtx s).kept = none →
     readsTwo o.a o.m o.b o.n s x c t →
     let w := (curCtx s).task.world
     let die := dieOf u.ag
     let tmo := if o.t = 0 then 0 else 1024 * 2 ^ o.t
     let miss : Miss := ⟨die, w, x.toNat / 65536⟩
     (2 ^ 56 ≤ x.toNat → slotTraps (.waita o) s 0x08) ∧
     (x.toNat < 2 ^ 56 → x.toNat % 8 ≠ 0 → slotTraps (.waita o) s 0x07) ∧
     (x.toNat < 2 ^ 56 → x.toNat % 8 = 0 →
       (transLookup t die w x.toNat = none → ∃ wt : Wait,
         exec (.waita o) s = slotDone u (beginWait u.ag .monitor wt (addMisses [miss] t)) ∧
         wt.what = .xlate true o.c o.p tmo [miss] ∧ wt.opA = x ∧ wt.opB = c) ∧
       (∀ (pa : Nat) (t1 : State), transLookup t die w x.toNat ≠ none → translate t die w x.toNat false = (.ok pa, t1) →
         (targetOf pa ≠ 0 → slotTraps (.waita o) s 0x08) ∧
         (targetOf pa = 0 → monitorsFull t die w = true →
           exec (.waita o) s = slotDone u (land 1 (.pair o.p false) (noteNotArmed die t))) ∧
         (∀ t2 : State, targetOf pa = 0 → monitorsFull t die w = false →
           (if o.c = 4 then t2 = t else readsTwo o.a o.m o.b o.n (noteSoft s pa) x c t2) →
           (∀ m : Word, o.c ≠ 4 → readWatch t2 w pa = .ok m → condHolds o.c m c = true →
             exec (.waita o) s = slotDone u (land 1 (.pair o.p true) t2)) ∧
           (∀ cause : Nat, o.c ≠ 4 → readWatch t2 w pa = .error cause →
             exec (.waita o) s = .next (slotTrap cause (noteSoft s pa))) ∧
           ((o.c = 4 ∨ ∃ m : Word, readWatch t2 w pa = .ok m ∧ condHolds o.c m c = false) →
             ∃ wt : Wait, exec (.waita o) s = slotDone u (beginWait u.ag .monitor wt { t2 with monitors := t2.monitors ++
                 [⟨die, w, pa / 64, u.ag, if t2.monWrites.elem (pa / 64) then some t2.gcyc else none⟩] }) ∧
               wt.what = .monitor pa o.c c o.p t2.gcyc tmo false die)))))

/-- R354, R355, R331, R359, R393: BAR sends its arrival and waits; BARA sends it and goes on unless one is pending; BARD
drops the task from its domain; each traps 0x0D without a domain, after a drop or in a handler. FENCE waits exactly while an
operation of its task that is not on the core's own store has an access of its kind within its scope to perform; at .ln, .tk
or .co it never waits. -/
def Obligations.BarrierAndFenceResult : Prop :=
  (∀ (o : G) (s : State) (u : Issue), slotRuns o.g u s →
     let x := curCtx s
     let in_ := x.estatH = false ∧ x.task.level ≠ 0 ∧ x.dropped = false
     let arrive := domSend s u.ag s.gcyc false false
     (¬ in_ → slotTraps (.bar o) s 0x0D ∧ slotTraps (.bara o) s 0x0D ∧ slotTraps (.bard o) s 0x0D) ∧
     (in_ → exec (.bard o) s = slotDone u (domDrop s u.ag) ∧
       (domPending s u.ag = false → exec (.bar o) s = slotDone u (barrierWait false arrive) ∧
         exec (.bara o) s = slotDone u arrive) ∧
       (domPending s u.ag = true → exec (.bar o) s = slotDone u (barrierWait false s) ∧
         exec (.bara o) s = slotDone u (barrierWait true s)))) ∧
  (∀ (o : Fence) (s : State) (u : Issue), slotRuns o.g u s →
     let ops := (fenceOps s u.ag).filter (fenceBusy s o.s (o.k == 1))
     (ops = [] ∨ o.s ≤ 2 → exec (.fence o) s = slotDone u s) ∧
     (ops ≠ [] → 2 < o.s → ∃ wt : Wait, exec (.fence o) s = slotDone u (beginWait u.ag .fence wt s) ∧
       wt.what = .fence ops o.s (o.k == 1)))

/-- R75, R83, R84, R114, R330: LAUNCH lands a number and the pair (1,0) and queues the launch where its record is accepted, its
tasks to start once the control task's operations have performed; else it lands the status and (0,1). In a held world it
waits, and so it does for the pages that it reads and the I/O die does not hold; an address that is refused or misaligned, or
a read that fails, takes its trap. That all reads are made in the issue cycle and the result lands after one cycle is log entry
23 (DESIGN CHOICE); that a wait of a steward is a freeze is log entry 19 (DESIGN CHOICE), and that the one for a held world
leaves no record is log entry 21 (DESIGN CHOICE). -/
def Obligations.LaunchResult : Prop :=
  ∀ (o : Sys2Proof.Launch) (s t : State) (u : Issue) (x : Word), slotRuns o.g u s → (curCtx s).kept = none →
    readsTwo o.a o.m 0 false s x 0 t →
    let w := (curCtx s).task.world
    ((worldOf s w).held = true → ∃ wt : Wait, exec (.launch o) s = slotDone u (beginWait u.ag .launchHold wt t) ∧
      wt.what = .held) ∧
    ((worldOf s w).held = false → 2 ^ 56 ≤ x.toNat → slotTraps (.launch o) s 0x08) ∧
    ((worldOf s w).held = false → x.toNat < 2 ^ 56 → x.toNat % 64 ≠ 0 → slotTraps (.launch o) s 0x07) ∧
    ((worldOf s w).held = false → x.toNat < 2 ^ 56 → x.toNat % 64 = 0 →
      let r := readLaunch t w x.toNat
      let misses := missesOf 4 t r.2
      (misses ≠ [] → ∃ wt : Wait, exec (.launch o) s = slotDone u (beginWait u.ag .launchHold wt (addMisses misses t)) ∧
        wt.what = .xlate false 0 0 0 misses) ∧
      (misses = [] →
        (∀ cause : Nat, r.1 = .error cause → slotTraps (.launch o) s cause) ∧
        (∀ (c : Option Nat) (t2 : State), dest o.d o.q r.2 = .ok (c, t2) →
          (∀ (q : LaunchRec) (f : TaskImage), r.1 = .ok (0, q, some f) →
            exec (.launch o) s = slotDone u (acceptLaunch (land 1 (.pair o.p true)
              (landReg 1 o.d c (wd (worldOf r.2 w).nextLaunch) t2)) w q f (taskOps r.2 u.ag))) ∧
          (∀ (st : Nat) (q : LaunchRec) (f : Option TaskImage), r.1 = .ok (st, q, f) → (st ≠ 0 ∨ f = none) →
            exec (.launch o) s = slotDone u (land 1 (.pair o.p false) (landReg 1 o.d c (wd st) t2))))))

/-! ## Channel commands (spec/13_memory_channels_and_segmented_banks.md) -/

/-- R109, R110, R111, R112, R113, R291, R292, R293, R295, R311: A line that is stored is read back, with its poison, under the
counters it was stored with, where no check of its row or of its node's path fails; the other lines of the row, and those of
other rows, read as before. A cleared row reads as zeros. The walk of a page table faults with the cause that the first thing
wrong gives, at its root, at the table's page, at the entry, or at the frame; a leaf gives the frame that its level says, and
any other entry the next table. An address is then translated from the cache, or by a walk whose entry is cached; a fault caches
nothing. Which checks fail is the environment's (log entry 6, DESIGN CHOICE), and so is what a cell holds before its first write
(log entry 5, DESIGN CHOICE); how a full cache replaces is log entry 61 (DESIGN CHOICE), and what FillCheck says of a frame beyond
HBM is log entry 62 (DEDUCED). -/
def Obligations.HbmLinesAndWalk : Prop :=
  (∀ (s : State) (r : RowRef) (moved : List Nat) (i major minor : Nat) (l : List Byte) (poison : Bool),
     Memory.wf s.hbm = true → i < 28 → l.length = 64 →
     let t := storeLine s r i major minor l poison
     (isCleared s r.ql = false → s.eccMeta.elem r.qm = false → nodeFails s (r.ql / 64) = false →
       (r.qm = r.ql → (metaOf s r).tag = 0 ∧ (metaOf s r).top = false) →
       major = (if moved.elem i then (metaOf s r).major + 1 else (metaOf s r).major) →
       readLine t r moved i = (l, poison)) ∧
     (∀ j : Nat, j < 28 → j ≠ i → readLine t r moved j = readLine s r moved j) ∧
     (∀ (q : RowRef) (j : Nat), j < 28 → q.qm ≠ r.qm → readLine t q moved j = readLine s q moved j) ∧
     Memory.wf t.hbm = true) ∧
  (∀ (s : State) (r : RowRef) (moved : List Nat) (i : Nat), isCleared s r.ql = true →
     readLine s r moved i = (List.replicate 64 0, false)) ∧
  (∀ (s : State) (w va : Nat),
     let root := (worldOf s w).troot
     (root = 0 ∨ root % 2 ^ 20 ≠ 0 ∨ 2 ^ 56 ≤ root → walk s w va = (.error 0x08, s)) ∧
     (∀ (c : Nat) (t : State), root ≠ 0 → root % 2 ^ 20 = 0 → root < 2 ^ 56 → walkFrom w va 4 root s = (.error c, t) →
       walk s w va = (.error c, t)) ∧
     (∀ (e : TransEnt) (t : State), root ≠ 0 → root % 2 ^ 20 = 0 → root < 2 ^ 56 → walkFrom w va 4 root s = (.ok e, t) →
       let pa := e.frame * 65536
       let target := pa / 2 ^ 52 % 16
       let allowed := (target = 0 ∧ pa < 0x7000000000 ∧ pageOwner t (pa / 65536) = w) ∨
         (target = 1 ∧ (w = 1 ∨ (funcOf t (funcOfWorld w)).tdi = .run)) ∨
         (target = 2 ∧ 2 ≤ w ∧ ∃ j : Job, (worldOf t w).job = some j ∧ j.members.getLsbD (pa / 2 ^ 42 % 1024) = true)
       (allowed → walk s w va = (.ok e, t)) ∧
       (¬ allowed → target ≤ 2 → walk s w va = (.error 0x09, t)) ∧
       (2 < target → walk s w va = (.error 0x08, t))) ∧
     ∀ lv table : Nat, lv ≤ 3 →
       let at_ := table + 8 * (match lv with
         | 0 => va / 2 ^ 39 % 2 ^ 17 | 1 => va / 2 ^ 30 % 2 ^ 9 | 2 => va / 2 ^ 21 % 2 ^ 9 | _ => va / 2 ^ 16 % 2 ^ 5)
       let u := at_ % 2 ^ 52
       let size := match lv with
         | 1 => 2 ^ 30 | 2 => 2 ^ 21 | _ => 2 ^ 16
       let pte := leNat (svcRead s u 8).1
       let leaf := pte / 4 % 2 = 1
       let addr := pte / 2 ^ 8 % 2 ^ 48 * 256
       let reserved := pte / 2 ^ 56 ≠ 0 ∨ pte / 2 ^ 3 % 2 ^ 5 ≠ 0 ∨ (lv = 0 ∧ leaf) ∨ (lv = 3 ∧ ¬ leaf) ∨
         (leaf ∧ addr % size ≠ 0) ∨ (¬ leaf ∧ lv ≤ 1 ∧ addr % 2 ^ 12 ≠ 0)
       let owned := table / 2 ^ 52 % 16 = 0 ∧ table % 2 ^ 52 < 0x7000000000 ∧ pageOwner s (table % 2 ^ 52 / 65536) = w
       (¬ owned → walkFrom w va (4 - lv) table s = (.error 0x09, s)) ∧
       (owned → svcCheck s w u ≠ 0 → walkFrom w va (4 - lv) table s = (.error (svcCheck s w u), s)) ∧
       (owned → svcCheck s w u = 0 →
         let t := noteSoft s u
         ((svcRead s u 8).2 = true → walkFrom w va (4 - lv) table s = (.error 0x0B, t)) ∧
         ((svcRead s u 8).2 = false → pte % 2 = 0 ∨ reserved → walkFrom w va (4 - lv) table s = (.error 0x08, t)) ∧
         ((svcRead s u 8).2 = false → pte % 2 = 1 → ¬ reserved →
           (leaf → ∃ e : TransEnt, walkFrom w va (4 - lv) table s = (.ok e, t) ∧ e.w = decide (pte / 2 % 2 = 1) ∧
             e.frame * 65536 + va % 65536 = addr + va % size) ∧
           (¬ leaf → walkFrom w va (4 - lv) table s = walkFrom w va (3 - lv) addr t)))) ∧
  (∀ (s : State) (die w va : Nat) (write : Bool),
     let use := fun (e : TransEnt) => if write && !e.w then (.error 0x08 : Except Nat Nat) else .ok (e.frame * 65536 + va % 65536)
     let c := countDie die 0x10 1 s
     (2 ^ 56 ≤ va → translate s die w va write = (.error 0x08, s)) ∧
     (∀ e : TransEnt, va < 2 ^ 56 → transLookup s die w va = some e → translate s die w va write = (use e, s)) ∧
     (∀ (x : Nat) (t : State), va < 2 ^ 56 → transLookup s die w va = none → walk c w va = (.error x, t) →
       translate s die w va write = (.error x, t) ∧ t.trans = s.trans) ∧
     (∀ (e : TransEnt) (t : State), va < 2 ^ 56 → transLookup s die w va = none → walk c w va = (.ok e, t) →
       (s.trans.filter (fun p => p.1 / 2 ^ 46 = die)).length < 65536 →
       ∃ t1, translate s die w va write = (use e, t1) ∧ t1.trans = tabSet s.trans (transKey die w va) e))

/-- R307, R308, R309, R314, R315: DACT opens a row of an idle bank; DPROM promotes a row and leaves its bank busy; DCLEAN
writes a cache row back and leaves its bank busy; each with its row in the word or in a register, for the row's owner, within
the timing gaps. -/
def Obligations.ChannelRowResult : Prop :=
  ∀ (s t : State) (u : Issue) (bank rib : Nat),
    let ch := agIdx u.ag
    let c := chanOf t ch
    let now := nowChc t
    let q := rowNumber ch bank rib
    let byWord := fun (g k r : Nat) => slotRuns g u s ∧ k = bank ∧ r = rib ∧ t = s
    let byReg := fun (g k a : Nat) (m : Bool) => slotRuns g u s ∧ k = bank ∧ rowOperand a m s = .ok (rib, t)
    (curCtx s).task.world ≠ 0 → needRowOwner bank rib t = .ok () → bankIdle c bank now = true →
    (let opened := slotDone u (noteCmd (setBankState (noteNode t (rowRef t q).ql) ch bank (.opened rib [] [] false)) ch .act bank
       (nearRow rib) now)
     (isCacheRow t q = false ∨ cacheValid t q = true) → gapsOk c .act bank now = true →
     (∀ o : DRow, byWord o.g o.k o.r → exec (.dact o) s = opened) ∧
     (∀ o : DRowReg, byReg o.g o.k o.a o.m → exec (.dactReg o) s = opened)) ∧
    (nearRow rib = false → c.pin ≠ 15 → gapsOk c .prom bank now = true →
     let v := rowNumber ch bank (512 * (rib / 512) + victimOf c bank (rib / 512))
     let n := if c.valid.elem v ∧ c.dirty.elem v then 80 else 44
     let noted := noteNode (noteNode t (rowNumber ch bank rib)) (rowRef t v).ql
     let promoted := slotDone u (noteCmd (setBankState (promote noted ch bank rib) ch bank (.busy (now + n))) ch .prom bank
       false now)
     (∀ o : DRow, byWord o.g o.k o.r → exec (.dprom o) s = promoted) ∧
     (∀ o : DRowReg, byReg o.g o.k o.a o.m → exec (.dpromReg o) s = promoted)) ∧
    (isCacheRow t q = true → gapsOk c .clean bank now = true → ∀ v : Bool,
     let written := writeBack (noteNode t (rowRef t q).ql) ch q
     let cleaned := slotDone u (noteCmd (setBankState (if v then invalidateRow written ch q else written) ch bank
       (.busy (now + 36))) ch .clean bank true now)
     (∀ o : DClean, o.v = v → byWord o.g o.k o.r → exec (.dclean o) s = cleaned) ∧
     (∀ o : DCleanReg, o.v = v → byReg o.g o.k o.a o.m → exec (.dcleanReg o) s = cleaned))

/-- R308, R310, R311, R312, R313, R316, R317, R318: DRD leaves a read burst of its column's four lines, as they stand after
the DWRs issued to the row, in flight for t + 40 (slice) or t + 44 (pooled) chc; DWR leaves a write burst; DINIT clears the
open row; a command on a bank that is not open traps 0x0F. DPRE and DPREA close open rows, a closing that rekeys or rolls over
stretching into a freeze; DREF and DREFP pay a refresh of idle banks and keep them busy 520 and 220 chc; DWAIT goes on where its
timeline has reached the value, and else waits. That a read takes the lines as they stand after the DWRs issued to the row, not
yet performed, is log entry 64 (DEDUCED). -/
def Obligations.ChannelColumnAndBankResult : Prop :=
  (∀ (s : State) (u : Issue),
     let ch := agIdx u.ag
     let w := (curCtx s).task.world
     (∀ (o : DRd) (x : Word) (t : State) (addr : Nat), slotRuns o.g u s → w ≠ 0 → source o.a o.m s = .ok (x, t) →
       needDAddr o.e x t = .ok addr →
       (bankOpen (chanOf t ch) o.k = false → slotTraps (.drd o) s 0x0F) ∧
       (bankOpen (chanOf t ch) o.k = true → gapsOk (chanOf t ch) .rd o.k (nowChc t) = true →
         let rib := openRow (chanOf t ch) o.k
         let t1 := settleRow ch (rowNumber ch o.k rib) t
         let r := openRef t1 ch o.k
         let n := signalNumber ch o.s t1
         ∃ b : DBurst, exec (.drd o) s = slotDone u (modChan
             (noteCmd (noteSoft n.2 (rowLineAddr r.ql 0)) ch .rd o.k (nearRow rib) (nowChc t)) ch
             (fun c => { c with bursts := c.bursts ++ [b] })) ∧
           b.num = n.1 ∧ b.write = false ∧ b.issued = u.t ∧ b.at_ = 2 * (u.t + if o.e then 40 else 44) ∧ b.row = r.qm ∧
           b.col = o.c ∧ b.mask = 15 ∧ b.ds = o.e ∧ b.addr = addr ∧ b.step = 0 ∧
           b.lines = [0, 1, 2, 3].map (fun j =>
             let d := readLine t1 r (openMoved (chanOf t1 ch) o.k) (4 * o.c + j)
             (leNat d.1, d.2)))) ∧
     (∀ (o : DWr) (x : Word) (t : State) (addr : Nat), slotRuns o.g u s → w ≠ 0 → source o.a o.m s = .ok (x, t) →
       needDAddr o.e x t = .ok addr →
       (bankOpen (chanOf t ch) o.k = false → slotTraps (.dwr o) s 0x0F) ∧
       (bankOpen (chanOf t ch) o.k = true → countersOk t ch o.k false (colLines o.c o.w) = false → slotTraps (.dwr o) s 0x0F) ∧
       (bankOpen (chanOf t ch) o.k = true → countersOk t ch o.k false (colLines o.c o.w) = true →
         (clearedWriteOk t ch o.k o.c o.w = false → slotTraps (.dwr o) s 0x10) ∧
         (clearedWriteOk t ch o.k o.c o.w = true → gapsOk (chanOf t ch) .wr o.k (nowChc t) = true →
           ∃ (b : DBurst) (t1 : State), exec (.dwr o) s = slotDone u (modChan t1 ch (fun c => { c with bursts := c.bursts ++ [b] })) ∧
             (chanOf t1 ch).bursts = (chanOf s ch).bursts ∧ t1.hbm = s.hbm ∧ b.num = (signalNumber ch o.s t).1 ∧
             b.write = true ∧ b.issued = u.t ∧ b.at_ = 2 * u.t + b.step ∧ b.lines = [] ∧
             b.row = rowNumber ch o.k (openRow (chanOf t ch) o.k) ∧ b.col = o.c ∧ b.mask = o.w ∧ b.ds = o.e ∧ b.addr = addr))) ∧
     (∀ o : DBank, slotRuns o.g u s → w ≠ 0 →
       (bankOpen (chanOf s ch) o.k = false → slotTraps (.dinit o) s 0x0F ∧ slotTraps (.dpre o) s 0x0F) ∧
       (bankOpen (chanOf s ch) o.k = true → countersOk s ch o.k true allLines = true → gapsOk (chanOf s ch) .init o.k (nowChc s) = true →
         let r := openRef s ch o.k
         let i := initOpen s ch o.k
         exec (.dinit o) s = slotDone u (noteCmd { i with monWrites := i.monWrites ++ allLines.map (fun k => lineAddr r k) }
           ch .init o.k (nearRow (openRow (chanOf s ch) o.k)) (nowChc i))))) ∧
  (∀ (s : State) (u : Issue),
     let ch := agIdx u.ag
     let c := chanOf s ch
     let now := nowChc s
     (curCtx s).task.world ≠ 0 →
     (∀ o : DBank, slotRuns o.g u s → bankOpen c o.k = true → clearedCloseOk s ch o.k = true → gapsOk c .pre o.k now = true →
       let e := closeBank s ch o.k 0
       exec (.dpre o) s = slotDone u (stretchFreeze e.2.1 e.2.2 e.1)) ∧
     (∀ o : G, slotRuns o.g u s → (∀ b : Nat, b < 32 → bankOpen c b = true ∨ bankIdle c b now = true) →
       (∀ b : Nat, b < 32 → bankOpen c b = true → clearedCloseOk s ch b = true ∧ gapsOk c .pre b now = true) →
       let e := ((List.range 32).filter (bankOpen c)).foldl (fun (acc : State × Nat × Bool) b =>
         let r := closeBank acc.1 ch b acc.2.1
         (r.1, r.2.1, if acc.2.1 = 0 then r.2.2 else acc.2.2)) (s, 0, false)
       exec (.dprea o) s = slotDone u (stretchFreeze e.2.1 e.2.2 e.1) ∧
         ((∀ b : Nat, b < 32 → bankOpen c b = false) → exec (.dprea o) s = slotDone u s)) ∧
     (∀ o : G, slotRuns o.g u s → (∀ b : Nat, b < 32 → bankIdle c b now = true ∧ -8 < debtOf c b) → gapsOk c .ref 0 now = true →
       exec (.dref o) s = slotDone u (payRefresh s ch (List.range 32) .ref 520)) ∧
     (∀ o : DBank, slotRuns o.g u s → bankIdle c o.k now = true → -8 < debtOf c o.k → gapsOk c .refp o.k now = true →
       exec (.drefp o) s = slotDone u (payRefresh s ch [o.k] .refp 220)) ∧
     (∀ (o : DWait) (x y : Word) (t : State), slotRuns o.g u s → readsTwo o.a o.m o.b o.n s x y t →
       let w := (curCtx s).task.world
       (x.toNat < 2 ^ 32 ∧ 1 ≤ tlKind x.toNat ∧ tlKind x.toNat ≤ 4 ∧ tlValid t w x.toNat = true →
         (y.toNat ≤ tlValue t w x.toNat → exec (.dwait o) s = slotDone u t) ∧
         (tlValue t w x.toNat < y.toNat → ∃ wt : Wait, exec (.dwait o) s = slotDone u (beginWait u.ag .timeline wt t) ∧
           wt.what = .dwait x.toNat y.toNat)) ∧
       (¬ (x.toNat < 2 ^ 32 ∧ 1 ≤ tlKind x.toNat ∧ tlKind x.toNat ≤ 4 ∧ tlValid t w x.toNat = true) →
         slotTraps (.dwait o) s 0x09)))

/-! ## Slots, queues and traps (spec/06_fetch_and_issue.md; spec/17_interruption_and_preemption.md) -/

/-- R5, R21, R128: A word whose guard is false has no effect, whichever of the 185 slot words it is. -/
def Obligations.FalseGuard : Prop :=
  ∀ (i : Instr) (s : State) (u : Issue), i.hasWord = true → i.isWf = true → s.cur = some u →
    guardTrue (bf (encodeWord i) 31 28) s = false → exec i s = .next s

/-- R127, R128, R129, R5: S0 yields zero and changes nothing; an empty queue traps 0x03; else the head cell is the value, and
only a pop changes the queue: its head moves on by one and its length falls by one. S0 takes nothing; a push, or any
destination that is empty, takes the cell after the tail and traps 0x02 where four cells are held; else the tail cell is
chosen again. No cell changes at issue. Where a Source or the Dest step of an RR word finds its queue empty or full, the slot
traps 0x03 or 0x02, and nothing that it had done stands. That a queue counts what has left it (`gone`) is the model's own
(log entry 75). -/
def Obligations.SourceAndDestSteps : Prop :=
  (∀ (r : Nat) (pop : Bool) (s : State) (a : Agent), a = curAgent s →
     let q := sregOf (curCtx s) r
     (r = 0 → source r pop s = .ok (0, setCtx s a (curCtx s))) ∧
     (r ≠ 0 → q.len = 0 → source r pop s = .error 0x03) ∧
     (r ≠ 0 → q.len ≠ 0 → ∃ x : Ctx,
       source r pop s = .ok ((if q.head % 4 = 0 then q.c0 else if q.head % 4 = 1 then q.c1 else if q.head % 4 = 2 then q.c2
         else q.c3), setCtx s a x) ∧
       sregOf x r = (if pop then { q with head := (q.head + 1) % 4, len := q.len - 1, gone := q.gone + 1 } else q) ∧
       x = { curCtx s with sregs := x.sregs } ∧ ∀ k : Nat, k ≠ r → sregOf x k = sregOf (curCtx s) k)) ∧
  (∀ (r : Nat) (push : Bool) (s : State) (a : Agent), a = curAgent s →
     let q := sregOf (curCtx s) r
     (r = 0 → dest r push s = .ok (none, setCtx s a (curCtx s))) ∧
     (r ≠ 0 → (push = true ∨ q.len = 0) → q.len = 4 → dest r push s = .error 0x02) ∧
     (r ≠ 0 → (push = true ∨ q.len = 0) → q.len ≠ 4 → ∃ x : Ctx,
       dest r push s = .ok (some ((q.head + q.len) % 4), setCtx s a x) ∧ sregOf x r = { q with len := q.len + 1 } ∧
       x = { curCtx s with sregs := x.sregs } ∧ ∀ k : Nat, k ≠ r → sregOf x k = sregOf (curCtx s) k) ∧
     (r ≠ 0 → push = false → q.len ≠ 0 → ∃ x : Ctx,
       dest r push s = .ok (some ((q.head + q.len + 3) % 4), setCtx s a x) ∧ sregOf x r = q ∧
       x = { curCtx s with sregs := x.sregs } ∧ ∀ k : Nat, k ≠ r → sregOf x k = sregOf (curCtx s) k)) ∧
  (∀ (o : RR) (s s1 s2 : State) (u : Issue) (x y : Word) (c : Nat), slotRuns o.g u s →
     (source o.a o.m s = .error c ∨ (source o.a o.m s = .ok (x, s1) ∧ source o.b o.n s1 = .error c) ∨
       (readsTwo o.a o.m o.b o.n s x y s2 ∧ dest o.d o.q s2 = .error c)) →
     (c = 0x02 ∨ c = 0x03) ∧ slotTraps (.add o) s c ∧ slotTraps (.sub o) s c ∧ slotTraps (.mul o) s c ∧ slotTraps (.div o) s c ∧
       slotTraps (.and o) s c ∧ slotTraps (.shl o) s c)

/-- R390, R391, R392, R394, R97, R298: A slot trap logs its cause, the bundle, the slot, the word and the slots done, and issues nothing
further; with a handler to run, the suspended state keeps what is in flight, LC and the stage predicates are saved and
cleared, and the handler's first bundle issues four cycles later. At the return LC and the stage predicates are what entry
saved, ESTAT.H is 0, the suspended state resumes later by the cycles the handler took, and the bundle at FAULTPC issues under
DONEMASK. A trap terminates the task exactly where its cause is 0x06, TVEC is 0, a handler runs, or it is deferred past the
task's TEXIT; a channel core has no handler (R298). A terminated task issues nothing more and keeps the fault registers. -/
def Obligations.TrapEntryAndReturn : Prop :=
  (∀ (cause : Nat) (s : State) (u : Issue), s.cur = some u → cause ≠ 0x06 →
     let x := ctxOf s u.ag
     let t := slotTrap cause s
     let y := ctxOf t u.ag
     y.faultCause = cause ∧ y.faultPc = u.pc ∧ y.faultSlot = u.slot.num ∧ y.faultWord = u.word ∧
     y.doneMask = (u.mask ||| u.before) ∧ t.cur = some { u with rest := [], trapped := true } ∧
     y.sregs = x.sregs ∧ onlyContexts s t ∧ otherButSiblings u.ag s t ∧
     (x.tvec ≠ 0 → x.estatH = false → kindOf u.ag ≠ .channel →
       y.estatH = true ∧ y.elc = x.lc ∧ y.lc = 0 ∧ y.estatStage = BitVec.ofNat 8 (bits x.preds 15 8) ∧
       bits y.preds 15 8 = 0 ∧ y.pend = [] ∧ y.branch = none ∧ y.call = none ∧ y.seqPc = x.tvec ∧ y.seqAt = x.clk + 4 ∧
       y.ended = x.ended ∧ y.causes.elem .handler = true ∧
       ∃ p : Susp, y.susp = some p ∧ p.tau = x.clk ∧ p.pend = x.pend ∧ p.branch = x.branch ∧ p.call = x.call)) ∧
  (∀ (a : Agent) (s : State) (p : Susp), (ctxOf s a).susp = some p →
     let x := ctxOf s a
     let d := x.clk - p.tau
     let y := ctxOf (trapReturn a s) a
     y.estatH = false ∧ y.lc = x.elc ∧ bits y.preds 15 8 = x.estatStage.toNat ∧ y.susp = none ∧
     y.pend = p.pend.map (fun q => { q with due := q.due + d }) ++ x.pend ∧
     y.call = p.call.map (fun c => { c with t0 := c.t0 + d }) ∧
     y.seqPc = x.faultPc ∧ y.seqAt = x.clk ∧ y.resumeMask = x.doneMask ∧ y.causes.elem .handler = false ∧
     y.sregs = x.sregs) ∧
  (∀ (a : Agent) (cause pc slot word done : Nat) (late : Bool) (cont : Option (Nat × Nat)) (s : State),
     let x := ctxOf s a
     let y := ctxOf (trapEntry a cause pc slot word done late cont s) a
     let ends := cause = 0x06 ∨ x.tvec = 0 ∨ x.estatH = true ∨ late = true ∨ kindOf a = .channel
     (ends → y.ended = some cause ∧ y.issuing = false ∧ y.faultCause = cause ∧ y.faultPc = pc ∧ y.pend = x.pend) ∧
     (¬ ends → y.ended = x.ended ∧ y.issuing = x.issuing ∧ y.estatH = true))

/-! ## Steps the part takes on its own (spec/95_what_each_step_holds.md) -/

/-- R28, R29, R117, R121, R130: BUNDLE_ISSUE of a context that is due decodes the words at its next address and opens the
bundle; words that decode to no bundle take trap 0x01 with the offending slot and word, and a context that cannot issue does
nothing. -/
def Obligations.BundleIssueResult : Prop :=
  ∀ (a : Agent) (s : State) (pc at_ : Nat),
    let x := ctxOf s a
    let ws := fetchWords s a pc
    (canIssue x = false → exec (.bundleIssue a) s = .next s) ∧
    (canIssue x = true → nextIssue x = some (pc, at_) → (if x.susp.isNone then dueDeferred x else none) = none →
      debtTrap s a = false →
      (fetchRefused s a pc = true → exec (.bundleIssue a) s = .next (bundleTrap a 0x01 pc 7 0 s)) ∧
      (fetchRefused s a pc = false →
        (∀ (sl : Option Slot) (w : Nat) (e : BadWord), decodeBundle (kindOf a) ws = .error (sl, w, e) →
          exec (.bundleIssue a) s = .next (bundleTrap a 0x01 pc (sl.elim 7 Slot.num) w s)) ∧
        (∀ (h : Header) (l : List SlotWord), decodeBundle (kindOf a) ws = .ok (h, l) →
          (∀ f : Nat × Nat, scheduleFault s a h (ws.headD 0) l = some f →
            exec (.bundleIssue a) s = .next (bundleTrap a 0x04 pc f.1 f.2 s)) ∧
          (scheduleFault s a h (ws.headD 0) l = none → ∃ t u, exec (.bundleIssue a) s = .next t ∧ t.cur = some u ∧
            u.ag = a ∧ u.pc = pc ∧ u.succ = (pc + h.bytes) % 2 ^ 21 ∧ u.t = x.clk ∧ u.hdr = h ∧ u.rest = l ∧
            u.mask = x.resumeMask ∧ u.trapped = false ∧ onlyContexts s t))))

/-- R121, R128: A step runs the row that stands first in the agenda, and then the slots of the bundle it opens; a slot word
that the bundle decoded to an instruction runs as that instruction. -/
def Obligations.StepRunsRow : Prop :=
  (∀ (s s1 : State) (i : Instr) (rest : List Instr), (s.poweredOff = false ∨ s.agenda ≠ []) → trapFirst (refill 24 s) = s1 →
    s1.agenda = i :: rest → step s = afterExec (exec i { s1 with agenda := rest })) ∧
  (∀ (t : State), t.cur = none → afterExec (.next t) = .next (settle t) ∧ issueSlots 8 t = .next t) ∧
  (∀ (s : State) (n : Nat) (u : Issue) (w : SlotWord) (l : List SlotWord), s.cur = some u → u.rest = w :: l →
    bm u.mask w.slot.num = false → debugMode s u.ag = false → ∃ s1 u1, nextSlot (n + 1) s = some (w.instr, s1) ∧
      s1.cur = some u1 ∧ u1.slot = w.slot ∧ u1.word = w.word ∧ u1.rest = l ∧ u1.ag = u.ag ∧ u1.t = u.t ∧
      issueSlots (n + 1) s = (match nextSlot 8 s with
        | none => .next (finishBundle s)
        | some p => match exec p.1 p.2 with
          | .next s2 => issueSlots n s2
          | .fault f => .fault f
          | .refused r => .refused r))

/-- R125, R127, R135, R209, R324, R392: What falls due lands, and a frozen context lands nothing: a word that lands in its cell is the
only change to the queues, and results of one cycle land in order of issue cycle and slot. Nothing performs with the reads of
a cycle; LATOM on the Spool reads, operates and writes as one access with the writes, and leaves its old word in flight
(R209, R324; log entry 77, DEDUCED). -/
def Obligations.ResultLanding : Prop :=
  (∀ (a : Agent) (st : LandStage) (s : State), (ctxOf s a).frozen = true → exec (.resultLanding a st) s = .next s) ∧
  (∀ (a : Agent) (s : State), (ctxOf s a).frozen = false →
    exec (.resultLanding a .landing) s = .next (trapAtomic a (landBranch a (landResults a s)))) ∧
  (∀ (a : Agent) (s : State), (∀ p ∈ (ctxOf s a).pend, p.slot < 8) →
    let x := ctxOf s a
    let due := x.pend.filter (fun p => landsAtStart p.act && decide (p.due ≤ x.clk))
    let key := fun (p : InFlight) => (p.iss, p.slot)
    ∃ l : List InFlight, landResults a s = l.foldl (fun s p => landOne a p s)
        (setCtx s a { x with pend := x.pend.filter (fun p => !(landsAtStart p.act && decide (p.due ≤ x.clk))) }) ∧
      l.Perm due ∧ l.Pairwise (fun p q => p.iss < q.iss ∨ p.iss = q.iss ∧ p.slot ≤ q.slot) ∧
      ∀ k : Nat × Nat, l.filter (fun p => key p = k) = due.filter (fun p => key p = k)) ∧
  (∀ (a : Agent) (s : State) (p : InFlight), (ctxOf s a).frozen = false → (ctxOf s a).pend = [p] → p.due ≤ (ctxOf s a).clk →
    (∀ (sp : Space) (l : List Host.Cell), p.act = .store sp l →
      exec (.resultLanding a .write) s = .next (performStore a sp l (setCtx s a { ctxOf s a with pend := [] }))) ∧
    exec (.resultLanding a .read) s = .next s ∧
    (∀ (addr op r c d : Nat) (b cmp : Word), agTile a = true → p.act = .latom addr op b cmp r c d →
      let m := wd (memNat (coreOf s (agIdx a)).spool addr 8)
      ∃ t, exec (.resultLanding a .write) s = .next t ∧
        (coreOf t (agIdx a)).spool =
          memPuts (coreOf s (agIdx a)).spool (cellsAt addr (leBytes 8 (atomicOp op m b cmp).toNat)) ∧
        (ctxOf t a).pend = [{ p with due := p.due + d, act := .sreg r c m }])) ∧
  (∀ (a : Agent) (s : State) (due iss slot r c : Nat) (v : Word), r ≠ 0 →
    let t := landOne a ⟨due, iss, slot, .sreg r c v⟩ s
    let q := sregOf (ctxOf s a) r
    let q' := sregOf (ctxOf t a) r
    onlyContexts s t ∧ otherContexts a s t ∧ q'.len = q.len ∧ q'.head = q.head ∧ ringCell q' c = v ∧
      (∀ i : Nat, i % 4 ≠ c % 4 → ringCell q' i = ringCell q i) ∧
      ∀ k : Nat, k ≠ r → sregOf (ctxOf t a) k = sregOf (ctxOf s a) k)

/-- R139, R215, R219, R262, R279: The events of a running context: a call's step reads and writes in its cycles, a call fault
and a stream fault become deferred traps, and a task past its budget ends with cause 0x06. -/
def Obligations.CoreEvents : Prop :=
  ∀ (a : Agent) (s : State),
    let x := ctxOf s a
    (x.frozen = false → callBusy x x.clk = true →
      exec (.stepExecution a .read) s = .next (countEvent a 0x06 1 (stepRead a s)) ∧
      exec (.stepExecution a .write) s = .next (stepWrite a s)) ∧
    (∀ (c : MatCall) (f : Nat), x.call = some c → c.fault = some f → ∃ t, exec (.callFault a) s = .next t ∧
      (ctxOf t a).call = none ∧ ∃ d : Deferred, (ctxOf t a).deferred = x.deferred ++ [d] ∧ d.cause = 0x05 ∧ d.slot = 5 ∧
        d.word = f) ∧
    (∀ o : StreamLoss, o.agent = a → x.live = true → ∃ t, exec (.streamFault o) s = .next t ∧
      ∃ d : Deferred, (ctxOf t a).deferred = x.deferred ++ [d] ∧ d.cause = lossCause o.kind ∧ d.slot = 7) ∧
    (∀ c : Nat, exec (.yarnBeat c .read) s = .next (yarnRead c s) ∧ exec (.yarnBeat c .write) s = .next (yarnWrite c s)) ∧
    (x.live = true → x.started = true → x.task.control = false → agTile a = true →
      (x.charge ≤ x.task.budget → exec (.deadlineFault a) s = .next s) ∧
      (x.task.budget < x.charge → exec (.deadlineFault a) s = .next (endTask a 0x06 (modCtx s a (fun x => { x with
        faultCause := 0x06, faultPc := (nextIssue x).elim x.seqPc (·.1), faultSlot := 7, faultWord := 0
        doneMask := x.resumeMask })))))

/-- R91, R94, R96, R104, R106, R300, R395, R398, R399, R400, R439: A task whose exit stands retires; what is zeroed is free
in the cycle after its zeroing ends, a channel then of its program or of the service program; a placed task that is not
started enters once its fill time has come. The scheduler's tick, a placement opportunity, a slice's save, and the take,
entry and resume of an urgent gang; a forced urgent task is drained, with its log entry, once the log has room. Where a fill, a
restoration or a save needs a translation that no cache holds, nothing of it happens and it waits for the walk (R114). That a
save waits for the operations on what the task holds is log entry 30 (DEDUCED), that it and a restoration wait for room in the
log is log entry 41 (DEDUCED), and that a channel's program starts when its zeroing is over is log entry 56 (DESIGN CHOICE). -/
def Obligations.TaskAndSchedulingEvents : Prop :=
  (∀ (s : State),
     (∀ a : Agent, exitReady s a = true → exec (.taskRetire a) s = .next (retireTask a s)) ∧
     (∀ a : Agent, exitReady s a = false → exec (.taskRetire a) s = .next s) ∧
     (∀ c z : Nat, (coreOf s c).zeroUntil = some z → ∃ t, exec (.zeroingComplete (.core c)) s = .next t ∧
       (z < s.gcyc → (coreOf t c).zeroUntil = none) ∧ (s.gcyc ≤ z → (coreOf t c).zeroUntil = some z)) ∧
     (∀ n z : Nat, (chanOf s n).zeroUntil = some z →
       (z < s.gcyc → ∃ t, exec (.zeroingComplete (.channel n)) s = .next t ∧ (chanOf t n).zeroUntil = none ∧
         ((ctxOf s (.channel n)).live = false → (chanOf t n).owner = 0) ∧
         ((ctxOf s (.channel n)).live = true → (chanOf t n).owner = (ctxOf s (.channel n)).task.world ∧
           (ctxOf t (.channel n)).started = true ∧ (ctxOf t (.channel n)).clk = 0)) ∧
       (s.gcyc ≤ z → exec (.zeroingComplete (.channel n)) s = .next s)) ∧
     (∀ n : Nat, ∃ t, exec (.zeroingComplete (.steward n)) s = .next t ∧
       t.stewZero = s.stewZero.filter (fun p => !(p.1 == n && decide (p.2 < s.gcyc)))) ∧
     (∀ cl b : Nat, ∃ t, exec (.zeroingComplete (.pooled cl b)) s = .next t ∧
       (clusterOf t cl).zeroing = (clusterOf s cl).zeroing.filter (fun p => !(p.1 == b && decide (p.2 < s.gcyc)))) ∧
     (∀ (a : Agent) (z : Nat), (ctxOf s a).live = true → (ctxOf s a).started = false → agTile a = true →
       (ctxOf s a).fillUntil = some z → z ≤ s.gcyc →
       let s1 := modCtx s a (fun x => { x with fillUntil := none })
       (∀ v, savedFor s1 a = some v →
         let t := restoreTask a v s1
         (logFull s = true → exec (.taskEntry a) s = .next s) ∧
         (logFull s = false → walksFirst (dieOf a) s t = false → exec (.taskEntry a) s = .next t) ∧
         (logFull s = false → walksFirst (dieOf a) s t = true → exec (.taskEntry a) s = .next (awaitWalks (dieOf a) s t))) ∧
       (∀ l, savedFor s1 a = none → (worldOf s1 (ctxOf s a).task.world).launches.find? (fun l => l.n = (ctxOf s a).task.launch) = some l →
         (∀ c s2, fillTask a l s1 = (.error c, s2) → walksFirst (dieOf a) s s2 = false →
           exec (.taskEntry a) s = .next (cutTask a c s2)) ∧
         (∀ r s2, fillTask a l s1 = (r, s2) → walksFirst (dieOf a) s s2 = true →
           exec (.taskEntry a) s = .next (awaitWalks (dieOf a) s s2)) ∧
         (∀ s2, fillTask a l s1 = (.ok (), s2) → walksFirst (dieOf a) s s2 = false →
           (preempts s2 a = false → exec (.taskEntry a) s = .next (startTask a s2)) ∧
           (preempts s2 a = true → exec (.taskEntry a) s = .next (modCore s2 (agIdx a) (fun k =>
             { k with victim := k.victim.map (fun _ => s2.gcyc) }))))))) ∧
  (∀ (s : State),
     exec .schedTick s = .next (sliceEnds (tickAll (noteActivity s))) ∧
     (let s1 := placeAll 64 (failUnfit (noteActivity (endDrains s)))
      exec .placementOpportunity s = .next (if s.gcyc % 4000 = 0 then countPassed s1 else s1)) ∧
     (∀ a : Agent, (ctxOf s a).saveDue = 0 → exec (.sliceSave a) s = .next s) ∧
     (∀ a : Agent, agUrgent a = true → (ctxOf s a).saveDue ≠ 0 →
       (logFull s = true → ∃ t, exec (.sliceSave a) s = .next t ∧ (ctxOf t a).saveDue = 2 ∧ t.log = s.log) ∧
       (logFull s = false → ∃ t, exec (.sliceSave a) s = .next t ∧ (ctxOf t a).saveDue = 0 ∧
         (clusterOf t (clusterOfCore (agIdx a))).drain.elem (funcOfWorld (ctxOf s a).task.world) = true ∧
         ∃ e : LogEntry, t.log.held = s.log.held ++ [e] ∧ e.type = 5 ∧ e.world = (ctxOf s a).task.world ∧
           e.data.toNat = 2 * 2 ^ 8)) ∧
     (∀ a : Agent, agUrgent a = false → 1 ≤ (ctxOf s a).saveDue → (ctxOf s a).saveDue ≤ 2 →
       (unitOf s a).all (saveStands s) = false → exec (.sliceSave a) s = .next s) ∧
     (∀ a : Agent, agUrgent a = false → 3 ≤ (ctxOf s a).saveDue →
       let t := saveUnit (unitOf s a) s
       ((unitOf s a).all (localOpsDone s) = false ∨ logSpace s (unitOf s a).length = false → exec (.sliceSave a) s = .next s) ∧
       ((unitOf s a).all (localOpsDone s) = true → logSpace s (unitOf s a).length = true → exec (.sliceSave a) s =
         .next (if walksFirst (dieOf a) s t then awaitWalks (dieOf a) s t else t))) ∧
     (∀ c : Nat, urgentWaits s c = true → ∃ t, exec (.victimTake c) s = .next t ∧ (coreOf t c).victim = some s.gcyc) ∧
     (∀ c : Nat, urgentWaits s c = false → exec (.victimTake c) s = .next s) ∧
     (∀ k : GangKey, (urgentMembers s k).all (fun a => (ctxOf s a).task.level == 0) = false →
       (urgentMembers s k).all (urgentReady s) = true →
       exec (.urgentEntry k) s = .next ((urgentMembers s k).foldl (fun s a => startTask a s) s)) ∧
     (∀ k : GangKey, (urgentMembers s k).all (fun a => (ctxOf s a).task.level == 0) = true →
       exec (.urgentEntry k) s = .next (((urgentMembers s k).filter (urgentReady s)).foldl (fun s a => startTask a s) s)) ∧
     (∀ c v : Nat, (coreOf s c).victim = some v → holds s (.urgent c) = false → zeroingOver s c = true →
       urgentTakes s c = false → ∃ t, exec (.victimResume c) s = .next t ∧ (coreOf t c).victim = none ∧
         ((ctxOf s (.tile c)).saveDue < 3 → (ctxOf t (.tile c)).causes.elem .urgent = false)))

/-- R78, R79, R112, R114, R172, R294, R331, R346, R351, R352, R356, R357: What ends a wait: each wake ends the wait whose
time or condition has come, with the pair the instruction promised, and leaves a wait of any other kind alone. A TLADD whose
operations have performed advances its timeline, which stops at 2^64 - 1; the arrivals and drops of a gang's domain whose
time has come land together, drops first, and complete the phase where the arrivals reach what is expected; a miss that is
being walked is filled from the page table when its walk ends, a fault caches nothing, and what waits for it waits on till
then. The delays and the time of a walk are free within the rules' bounds (log entries 61, DESIGN CHOICE, and 70, DEDUCED). -/
def Obligations.WaitsAndQueuedEffects : Prop :=
  (∀ (a : Agent) (s : State) (w : Wait), (ctxOf s a).wait = some w →
     let past := ∃ u : Nat, w.until_ = some u ∧ u ≤ s.gcyc
     let world := (ctxOf s a).task.world
     (∀ pa cond cmp k t0 tmo die, w.what = .monitor pa cond cmp k t0 tmo true die → past →
       let t := clearHit a (noteSoft s pa)
       (cond = 4 → exec (.monitorWake a) s = .next (endMonitor a k true (clearHit a s))) ∧
       (∀ m : Word, cond ≠ 4 → readWatch t world pa = .ok m →
         (condHolds cond m cmp = true → exec (.monitorWake a) s = .next (endMonitor a k true t)) ∧
         (condHolds cond m cmp = false → ∃ t1, exec (.monitorWake a) s = .next t1 ∧
           (ctxOf t1 a).wait = some { w with what := .monitor pa cond cmp k t0 tmo false die, until_ := none } ∧
           (ctxOf t1 a).causes = (ctxOf s a).causes)) ∧
       (∀ c : Nat, cond ≠ 4 → readWatch t world pa = .error c → exec (.monitorWake a) s = .next (trapMonitor a w c t))) ∧
     (∀ pa cond cmp k t0 tmo die, w.what = .monitor pa cond cmp k t0 tmo false die →
       (monitorHit s a = none → exec (.monitorWake a) s = .next s) ∧
       (∀ g : Nat, monitorHit s a = some g → ∃ (d : Nat) (t1 : State), d ≤ 512 ∧ exec (.monitorWake a) s = .next t1 ∧
         (ctxOf t1 a).wait = some { w with what := .monitor pa cond cmp k t0 tmo true die, until_ := some (g + d) })) ∧
     (∀ waita cond k tmo l, w.what = .xlate waita cond k tmo l → (l.any s.misses.elem = true →
         exec (.monitorWake a) s = .next s) ∧
       (l.any s.misses.elem = false → waita = false → exec (.monitorWake a) s = .next (reissueY a .launchHold w s))) ∧
     (∀ pa cond cmp k t0 tmo seen die, w.what = .monitor pa cond cmp k t0 tmo seen die →
       (tmo = 0 ∨ s.gcyc < t0 + tmo → exec (.waitaTimeout a) s = .next s) ∧
       (monitorHit s a = none → tmo ≠ 0 → t0 + tmo ≤ s.gcyc →
         exec (.waitaTimeout a) s = .next (endMonitor a k false s))) ∧
     (∀ t n k ok, w.what = .timeline t n k ok → past →
       exec (.timelineWake a) s = .next (putPair a k ok (endWait a .timeline s))) ∧
     (∀ phase again, w.what = .barrier phase again → past →
       exec (.barrierResume a) s = .next (if again then domSend (endWait a .barrier s) a (s.gcyc + 1) false false
         else endWait a .barrier s)) ∧
     (∀ ops scope acq, w.what = .fence ops scope acq →
       (ops.any (fenceBusy s scope acq) = false → exec (.fenceWaitEnd a) s = .next (endWait a .fence s)) ∧
       (ops.any (fenceBusy s scope acq) = true → exec (.fenceWaitEnd a) s = .next s)) ∧
     (∀ num op, w.what = .queue num → opOf s (agEngine a) num = some op →
       queueFull (engineOf s (agEngine a)) (queueKind op.kind) = false →
       exec (.copyQueueEntryFree a) s = .next (endWait a .governor (endWait a .copyQueue
         (setOp s (agEngine a) { op with queued := true })))) ∧
     (∀ k v, w.what = .iverify k v → past → ∃ t, exec (.iverifyFreezeEnd a) s = .next t ∧ (ctxOf t a).wait = none ∧
       (ctxOf t a).pend = (ctxOf s a).pend ++ [⟨(ctxOf s a).clk + 1, (ctxOf s a).clk, 0, .pair k v⟩]) ∧
     (∀ ch : Nat, a = .channel ch → w.what = .precharge → past →
       exec (.prechargeFreezeEnd ch) s = .next (endWait a .rekey (endWait a .rollover s)))) ∧
  (∀ (a : Agent) (s : State),
     let ends : List (Instr × (WaitFor → Bool)) :=
       [(.monitorWake a, fun w => match w with | .monitor _ _ _ _ _ _ _ _ => true | .xlate _ _ _ _ _ => true | _ => false),
        (.waitaTimeout a, fun w => match w with | .monitor _ _ _ _ _ _ _ _ => true | _ => false),
        (.timelineWake a, fun w => match w with | .timeline _ _ _ _ => true | .dwait _ _ => true | _ => false),
        (.barrierResume a, fun w => match w with | .barrier _ _ => true | _ => false),
        (.fenceWaitEnd a, fun w => match w with | .fence _ _ _ => true | .ifence _ _ => true | _ => false),
        (.copyQueueEntryFree a, fun w => match w with | .queue _ => true | _ => false),
        (.iverifyFreezeEnd a, fun w => match w with | .iverify _ _ => true | _ => false)]
     (∀ e ∈ ends, (ctxOf s a).wait.any (fun w => e.2 w.what) = false → exec e.1 s = .next s) ∧
     (∀ ch : Nat, a = .channel ch → (ctxOf s a).wait.any (fun w => w.what == .precharge) = false →
       exec (.prechargeFreezeEnd ch) s = .next s)) ∧
  (∀ (s : State),
     (∀ (id : Nat) (t : TlAddOp), s.tladds.find? (fun q => q.id = id) = some t → tladdReady s t = true →
       ∃ t1, exec (.tladdEffect id) s = .next t1 ∧ t1.tladds = s.tladds.filter (fun q => q.id != id) ∧
         tabGet 0 (worldOf t1 t.world).signals t.idx =
           min (tabGet 0 (worldOf s t.world).signals t.idx + t.amount) (2 ^ 64 - 1)) ∧
     (∀ (id : Nat) (t : TlAddOp), s.tladds.find? (fun q => q.id = id) = some t → tladdReady s t = false →
       exec (.tladdEffect id) s = .next s) ∧
     (∀ (k : DomKey) (d : Dom), domOf s k = some d → d.due.filter (landReady s) = [] → exec (.barrierLanding k) s = .next s) ∧
     (∀ (k : DomKey) (d : Dom), domOf s k = some d → domLeader s k = none → d.due.filter (landReady s) ≠ [] →
       (∀ q ∈ d.due, q.withdraw = false) →
       let l := d.due.filter (landReady s)
       exec (.barrierLanding k) s = .next (applyLandings k ((l.filter (fun q => !q.drop)).length % 2 ^ 32)
         (l.filter (·.drop)).length (modDom s k (fun d => { d with due := d.due.filter (fun q => !landReady s q) })))) ∧
     (∀ (k : DomKey) (d : Dom) (arrivals drops : Nat), domOf s k = some d →
       let n := (d.arrived + arrivals) % 2 ^ 32
       (n < d.expect - drops →
         domOf (applyLandings k arrivals drops s) k = some { d with expect := d.expect - drops, arrived := n }) ∧
       (d.expect - drops ≤ n → k.job = false → (d.expect ≠ drops ∨ d.due ≠ []) → drops ≤ d.expect →
         ∃ d1 : Dom, domOf (applyLandings k arrivals drops s) k = some d1 ∧ d1.phase = d.phase + 1 ∧ d1.arrived = 0 ∧
           d1.expect = d.expect - drops ∧ d1.pending = [])) ∧
     (∀ o : Miss, walking s o = false → exec (.translationFill o) s = .next s) ∧
     (∀ (o : Miss) (z : Nat) (s1 : State), walking s o = true → walkEnd o s = (z, s1) →
       s1.misses = s.misses ∧ s1.trans = s.trans ∧ s1.walks.find? (fun p => p.1 = o) = some (o, z) ∧
       (s.gcyc < z → exec (.translationFill o) s = .next s1) ∧
       (z ≤ s.gcyc → ∃ t, exec (.translationFill o) s = .next (if o.die = 4 then afterWalk o.world t else t) ∧
         t.misses = s.misses.filter (fun m => m != o) ∧
         match walk { s1 with misses := s.misses.filter (fun m => m != o), walks := s1.walks.filter (fun p => p.1 != o) }
           o.world (o.page * 65536) with
         | (.ok e, s2) => t.trans = (cacheTrans s2 o.die o.world (o.page * 65536) e).trans
         | (.error _, _) => t.trans = s.trans)))

/-- R200, R272, R345, R346, R347, R349, R350, R405, R406, R407, R408: The steps of the engines. Whether an operation acts in a
cycle is a free choice (the model's log entry 3), and the statement holds for either: where it acts, an operation that may
begin takes its units and one that has begun performs the next, a copy with no unit left ends, a reduction that has a place
sends or merges its word, and HATOM operates on its home word; else it tries again in the next cycle. A drain atomic of .co leaves the greater of its number and the eight bytes in
the Spool; a cluster's grants are those of its arbitration; an idle engine takes nothing from a cluster that has nothing to
give. -/
def Obligations.EngineSteps : Prop :=
  (∀ (s : State) (e n : Nat) (op : EngOp), opOf s e n = some op → op.at_ ≤ s.gcyc →
     let s1 : State := { s with freeCtr := s.freeCtr + 1 }
     let acts := fun (f : State) => Host.Outcome.next (if Config.freeNat s.freeCtr % 2 = 0 then f else again e n s1)
     let starts := fun (i : Instr) (k : EngKind) (f : State) =>
       op.kind = k → op.stopped = false → op.todoSet = false → (mayStart s1 e op = true ∨ op.taken.isSome = true) →
         exec i s = acts f
     let goesOn := fun (i : Instr) (k : EngKind) (f : State) =>
       op.kind = k → op.stopped = false → op.todoSet = true → exec i s = acts f
     starts (.copyComplete e n) .cpy (copyStart e op s1) ∧ starts (.copyComplete e n) .cpyr (copyStart e op s1) ∧
     goesOn (.copyComplete e n) .cpy (copyAct e op s1) ∧ goesOn (.copyComplete e n) .cpyr (copyAct e op s1) ∧
     (op.todo = [] → op.held = none → copyAct e op s1 = endOp e op.num s1) ∧
     (op.kind = .red → op.stopped = false → op.queued = true → exec (.copyComplete e n) s = acts (redAct e op s1)) ∧
     (op.kind = .red → op.stopped = true → exec (.copyComplete e n) s = .next (endOp e n s1)) ∧
     starts (.krotComplete e n) .krot (setUnits e op [] s1) ∧ goesOn (.krotComplete e n) .krot (krotAct e op s1) ∧
     starts (.sealComplete e n) .seal (sealStart e op s1) ∧ goesOn (.sealComplete e n) .seal (sealAct e op s1) ∧
     starts (.unsealComplete e n) .unseal (setUnits e op (pieces op.x.toNat 256) s1) ∧
     goesOn (.unsealComplete e n) .unseal (unsealAct e op s1) ∧
     starts (.scrubComplete e n) .scrub (setUnits e op (scrubPieces op) s1) ∧
     goesOn (.scrubComplete e n) .scrub (scrubAct e op s1) ∧
     (op.stopped = true → ∀ i : Instr, (i = .copyComplete e n ∧ (op.kind = .cpy ∨ op.kind = .cpyr) ∨
         i = .krotComplete e n ∧ op.kind = .krot ∨ i = .sealComplete e n ∧ op.kind = .seal ∨
         i = .unsealComplete e n ∧ op.kind = .unseal ∨ i = .scrubComplete e n ∧ op.kind = .scrub) →
       exec i s = .next (endOp e n s1)) ∧
     (let cl := bits op.x 29 26
      op.kind = .hatom → op.stopped = false → op.performed = false → op.queued = true → s.cutDies.elem (cl / 4) = false →
       atomBehind s1 e op = false → bankTaken s1 cl (placeBank op.aux) = false →
       (opBanks s1 op cl).elem (placeBank op.aux) = true →
       linePoisoned (takeBank cl (placeBank op.aux) s1) cl op.aux = false → op.ret = true →
       let s2 := takeBank cl (placeBank op.aux) s1
       let m := wd (leNat (pooledBytes s2 cl op.aux 8))
       let s3 := pooledWrite s2 cl op.aux (leBytes 8 (atomicOp op.op m op.z op.cmp).toNat)
       exec (.hatomPerform e n) s = acts (setOp s3 e { op with z := m, performed := true, at_ := s1.gcyc + 1 }))) ∧
  ((∀ (s : State) (id : Nat) (d : DrainAtomic), s.atomics.find? (fun q => q.id = id) = some d → d.at_ ≤ s.gcyc → d.amx = 1 →
     (ctxOf s d.ag).live = true → (ctxOf s d.ag).task.launch = d.launch → (ctxOf s d.ag).task.world = d.world →
     ∃ t, exec (.drainAtomicPerform id) s = .next t ∧ t.atomics = s.atomics.filter (fun q => q.id != id) ∧
       (coreOf t (agIdx d.ag)).spool = memWrite (coreOf s (agIdx d.ag)).spool d.addr
         (leBytes 8 (max (memNat (coreOf s (agIdx d.ag)).spool d.addr 8) d.value))) ∧
   (∀ (s : State) (cl : Nat), let rs := arbitrate [] (pooledReqs s cl)
     exec (.pooledGrant cl) s = .next ([0, 1, 2, 3].foldl (fun s j => releasePooled (4 * cl + j) s)
       (modCluster (rs.foldl (fun s r => grantOne r s) s) cl (fun k => { k with
         busyAt := s.gcyc
         busyBanks := (rs.filter (·.2)).map (fun r => placeBank r.1.place) })))) ∧
   (∀ (s : State) (c : Nat), (engineRuns s c = true ∨ unstarted s c ≠ []) → exec (.copyTake c) s = .next s) ∧
   (∀ (s : State) (c j : Nat) (op : EngOp), engineRuns s c = false → unstarted s c = [] →
     (sortBy (fun j => (1000 - (unstarted s j).length) * 4 + j % 4) (((clusterCores c).filter (· != c)).filter (fun j =>
       !(unstarted s j).isEmpty))).head? = some j →
     (unstarted s j).find? (fun op => op.kind == .cpyr && heldByWorld s c op.world) = some op →
     exec (.copyTake c) s = .next (setOp s j { op with taken := some c, at_ := s.gcyc + 1 })))

/-- R313, R318, R380, R381, R383, R384, R422: A refresh falls due every 7800 chc and one more debt stands against each bank; a
busy bank is idle at its time; a slice read lands its four lines, and a line that is due is gathered; a burst's last step
completes it, in group 5 of its cycle; the service program serves its queue in order, or passes back a channel that has
stopped. Records and logs: a slub record is written where the world gives a place and is dropped where that fails; a log entry
goes into host memory at its place in the ring, LOGHEAD moves past it, and every 4096th has a signed head; the governor adds
its rate to each region's tokens, at most its burst, and admits what waits in order; the end of an egress interval enters each
count that is not 0, and while the log is full keeps it apart from the next interval's. A record waits for the walk of its
address (R114), and one of a world whose SLUBBASE has become 0 waits (log entry 22, DESIGN CHOICE). Group 5 (phase 3 of the model's cycle) and the order of a channel's requests are
the model's (log entries 64, 67). -/
def Obligations.ChannelAndRecordEvents : Prop :=
  (∀ (ch : Nat) (s : State),
     let c := chanOf s ch
     let falls := c.owner ≠ 0 ∧ c.zeroUntil = none ∧ nowChc s = c.refBase + 7800 * (c.ticks + 1)
     (falls → ∃ (t : State) (g : Chan → Chan), exec (.refreshTick ch) s = .next t ∧ t = modChan s ch g ∧
       (g c).ticks = c.ticks + 1 ∧ (∀ b : Nat, b < 32 → debtOf (g c) b = debtOf c b + 1) ∧
       ((g c).refreshFault = true ↔ c.refreshFault = true ∨ ∃ b : Nat, b < 32 ∧ 8 ≤ debtOf c b)) ∧
     (¬ falls → exec (.refreshTick ch) s = .next s) ∧
     (∀ b : Nat,
       (∀ n : Nat, bankOf c b = .busy n →
         exec (.bankBusyEnd ch b) s = .next (if n ≤ nowChc s then setBankState s ch b .idle else s)) ∧
       ((∀ n : Nat, bankOf c b ≠ .busy n) → exec (.bankBusyEnd ch b) s = .next s)) ∧
     (∀ b : DBurst, c.bursts = [b] →
       (burstDue s ch b = false ∨ b.write = true → exec (.drdLanding ch) s = .next s) ∧
       (burstDue s ch b = false ∨ b.write = false → exec (.dwrComplete ch) s = .next s) ∧
       (burstDue s ch b = true → b.write = false →
         (b.ds = true → ∃ t, exec (.drdLanding ch) s = .next t ∧ (chanOf t ch).bursts = [] ∧
           (chanOf t ch).slice = memWrite c.slice b.addr (b.lines.flatMap (fun x => leBytes 64 x.1))) ∧
         (b.ds = false → exec (.drdLanding ch) s = .next (landPooled ch b s))) ∧
       (burstDue s ch b = true → b.write = true →
         (b.step = 4 → s.phase ≠ 3 → exec (.dwrComplete ch) s = .next (burstIntoRow ch b s) ∧
           (chanOf (burstIntoRow ch b s) ch).bursts = []) ∧
         (b.step = 4 → s.phase = 3 → exec (.dwrComplete ch) s = .next s) ∧
         (b.step ≠ 4 → b.ds = true → exec (.dwrComplete ch) s = .next (gatherLine ch 0
           (memBytes c.slice (b.addr + 64 * b.step) 64) (c.slicePoison.elem ((b.addr + 64 * b.step) / 64)) s)) ∧
         (b.step ≠ 4 → b.ds = false → exec (.dwrComplete ch) s = .next s))) ∧
     (c.bursts = [] → exec (.drdLanding ch) s = .next s ∧ exec (.dwrComplete ch) s = .next s) ∧
     (stopReady s ch = true → exec (.serviceRequest ch) s = .next (giveBack ch s)) ∧
     (stopReady s ch = false → c.reqs = [] → exec (.serviceRequest ch) s = .next s) ∧
     (∀ (r : SvcReq) (l : List SvcReq), stopReady s ch = false → c.reqs = r :: l → exec (.serviceRequest ch) s =
       .next (if behindWrite s r then s else serveReq r (modChan s ch (fun c => { c with reqs := l }))))) ∧
  (∀ (s : State) (k : Nat),
     ((tabGet ⟨[], 0⟩ s.slubs k).recs = [] → exec (.slubWrite k) s = .next s) ∧
     (∀ (r : Slub) (l : List Slub), (tabGet ⟨[], 0⟩ s.slubs k).recs = r :: l →
       ((worldOf s r.world).slubBase = 0 → exec (.slubWrite k) s = .next s) ∧
       ((worldOf s r.world).slubBase ≠ 0 → ∀ (q : Except Nat Unit) (t : State),
         writeVirt s (slubDie k) r.world ((worldOf s r.world).slubBase + 64 * ((worldOf s r.world).slubSeq % 65536))
           (slubBytes (worldOf s r.world).slubSeq (tabGet ⟨[], 0⟩ s.slubs k).lost r) = (q, t) →
         (walksFirst (slubDie k) s t = true → exec (.slubWrite k) s = .next (awaitWalks (slubDie k) s t)) ∧
         (walksFirst (slubDie k) s t = false → q.toBool = true → ∃ t1, exec (.slubWrite k) s = .next t1 ∧
           (tabGet ⟨[], 0⟩ t1.slubs k) = ⟨l, 0⟩ ∧
           (worldOf t1 r.world).slubSeq = ((worldOf t r.world).slubSeq + 1) % 2 ^ 64) ∧
         (walksFirst (slubDie k) s t = false → q.toBool = false → exec (.slubWrite k) s = .next (dropSlub k r l s))))) ∧
  (∀ (s : State),
     (s.log.held = [] → exec .logEntryWrite s = .next s) ∧
     (∀ (e : LogEntry) (l : List LogEntry), s.log.held = e :: l →
       let t0 := dmaWrite s 1 (s.log.base + 64 * (e.seq % s.log.size)) (logBytes e) false
       let t : State := { t0 with log := { s.log with head := e.seq + 1, held := l } }
       (logRoom s = false → exec .logEntryWrite s = .next s) ∧
       (logRoom s = true → exec .logEntryWrite s =
         .next (if e.seq % 4096 = 4095 then signHead e.seq (sha256W (toNats (logBytes e))) t else t))) ∧
     (∃ s1 : State, s1 = { s with worlds := s1.worlds } ∧ exec .governorTick s = .next (clearGoverned (admitHeld s.governed s1)) ∧
       ∀ w : Nat, (worldOf s1 w).regions =
         (worldOf s w).regions.map (fun r => { r with tokens := min r.burst (r.tokens + r.rate) })) ∧
     (let entry := fun (e : Egress) (s : State) => logEvent 0x02 e.world
        (leBytes 1 e.region ++ leBytes 1 e.port ++ leBytes 8 e.bytes ++ leBytes 4 e.stalled) s
      (isInterval s = true → s.egressDone = [] → (∀ e ∈ s.egress, e.bytes = 0 ∧ e.stalled = 0) →
        exec .egressInterval s = .next { s with egress := [], egressDone := [] }) ∧
      (∀ e : Egress, isInterval s = true → s.egressDone = [] → s.egress = [e] → (e.bytes ≠ 0 ∨ e.stalled ≠ 0) →
        (logFull s = false → exec .egressInterval s =
          .next { entry e { s with egress := [] } with egressDone := [] }) ∧
        (logFull s = true → exec .egressInterval s = .next { s with egress := [], egressDone := [e] })) ∧
      (∀ (e : Egress) (l : List Egress), s.egressDone = e :: l → isInterval s = false →
        (logFull s = true → exec .egressInterval s = .next s) ∧
        (logFull s = false → exec .egressInterval s = .next (logEgress l (entry e s))))))

/-! ## Requests from outside (spec/95_what_each_step_holds.md) -/

/-- R63, R109, R361, R381, R427, R428, R429, R430, R431, R437: Writes of the PF's registers: WINBASE takes a multiple of 4
GiB up to 0x6F_0000_0000, TROOT the walk root of world 1, LOGBASE and LOGSIZE only with no entry outstanding, LOGACK always.
The debug registers act on the context DBGCORE selects where its world's policy allows, and else set DENIED and change
nothing else; FREEZE freezes the package and enters TYPE 0x03 in the log, with KIND 0 and the worlds it releases. A memory request of a function outside its open range, or a
PF-window request outside the window, is answered Unsupported Request; one within it waits in the queue of its line's
channel, and before that for the walk of its page where that is not cached, behind its function's earlier ones (R114). Entries are outstanding while LOGHEAD and LOGACK differ (log entry 50, DEDUCED), and
the clause on a world's contexts at FREEZE supposes that no readout has to wait (log entry 84, DESIGN CHOICE). -/
def Obligations.HostRequests : Prop :=
  (∀ (v : Word) (s : State),
     (v.toNat % 2 ^ 32 = 0 → v.toNat ≤ 0x6F00000000 → exec (.winbaseWrite v) s = .next { s with winbase := v }) ∧
     (v.toNat % 2 ^ 32 ≠ 0 ∨ 0x6F00000000 < v.toNat → exec (.winbaseWrite v) s = .next s) ∧
     (∃ t, exec (.trootWrite v) s = .next t ∧ (worldOf t 1).troot = v.toNat ∧
       ∀ p ∈ t.trans, p.1 / 2 ^ 40 % 64 ≠ 1) ∧
     (logOutstanding s = false → v.toNat % 4096 = 0 →
       exec (.logbaseWrite v) s = .next { s with log := { s.log with base := v.toNat } }) ∧
     (logOutstanding s = true → exec (.logbaseWrite v) s = .next s ∧ exec (.logsizeWrite v) s = .next s) ∧
     (logOutstanding s = false → 2 ^ 12 ≤ v.toNat → v.toNat ≤ 2 ^ 24 →
       exec (.logsizeWrite v) s = .next { s with log := { s.log with size := v.toNat } }) ∧
     exec (.logackWrite v) s = .next { s with log := { s.log with ack := v.toNat } } ∧
     exec (.registerWrite 0x220 v) s = .next { s with log := { s.log with headAddr := v.toNat } } ∧
     exec (.registerWrite 0x400 v) s = .next { s with dbg := { s.dbg with core := v.toNat % 128 } }) ∧
  (∀ (v : Word) (s : State),
     let w := debugWorld s
     let onPolicy := fun (allowed : Bool) (t : State) =>
       Host.Outcome.next (if allowed then t else { s with dbg := { s.dbg with stat := 2 } })
     let clear : State := { s with dbg := { s.dbg with stat := 0 } }
     exec (.bkptpcWrite v) s = onPolicy (policyStop s w) { clear with dbg := { clear.dbg with
       bkptpc := wd (v.toNat % 2 ^ 24 + v.toNat / 2 ^ 31 % 2 * 2 ^ 31) } } ∧
     exec (.tracectlWrite v) s = onPolicy (policyTrace s w) { clear with dbg := { clear.dbg with
       tracectl := wd (v.toNat / 16 % 16 * 16 + v.toNat % 4) } } ∧
     exec .dbgResume s = onPolicy (policyStop s w) (goOn false clear) ∧
     exec .dbgStep s = onPolicy (policyStop s w) (goOn true clear) ∧
     (s.phase ≠ 1 → exec .dbgStop s = onPolicy (policyStop s w) (askStop clear)) ∧
     (∃ t, exec .freeze s = .next t ∧ t.frozenPkg = true ∧ t.cores = s.cores ∧ t.hbm = s.hbm ∧
       ((∀ w : Nat, captureRegion s w = none) → t.ctxs = s.ctxs ∧ t.log.nextSeq = s.log.nextSeq + 1 ∧
         ∃ e : LogEntry, t.log.last = sha256W (toNats (logBytes e)) ∧ e.seq = s.log.nextSeq ∧ e.gcyc = s.gcyc ∧
           e.type = 3 ∧ e.world = 0 ∧ e.prev = s.log.last ∧ e.data.toNat % 2 ^ 8 = 0 ∧
           e.data.toNat / 2 ^ 8 % 2 ^ 40 = releasedWorlds s % 2 ^ 40))) ∧
  (∀ (o : HostReq) (s : State),
     (rangeOpen s o = false → exec (.hostRange1Request o) s = .next (emit s (.unsupported o.f))) ∧
     (let w := worldOfFunc o.f
      let cached := (transLookup s 4 w o.off).isSome
      (rangeOpen s o = true → (cached = false ∨ (s.hostWaits.any (fun q => q.f == o.f)) = true) →
        exec (.hostRange1Request o) s = .next (addMisses (if cached then [] else [⟨4, w, o.off / 65536⟩])
          { s with hostWaits := s.hostWaits ++ [o] })) ∧
      (rangeOpen s o = true → cached = true → s.hostWaits.any (fun q => q.f == o.f) = false →
        (∀ (pa : Nat) (t : State), translate s 4 w o.off o.write = (.ok pa, t) → exec (.hostRange1Request o) s =
          .next (if targetOf pa = 0 ∧ svcCheck t w pa = 0 then queueRequest o w pa t else emit t (.unsupported o.f))) ∧
        (∀ (c : Nat) (t : State), translate s 4 w o.off o.write = (.error c, t) →
          exec (.hostRange1Request o) s = .next (emit t (.unsupported o.f))))) ∧
     (rangeBytes < o.off + o.len ∨ 4096 < o.off % 4096 + o.len →
       exec (.pfWindowRequest o) s = .next (emit s (.unsupported o.f))) ∧
     (o.off + o.len ≤ rangeBytes → o.off % 4096 + o.len ≤ 4096 → svcCheck s 1 (s.winbase.toNat + o.off) = 0 →
       exec (.pfWindowRequest o) s = .next (queueRequest o 1 (s.winbase.toNat + o.off) s)) ∧
     (∀ src : Nat, exec (.standardRequest src) s = .next (emit s (.fabricUnsupported src))))

/-- R45, R46, R47, R50, R72: The SPDM requests of a ready package: the fixed answers, certificates, challenges and
measurements, and the life of a session; a request in another version than 1.3 is refused. The random values are free (log
entries 3 and 40); the names of the errors are log entry 47 (PRESUMED), and that a request whose row has no version takes the
mailbox's is log entry 86 (DESIGN CHOICE). -/
def Obligations.SpdmRequests : Prop :=
  ∀ (s : State), s.ready = true →
    (exec .getVersion s = .next (emit s (.response "GET_VERSION" [0x13])) ∧
      (s.mailVersion = 0x13 → (∃ l, exec .getCapabilities s = .next (emit s (.response "GET_CAPABILITIES" l))) ∧
        (∃ l, exec .negotiateAlgorithms s = .next (emit s (.response "NEGOTIATE_ALGORITHMS" l)))) ∧
      (s.mailVersion ≠ 0x13 → exec .getCapabilities s = .next (emit s (.spdmError "GET_CAPABILITIES" "VersionMismatch")) ∧
        exec .negotiateAlgorithms s = .next (emit s (.spdmError "NEGOTIATE_ALGORITHMS" "VersionMismatch"))) ∧
      exec .setCertificate s = .next (emit s (.spdmError "SET_CERTIFICATE" "UnsupportedRequest")) ∧
      exec .getCsr s = .next (emit s (.spdmError "GET_CSR" "UnsupportedRequest"))) ∧
    (∀ o : CertReq, o.version = 0x13 → (o.slot ≤ 1 → exec (.getCertificate o) s =
        .next (emit s (.response "GET_CERTIFICATE" (((certChain o.slot).drop o.offset).take o.length)))) ∧
      (1 < o.slot → exec (.getCertificate o) s = .next (emit s (.spdmError "GET_CERTIFICATE" "InvalidRequest")))) ∧
    (∀ o : ChallengeReq, o.version = 0x13 → (o.slot ≤ 1 → ∃ l, exec (.challenge o) s =
        .next (emit { s with freeCtr := s.freeCtr + 1 } (.response "CHALLENGE" l))) ∧
      (1 < o.slot → exec (.challenge o) s = .next (emit s (.spdmError "CHALLENGE" "InvalidRequest"))) ∧
      (s.sessions.length < 32 → o.slot ≤ 1 → ∃ l, exec (.keyExchange o) s = .next (emit { s with
        freeCtr := s.freeCtr + 2
        sessions := s.sessions ++ [⟨freeSession s, false, none⟩] } (.response "KEY_EXCHANGE" l))) ∧
      (32 ≤ s.sessions.length → exec (.keyExchange o) s = .next (emit s (.spdmError "KEY_EXCHANGE" "Busy")))) ∧
    (∀ o : MeasReq, o.version = 0x13 → o.signed = false →
      (o.index = 0 → exec (.getMeasurements o) s =
        .next (emit s (.response "GET_MEASUREMENTS" (leBytes 1 (blockIndices s).length)))) ∧
      (o.index ≠ 0 → o.index ≠ 0xFF → measureBlock s o.index = none →
        exec (.getMeasurements o) s = .next (emit s (.spdmError "GET_MEASUREMENTS" "InvalidRequest")))) ∧
    (∀ (n : Nat) (x : Session), s.mailVersion = 0x13 → sessionOf s n = some x →
      (x.finished = false → ∃ t, exec (.finish n) s = .next (emit t (.response "FINISH" [])) ∧
        (∀ y, sessionOf t n = some y → y.finished = true ∧ y.func = x.func) ∧ (sessionOf t n).isSome = true) ∧
      (x.finished = true → exec (.heartbeat n) s = .next (emit s (.response "HEARTBEAT" [])) ∧
        exec (.endSession n) s = .next (emit { s with sessions := s.sessions.filter (fun x => x.id != n) }
          (.response "END_SESSION" [])))) ∧
    (∀ n : Nat, s.mailVersion = 0x13 → sessionOf s n = none →
      exec (.heartbeat n) s = .next (emit s (.spdmError "HEARTBEAT" "UnexpectedRequest")) ∧
      exec (.finish n) s = .next (emit s (.spdmError "FINISH" "UnexpectedRequest")) ∧
      exec (.endSession n) s = .next (emit s (.spdmError "END_SESSION" "UnexpectedRequest"))) ∧
    (∀ n : Nat, s.mailVersion ≠ 0x13 →
      exec (.heartbeat n) s = .next (emit s (.spdmError "HEARTBEAT" "VersionMismatch")) ∧
      exec (.finish n) s = .next (emit s (.spdmError "FINISH" "VersionMismatch")) ∧
      exec (.endSession n) s = .next (emit s (.spdmError "END_SESSION" "VersionMismatch"))) ∧
    (∀ o : ChallengeReq, o.version ≠ 0x13 → exec (.challenge o) s = .next (emit s (.spdmError "CHALLENGE" "VersionMismatch")) ∧
      exec (.keyExchange o) s = .next (emit s (.spdmError "KEY_EXCHANGE" "VersionMismatch")))

/-- R46, R50, R51, R53, R54, R68, R73, R114, R299, R379, R427: The manager requests of a finished session: binding, which a
refusal ends, key release, custody, resumption, control tasks, channels and debug policy; each in another version than 1.3 is
refused (log entry 86, DESIGN CHOICE). A CONTROL_START waits while a page that it reads is walked. A started channel is answered
once its program's first bundle has issued; till then its request stands first in line, and what the hand-over serves and
zeroes in that step is log entry 56 (DESIGN CHOICE). That a repeated BIND is accepted and that a refused one unbinds a bound
session is log entry 41 (DEDUCED); the world of the log entry of a KEY_RELEASE that is not bound is log entry 83 (DESIGN
CHOICE). -/
def Obligations.ManagerRequests : Prop :=
  ∀ (s : State) (n : Nat) (x : Session), s.ready = true → s.mailVersion = 0x13 → sessionOf s n = some x → x.finished = true →
    (∀ v : Nat, v ≠ 0x13 → ∀ q : StartReq, let t : State := { s with mailVersion := v }
      exec (.controlStart n q) t = .next (emit t (.spdmError "CONTROL_START" "VersionMismatch")) ∧
      ∀ f : Nat, exec (.bindSession n f) t = .next (emit t (.spdmError "BIND" "VersionMismatch"))) ∧
    (∀ f : Nat, (enabledFunc s f = true → (x.func = none ∨ x.func = some f) →
        s.sessions.any (fun y => y.id != n && y.func == some f) = false →
        exec (.bindSession n f) s = .next (answer "BIND" 0 (modSession s n (fun y => { y with func := some f })))) ∧
      ((enabledFunc s f = false ∨ (x.func ≠ none ∧ x.func ≠ some f) ∨
          s.sessions.any (fun y => y.id != n && y.func == some f) = true) →
        exec (.bindSession n f) s = .next (answer "BIND" 1 (modSession s n (fun y => { y with func := none }))))) ∧
    (∀ q : KeyReleaseReq, logFull s = false → q.resv = 0 → exec (.keyRelease n q) s =
      .next (answer "KEY_RELEASE" (keyRelease x q s).1 (logEvent 0x01 (if notBound s x q.function then 0 else q.function + 1)
        (leBytes 2 q.function ++ leBytes 1 q.kind ++ leBytes 1 (keyRelease x q s).1 ++ leBytes 4 q.keyid)
        (keyRelease x q s).2))) ∧
    (∀ q : KeyReleaseReq, q.resv = 0 → q.kind = 0 → q.keyid = 0 →
      (releaseCheck s x q true = 0 → exec (.worldResume n q) s = .next (answer "WORLD_RESUME" 0
        (reissueLaunches (q.function + 1) (modWorld s (q.function + 1) (fun y => { y with held := false }))))) ∧
      (releaseCheck s x q true ≠ 0 →
        exec (.worldResume n q) s = .next (answer "WORLD_RESUME" (releaseCheck s x q true) s))) ∧
    (∀ q : CustodyReq, x.func = some q.function → enabledFunc s q.function = true → q.function ≠ 0 →
      (badRegion s (q.function + 1) q = false → ∃ t, exec (.custodySet n q) s = .next (answer "CUSTODY_SET" 0 t) ∧
        t.pageCustody = spanSet s.pageCustody q.first q.count true ∧
        (worldOf t (q.function + 1)).regions = (worldOf s (q.function + 1)).regions ++
          [⟨q.region, q.first, q.count, q.rate, q.burst, q.burst⟩]) ∧
      (q.region ≤ 15 → exec (.custodyClear n q) s =
        .next (answer "CUSTODY_CLEAR" 0 (freeRegion (q.function + 1) q.region s)))) ∧
    (∀ (q : StartReq) (st : Nat), startCheck s x q.function = st → st ≠ 0 →
      exec (.controlStart n q) s = .next (answer "CONTROL_START" st s) ∧
      exec (.channelStart n q) s = .next (answer "CHANNEL_START" st s)) ∧
    (∀ q : StartReq, startCheck s x q.function = 0 → holds s (.steward q.unit) = false →
      s.stewZero.any (fun p => p.1 == q.unit) = false → q.unit < 8 →
      bm (funcOf s q.function).layout.stewards.toNat q.unit = true →
      let t := match readTask s 4 (worldOfFunc q.function) q.image q.sid with
        | (.ok (some f), s1) => (match (if f.macOk then controlSection f else none) with
          | none => answer "CONTROL_START" 0x0B s1
          | some sec => if 0x20000 < sec.size then answer "CONTROL_START" 0x0B s1
            else match fillSection s1 4 (worldOfFunc q.function) f.file f.image.kmac sec with
              | (.ok (some c), s2) =>
                answer "CONTROL_START" 0 (startControl (worldOfFunc q.function) q.unit f sec c.1 s2)
              | (_, s2) => answer "CONTROL_START" 0x0B s2)
        | (_, s1) => answer "CONTROL_START" 0x0B s1
      (walksFirst 4 s t = false → exec (.controlStart n q) s = .next t) ∧
      (walksFirst 4 s t = true → exec (.controlStart n q) s = .next { awaitWalks 4 s t with control := some q })) ∧
    (∀ q : StartReq, startCheck s x q.function = 0 →
      ((chanOf s q.unit).starting = true → (chanOf s q.unit).func = q.function → exec (.channelStart n q) s =
        .next (answer "CHANNEL_START" 0 (modChan s q.unit (fun c => { c with starting := false })))) ∧
      ((chanOf s q.unit).starting = false → chanTaken (chanOf s q.unit) = true →
        exec (.channelStart n q) s = .next (answer "CHANNEL_START" 0x0C s)) ∧
      ((chanOf s q.unit).starting = false → chanTaken (chanOf s q.unit) = false → q.unit < 256 →
        bm (funcOf s q.function).layout.channels.toNat q.unit = true → s.cutDies.elem (q.unit / 64) = false →
        exec (.channelStart n q) s = .next (match readProgram s (worldOfFunc q.function) q with
          | (some (_, img, _, code), s1) => { handOver (worldOfFunc q.function) q.unit img code s1 with
              inputs := (s.gcyc, .channelStart n q) :: (handOver (worldOfFunc q.function) q.unit img code s1).inputs }
          | (none, s1) => answer "CHANNEL_START" 0x0D s1))) ∧
    (∀ q : StopReq, x.func = some q.f → enabledFunc s q.f = true → (chanOf s q.unit).owner = 0 →
      ((chanOf s q.unit).faultRec = none → exec (.channelStop n q) s = .next (answer "CHANNEL_STOP" 0x0D s)) ∧
      (∀ r : Nat × Nat, (chanOf s q.unit).faultRec = some r → (chanOf s q.unit).func = q.f → exec (.channelStop n q) s =
        .next (stopAnswer (some r) (modChan s q.unit (fun c => { c with faultRec := none, func := 0 }))))) ∧
    (∀ q : StopReq, x.func = some q.f → enabledFunc s q.f = true → (chanOf s q.unit).owner = q.f + 1 →
      ∃ t, exec (.channelStop n q) s = .next { t with inputs := (s.gcyc, .channelStop n q) :: t.inputs } ∧
        t = (if (chanOf s q.unit).stopping then s else stopChannel q.unit (some (0, 0)) s)) ∧
    (∀ f p : Nat, x.func = some f → enabledFunc s f = true → f ≠ 0 →
      exec (.debugPolicy n f p) s =
        .next (answer "DEBUG_POLICY" 0 (modWorld s (f + 1) (fun y => { y with policy := BitVec.ofNat 3 p }))))

/-- R356, R366, R367, R368, R369, R371, R375, R376, R377, R378: A message for this package of a joined job that no check
drops takes its sender's counter, has its effect and is answered with its status; an answer ends the request it names. That a
message for another package has no effect, that every line is checked before any is served, and that an ARRIVE at a package
that does not lead is answered with status 2 are log entry 51 (DEDUCED); how many arrivals of its own a member's count may take
back is log entry 38 (DEDUCED). -/
def Obligations.FabricMessages : Prop :=
  ∀ (m : FabMsg) (s : State) (w : Nat) (j : Job), some m.dst = s.pkg → jobWorld s m.djob = some (w, j) →
    let s1 := modWorld s w (fun x => { x with job := x.job.map (fun j => { j with lastCtr := tabSet j.lastCtr m.src m.ctr }) })
    let b : FabMsg := { m with body := (openMsg j.kt m).getD [] }
    (dropStatus s m 1 = none → lineStatus s1 w b ≠ 0 →
      exec (.fabWrite m) s = .next (reply w b (lineStatus s1 w b) s1)) ∧
    (dropStatus s m 1 = none → lineStatus s1 w b = 0 → m.nline = 1 →
      exec (.fabWrite m) s = .next (reply w b 0 (writeMasked (msgOff b + 64 * 0)
        (leNat ((b.body.drop (64 * 1 + 8 * 0)).take 8)) ((b.body.drop (64 * 0)).take 64) (bm b.op 0) s1))) ∧
    (dropStatus s m 2 = none → lineStatus s1 w b ≠ 0 →
      exec (.fabRead m) s = .next (reply w b (lineStatus s1 w b) s1)) ∧
    (dropStatus s m 2 = none → lineStatus s1 w b = 0 →
      let s2 := (msgLines b).foldl (fun s o => if o < hbmBytes then noteRows s o 64 else s) s1
      exec (.fabRead m) s = .next (sendLines w ((portFor s1 b.src).elim 0 (· + 1))
        ((msgLines b).map (fun o => if o < hbmBytes then some (pageOfAddr o) else none)) (.fabric { newMsg 0x82 b.src 0 with
          rid := b.rid, nline := b.nline, op := (readMsgLines s1 b).2, body := (readMsgLines s1 b).1 }) none s2)) ∧
    (dropStatus s m 3 = none → bm b.op 3 = false → redAddrOk b = false → exec (.redMessage m) s = .next (reply w b 1 s1)) ∧
    (dropStatus s m 3 = none → bm b.op 3 = true → exec (.redMessage m) s = .next (reply w b 4 s1)) ∧
    (dropStatus s m 4 = none → redAddrOk b = false → exec (.mergeMessage m) s = .next (reply w b 4 s1)) ∧
    (∀ (o : Nat) (d : WinDesc), dropStatus s m 3 = none → redAddrOk b = true → redPlace s1 w b = some (o, d) → d.mode = 0 →
      bm b.op 3 = false → exec (.redMessage m) s =
        .next (reply w b 0 (mergeWord d o (b.op % 8) (wd (leNat (b.body.take 8))) 1 s1))) ∧
    (∀ (o : Nat) (d : WinDesc), dropStatus s m 4 = none → redAddrOk b = true → redPlace s1 w b = some (o, d) → d.mode = 1 →
      0x8000 ≤ b.src → b.src < 0x8100 → bm d.switches.toNat (b.src - 0x8000) = true → b.addr / 2 ^ 48 ≠ 0 →
      exec (.mergeMessage m) s =
        .next (reply w b 0 (mergeWord d o (b.op % 8) (wd (leNat (b.body.take 8))) (b.addr / 2 ^ 48) s1))) ∧
    (let n := b.addr % 2 ^ 32
     let k := if n < 2 ^ 31 then n
       else (2 ^ 32 - min (2 ^ 32 - n) ((domOf s1 (jobDom w j)).elim 0 (fun d => tabGet 0 d.came b.src))) % 2 ^ 32
     dropStatus s m 6 = none → some j.leader = s1.pkg → exec (.arrive m) s =
       .next (applyLandings (jobDom w j) k (b.addr / 2 ^ 32) (modDom (reply w b 0 s1) (jobDom w j) (fun d => { d with
         came := tabMod 0 d.came b.src (fun c => (c + k) % 2 ^ 32) })))) ∧
    (dropStatus s m 6 = none → some j.leader ≠ s1.pkg → exec (.arrive m) s = .next (reply w b 2 s1)) ∧
    (dropStatus s m 7 = none → b.src = j.leader → some j.leader ≠ s1.pkg → ∀ d : Dom,
      domOf (reply w b 0 s1) (jobDom w j) = some d → d.phase = b.addr →
      exec (.completeMessage m) s = .next (finishPhase (jobDom w j) (reply w b 0 s1))) ∧
    (dropStatus s m 0x84 = none → exec (.mergeAck m) s = .next s1) ∧
    (∀ r : FabReq, b.status = 0 →
      (dropStatus s m 0x81 = none → requestOf s1 w 1 b = some r → exec (.writeAck m) s = .next (nudge r (endRequest r s1))) ∧
      (dropStatus s m 0x83 = none → requestOf s1 w 3 b = some r → exec (.redAck m) s = .next (nudge r (endRequest r s1))) ∧
      (dropStatus s m 0x86 = none → requestOf s1 w 6 b = some r → exec (.arriveAck m) s = .next (endRequest r s1)) ∧
      (dropStatus s m 0x87 = none → requestOf s1 w 7 b = some r → exec (.completeAck m) s = .next (endRequest r s1)) ∧
      (dropStatus s m 0x82 = none → requestOf s1 w 2 b = some r → exec (.readData m) s =
        .next (nudge r (modEngine (endRequest r s1) r.eng (fun k => { k with ops := k.ops.map (fun op =>
          if op.num = r.num then { op with fetched := op.fetched ++ [(r.unit, leNat (b.body.take 64), bm b.op 0)] }
          else op) }))))) ∧
    (∀ (r : FabReq) (row : Nat), b.status ≠ 0 → row = 1 → dropStatus s m 0x81 = none → requestOf s1 w 1 b = some r →
      exec (.writeAck m) s = .next (failRequest r (causeOf b.status) s1))

/-- R361, R364, R365, R369, R370, R372, R373, R374: Ports, timeouts, job membership, switches and reduction windows. A world
that leaves its job has no contribution of a RED left to send. That a message for another DST has no effect is log entry 51
(DEDUCED); the SPDM messages of an admission, and that those of the world end with its membership, are log entry 52 (DESIGN
CHOICE). -/
def Obligations.FabricManagement : Prop :=
  ∀ (s : State),
    (∀ p : Nat, p < 32 → (s.ports.getLsbD p = true → ∃ t, exec (.portUp p) s = .next t ∧ t.portsUp.getLsbD p = true ∧
        ∀ k : Nat, k < 32 → k ≠ p → t.portsUp.getLsbD k = s.portsUp.getLsbD k) ∧
      (s.ports.getLsbD p = false → exec (.portUp p) s = .next s) ∧
      ((∀ r ∈ s.fabReqs, r.port ≠ p) → (∀ g ∈ s.governed, g.port ≠ p + 1) → ∃ t, exec (.portDown p) s = .next t ∧
        t.portsUp.getLsbD p = false ∧
        ∀ k : Nat, k < 32 → k ≠ p → t.portsUp.getLsbD k = s.portsUp.getLsbD k)) ∧
    (∀ (rid : Nat) (r : FabReq), s.fabReqs.find? (fun q => q.rid = rid && decide (q.deadline ≤ s.gcyc)) = some r →
      exec (.fabricTimeout rid) s = .next (failRequest r 0x0C s)) ∧
    (∀ (k : Nat) (a : Admission), s.admissions.find? (fun q => q.ordinal = k && decide (q.deadline ≤ s.gcyc)) = some a →
      exec (.switchAdmitTimeout k) s = .next (endAdmission a 0x10 s)) ∧
    (∀ (m : FabMsg) (a : Admission), some m.dst = s.pkg → m.opc = 5 → s.admissions.find? (fun q => q.swid = m.src) = some a →
      exec (.mgmt m) s = .next (stepAdmission a m s)) ∧
    (∀ m : FabMsg, some m.dst ≠ s.pkg → exec (.mgmt m) s = .next s ∧ exec (.fabWrite m) s = .next s) ∧
    (∀ (n : Nat) (x : Session), s.ready = true → s.mailVersion = 0x13 → sessionOf s n = some x → x.finished = true →
      (∀ q : JobJoinReq, logFull s = false → joinCheck s x q = 0 → notBound s x q.function = false →
        exec (.jobJoin n q) s = .next (match unwrapJob q with
          | none => answer "JOB_JOIN" 6 (logJob (worldOfFunc q.function) q.djob 0 6 q.leader s)
          | some key => answer "JOB_JOIN" 0 (logJob (worldOfFunc q.function) q.djob 0 0 q.leader (joinJob q key s)))) ∧
      (∀ (f : Nat) (j : Job), logFull s = false → startCheck s x f = 0 → (worldOf s (worldOfFunc f)).job = some j →
        ∃ t, exec (.jobLeave n f j.djob) s = .next (answer "JOB_LEAVE" 0 t) ∧ (worldOf t (worldOfFunc f)).job = none ∧
          (∀ a ∈ t.admissions, a.world ≠ worldOfFunc f) ∧
          ∀ p ∈ t.engines, ∀ op ∈ p.2.ops, op.kind = .red → op.world = worldOfFunc f → op.performed = true) ∧
      (∀ q : SwitchReq, logFull s = false → admitCheck s x q = 0 → notBound s x q.function = false →
        let a : Admission :=
          ⟨worldOfFunc q.function, q.ordinal, q.swid, 1, s.gcyc + switchTime, q.root, q.policy, q.mask, 0⟩
        exec (.switchAdmit n q) s = .next (askSwitch a { s with admissions := s.admissions ++ [a] })) ∧
      (∀ (f : Nat) (d : WinDesc) (j : Job), notBound s x f = false → (worldOf s (worldOfFunc f)).job = some j →
        (makeOk s j d = false → exec (.windowSetMake n f ⟨0, d⟩) s = .next (answer "WINDOW_SET_MAKE" 0x14 s)) ∧
        (makeOk s j d = true →
          let d2 := { d with mode := winMode j d, mac := winMac j.kd { d with mode := winMode j d } }
          exec (.windowSetMake n f ⟨0, d⟩) s =
            .next (emit (tellWindow (worldOfFunc f) d2 s) (.status "WINDOW_SET_MAKE" 0 (descBytes d2)))) ∧
        (logFull s = false → installOk s j d = true → exec (.windowSetInstall n f ⟨0, d⟩) s = .next (answer "WINDOW_SET_INSTALL" 0
          (logEvent 0x0A (worldOfFunc f) (leBytes 4 d.djob ++ leBytes 1 d.window ++ leBytes 1 d.mode ++ leBytes 2 d.home)
            (installWindow (worldOfFunc f) d s))))))

/-- R60, R61, R62, R64, R70: Device interfaces and link encryption: what each state allows, the nonce of a start, and the
error state after a loss of integrity, whatever state the interface is in. When a stream has its keys is log entry 42 (DEDUCED),
the names of the errors are log entry 47 (PRESUMED), and which items a VF answers with a retry is log entry 48 (DEDUCED). -/
def Obligations.InterfaceRequests : Prop :=
  ∀ (s : State) (n f : Nat) (x : Session), s.ready = true → s.mailVersion = 0x13 → sessionOf s n = some x → x.finished = true →
    (x.func = some 0 ∨ x.func = some f) → f ≠ 0 → enabledFunc s f = true →
    exec (.getDeviceInterfaceState n f) s =
      .next (emit s (.response "GET_DEVICE_INTERFACE_STATE" (leBytes 1 (tdiCode (funcOf s f).tdi)))) ∧
    (tdiLocked s f = true → exec (.getDeviceInterfaceReport n f) s =
      .next (emit s (.response "GET_DEVICE_INTERFACE_REPORT" (interfaceReport s f)))) ∧
    (∀ k : Nat, (funcOf s f).tdi = .unlocked → ideReady s k = true → ∃ t,
      exec (.lockInterface n f k) s = .next (emit t (.response "LOCK_INTERFACE" (digestBytes (Config.freeKey s.freeCtr)))) ∧
      (funcOf t f).tdi = .locked ∧ (funcOf t f).nonce = Config.freeKey s.freeCtr ∧ (funcOf t f).ideStream = some k) ∧
    (∀ v : BitVec 256, (funcOf s f).tdi = .locked →
      ((funcOf s f).nonce = v → exec (.startInterface n f v) s =
        .next (emit (setTdi f .run s) (.response "START_INTERFACE" []))) ∧
      ((funcOf s f).nonce ≠ v → exec (.startInterface n f v) s =
        .next (emit s (.spdmError "START_INTERFACE" "InvalidNonce")))) ∧
    (logFull s = false → let s1 := stopInterface f s
      ((worldOf s1 (worldOfFunc f)).tearing = none →
        exec (.stopInterface n f) s = .next (emit s1 (.response "STOP_INTERFACE" []))) ∧
      ((worldOf s1 (worldOfFunc f)).tearing ≠ none →
        exec (.stopInterface n f) s = .next { s1 with inputs := (s.gcyc, .stopInterface n f) :: s1.inputs })) ∧
    ((funcOf s f).tdi ≠ .error →
      exec (.ideIntegrityFailure f) s = .next (tearDown (worldOfFunc f) 1 (setTdi f .error s))) ∧
    ((funcOf s f).tdi = .error → exec (.ideIntegrityFailure f) s = .next s) ∧
    (∀ o : KeyProg, (o.stream < 32 → ∃ t, exec (.keyProg o) s = .next (emit t (.response "KEY_PROG" [])) ∧
        (o.keySet, o.sub, o.key) ∈ (tabGet Ide.reset t.ides o.stream).keys) ∧
      (32 ≤ o.stream → exec (.keyProg o) s = .next (emit s (.spdmError "KEY_PROG" "InvalidRequest")))) ∧
    (∀ st ks ss : Nat, let x := tabGet Ide.reset s.ides st
      let known := x.keys.any (fun k => k.1 == ks && k.2.1 == ss)
      (known = true → ∃ t, exec (.kSetGo st ⟨ks, ss⟩) s = .next (emit t (.response "K_SET_GO" [])) ∧
        (tabGet Ide.reset t.ides st).keys = x.keys ∧
        ∀ c : Nat × Nat, c ∈ (tabGet Ide.reset t.ides st).current ↔ c = (ss, ks) ∨ c ∈ x.current ∧ c.1 ≠ ss) ∧
      (known = false → exec (.kSetGo st ⟨ks, ss⟩) s = .next (emit s (.spdmError "K_SET_GO" "InvalidRequest")))) ∧
    (∀ k : Nat, s.vfEnable = false → exec (.vfEnableSet k) s =
      .next ((List.range k).foldl (fun s i => enableVf s (i + 1)) (resetSched { s with vfEnable := true, numVfs := k }))) ∧
    (s.vfEnable = true → ∃ t, exec .vfEnableClear s = .next t ∧ t.vfEnable = false) ∧
    (∀ o : LockedWrite, (vfRetries s o = true → exec (.lockedItemWrite o) s = .next (emit s (.retry "LOCKED_ITEM_WRITE"))) ∧
      (vfRetries s o = false → itemChanges s o = false → exec (.lockedItemWrite o) s = .next s) ∧
      (vfRetries s o = false → itemChanges s o = true → exec (.lockedItemWrite o) s =
        .next (((itemVfs s o).filter (fun f => f != 0)).foldl (fun s f => enterError f s) (putItem o s))))

/-- R48, R49, R59, R67, R68, R69, R91, R287, R319, R362, R384, R426: The management requests of the host's PF driver: each
accepted change with its status 0, and the refusals the rules name. FW_ACTIVATE ends every SPDM session, and a locked interface
becomes unlocked with its world held. Where the staged image is read from is log entry 58 (DEDUCED); that nothing is staged
after an activation, and that a LAYOUT_SET which repeats a layout changes one all the same, is log entry 83 (DESIGN CHOICE); that
PAGE_MOVE of a group on a die that is cut off is Busy is log entry 92 (DESIGN CHOICE). -/
def Obligations.ManagementRequests : Prop :=
  ∀ (s : State), s.ready = true →
    (∀ (f : Nat) (y : Layout) (r : Nat), (layoutOk s f y r = false → exec (.layoutSet f y r) s = .next (answer "LAYOUT_SET" badArg s)) ∧
      (layoutOk s f y r = true → exec (.layoutSet f y r) s = .next (answer "LAYOUT_SET" 0 (enterError f
        (modFunc (setParts f y { s with layoutGen := s.layoutGen + 1 }) f (fun v => { v with
          layout := y, layoutGen := (setParts f y { s with layoutGen := s.layoutGen + 1 }).layoutGen })))))) ∧
    (∀ a c w : Nat, groupSpan a c = true → 2 ≤ w → w ≤ 32 → (∀ o ∈ spanOwners s a c, o = 1) → clrRoom s (a / 7) (c / 7) = true →
      exec (.pageAssign a c w) s = .next (answer "PAGE_ASSIGN" 0 (passPages a c w s))) ∧
    (∀ a c : Nat, reclaimStatus s a c = 0 → spanOwners s a c ≠ [] →
      let s1 := tearHeld (pageOwner s a) s
      exec (.pageReclaim a c) s = .next (if (worldOf s1 (pageOwner s a)).tearing = none
        then answer "PAGE_RECLAIM" 0 (passPages a c 1 s1)
        else { s1 with inputs := (s.gcyc, .pageReclaim a c) :: s1.inputs })) ∧
    (∀ a c : Nat, reclaimStatus s a c ≠ 0 →
      exec (.pageReclaim a c) s = .next (answer "PAGE_RECLAIM" (reclaimStatus s a c) s)) ∧
    (∀ a l : Nat, 0x4000000 < l → exec (.fwStage a l) s = .next (answer "FW_STAGE" badImage s)) ∧
    (∀ a l : Nat, l ≤ 0x4000000 → exec (.fwStage a l) s = .next (match imageSvn (memBytes s.host a l) with
      | none => answer "FW_STAGE" badImage s
      | some v => if v < s.svn then answer "FW_STAGE" svnLow s
        else answer "FW_STAGE" 0 { stageImage (memBytes s.host a l) s with
          staged := some (v, sha256W (toNats (memBytes s.host a l))) })) ∧
    (∀ (v : Nat) (d : W256), s.staged = some (v, d) →
      (enabledVfs s = [] → openSwitches s = [] → s.admissions = [] → exec .fwActivate s = .next (answer "FW_ACTIVATE" 0
        (logEvent 0x04 0 (leBytes 1 v ++ leBytes 5 0 ++ leBytes 8 d.toNat)
          { s with sessions := [], admissions := [], activeSvn := v, activeDigest := d, staged := none }))) ∧
      ∃ t, exec .fwActivate s = .next t ∧ t.sessions = [] ∧ t.admissions = [] ∧ t.activeSvn = v ∧ t.activeDigest = d ∧
        t.staged = none ∧ ∀ f ∈ enabledVfs s, tdiLocked s f = true →
          (funcOf t f).tdi = .unlocked ∧ (worldOf t (worldOfFunc f)).held = true) ∧
    exec .fwCommit s = .next (answer "FW_COMMIT" 0 { s with svn := max s.svn s.activeSvn }) ∧
    (∀ f w c p : Nat, enabledFunc s f = true → 1 ≤ w → w < 256 → 1 ≤ c → c ≤ 64 → 1 ≤ p → p < 65536 →
      exec (.schedSet f w c p) s = .next (answer "SCHED_SET" 0 (modFunc s f (fun v => { v with sched := some (w, c, p) })))) ∧
    (∀ (f : Nat) (a m : BitVec 256), enabledFunc s f = true →
      exec (.eventSet f a m) s = .next (answer "EVENT_SET" 0 (modFunc s f (fun v => { v with allow := a, mode := m })))) ∧
    (∀ k p : Nat, (k ≤ 1023 → (∀ q ∈ s.worlds, q.2.job = none) → exec (.fabricSet k p) s =
        .next (answer "FABRIC_SET" 0 { s with pkg := some k, ports := BitVec.ofNat 32 p })) ∧
      (1023 < k → exec (.fabricSet k p) s = .next (answer "FABRIC_SET" badArg s))) ∧
    (s.log.head ≠ 0 → exec .logSign s = .next (answer "LOG_SIGN" 0 (signHead (s.log.head - 1) (lastWritten s) s))) ∧
    (∀ ch p : Nat, (16 ≤ p → exec (.nearSet ch p) s = .next (answer "NEAR_SET" badArg s)) ∧
      (p < 16 → chanTaken (chanOf s ch) = true → exec (.nearSet ch p) s = .next (answer "NEAR_SET" busyStatus s)) ∧
      (p < 16 → chanTaken (chanOf s ch) = false → turned (chanOf s ch).pin.toNat p true = [] → turned (chanOf s ch).pin.toNat p false = [] →
        ∃ t, exec (.nearSet ch p) s = .next (answer "NEAR_SET" 0 t) ∧ (chanOf t ch).pin.toNat = p)) ∧
    (∀ a b : Nat, groupSpan a 7 = true → groupSpan b 7 = true → 2 ≤ pageOwner s a → pageOwner s b = 1 →
      chanTaken (chanOf s (chanOfPage a)) = false → chanTaken (chanOf s (chanOfPage b)) = false →
      (groupCut s a = true ∨ groupCut s b = true →
        exec (.pageMove a b) s = .next (emit s (.status "PAGE_MOVE" 6 (leBytes 4 0)))) ∧
      (groupCut s a = false → groupCut s b = false → exec (.pageMove a b) s = .next (emit (logEvent 0x08 (pageOwner s a)
        (leBytes 4 a ++ leBytes 4 b ++ leBytes 4 (movePages a b s).1) (movePages a b s).2)
        (.status "PAGE_MOVE" 0 (leBytes 4 (movePages a b s).1)))))

/-- R71, R421, R432, R433, R434: Resets: a device reset keeps the HBM, the firmware state, and the host's memory, and starts
a bring-up; a hot reset and a lost link keep the package's clock; a thermal trip turns it off; a die cut off is listed once.
That READY stays over a hot reset and the active firmware over a device reset is log entry 53 (DEDUCED); what a cut-off does to
the die's engines, waits and channels is log entry 54 (DEDUCED); the state after a thermal trip is log entry 66 (DEDUCED). -/
def Obligations.ResetEvents : Prop :=
  ∀ (s : State),
    (∃ (t : State) (n : Nat), exec .deviceReset s = .next t ∧ t.gcyc = 0 ∧ t.hbm = s.hbm ∧ t.host = s.host ∧ t.svn = s.svn ∧
      t.activeSvn = s.activeSvn ∧ t.ctxs = State.reset.ctxs ∧ t.cores = State.reset.cores ∧ t.sessions = [] ∧ t.ready = false ∧
      t.bringUp = some n ∧ 1 ≤ n) ∧
    (∃ t : State, exec .hotReset s = .next t ∧ exec .linkDown s = .next t ∧ t.gcyc = s.gcyc ∧ t.hbm = s.hbm ∧ t.ready = s.ready ∧
      t.ctxs = State.reset.ctxs ∧ t.sessions = [] ∧ exec .thermalTrip s = .next { t with poweredOff := true }) ∧
    (∀ n : Nat, s.bringUp = some n → n ≤ s.gcyc → ∃ t, exec .bringUpComplete s = .next t ∧ t.bringUp = none ∧
      (t.ready = true ∨ t.failedBring = true ∧ t.failCode ≠ 0)) ∧
    (∀ n : Nat, s.bringUp = some n → s.gcyc < n → exec .bringUpComplete s = .next s) ∧
    (∀ d : Nat, (s.cutDies.elem d = true → exec (.dieCutOff d) s = .next s) ∧
      (s.cutDies.elem d = false → ∃ t, exec (.dieCutOff d) s = .next t ∧ t = cutWatchers d (cutEngines d
        ((agentsOn { s with cutDies := s.cutDies ++ [d] } d).foldl (fun s a => match a with
          | .channel n => giveBack n (stopChannel n (some (0x0C, 0)) s)
          | _ => cutTask a 0x0C s) { s with cutDies := s.cutDies ++ [d] }))))

/-! ## The whole machine -/

/-- R18, R19, R22, R24, R26, R28: The manual's own words decode to the instructions that it prints beside them. -/
def Obligations.ManualWords : Prop :=
  decodeSlot .tile .a 0x00060C40 = .ok (.add ⟨0, 3, false, 1, true, 2, false⟩) ∧
  decodeSlot .tile .b 0x020C0060 = .ok (.addi ⟨0, 6, false, 0, false, 96⟩) ∧
  decodeSlot .tile .a 0x4E800000 = .ok (.texit ⟨4⟩) ∧
  decodeSlot .tile .a 0x0CC03005 = .ok (.loop ⟨0, 6, false, 5⟩) ∧
  decodeSlot .tile .a 0x06009520 = .ok (.csrwr ⟨0, 0x025, 9, false⟩) ∧
  decodeSlot .tile .b 0xD4D75D50 = .ok (.fadd ⟨13, 11, true, 11, true, 10, true⟩) ∧
  decodeSlot .tile .l 0x84112000 = .ok (.ldk ⟨8, 8, true, 4, false, 0⟩) ∧
  decodeSlot .tile .v0 0x00548110 = .ok (.vadd ⟨0, 0x52, false, 0, true, 1, 0⟩) ∧
  decodeSlot .tile .v1 0x07DC001B = .ok (.vrot ⟨0, 0x70, false, 0, false, 1, 2, true, true⟩) ∧
  decodeSlot .tile .m 0x00400041 = .ok (.mcall ⟨0, 0, 65⟩) ∧
  decodeSlot .tile .y 0x014828CA = .ok (.cpy ⟨0, 4, false, 5, false, 6, 10⟩) ∧
  decodeSlot .steward .y 0x048C0108 = .ok (.launch ⟨0, 6, false, 8, false, 2⟩) ∧
  decodeSlot .channel .l 0x00864018 = .ok (.drd ⟨0, 3, 1, 0, false, true, true⟩) ∧
  decodeSlot .tile .b 0x0C000040 = .error .unassigned ∧
  decodeBundle .tile [0x90060000, 0x00060C40, 0x00548110] = .ok (⟨0x48, false, false, 12⟩,
    [⟨.a, 0x00060C40, .add ⟨0, 3, false, 1, true, 2, false⟩⟩, ⟨.v0, 0x00548110, .vadd ⟨0, 0x52, false, 0, true, 1, 0⟩⟩])

/-- R18, R21, R22, R24, R25, R26, R27, R28: Decode and encode agree: a well-formed instruction's word has 32 bits, and
decodes to it in every slot that takes it; what decodes is a well-formed instruction whose word is the one read, and one that
the slot takes. -/
def Obligations.DecodeEncodeAgree : Prop :=
  (∀ (i : Instr) (k : CoreKind) (sl : Slot), i.isWf = true → slotTakes k sl i = true →
    encodeWord i < 2 ^ 32 ∧ decodeSlot k sl (encodeWord i) = .ok i) ∧
  (∀ (i : Instr) (k : CoreKind) (sl : Slot) (w : Nat), decodeSlot k sl w = .ok i →
    encodeWord i = w ∧ i.isWf = true ∧ slotTakes k sl i = true)

/-- R121, R5: Between steps no bundle is open: whatever the step, it leaves none, for a bundle issues its slots within the
step that opens it. -/
def Obligations.NoOpenBundle : Prop :=
  ∀ (s t : State), s.cur = none → step s = .next t → t.cur = none

/-- R49, R57, R71, R138, R287, R381, R410, R432, R437: The machine right after a device reset, where the manual gives the
value: GCYC 0, no bundle open, no task anywhere, no session; every page to world 1 but the reserved region, without poison or
custody; PIN, the pre-emption pointers, WINBASE, LAYOUTGEN and the log's registers 0; every interface unlocked, with the
empty layout; ports down. That VF Enable is clear is log entry 8 (PRESUMED). -/
def Obligations.ResetState : Prop :=
  let s := State.reset
  s.gcyc = 0 ∧ s.cur = none ∧ s.ready = false ∧ s.sessions = [] ∧ s.winbase = 0 ∧ s.layoutGen = 0 ∧ s.portsUp = 0 ∧
  s.log.base = 0 ∧ s.log.size = 0 ∧ s.log.head = 0 ∧ s.log.ack = 0 ∧ s.log.headAddr = 0 ∧
  (∀ p : Nat, pageOwner s p = if pageReserved p then 0 else 1) ∧ s.pagePoison = [] ∧ s.pageCustody = [] ∧
  (∀ a : Agent, (ctxOf s a).live = false) ∧ (∀ ch : Nat, (chanOf s ch).pin = 0 ∧ (chanOf s ch).owner = 0) ∧
  (∀ c : Nat, (clusterOf s c).prePtr = 0) ∧
  (∀ f : Nat, (funcOf s f).tdi = .unlocked ∧ (funcOf s f).layout = Layout.empty ∧ (funcOf s f).vfEnabled = false) ∧
  (∀ w : Nat, (worldOf s w).nextLaunch = 1 ∧ (worldOf s w).signals = [] ∧ (worldOf s w).ckptCtr = 0)

/-- R5, R129, R434: Every instruction and every other row answers a next state; a step stops only where the package is off
with nothing due and no device reset to come, and it refuses nothing. That a package which is off stands still until a device
reset is log entry 66 (DEDUCED). -/
def Obligations.NothingStopsButPowerOff : Prop :=
  (∀ (i : Instr) (s : State), ∃ t, exec i s = .next t) ∧
  (∀ s : State, (∃ t, step s = .next t) ∨ (step s = .fault .poweredOff ∧ s.poweredOff = true ∧ s.agenda = [] ∧
    ∀ p ∈ s.inputs, takeable s p.2 = false ∧ p.2 ≠ .deviceReset)) ∧
  (∀ s : State, s.poweredOff = true → s.agenda = [] → (∀ p ∈ s.inputs, takeable s p.2 = false) →
    step s = .fault .poweredOff)
end

