-- ==== Sys2Proof/Laws/Memory.lean ====
section
/-!
SUPPORT. Byte memories: every operation keeps the canonical form, and what is written is read, and nothing else
changes.
-/

namespace Sys2Proof.Laws

open Sys2Proof Sys2Proof.Machine

/-! ## The canonical form -/

theorem memWfFrom_iff (lo : Nat) (m : Mem) : memWfFrom lo m = true ↔
    m.Pairwise (fun c d => c.1 < d.1) ∧ ∀ c ∈ m, lo ≤ c.1 ∧ c.2 ≠ 0 := by
  induction m generalizing lo with
  | nil => simp [memWfFrom]
  | cons c t ih =>
    obtain ⟨k, v⟩ := c
    simp only [memWfFrom, Bool.and_eq_true, decide_eq_true_eq, bne_iff_ne, ih, List.pairwise_cons, List.mem_cons,
      forall_eq_or_imp]
    constructor
    · rintro ⟨⟨h1, h2⟩, h3, h4⟩
      exact ⟨⟨fun d hd => (h4 d hd).1, h3⟩, ⟨h1, h2⟩, fun d hd => ⟨by have := (h4 d hd).1; omega, (h4 d hd).2⟩⟩
    · rintro ⟨⟨h1, h2⟩, ⟨h3, h4⟩, h5⟩
      exact ⟨⟨h3, h4⟩, h2, fun d hd => ⟨h1 d hd, (h5 d hd).2⟩⟩

theorem wf_iff (m : Mem) : Memory.wf m = true ↔ m.Pairwise (fun c d => c.1 < d.1) ∧ ∀ c ∈ m, c.2 ≠ 0 := by
  simp [Memory.wf, memWfFrom_iff]

theorem memWfFrom_mono {lo hi : Nat} {m : Mem} (h : memWfFrom hi m = true) (hl : lo ≤ hi) : memWfFrom lo m = true := by
  rw [memWfFrom_iff] at *
  exact ⟨h.1, fun c hc => ⟨hl.trans (h.2 c hc).1, (h.2 c hc).2⟩⟩

theorem wf_nil : Memory.wf [] = true := rfl

/-! ## Reading -/

theorem memGet_of_mem {m : Mem} (h : m.Pairwise (fun c d => c.1 < d.1)) {a : Nat} {b : Byte} (hm : (a, b) ∈ m) :
    memGet m a = b := by
  induction m with
  | nil => simp at hm
  | cons c t ih =>
    obtain ⟨k, v⟩ := c
    rw [List.pairwise_cons] at h
    rcases List.mem_cons.1 hm with e | e
    · cases e; simp [memGet]
    · have := h.1 _ e
      simp only at this
      simp only [memGet, show k ≠ a by omega, show ¬ a < k by omega, if_false, ih h.2 e]

theorem memGet_of_not_mem {m : Mem} {a : Nat} (hm : ∀ c ∈ m, c.1 ≠ a) : memGet m a = 0 := by
  induction m with
  | nil => rfl
  | cons c t ih =>
    obtain ⟨k, v⟩ := c
    rw [List.forall_mem_cons] at hm
    have h1 : k ≠ a := hm.1
    simp only [memGet, h1, if_false, ih hm.2, ite_self]

/-! ## Writing one byte -/

theorem memSet_wfFrom {lo : Nat} {m : Mem} (a : Nat) (b : Byte) (h : memWfFrom lo m = true) (ha : lo ≤ a) :
    memWfFrom lo (memSet m a b) = true := by
  induction m generalizing lo with
  | nil =>
    simp only [memSet]
    split
    · rfl
    · simp only [memWfFrom, Bool.and_eq_true, decide_eq_true_eq, bne_iff_ne]
      exact ⟨⟨ha, ‹_›⟩, trivial⟩
  | cons c t ih =>
    obtain ⟨k, v⟩ := c
    simp only [memWfFrom, Bool.and_eq_true, decide_eq_true_eq, bne_iff_ne] at h
    obtain ⟨⟨h1, h2⟩, h3⟩ := h
    simp only [memSet]
    split
    · split
      · exact memWfFrom_mono h3 (by omega)
      · subst_vars
        simp only [memWfFrom, Bool.and_eq_true, decide_eq_true_eq, bne_iff_ne]
        exact ⟨⟨ha, ‹_›⟩, h3⟩
    · split
      · split
        · simp only [memWfFrom, Bool.and_eq_true, decide_eq_true_eq, bne_iff_ne]
          exact ⟨⟨h1, h2⟩, h3⟩
        · simp only [memWfFrom, Bool.and_eq_true, decide_eq_true_eq, bne_iff_ne]
          exact ⟨⟨ha, ‹_›⟩, ⟨by omega, h2⟩, h3⟩
      · simp only [memWfFrom, Bool.and_eq_true, decide_eq_true_eq, bne_iff_ne]
        exact ⟨⟨h1, h2⟩, ih h3 (by omega)⟩

theorem memSet_wf {m : Mem} (a : Nat) (b : Byte) (h : Memory.wf m = true) : Memory.wf (memSet m a b) = true :=
  memSet_wfFrom a b h (Nat.zero_le a)

theorem memGet_memSet_same {lo : Nat} {m : Mem} (a : Nat) (b : Byte) (h : memWfFrom lo m = true) :
    memGet (memSet m a b) a = b := by
  induction m generalizing lo with
  | nil =>
    simp only [memSet]
    split <;> simp [memGet, *]
  | cons c t ih =>
    obtain ⟨k, v⟩ := c
    simp only [memWfFrom, Bool.and_eq_true, decide_eq_true_eq, bne_iff_ne] at h
    obtain ⟨⟨h1, h2⟩, h3⟩ := h
    simp only [memSet]
    split
    · split
      · subst_vars
        exact memGet_of_not_mem (fun c hc => by have := ((memWfFrom_iff _ _).1 h3).2 c hc; omega)
      · simp [memGet]
    · split
      · split
        · subst_vars
          simp [memGet, *]
        · simp [memGet]
      · simp [memGet, *, ih h3]

theorem memGet_memSet_other {lo : Nat} {m : Mem} (a c : Nat) (b : Byte) (h : memWfFrom lo m = true) (hc : c ≠ a) :
    memGet (memSet m a b) c = memGet m c := by
  induction m generalizing lo with
  | nil =>
    simp only [memSet]
    split <;> simp [memGet, Ne.symm hc]
  | cons e t ih =>
    obtain ⟨k, v⟩ := e
    simp only [memWfFrom, Bool.and_eq_true, decide_eq_true_eq, bne_iff_ne] at h
    obtain ⟨⟨h1, h2⟩, h3⟩ := h
    simp only [memSet]
    split
    · split
      · subst_vars
        by_cases hlt : c < k
        · rw [memGet_of_not_mem (m := t) (fun d hd => by have := ((memWfFrom_iff _ _).1 h3).2 d hd; omega)]
          simp [memGet, Ne.symm hc, hlt]
        · simp [memGet, Ne.symm hc, hlt]
      · subst_vars
        simp [memGet, Ne.symm hc]
    · split
      · split
        · rfl
        · simp only [memGet, Ne.symm hc, if_false]
          grind
      · simp only [memGet, ih h3]

theorem memPuts_wf (l : List Host.Cell) {m : Mem} (h : Memory.wf m = true) : Memory.wf (memPuts m l) = true := by
  induction l generalizing m with
  | nil => exact h
  | cons c l ih => exact ih (memSet_wf c.1 c.2 h)

theorem memGet_memPuts_other (l : List Host.Cell) {m : Mem} (a : Nat) (h : Memory.wf m = true)
    (ha : ∀ c ∈ l, c.1 ≠ a) : memGet (memPuts m l) a = memGet m a := by
  induction l generalizing m with
  | nil => rfl
  | cons c l ih =>
    rw [List.forall_mem_cons] at ha
    exact (ih (memSet_wf c.1 c.2 h) ha.2).trans (memGet_memSet_other c.1 a c.2 h (Ne.symm ha.1))

/-! ## Writing a run of bytes -/

theorem mem_cellsAt {a : Nat} {l : List Byte} {c : Host.Cell} :
    c ∈ cellsAt a l ↔ a ≤ c.1 ∧ c.1 < a + l.length ∧ c.2 = l.getD (c.1 - a) 0 := by
  induction l generalizing a with
  | nil => simp [cellsAt]; omega
  | cons b bs ih =>
    obtain ⟨k, v⟩ := c
    simp only [cellsAt, List.mem_cons, ih, List.length_cons, Prod.mk.injEq]
    constructor
    · rintro (⟨rfl, rfl⟩ | ⟨h1, h2, h3⟩)
      · simp
      · refine ⟨by omega, by omega, ?_⟩
        rw [h3, show k - a = (k - (a + 1)) + 1 by omega, List.getD_cons_succ]
    · rintro ⟨h1, h2, h3⟩
      by_cases e : k = a
      · subst e; left; simpa using h3
      · right
        refine ⟨by omega, by omega, ?_⟩
        rw [h3, show k - a = (k - (a + 1)) + 1 by omega, List.getD_cons_succ]

theorem cellsAt_pairwise (a : Nat) (l : List Byte) : (cellsAt a l).Pairwise (fun c d => c.1 < d.1) := by
  induction l generalizing a with
  | nil => simp [cellsAt]
  | cons b bs ih =>
    simp only [cellsAt, List.pairwise_cons]
    exact ⟨fun d hd => by have := (mem_cellsAt.1 hd).1; omega, ih (a + 1)⟩

theorem memWrite_wf {m : Mem} (a : Nat) (l : List Byte) (h : Memory.wf m = true) :
    Memory.wf (memWrite m a l) = true := by
  rw [wf_iff] at *
  obtain ⟨h1, h2⟩ := h
  simp only [memWrite, List.pairwise_append, List.mem_append, List.mem_filter, decide_eq_true_eq, bne_iff_ne]
  refine ⟨⟨⟨h1.filter _, (cellsAt_pairwise a l).filter _, ?_⟩, h1.filter _, ?_⟩, ?_⟩
  · rintro c ⟨-, hc⟩ d ⟨hd, -⟩
    have := mem_cellsAt.1 hd; omega
  · rintro c (⟨-, hc⟩ | ⟨hc, -⟩) d ⟨-, hd⟩
    · omega
    · have := mem_cellsAt.1 hc; omega
  · rintro c ((⟨hc, -⟩ | ⟨-, hc⟩) | ⟨hc, -⟩)
    · exact h2 c hc
    · exact hc
    · exact h2 c hc

theorem mem_of_memGet_ne {m : Mem} {a : Nat} (h : memGet m a ≠ 0) : (a, memGet m a) ∈ m := by
  induction m with
  | nil => simp [memGet] at h
  | cons c t ih =>
    obtain ⟨k, v⟩ := c
    simp only [memGet] at h ⊢
    split
    · subst_vars; simp
    · split
      · simp_all
      · simp_all

theorem memGet_eq_iff {m : Mem} (h : Memory.wf m = true) (a : Nat) (b : Byte) (hb : b ≠ 0) :
    memGet m a = b ↔ (a, b) ∈ m :=
  ⟨fun e => by subst e; exact mem_of_memGet_ne hb, fun e => memGet_of_mem ((wf_iff m).1 h).1 e⟩

theorem memGet_memWrite_in {m : Mem} (a i : Nat) (l : List Byte) (h : Memory.wf m = true) (hi : i < l.length) :
    memGet (memWrite m a l) (a + i) = l.getD i 0 := by
  have hw := memWrite_wf a l h
  by_cases hb : l.getD i 0 = 0
  · rw [hb]
    refine memGet_of_not_mem (fun c hc => ?_)
    simp only [memWrite, List.mem_append, List.mem_filter, decide_eq_true_eq, bne_iff_ne] at hc
    rcases hc with (⟨-, hc⟩ | ⟨hc, hz⟩) | ⟨-, hc⟩
    · omega
    · intro e
      have h3 := (mem_cellsAt.1 hc).2.2
      rw [e, Nat.add_sub_cancel_left, hb] at h3
      exact hz h3
    · omega
  · rw [memGet_eq_iff hw _ _ hb]
    simp only [memWrite, List.mem_append, List.mem_filter, decide_eq_true_eq, bne_iff_ne]
    exact .inl (.inr ⟨mem_cellsAt.2 ⟨by simp, by simpa using hi, by simp⟩, hb⟩)

theorem memGet_memWrite_out {m : Mem} (a k : Nat) (l : List Byte) (h : Memory.wf m = true)
    (hk : k < a ∨ a + l.length ≤ k) : memGet (memWrite m a l) k = memGet m k := by
  have hw := memWrite_wf a l h
  by_cases hb : memGet m k = 0
  · rw [hb]
    refine memGet_of_not_mem (fun c hc e => ?_)
    simp only [memWrite, List.mem_append, List.mem_filter, decide_eq_true_eq, bne_iff_ne] at hc
    have hn : c ∈ m → False := fun hm => by
      have h1 := memGet_of_mem ((wf_iff m).1 h).1 (a := c.1) (b := c.2) hm
      rw [e, hb] at h1
      exact ((wf_iff m).1 h).2 c hm h1.symm
    rcases hc with (⟨hc, -⟩ | ⟨hc, -⟩) | ⟨hc, -⟩
    · exact hn hc
    · have := mem_cellsAt.1 hc; omega
    · exact hn hc
  · rw [memGet_eq_iff hw _ _ hb]
    have hm := mem_of_memGet_ne hb
    simp only [memWrite, List.mem_append, List.mem_filter, decide_eq_true_eq, bne_iff_ne]
    rcases hk with hk | hk
    · exact .inl (.inl ⟨hm, hk⟩)
    · exact .inr ⟨hm, hk⟩

/-! ## Zeroing -/

theorem memZero_wf {m : Mem} (lo hi : Nat) (h : Memory.wf m = true) : Memory.wf (memZero m lo hi) = true := by
  rw [wf_iff] at *
  exact ⟨h.1.filter _, fun c hc => h.2 c (List.mem_of_mem_filter hc)⟩

theorem memGet_memZero_in {m : Mem} {lo hi k : Nat} (h1 : lo ≤ k) (h2 : k < hi) : memGet (memZero m lo hi) k = 0 := by
  refine memGet_of_not_mem (fun c hc e => ?_)
  simp only [memZero, List.mem_filter, Bool.or_eq_true, decide_eq_true_eq] at hc
  omega

theorem memGet_memZero_out {m : Mem} {lo hi k : Nat} (h : Memory.wf m = true) (hk : k < lo ∨ hi ≤ k) :
    memGet (memZero m lo hi) k = memGet m k := by
  by_cases hb : memGet m k = 0
  · rw [hb]
    refine memGet_of_not_mem (fun c hc e => ?_)
    have hm := List.mem_of_mem_filter hc
    have h1 := memGet_of_mem ((wf_iff m).1 h).1 (a := c.1) (b := c.2) hm
    rw [e, hb] at h1
    exact ((wf_iff m).1 h).2 c hm h1.symm
  · rw [memGet_eq_iff (memZero_wf lo hi h) _ _ hb]
    simp only [memZero, List.mem_filter, Bool.or_eq_true, decide_eq_true_eq]
    exact ⟨mem_of_memGet_ne hb, hk⟩

/-! ## Runs of bytes and numbers -/

theorem memWalk_eq (n a : Nat) (m : Mem) (h : memWfFrom a m = true) :
    memWalk n a m = (List.range n).map (fun i => memGet m (a + i)) := by
  induction n generalizing a m with
  | zero => rfl
  | succ n ih =>
    rw [List.range_succ_eq_map, List.map_cons, List.map_map]
    cases m with
    | nil =>
      simp only [memWalk, ih (a + 1) [] rfl, List.cons.injEq]
      exact ⟨rfl, List.map_congr_left (fun i _ => rfl)⟩
    | cons c t =>
      obtain ⟨k, v⟩ := c
      have hw := h
      simp only [memWfFrom, Bool.and_eq_true, decide_eq_true_eq, bne_iff_ne] at h
      obtain ⟨⟨h1, h2⟩, h3⟩ := h
      simp only [memWalk]
      split
      · subst_vars
        rw [ih _ t h3]
        simp only [Nat.add_zero, memGet, if_true, List.cons.injEq, true_and]
        refine List.map_congr_left (fun i _ => ?_)
        simp only [Function.comp]
        rw [show k + 1 + i = k + i.succ by omega]
        simp only [show k ≠ k + i.succ by omega, show ¬ k + i.succ < k by omega, if_false]
      · rw [ih _ _ (by simp only [memWfFrom, Bool.and_eq_true, decide_eq_true_eq, bne_iff_ne]; exact ⟨⟨by omega, h2⟩, h3⟩)]
        simp only [Nat.add_zero, List.cons.injEq]
        constructor
        · rw [memGet, if_neg (by omega), if_pos (by omega)]
        · refine List.map_congr_left (fun i _ => ?_)
          simp only [Function.comp]
          rw [show a + 1 + i = a + i.succ by omega]

theorem memGet_dropWhile {m : Mem} (a k : Nat) (h : Memory.wf m = true) (hk : a ≤ k) :
    memGet (m.dropWhile (fun c => decide (c.1 < a))) k = memGet m k := by
  induction m with
  | nil => rfl
  | cons c t ih =>
    obtain ⟨j, v⟩ := c
    have hw : Memory.wf t = true := by
      rw [wf_iff] at *
      exact ⟨(List.pairwise_cons.1 h.1).2, fun c hc => h.2 c (List.mem_cons_of_mem _ hc)⟩
    simp only [List.dropWhile_cons, decide_eq_true_eq]
    split
    · rw [ih hw, memGet, if_neg (by omega), if_neg (by omega)]
    · rfl

theorem dropWhile_wfFrom {m : Mem} (a : Nat) (h : Memory.wf m = true) :
    memWfFrom a (m.dropWhile (fun c => decide (c.1 < a))) = true := by
  induction m with
  | nil => rfl
  | cons c t ih =>
    obtain ⟨j, v⟩ := c
    have hw : Memory.wf t = true := by
      rw [wf_iff] at *
      exact ⟨(List.pairwise_cons.1 h.1).2, fun c hc => h.2 c (List.mem_cons_of_mem _ hc)⟩
    simp only [List.dropWhile_cons, decide_eq_true_eq]
    split
    · exact ih hw
    · simp only [Memory.wf, memWfFrom, Bool.and_eq_true, decide_eq_true_eq, bne_iff_ne] at h ⊢
      exact ⟨⟨by omega, h.1.2⟩, h.2⟩

theorem memBytes_eq {m : Mem} (a n : Nat) (h : Memory.wf m = true) :
    memBytes m a n = (List.range n).map (fun i => memGet m (a + i)) := by
  rw [memBytes, memWalk_eq n a _ (dropWhile_wfFrom a h)]
  exact List.map_congr_left (fun i _ => memGet_dropWhile a (a + i) h (Nat.le_add_right a i))

theorem leNat_leBytes (n v : Nat) : leNat (leBytes n v) = v % 256 ^ n := by
  induction n generalizing v with
  | zero => simp [leBytes, leNat, Nat.mod_one]
  | succ n ih =>
    have h := Nat.mod_mul (a := 256) (b := 256 ^ n) (x := v)
    rw [leBytes, leNat, ih, BitVec.toNat_ofNat, show 256 ^ (n + 1) = 256 * 256 ^ n from Nat.pow_succ', h]

theorem length_leBytes (n v : Nat) : (leBytes n v).length = n := by
  induction n generalizing v with
  | zero => rfl
  | succ n ih => simp [leBytes, ih]

theorem memNat_memPutNat {m : Mem} (a n v : Nat) (h : Memory.wf m = true) :
    memNat (memPutNat m a n v) a n = v % 256 ^ n := by
  rw [memNat, memPutNat, memBytes_eq a n (memWrite_wf a _ h), ← leNat_leBytes]
  congr 1
  apply List.ext_getElem
  · simp [length_leBytes]
  · intro i h1 h2
    simp only [List.length_map, List.length_range] at h1
    simp only [List.getElem_map, List.getElem_range]
    rw [memGet_memWrite_in a i _ h (by rw [length_leBytes]; exact h1), List.getD_eq_getElem _ _ h2]

end Sys2Proof.Laws
end

