-- ==== Sys2Proof/Laws/Crypto.lean ====
section
/-!
SUPPORT. The shape of what AES-256 gives: 16 bytes from 16 bytes, and 64 bytes for the key stream of a line (R292). A proof
about encrypted lines cites these and never unfolds the rounds.
-/

namespace Sys2Proof.Laws

open Sys2Proof Sys2Proof.Machine

/-- A byte string of `n` bytes. -/
def IsBytes (n : Nat) (l : List Nat) : Prop := l.length = n ∧ ∀ b ∈ l, b < 256

theorem xor_lt_256 {a b : Nat} (ha : a < 256) (hb : b < 256) : a ^^^ b < 256 :=
  Nat.xor_lt_two_pow (n := 8) ha hb

theorem xorBytes_isBytes {n : Nat} {a b : List Nat} (ha : IsBytes n a) (hb : IsBytes n b) : IsBytes n (xorBytes a b) := by
  induction n generalizing a b with
  | zero =>
    obtain ⟨h, -⟩ := ha
    rw [List.length_eq_zero_iff.1 h]
    exact ⟨rfl, by simp [xorBytes]⟩
  | succ n ih =>
    cases a with
    | nil => simp [IsBytes] at ha
    | cons x a =>
      cases b with
      | nil => simp [IsBytes] at hb
      | cons y b =>
        simp only [IsBytes, List.length_cons, Nat.add_right_cancel_iff, List.mem_cons, forall_eq_or_imp] at ha hb ⊢
        obtain ⟨h1, h2⟩ := ih (a := a) (b := b) ⟨ha.1, ha.2.2⟩ ⟨hb.1, hb.2.2⟩
        simp only [xorBytes, List.length_cons, List.mem_cons, forall_eq_or_imp]
        exact ⟨by omega, xor_lt_256 ha.2.1 hb.2.1, h2⟩

theorem xtime_lt {b : Nat} (h : b < 256) : xtime b < 256 := by
  have key : ∀ x : Fin 256, xtime x.val < 256 := by
    set_option maxRecDepth 4000 in decide
  exact key ⟨b, h⟩

theorem sbox_lt (b : Nat) : sbox b < 256 := Nat.mod_lt _ (by decide)

theorem natBytes_isBytes (n v : Nat) : IsBytes n (natBytes n v) := by
  induction n generalizing v with
  | zero => exact ⟨rfl, by simp [natBytes]⟩
  | succ n ih =>
    obtain ⟨h1, h2⟩ := ih (v / 256)
    simp only [IsBytes, natBytes, List.length_cons, List.mem_cons, forall_eq_or_imp]
    exact ⟨by omega, Nat.mod_lt _ (by decide), h2⟩

/-- Cutting a string of `fuel` pieces of `n` gives just these. -/
theorem chunks_isBytes {n : Nat} (hn : 0 < n) (fuel : Nat) {l : List Nat} (h : IsBytes (n * fuel) l) :
    (chunks n fuel l).length = fuel ∧ ∀ c ∈ chunks n fuel l, IsBytes n c := by
  induction fuel generalizing l with
  | zero => simp [chunks]
  | succ k ih =>
    cases l with
    | nil => simp [IsBytes] at h; omega
    | cons x l =>
      have hl : (x :: l).length = n * k + n := by rw [h.1, Nat.mul_succ]
      have hd : IsBytes (n * k) ((x :: l).drop n) :=
        ⟨by rw [List.length_drop, hl]; omega, fun b hb => h.2 b (List.mem_of_mem_drop hb)⟩
      obtain ⟨h1, h2⟩ := ih hd
      simp only [chunks, List.length_cons, List.mem_cons, forall_eq_or_imp]
      exact ⟨by omega, ⟨by rw [List.length_take, hl]; omega, fun b hb => h.2 b (List.mem_of_mem_take hb)⟩, h2⟩

/-- Words of a key schedule. -/
def IsWords (n : Nat) (ws : List (List Nat)) : Prop := ws.length = n ∧ ∀ w ∈ ws, IsBytes 4 w

theorem IsWords.getD {n : Nat} {ws : List (List Nat)} (h : IsWords n ws) {i : Nat} (hi : i < n) : IsBytes 4 (ws.getD i []) := by
  rw [List.getD_eq_getElem?_getD, List.getElem?_eq_getElem (by rw [h.1]; exact hi)]
  exact h.2 _ (List.getElem_mem _)

theorem IsWords.cons {n : Nat} {ws : List (List Nat)} {w : List Nat} (h : IsWords n ws) (hw : IsBytes 4 w) :
    IsWords (n + 1) (w :: ws) :=
  ⟨by simp [h.1], by simpa using ⟨hw, h.2⟩⟩

theorem map_sbox_isBytes {n : Nat} {l : List Nat} (h : IsBytes n l) : IsBytes n (l.map sbox) :=
  ⟨by simp [h.1], by simp [sbox_lt]⟩

theorem keyWords_isWords (n i rc k : Nat) (ws : List (List Nat)) (hr : rc < 256) (h : IsWords (8 + k) ws) :
    IsWords (8 + k + n) (keyWords n i rc ws) := by
  induction n generalizing i rc k ws with
  | zero => exact h
  | succ n ih =>
    have hp : IsBytes 4 (ws.headD []) := by
      have := h.getD (i := 0) (by omega)
      cases ws with
      | nil => exact this
      | cons w ws => exact this
    have ho : IsBytes 4 (ws.getD 7 []) := h.getD (by omega)
    have step : ∀ t : List Nat, IsBytes 4 t → ∀ rc' : Nat, rc' < 256 →
        IsWords (8 + k + (n + 1)) (keyWords n (i + 1) rc' (xorBytes (ws.getD 7 []) t :: ws)) := by
      intro t ht rc' hrc
      have := ih (i + 1) rc' (k + 1) _ hrc (by simpa [Nat.add_assoc] using h.cons (xorBytes_isBytes ho ht))
      rwa [show 8 + (k + 1) + n = 8 + k + (n + 1) by omega] at this
    simp only [keyWords]
    split
    · refine step _ ?_ _ (xtime_lt hr)
      split
      · simp [IsBytes, sbox_lt, xor_lt_256 (sbox_lt _) hr]
      · exact hp
    · split
      · exact step _ (map_sbox_isBytes hp) _ hr
      · exact step _ hp _ hr

theorem flatten_isBytes {n : Nat} {ws : List (List Nat)} (h : IsWords n ws) : IsBytes (4 * n) ws.flatten := by
  induction ws generalizing n with
  | nil => obtain ⟨h1, -⟩ := h; simp at h1; subst h1; exact ⟨rfl, by simp⟩
  | cons w ws ih =>
    obtain ⟨h1, h2⟩ := h
    simp only [List.mem_cons, forall_eq_or_imp] at h2
    simp only [List.length_cons] at h1
    obtain ⟨h3, h4⟩ := ih (n := n - 1) ⟨by omega, h2.2⟩
    refine ⟨by rw [List.flatten_cons, List.length_append, h3, h2.1.1]; omega, ?_⟩
    intro b hb
    rw [List.flatten_cons, List.mem_append] at hb
    exact hb.elim (h2.1.2 b) (h4 b)

/-- The key schedule of a 256-bit key: 15 round keys of 16 bytes. -/
theorem roundKeys_isBytes (k : W256) :
    (roundKeys (keyBytes k)).length = 15 ∧ ∀ r ∈ roundKeys (keyBytes k), IsBytes 16 r := by
  have h0 := chunks_isBytes (by decide : 0 < 4) 8 (l := keyBytes k) (natBytes_isBytes 32 k.toNat)
  have h1 : IsWords (8 + 0) (chunks 4 8 (keyBytes k)).reverse :=
    ⟨by simp [h0.1], fun w hw => h0.2 w (List.mem_reverse.1 hw)⟩
  have h2 := keyWords_isWords 52 8 1 0 _ (by decide) h1
  have h3 : IsWords 60 (keyWords 52 8 1 (chunks 4 8 (keyBytes k)).reverse).reverse :=
    ⟨by simp [h2.1], fun w hw => h2.2 w (List.mem_reverse.1 hw)⟩
  exact chunks_isBytes (by decide : 0 < 16) 15 (flatten_isBytes h3)

theorem shiftRows_isBytes {l : List Nat} (h : ∀ b ∈ l, b < 256) : IsBytes 16 (shiftRows l) := by
  refine ⟨by simp [shiftRows], ?_⟩
  intro b hb
  simp only [shiftRows, List.mem_map] at hb
  obtain ⟨i, -, rfl⟩ := hb
  rw [List.getD_eq_getElem?_getD]
  rcases hg : l[i]? with _ | x
  · simp
  · exact h x (List.mem_of_getElem? hg)

theorem mixColumns_isBytes (n : Nat) {l : List Nat} (h : IsBytes (4 * n) l) : IsBytes (4 * n) (mixColumns l) := by
  induction n generalizing l with
  | zero =>
    rw [List.length_eq_zero_iff.1 h.1]
    exact ⟨rfl, by simp [mixColumns]⟩
  | succ n ih =>
    match l, h with
    | a :: b :: c :: d :: rest, h =>
      simp only [IsBytes, List.length_cons, List.mem_cons, forall_eq_or_imp] at h
      obtain ⟨hl, ha, hb, hc, hd, hr⟩ := h
      obtain ⟨h1, h2⟩ := ih (l := rest) ⟨by omega, hr⟩
      simp only [IsBytes, mixColumns, List.length_cons, List.mem_cons, forall_eq_or_imp]
      refine ⟨by omega, ?_, ?_, ?_, ?_, h2⟩ <;>
        exact xor_lt_256 (xor_lt_256 (xor_lt_256 (xor_lt_256 (by first | exact xtime_lt ‹_› | assumption)
          (by first | exact xtime_lt ‹_› | assumption)) (by first | exact xtime_lt ‹_› | assumption))
          (by first | exact xtime_lt ‹_› | assumption)) (by first | assumption | exact xtime_lt ‹_›)
    | [], h => simp [IsBytes] at h
    | [_], h => simp [IsBytes] at h; omega
    | [_, _], h => simp [IsBytes] at h; omega
    | [_, _, _], h => simp [IsBytes] at h; omega

theorem aesRounds_isBytes (ks : List (List Nat)) {st : List Nat} (hk : ∀ k ∈ ks, IsBytes 16 k) (h : IsBytes 16 st) :
    IsBytes 16 (aesRounds ks st) := by
  induction ks generalizing st with
  | nil => exact h
  | cons k ks ih =>
    have hs := shiftRows_isBytes (map_sbox_isBytes h).2
    cases ks with
    | nil => exact xorBytes_isBytes hs (hk k (by simp))
    | cons k2 ks =>
      exact ih (fun r hr => hk r (List.mem_cons_of_mem _ hr))
        (xorBytes_isBytes (mixColumns_isBytes 4 hs) (hk k (by simp)))

/-- AES-256 takes 16 bytes to 16 bytes. -/
theorem aesBlock_isBytes (k : W256) {l : List Nat} (h : IsBytes 16 l) : IsBytes 16 (aesBlock (roundKeys (keyBytes k)) l) := by
  obtain ⟨hl, hk⟩ := roundKeys_isBytes k
  refine aesRounds_isBytes _ (fun r hr => hk r (List.mem_of_mem_drop hr)) (xorBytes_isBytes h ?_)
  rcases hr : roundKeys (keyBytes k) with _ | ⟨r, rs⟩
  · simp [hr] at hl
  · exact hk r (by simp [hr])

/-- R292: the key stream of a line is 64 bytes. -/
theorem lineStream_isBytes (key : W256) (kg : Nat) (s : State) (r : RowRef) (i major minor : Nat) :
    IsBytes 64 (lineStream (lineKeys key kg) s r i major minor) := by
  have hb : ∀ v : Nat, IsBytes 16 (aesBlock (lineKeys key kg).enc (natBytes 16 v)) :=
    fun v => aesBlock_isBytes _ (natBytes_isBytes 16 v)
  simp only [lineStream, List.flatMap_cons, List.flatMap_nil, List.append_nil]
  refine ⟨by simp [(hb _).1], ?_⟩
  intro b hm
  simp only [List.mem_append] at hm
  rcases hm with hm | hm | hm | hm <;> exact (hb _).2 b hm

theorem toNats_toBytes {l : List Nat} (h : ∀ b ∈ l, b < 256) : toNats (toBytes l) = l := by
  rw [toNats, toBytes, List.map_map]
  conv_rhs => rw [← List.map_id l]
  exact List.map_congr_left (fun b hb => by simpa using Nat.mod_eq_of_lt (h b hb))

theorem toNats_isBytes (l : List Byte) : IsBytes l.length (toNats l) :=
  ⟨by simp [toNats], fun b hb => by
    simp only [toNats, List.mem_map] at hb
    obtain ⟨x, -, rfl⟩ := hb
    exact x.isLt⟩

/-- What a stream covers it uncovers. -/
theorem xorBytes_xorBytes {a b : List Nat} (h : a.length ≤ b.length) : xorBytes (xorBytes a b) b = a := by
  induction a generalizing b with
  | nil => simp [xorBytes]
  | cons x a ih =>
    cases b with
    | nil => simp at h
    | cons y b => simp [xorBytes, ih (by simpa using h)]

/-- What has been written as a run of bytes is read back. -/
theorem memBytes_memWrite_same {m : Mem} (a : Nat) (l : List Byte) (h : Memory.wf m = true) :
    memBytes (memWrite m a l) a l.length = l := by
  rw [memBytes_eq _ _ (memWrite_wf a l h)]
  refine List.ext_getElem (by simp) (fun i h1 h2 => ?_)
  simp only [List.getElem_map, List.getElem_range]
  rw [memGet_memWrite_in a i l h (by simpa using h2)]
  simp [List.getD_eq_getElem?_getD, List.getElem?_eq_getElem (by simpa using h2 : i < l.length)]

/-- What is written elsewhere leaves a run of bytes alone. -/
theorem memBytes_memWrite_other {m : Mem} (a b n : Nat) (l : List Byte) (h : Memory.wf m = true)
    (hd : b + n ≤ a ∨ a + l.length ≤ b) : memBytes (memWrite m a l) b n = memBytes m b n := by
  rw [memBytes_eq _ _ (memWrite_wf a l h), memBytes_eq _ _ h]
  refine List.map_congr_left (fun i hi => ?_)
  exact memGet_memWrite_out a (b + i) l h (by simp at hi; omega)

end Sys2Proof.Laws
end

