-- ==== Sys2Proof/Laws/Exec.lean ====
section
/-!
SUPPORT. One equation per row: the meaning that `exec` calls.
-/

namespace Sys2Proof.Laws

open Sys2Proof.Machine

theorem exec_add (o) (s : State) : exec (.add o) s = execAdd o s := rfl
theorem exec_sub (o) (s : State) : exec (.sub o) s = execSub o s := rfl
theorem exec_and (o) (s : State) : exec (.and o) s = execAnd o s := rfl
theorem exec_or (o) (s : State) : exec (.or o) s = execOr o s := rfl
theorem exec_xor (o) (s : State) : exec (.xor o) s = execXor o s := rfl
theorem exec_andn (o) (s : State) : exec (.andn o) s = execAndn o s := rfl
theorem exec_min (o) (s : State) : exec (.min o) s = execMin o s := rfl
theorem exec_max (o) (s : State) : exec (.max o) s = execMax o s := rfl
theorem exec_mins (o) (s : State) : exec (.mins o) s = execMins o s := rfl
theorem exec_maxs (o) (s : State) : exec (.maxs o) s = execMaxs o s := rfl
theorem exec_shl (o) (s : State) : exec (.shl o) s = execShl o s := rfl
theorem exec_shr (o) (s : State) : exec (.shr o) s = execShr o s := rfl
theorem exec_sra (o) (s : State) : exec (.sra o) s = execSra o s := rfl
theorem exec_fsl (o) (s : State) : exec (.fsl o) s = execFsl o s := rfl
theorem exec_fsr (o) (s : State) : exec (.fsr o) s = execFsr o s := rfl
theorem exec_mul (o) (s : State) : exec (.mul o) s = execMul o s := rfl
theorem exec_mulh (o) (s : State) : exec (.mulh o) s = execMulh o s := rfl
theorem exec_mulhs (o) (s : State) : exec (.mulhs o) s = execMulhs o s := rfl
theorem exec_div (o) (s : State) : exec (.div o) s = execDiv o s := rfl
theorem exec_divs (o) (s : State) : exec (.divs o) s = execDivs o s := rfl
theorem exec_rem (o) (s : State) : exec (.rem o) s = execRem o s := rfl
theorem exec_rems (o) (s : State) : exec (.rems o) s = execRems o s := rfl
theorem exec_mov (o) (s : State) : exec (.mov o) s = execMov o s := rfl
theorem exec_clz (o) (s : State) : exec (.clz o) s = execClz o s := rfl
theorem exec_ctz (o) (s : State) : exec (.ctz o) s = execCtz o s := rfl
theorem exec_popc (o) (s : State) : exec (.popc o) s = execPopc o s := rfl
theorem exec_brev (o) (s : State) : exec (.brev o) s = execBrev o s := rfl
theorem exec_sel (o) (s : State) : exec (.sel o) s = execSel o s := rfl
theorem exec_adds (o) (s : State) : exec (.adds o) s = execAdds o s := rfl
theorem exec_cmp (o) (s : State) : exec (.cmp o) s = execCmp o s := rfl
theorem exec_cmpi (o) (s : State) : exec (.cmpi o) s = execCmpi o s := rfl
theorem exec_fcmp (o) (s : State) : exec (.fcmp o) s = execFcmp o s := rfl
theorem exec_addi (o) (s : State) : exec (.addi o) s = execAddi o s := rfl
theorem exec_andi (o) (s : State) : exec (.andi o) s = execAndi o s := rfl
theorem exec_ori (o) (s : State) : exec (.ori o) s = execOri o s := rfl
theorem exec_xori (o) (s : State) : exec (.xori o) s = execXori o s := rfl
theorem exec_shli (o) (s : State) : exec (.shli o) s = execShli o s := rfl
theorem exec_shri (o) (s : State) : exec (.shri o) s = execShri o s := rfl
theorem exec_srai (o) (s : State) : exec (.srai o) s = execSrai o s := rfl
theorem exec_lim (o) (s : State) : exec (.lim o) s = execLim o s := rfl
theorem exec_lih (o) (s : State) : exec (.lih o) s = execLih o s := rfl
theorem exec_pand (o) (s : State) : exec (.pand o) s = execPand o s := rfl
theorem exec_por (o) (s : State) : exec (.por o) s = execPor o s := rfl
theorem exec_pxor (o) (s : State) : exec (.pxor o) s = execPxor o s := rfl
theorem exec_pandn (o) (s : State) : exec (.pandn o) s = execPandn o s := rfl
theorem exec_pset (o) (s : State) : exec (.pset o) s = execPset o s := rfl
theorem exec_fadd (o) (s : State) : exec (.fadd o) s = execFadd o s := rfl
theorem exec_fsub (o) (s : State) : exec (.fsub o) s = execFsub o s := rfl
theorem exec_fmul (o) (s : State) : exec (.fmul o) s = execFmul o s := rfl
theorem exec_fmin (o) (s : State) : exec (.fmin o) s = execFmin o s := rfl
theorem exec_fmax (o) (s : State) : exec (.fmax o) s = execFmax o s := rfl
theorem exec_ffma (o) (s : State) : exec (.ffma o) s = execFfma o s := rfl
theorem exec_fcvt (o) (s : State) : exec (.fcvt o) s = execFcvt o s := rfl
theorem exec_qlen (o) (s : State) : exec (.qlen o) s = execQlen o s := rfl
theorem exec_qclr (o) (s : State) : exec (.qclr o) s = execQclr o s := rfl
theorem exec_csrrd (o) (s : State) : exec (.csrrd o) s = execCsrrd o s := rfl
theorem exec_csrwr (o) (s : State) : exec (.csrwr o) s = execCsrwr o s := rfl
theorem exec_br (o) (s : State) : exec (.br o) s = execBr o s := rfl
theorem exec_brl (o) (s : State) : exec (.brl o) s = execBrl o s := rfl
theorem exec_bri (o) (s : State) : exec (.bri o) s = execBri o s := rfl
theorem exec_loop (o) (s : State) : exec (.loop o) s = execLoop o s := rfl
theorem exec_loopi (o) (s : State) : exec (.loopi o) s = execLoopi o s := rfl
theorem exec_loopiK (o) (s : State) : exec (.loopiK o) s = execLoopiK o s := rfl
theorem exec_bswap (o) (s : State) : exec (.bswap o) s = execBswap o s := rfl
theorem exec_ifence (o) (s : State) : exec (.ifence o) s = execIfence o s := rfl
theorem exec_iverify (o) (s : State) : exec (.iverify o) s = execIverify o s := rfl
theorem exec_trap (o) (s : State) : exec (.trap o) s = execTrap o s := rfl
theorem exec_eret (o) (s : State) : exec (.eret o) s = execEret o s := rfl
theorem exec_texit (o) (s : State) : exec (.texit o) s = execTexit o s := rfl
theorem exec_bkpt (o) (s : State) : exec (.bkpt o) s = execBkpt o s := rfl
theorem exec_ldb (o) (s : State) : exec (.ldb o) s = execLdb o s := rfl
theorem exec_ldbu (o) (s : State) : exec (.ldbu o) s = execLdbu o s := rfl
theorem exec_ldh (o) (s : State) : exec (.ldh o) s = execLdh o s := rfl
theorem exec_ldhu (o) (s : State) : exec (.ldhu o) s = execLdhu o s := rfl
theorem exec_ldw (o) (s : State) : exec (.ldw o) s = execLdw o s := rfl
theorem exec_ldwu (o) (s : State) : exec (.ldwu o) s = execLdwu o s := rfl
theorem exec_ldd (o) (s : State) : exec (.ldd o) s = execLdd o s := rfl
theorem exec_stb (o) (s : State) : exec (.stb o) s = execStb o s := rfl
theorem exec_sth (o) (s : State) : exec (.sth o) s = execSth o s := rfl
theorem exec_stw (o) (s : State) : exec (.stw o) s = execStw o s := rfl
theorem exec_std (o) (s : State) : exec (.std o) s = execStd o s := rfl
theorem exec_lds (o) (s : State) : exec (.lds o) s = execLds o s := rfl
theorem exec_sts (o) (s : State) : exec (.sts o) s = execSts o s := rfl
theorem exec_ldc (o) (s : State) : exec (.ldc o) s = execLdc o s := rfl
theorem exec_stc (o) (s : State) : exec (.stc o) s = execStc o s := rfl
theorem exec_ldk (o) (s : State) : exec (.ldk o) s = execLdk o s := rfl
theorem exec_vld (o) (s : State) : exec (.vld o) s = execVld o s := rfl
theorem exec_vst (o) (s : State) : exec (.vst o) s = execVst o s := rfl
theorem exec_vstm (o) (s : State) : exec (.vstm o) s = execVstm o s := rfl
theorem exec_vlds (o) (s : State) : exec (.vlds o) s = execVlds o s := rfl
theorem exec_vsts (o) (s : State) : exec (.vsts o) s = execVsts o s := rfl
theorem exec_latom (o) (s : State) : exec (.latom o) s = execLatom o s := rfl
theorem exec_sendt (o) (s : State) : exec (.sendt o) s = execSendt o s := rfl
theorem exec_recvt (o) (s : State) : exec (.recvt o) s = execRecvt o s := rfl
theorem exec_vadd (o) (s : State) : exec (.vadd o) s = execVadd o s := rfl
theorem exec_vsub (o) (s : State) : exec (.vsub o) s = execVsub o s := rfl
theorem exec_vmul (o) (s : State) : exec (.vmul o) s = execVmul o s := rfl
theorem exec_vfma (o) (s : State) : exec (.vfma o) s = execVfma o s := rfl
theorem exec_vfms (o) (s : State) : exec (.vfms o) s = execVfms o s := rfl
theorem exec_vaccr (o) (s : State) : exec (.vaccr o) s = execVaccr o s := rfl
theorem exec_vmin (o) (s : State) : exec (.vmin o) s = execVmin o s := rfl
theorem exec_vmax (o) (s : State) : exec (.vmax o) s = execVmax o s := rfl
theorem exec_vabs (o) (s : State) : exec (.vabs o) s = execVabs o s := rfl
theorem exec_vneg (o) (s : State) : exec (.vneg o) s = execVneg o s := rfl
theorem exec_vand (o) (s : State) : exec (.vand o) s = execVand o s := rfl
theorem exec_vor (o) (s : State) : exec (.vor o) s = execVor o s := rfl
theorem exec_vxor (o) (s : State) : exec (.vxor o) s = execVxor o s := rfl
theorem exec_vandn (o) (s : State) : exec (.vandn o) s = execVandn o s := rfl
theorem exec_vshl (o) (s : State) : exec (.vshl o) s = execVshl o s := rfl
theorem exec_vshr (o) (s : State) : exec (.vshr o) s = execVshr o s := rfl
theorem exec_vsra (o) (s : State) : exec (.vsra o) s = execVsra o s := rfl
theorem exec_vfsl (o) (s : State) : exec (.vfsl o) s = execVfsl o s := rfl
theorem exec_vfsr (o) (s : State) : exec (.vfsr o) s = execVfsr o s := rfl
theorem exec_vcmp (o) (s : State) : exec (.vcmp o) s = execVcmp o s := rfl
theorem exec_vsel (o) (s : State) : exec (.vsel o) s = execVsel o s := rfl
theorem exec_vcvt (o) (s : State) : exec (.vcvt o) s = execVcvt o s := rfl
theorem exec_vqnt (o) (s : State) : exec (.vqnt o) s = execVqnt o s := rfl
theorem exec_vdqnt (o) (s : State) : exec (.vdqnt o) s = execVdqnt o s := rfl
theorem exec_vrmax (o) (s : State) : exec (.vrmax o) s = execVrmax o s := rfl
theorem exec_vrmin (o) (s : State) : exec (.vrmin o) s = execVrmin o s := rfl
theorem exec_vramax (o) (s : State) : exec (.vramax o) s = execVramax o s := rfl
theorem exec_vradd (o) (s : State) : exec (.vradd o) s = execVradd o s := rfl
theorem exec_vscan (o) (s : State) : exec (.vscan o) s = execVscan o s := rfl
theorem exec_vperm (o) (s : State) : exec (.vperm o) s = execVperm o s := rfl
theorem exec_vrot (o) (s : State) : exec (.vrot o) s = execVrot o s := rfl
theorem exec_vbcast (o) (s : State) : exec (.vbcast o) s = execVbcast o s := rfl
theorem exec_vextr (o) (s : State) : exec (.vextr o) s = execVextr o s := rfl
theorem exec_viota (o) (s : State) : exec (.viota o) s = execViota o s := rfl
theorem exec_vpack (o) (s : State) : exec (.vpack o) s = execVpack o s := rfl
theorem exec_vunpk (o) (s : State) : exec (.vunpk o) s = execVunpk o s := rfl
theorem exec_vclz (o) (s : State) : exec (.vclz o) s = execVclz o s := rfl
theorem exec_vpopc (o) (s : State) : exec (.vpopc o) s = execVpopc o s := rfl
theorem exec_vexp2 (o) (s : State) : exec (.vexp2 o) s = execVexp2 o s := rfl
theorem exec_vlog2 (o) (s : State) : exec (.vlog2 o) s = execVlog2 o s := rfl
theorem exec_vrcp (o) (s : State) : exec (.vrcp o) s = execVrcp o s := rfl
theorem exec_vrsq (o) (s : State) : exec (.vrsq o) s = execVrsq o s := rfl
theorem exec_vpand (o) (s : State) : exec (.vpand o) s = execVpand o s := rfl
theorem exec_vpor (o) (s : State) : exec (.vpor o) s = execVpor o s := rfl
theorem exec_vpxor (o) (s : State) : exec (.vpxor o) s = execVpxor o s := rfl
theorem exec_vpset (o) (s : State) : exec (.vpset o) s = execVpset o s := rfl
theorem exec_vpcnt (o) (s : State) : exec (.vpcnt o) s = execVpcnt o s := rfl
theorem exec_mcall (o) (s : State) : exec (.mcall o) s = execMcall o s := rfl
theorem exec_mparm (o) (s : State) : exec (.mparm o) s = execMparm o s := rfl
theorem exec_mstep (o) (s : State) : exec (.mstep o) s = execMstep o s := rfl
theorem exec_msteprd (o) (s : State) : exec (.msteprd o) s = execMsteprd o s := rfl
theorem exec_mzero (o) (s : State) : exec (.mzero o) s = execMzero o s := rfl
theorem exec_mzeroAll (o) (s : State) : exec (.mzeroAll o) s = execMzeroAll o s := rfl
theorem exec_mmpc (o) (s : State) : exec (.mmpc o) s = execMmpc o s := rfl
theorem exec_yset (o) (s : State) : exec (.yset o) s = execYset o s := rfl
theorem exec_yget (o) (s : State) : exec (.yget o) s = execYget o s := rfl
theorem exec_ygo (o) (s : State) : exec (.ygo o) s = execYgo o s := rfl
theorem exec_yhalt (o) (s : State) : exec (.yhalt o) s = execYhalt o s := rfl
theorem exec_yhaltAll (o) (s : State) : exec (.yhaltAll o) s = execYhaltAll o s := rfl
theorem exec_cpy (o) (s : State) : exec (.cpy o) s = execCpy o s := rfl
theorem exec_cpyr (o) (s : State) : exec (.cpyr o) s = execCpyr o s := rfl
theorem exec_hatom (o) (s : State) : exec (.hatom o) s = execHatom o s := rfl
theorem exec_red (o) (s : State) : exec (.red o) s = execRed o s := rfl
theorem exec_tladd (o) (s : State) : exec (.tladd o) s = execTladd o s := rfl
theorem exec_tlwait (o) (s : State) : exec (.tlwait o) s = execTlwait o s := rfl
theorem exec_tlpoll (o) (s : State) : exec (.tlpoll o) s = execTlpoll o s := rfl
theorem exec_tlrd (o) (s : State) : exec (.tlrd o) s = execTlrd o s := rfl
theorem exec_waita (o) (s : State) : exec (.waita o) s = execWaita o s := rfl
theorem exec_bar (o) (s : State) : exec (.bar o) s = execBar o s := rfl
theorem exec_bara (o) (s : State) : exec (.bara o) s = execBara o s := rfl
theorem exec_bard (o) (s : State) : exec (.bard o) s = execBard o s := rfl
theorem exec_fence (o) (s : State) : exec (.fence o) s = execFence o s := rfl
theorem exec_launch (o) (s : State) : exec (.launch o) s = execLaunch o s := rfl
theorem exec_krot (o) (s : State) : exec (.krot o) s = execKrot o s := rfl
theorem exec_seal (o) (s : State) : exec (.seal o) s = execSeal o s := rfl
theorem exec_unseal (o) (s : State) : exec (.unseal o) s = execUnseal o s := rfl
theorem exec_scrub (o) (s : State) : exec (.scrub o) s = execScrub o s := rfl
theorem exec_dact (o) (s : State) : exec (.dact o) s = execDact o s := rfl
theorem exec_dactReg (o) (s : State) : exec (.dactReg o) s = execDactReg o s := rfl
theorem exec_drd (o) (s : State) : exec (.drd o) s = execDrd o s := rfl
theorem exec_dwr (o) (s : State) : exec (.dwr o) s = execDwr o s := rfl
theorem exec_dpre (o) (s : State) : exec (.dpre o) s = execDpre o s := rfl
theorem exec_dprea (o) (s : State) : exec (.dprea o) s = execDprea o s := rfl
theorem exec_dref (o) (s : State) : exec (.dref o) s = execDref o s := rfl
theorem exec_drefp (o) (s : State) : exec (.drefp o) s = execDrefp o s := rfl
theorem exec_dprom (o) (s : State) : exec (.dprom o) s = execDprom o s := rfl
theorem exec_dpromReg (o) (s : State) : exec (.dpromReg o) s = execDpromReg o s := rfl
theorem exec_dclean (o) (s : State) : exec (.dclean o) s = execDclean o s := rfl
theorem exec_dcleanReg (o) (s : State) : exec (.dcleanReg o) s = execDcleanReg o s := rfl
theorem exec_dinit (o) (s : State) : exec (.dinit o) s = execDinit o s := rfl
theorem exec_dwait (o) (s : State) : exec (.dwait o) s = execDwait o s := rfl
theorem exec_bundleIssue (c) (s : State) : exec (.bundleIssue c) s = execBundleIssue c s := rfl
theorem exec_deadlineFault (c) (s : State) : exec (.deadlineFault c) s = execDeadlineFault c s := rfl
theorem exec_streamFault (o) (s : State) : exec (.streamFault o) s = execStreamFault o s := rfl
theorem exec_callFault (c) (s : State) : exec (.callFault c) s = execCallFault c s := rfl
theorem exec_yarnBeat (core) (st) (s : State) : exec (.yarnBeat core st) s = execYarnBeat core st s := rfl
theorem exec_drainAtomicPerform (id) (s : State) : exec (.drainAtomicPerform id) s = execDrainAtomicPerform id s := rfl
theorem exec_pooledGrant (cl) (s : State) : exec (.pooledGrant cl) s = execPooledGrant cl s := rfl
theorem exec_translationFill (o) (s : State) : exec (.translationFill o) s = execTranslationFill o s := rfl
theorem exec_monitorWake (c) (s : State) : exec (.monitorWake c) s = execMonitorWake c s := rfl
theorem exec_waitaTimeout (c) (s : State) : exec (.waitaTimeout c) s = execWaitaTimeout c s := rfl
theorem exec_timelineWake (c) (s : State) : exec (.timelineWake c) s = execTimelineWake c s := rfl
theorem exec_tladdEffect (id) (s : State) : exec (.tladdEffect id) s = execTladdEffect id s := rfl
theorem exec_barrierLanding (d) (s : State) : exec (.barrierLanding d) s = execBarrierLanding d s := rfl
theorem exec_barrierResume (c) (s : State) : exec (.barrierResume c) s = execBarrierResume c s := rfl
theorem exec_fenceWaitEnd (c) (s : State) : exec (.fenceWaitEnd c) s = execFenceWaitEnd c s := rfl
theorem exec_copyQueueEntryFree (c) (s : State) : exec (.copyQueueEntryFree c) s = execCopyQueueEntryFree c s := rfl
theorem exec_copyTake (core) (s : State) : exec (.copyTake core) s = execCopyTake core s := rfl
theorem exec_copyComplete (e) (n) (s : State) : exec (.copyComplete e n) s = execCopyComplete e n s := rfl
theorem exec_hatomPerform (e) (n) (s : State) : exec (.hatomPerform e n) s = execHatomPerform e n s := rfl
theorem exec_krotComplete (e) (n) (s : State) : exec (.krotComplete e n) s = execKrotComplete e n s := rfl
theorem exec_sealComplete (e) (n) (s : State) : exec (.sealComplete e n) s = execSealComplete e n s := rfl
theorem exec_unsealComplete (e) (n) (s : State) : exec (.unsealComplete e n) s = execUnsealComplete e n s := rfl
theorem exec_scrubComplete (e) (n) (s : State) : exec (.scrubComplete e n) s = execScrubComplete e n s := rfl
theorem exec_taskRetire (c) (s : State) : exec (.taskRetire c) s = execTaskRetire c s := rfl
theorem exec_zeroingComplete (r) (s : State) : exec (.zeroingComplete r) s = execZeroingComplete r s := rfl
theorem exec_taskEntry (c) (s : State) : exec (.taskEntry c) s = execTaskEntry c s := rfl
theorem exec_sliceSave (c) (s : State) : exec (.sliceSave c) s = execSliceSave c s := rfl
theorem exec_victimTake (core) (s : State) : exec (.victimTake core) s = execVictimTake core s := rfl
theorem exec_urgentEntry (k) (s : State) : exec (.urgentEntry k) s = execUrgentEntry k s := rfl
theorem exec_victimResume (core) (s : State) : exec (.victimResume core) s = execVictimResume core s := rfl
theorem exec_refreshTick (ch) (s : State) : exec (.refreshTick ch) s = execRefreshTick ch s := rfl
theorem exec_drdLanding (ch) (s : State) : exec (.drdLanding ch) s = execDrdLanding ch s := rfl
theorem exec_dwrComplete (ch) (s : State) : exec (.dwrComplete ch) s = execDwrComplete ch s := rfl
theorem exec_serviceRequest (ch) (s : State) : exec (.serviceRequest ch) s = execServiceRequest ch s := rfl
theorem exec_slubWrite (u) (s : State) : exec (.slubWrite u) s = execSlubWrite u s := rfl
theorem exec_fabricTimeout (rid) (s : State) : exec (.fabricTimeout rid) s = execFabricTimeout rid s := rfl
theorem exec_resultLanding (c) (st) (s : State) : exec (.resultLanding c st) s = execResultLanding c st s := rfl
theorem exec_stepExecution (c) (st) (s : State) : exec (.stepExecution c st) s = execStepExecution c st s := rfl
theorem exec_iverifyFreezeEnd (c) (s : State) : exec (.iverifyFreezeEnd c) s = execIverifyFreezeEnd c s := rfl
theorem exec_prechargeFreezeEnd (ch) (s : State) : exec (.prechargeFreezeEnd ch) s = execPrechargeFreezeEnd ch s := rfl
theorem exec_bankBusyEnd (ch) (bank) (s : State) : exec (.bankBusyEnd ch bank) s = execBankBusyEnd ch bank s := rfl
theorem exec_switchAdmitTimeout (ordinal) (s : State) : exec (.switchAdmitTimeout ordinal) s = execSwitchAdmitTimeout ordinal s := rfl
theorem exec_channelStop (ses) (q) (s : State) : exec (.channelStop ses q) s = execChannelStop ses q s := rfl
theorem exec_dieCutOff (d) (s : State) : exec (.dieCutOff d) s = execDieCutOff d s := rfl
theorem exec_portDown (p) (s : State) : exec (.portDown p) s = execPortDown p s := rfl
theorem exec_ideIntegrityFailure (f) (s : State) : exec (.ideIntegrityFailure f) s = execIdeIntegrityFailure f s := rfl
theorem exec_vfEnableSet (n) (s : State) : exec (.vfEnableSet n) s = execVfEnableSet n s := rfl
theorem exec_lockedItemWrite (o) (s : State) : exec (.lockedItemWrite o) s = execLockedItemWrite o s := rfl
theorem exec_hostRange1Request (o) (s : State) : exec (.hostRange1Request o) s = execHostRange1Request o s := rfl
theorem exec_pfWindowRequest (o) (s : State) : exec (.pfWindowRequest o) s = execPfWindowRequest o s := rfl
theorem exec_getCertificate (o) (s : State) : exec (.getCertificate o) s = execGetCertificate o s := rfl
theorem exec_challenge (o) (s : State) : exec (.challenge o) s = execChallenge o s := rfl
theorem exec_getMeasurements (o) (s : State) : exec (.getMeasurements o) s = execGetMeasurements o s := rfl
theorem exec_keyExchange (o) (s : State) : exec (.keyExchange o) s = execKeyExchange o s := rfl
theorem exec_finish (ses) (s : State) : exec (.finish ses) s = execFinish ses s := rfl
theorem exec_heartbeat (ses) (s : State) : exec (.heartbeat ses) s = execHeartbeat ses s := rfl
theorem exec_endSession (ses) (s : State) : exec (.endSession ses) s = execEndSession ses s := rfl
theorem exec_bindSession (ses) (f) (s : State) : exec (.bindSession ses f) s = execBindSession ses f s := rfl
theorem exec_keyRelease (ses) (q) (s : State) : exec (.keyRelease ses q) s = execKeyRelease ses q s := rfl
theorem exec_custodySet (ses) (q) (s : State) : exec (.custodySet ses q) s = execCustodySet ses q s := rfl
theorem exec_custodyClear (ses) (q) (s : State) : exec (.custodyClear ses q) s = execCustodyClear ses q s := rfl
theorem exec_worldResume (ses) (q) (s : State) : exec (.worldResume ses q) s = execWorldResume ses q s := rfl
theorem exec_controlStart (ses) (q) (s : State) : exec (.controlStart ses q) s = execControlStart ses q s := rfl
theorem exec_channelStart (ses) (q) (s : State) : exec (.channelStart ses q) s = execChannelStart ses q s := rfl
theorem exec_jobJoin (ses) (q) (s : State) : exec (.jobJoin ses q) s = execJobJoin ses q s := rfl
theorem exec_jobLeave (ses) (f) (djob) (s : State) : exec (.jobLeave ses f djob) s = execJobLeave ses f djob s := rfl
theorem exec_switchAdmit (ses) (q) (s : State) : exec (.switchAdmit ses q) s = execSwitchAdmit ses q s := rfl
theorem exec_windowSetMake (ses) (f) (w) (s : State) : exec (.windowSetMake ses f w) s = execWindowSetMake ses f w s := rfl
theorem exec_windowSetInstall (ses) (f) (w) (s : State) : exec (.windowSetInstall ses f w) s = execWindowSetInstall ses f w s := rfl
theorem exec_debugPolicy (ses) (f) (pol) (s : State) : exec (.debugPolicy ses f pol) s = execDebugPolicy ses f pol s := rfl
theorem exec_lockInterface (ses) (f) (ide) (s : State) : exec (.lockInterface ses f ide) s = execLockInterface ses f ide s := rfl
theorem exec_getDeviceInterfaceReport (ses) (f) (s : State) : exec (.getDeviceInterfaceReport ses f) s = execGetDeviceInterfaceReport ses f s := rfl
theorem exec_getDeviceInterfaceState (ses) (f) (s : State) : exec (.getDeviceInterfaceState ses f) s = execGetDeviceInterfaceState ses f s := rfl
theorem exec_startInterface (ses) (f) (nonce) (s : State) : exec (.startInterface ses f nonce) s = execStartInterface ses f nonce s := rfl
theorem exec_stopInterface (ses) (f) (s : State) : exec (.stopInterface ses f) s = execStopInterface ses f s := rfl
theorem exec_keyProg (o) (s : State) : exec (.keyProg o) s = execKeyProg o s := rfl
theorem exec_kSetGo (stream) (keySet) (s : State) : exec (.kSetGo stream keySet) s = execKSetGo stream keySet s := rfl
theorem exec_layoutSet (f) (y) (resv) (s : State) : exec (.layoutSet f y resv) s = execLayoutSet f y resv s := rfl
theorem exec_pageAssign (first) (count) (world) (s : State) : exec (.pageAssign first count world) s = execPageAssign first count world s := rfl
theorem exec_pageReclaim (first) (count) (s : State) : exec (.pageReclaim first count) s = execPageReclaim first count s := rfl
theorem exec_fwStage (addr) (len) (s : State) : exec (.fwStage addr len) s = execFwStage addr len s := rfl
theorem exec_schedSet (f) (w) (cap) (pdl) (s : State) : exec (.schedSet f w cap pdl) s = execSchedSet f w cap pdl s := rfl
theorem exec_nearSet (ch) (pin) (s : State) : exec (.nearSet ch pin) s = execNearSet ch pin s := rfl
theorem exec_pageMove (src) (dst) (s : State) : exec (.pageMove src dst) s = execPageMove src dst s := rfl
theorem exec_fabricSet (pkg) (ports) (s : State) : exec (.fabricSet pkg ports) s = execFabricSet pkg ports s := rfl
theorem exec_eventSet (f) (allow) (mode) (s : State) : exec (.eventSet f allow mode) s = execEventSet f allow mode s := rfl
theorem exec_winbaseWrite (v) (s : State) : exec (.winbaseWrite v) s = execWinbaseWrite v s := rfl
theorem exec_trootWrite (v) (s : State) : exec (.trootWrite v) s = execTrootWrite v s := rfl
theorem exec_logbaseWrite (v) (s : State) : exec (.logbaseWrite v) s = execLogbaseWrite v s := rfl
theorem exec_logsizeWrite (v) (s : State) : exec (.logsizeWrite v) s = execLogsizeWrite v s := rfl
theorem exec_logackWrite (v) (s : State) : exec (.logackWrite v) s = execLogackWrite v s := rfl
theorem exec_bkptpcWrite (v) (s : State) : exec (.bkptpcWrite v) s = execBkptpcWrite v s := rfl
theorem exec_tracectlWrite (v) (s : State) : exec (.tracectlWrite v) s = execTracectlWrite v s := rfl
theorem exec_registerWrite (off) (v) (s : State) : exec (.registerWrite off v) s = execRegisterWrite off v s := rfl
theorem exec_standardRequest (src) (s : State) : exec (.standardRequest src) s = execStandardRequest src s := rfl
theorem exec_fabWrite (m) (s : State) : exec (.fabWrite m) s = execFabWrite m s := rfl
theorem exec_fabRead (m) (s : State) : exec (.fabRead m) s = execFabRead m s := rfl
theorem exec_redMessage (m) (s : State) : exec (.redMessage m) s = execRedMessage m s := rfl
theorem exec_mergeMessage (m) (s : State) : exec (.mergeMessage m) s = execMergeMessage m s := rfl
theorem exec_mgmt (m) (s : State) : exec (.mgmt m) s = execMgmt m s := rfl
theorem exec_arrive (m) (s : State) : exec (.arrive m) s = execArrive m s := rfl
theorem exec_completeMessage (m) (s : State) : exec (.completeMessage m) s = execCompleteMessage m s := rfl
theorem exec_writeAck (m) (s : State) : exec (.writeAck m) s = execWriteAck m s := rfl
theorem exec_readData (m) (s : State) : exec (.readData m) s = execReadData m s := rfl
theorem exec_redAck (m) (s : State) : exec (.redAck m) s = execRedAck m s := rfl
theorem exec_mergeAck (m) (s : State) : exec (.mergeAck m) s = execMergeAck m s := rfl
theorem exec_arriveAck (m) (s : State) : exec (.arriveAck m) s = execArriveAck m s := rfl
theorem exec_completeAck (m) (s : State) : exec (.completeAck m) s = execCompleteAck m s := rfl
theorem exec_portUp (p) (s : State) : exec (.portUp p) s = execPortUp p s := rfl
theorem exec_placementOpportunity (s : State) : exec (.placementOpportunity) s = execPlacementOpportunity s := rfl
theorem exec_schedTick (s : State) : exec (.schedTick) s = execSchedTick s := rfl
theorem exec_governorTick (s : State) : exec (.governorTick) s = execGovernorTick s := rfl
theorem exec_egressInterval (s : State) : exec (.egressInterval) s = execEgressInterval s := rfl
theorem exec_logEntryWrite (s : State) : exec (.logEntryWrite) s = execLogEntryWrite s := rfl
theorem exec_deviceReset (s : State) : exec (.deviceReset) s = execDeviceReset s := rfl
theorem exec_bringUpComplete (s : State) : exec (.bringUpComplete) s = execBringUpComplete s := rfl
theorem exec_hotReset (s : State) : exec (.hotReset) s = execHotReset s := rfl
theorem exec_linkDown (s : State) : exec (.linkDown) s = execLinkDown s := rfl
theorem exec_thermalTrip (s : State) : exec (.thermalTrip) s = execThermalTrip s := rfl
theorem exec_vfEnableClear (s : State) : exec (.vfEnableClear) s = execVfEnableClear s := rfl
theorem exec_getVersion (s : State) : exec (.getVersion) s = execGetVersion s := rfl
theorem exec_setCertificate (s : State) : exec (.setCertificate) s = execSetCertificate s := rfl
theorem exec_getCsr (s : State) : exec (.getCsr) s = execGetCsr s := rfl
theorem exec_fwActivate (s : State) : exec (.fwActivate) s = execFwActivate s := rfl
theorem exec_fwCommit (s : State) : exec (.fwCommit) s = execFwCommit s := rfl
theorem exec_logSign (s : State) : exec (.logSign) s = execLogSign s := rfl
theorem exec_dbgStop (s : State) : exec (.dbgStop) s = execDbgStop s := rfl
theorem exec_dbgStep (s : State) : exec (.dbgStep) s = execDbgStep s := rfl
theorem exec_dbgResume (s : State) : exec (.dbgResume) s = execDbgResume s := rfl
theorem exec_freeze (s : State) : exec (.freeze) s = execFreeze s := rfl
theorem exec_getCapabilities (s : State) : exec (.getCapabilities) s = execGetCapabilities s := rfl
theorem exec_negotiateAlgorithms (s : State) : exec (.negotiateAlgorithms) s = execNegotiateAlgorithms s := rfl

end Sys2Proof.Laws
end

