-- ==== Sys2Proof/Laws/Tab.lean ====
section
/-!
SUPPORT. Tables of records: what is put at a position is read there, and every other position reads as before.
-/

namespace Sys2Proof.Laws

open Sys2Proof Sys2Proof.Machine

@[simp] theorem tabGet_tabSet_same {α : Type} (d v : α) (t : Tab α) (k : Nat) : tabGet d (tabSet t k v) k = v := by
  induction t with
  | nil => simp [tabSet, tabGet]
  | cons p t ih =>
    obtain ⟨i, x⟩ := p
    simp only [tabSet]
    split
    · simp [tabGet]
    · split
      · simp [tabGet]
      · simp [tabGet, *]

theorem tabGet_tabSet_other {α : Type} (d v : α) (t : Tab α) (j k : Nat) (h : j ≠ k) :
    tabGet d (tabSet t k v) j = tabGet d t j := by
  induction t with
  | nil => simp [tabSet, tabGet, Ne.symm h]
  | cons p t ih =>
    obtain ⟨i, x⟩ := p
    simp only [tabSet]
    split
    · subst_vars
      simp [tabGet, Ne.symm h]
    · split
      · simp only [tabGet, Ne.symm h, if_false]
        grind
      · simp only [tabGet, ih]

theorem tabSet_tabSet {α : Type} (t : Tab α) (k : Nat) (v w : α) : tabSet (tabSet t k v) k w = tabSet t k w := by
  induction t with
  | nil => simp [tabSet]
  | cons p t ih =>
    obtain ⟨i, x⟩ := p
    simp only [tabSet]
    split
    · simp [tabSet]
    · split
      · simp [tabSet]
      · simp [tabSet, *]

@[simp] theorem tabGet_tabMod_same {α : Type} (d : α) (t : Tab α) (k : Nat) (f : α → α) :
    tabGet d (tabMod d t k f) k = f (tabGet d t k) := by simp [tabMod]

theorem tabGet_tabMod_other {α : Type} (d : α) (t : Tab α) (j k : Nat) (f : α → α) (h : j ≠ k) :
    tabGet d (tabMod d t k f) j = tabGet d t j := tabGet_tabSet_other d _ t j k h

end Sys2Proof.Laws
end

