-- ==== Sys2Proof/Laws/State.lean ====
section
/-!
SUPPORT. The updates of the state: each changes its one part and leaves every other field as it was, and what it puts is
read back. No proof needs to unfold a record update.
-/

namespace Sys2Proof.Laws

open Sys2Proof Sys2Proof.Machine

variable (s : State)

/-! ## setCtx -/

section setCtx
variable (a : Agent) (x : Ctx)
@[simp] theorem setCtx_gcyc : (setCtx s a x).gcyc = s.gcyc := rfl
@[simp] theorem setCtx_phase : (setCtx s a x).phase = s.phase := rfl
@[simp] theorem setCtx_agenda : (setCtx s a x).agenda = s.agenda := rfl
@[simp] theorem setCtx_cur : (setCtx s a x).cur = s.cur := rfl
@[simp] theorem setCtx_inputs : (setCtx s a x).inputs = s.inputs := rfl
@[simp] theorem setCtx_outbox : (setCtx s a x).outbox = s.outbox := rfl
@[simp] theorem setCtx_freeCtr : (setCtx s a x).freeCtr = s.freeCtr := rfl
@[simp] theorem setCtx_bringUp : (setCtx s a x).bringUp = s.bringUp := rfl
@[simp] theorem setCtx_ready : (setCtx s a x).ready = s.ready := rfl
@[simp] theorem setCtx_failedBring : (setCtx s a x).failedBring = s.failedBring := rfl
@[simp] theorem setCtx_failCode : (setCtx s a x).failCode = s.failCode := rfl
@[simp] theorem setCtx_frozenPkg : (setCtx s a x).frozenPkg = s.frozenPkg := rfl
@[simp] theorem setCtx_poweredOff : (setCtx s a x).poweredOff = s.poweredOff := rfl
@[simp] theorem setCtx_cutDies : (setCtx s a x).cutDies = s.cutDies := rfl
@[simp] theorem setCtx_retryUntil : (setCtx s a x).retryUntil = s.retryUntil := rfl
@[simp] theorem setCtx_cores : (setCtx s a x).cores = s.cores := rfl
@[simp] theorem setCtx_clusters : (setCtx s a x).clusters = s.clusters := rfl
@[simp] theorem setCtx_chans : (setCtx s a x).chans = s.chans := rfl
@[simp] theorem setCtx_engines : (setCtx s a x).engines = s.engines := rfl
@[simp] theorem setCtx_stewMem : (setCtx s a x).stewMem = s.stewMem := rfl
@[simp] theorem setCtx_stewCode : (setCtx s a x).stewCode = s.stewCode := rfl
@[simp] theorem setCtx_stewZero : (setCtx s a x).stewZero = s.stewZero := rfl
@[simp] theorem setCtx_worlds : (setCtx s a x).worlds = s.worlds := rfl
@[simp] theorem setCtx_funcs : (setCtx s a x).funcs = s.funcs := rfl
@[simp] theorem setCtx_ides : (setCtx s a x).ides = s.ides := rfl
@[simp] theorem setCtx_numVfs : (setCtx s a x).numVfs = s.numVfs := rfl
@[simp] theorem setCtx_vfEnable : (setCtx s a x).vfEnable = s.vfEnable := rfl
@[simp] theorem setCtx_vfMse : (setCtx s a x).vfMse = s.vfMse := rfl
@[simp] theorem setCtx_vfBar0 : (setCtx s a x).vfBar0 = s.vfBar0 := rfl
@[simp] theorem setCtx_vfBar2 : (setCtx s a x).vfBar2 = s.vfBar2 := rfl
@[simp] theorem setCtx_layoutGen : (setCtx s a x).layoutGen = s.layoutGen := rfl
@[simp] theorem setCtx_hbm : (setCtx s a x).hbm = s.hbm := rfl
@[simp] theorem setCtx_rows : (setCtx s a x).rows = s.rows := rfl
@[simp] theorem setCtx_nodes : (setCtx s a x).nodes = s.nodes := rfl
@[simp] theorem setCtx_clrs : (setCtx s a x).clrs = s.clrs := rfl
@[simp] theorem setCtx_cleared : (setCtx s a x).cleared = s.cleared := rfl
@[simp] theorem setCtx_eccLines : (setCtx s a x).eccLines = s.eccLines := rfl
@[simp] theorem setCtx_eccMeta : (setCtx s a x).eccMeta = s.eccMeta := rfl
@[simp] theorem setCtx_treeErr : (setCtx s a x).treeErr = s.treeErr := rfl
@[simp] theorem setCtx_badNodes : (setCtx s a x).badNodes = s.badNodes := rfl
@[simp] theorem setCtx_softErrors : (setCtx s a x).softErrors = s.softErrors := rfl
@[simp] theorem setCtx_pageWorld : (setCtx s a x).pageWorld = s.pageWorld := rfl
@[simp] theorem setCtx_pagePoison : (setCtx s a x).pagePoison = s.pagePoison := rfl
@[simp] theorem setCtx_pageCustody : (setCtx s a x).pageCustody = s.pageCustody := rfl
@[simp] theorem setCtx_trans : (setCtx s a x).trans = s.trans := rfl
@[simp] theorem setCtx_misses : (setCtx s a x).misses = s.misses := rfl
@[simp] theorem setCtx_monitors : (setCtx s a x).monitors = s.monitors := rfl
@[simp] theorem setCtx_monWrites : (setCtx s a x).monWrites = s.monWrites := rfl
@[simp] theorem setCtx_monFail : (setCtx s a x).monFail = s.monFail := rfl
@[simp] theorem setCtx_hostWaits : (setCtx s a x).hostWaits = s.hostWaits := rfl
@[simp] theorem setCtx_colls : (setCtx s a x).colls = s.colls := rfl
@[simp] theorem setCtx_doms : (setCtx s a x).doms = s.doms := rfl
@[simp] theorem setCtx_tladds : (setCtx s a x).tladds = s.tladds := rfl
@[simp] theorem setCtx_atomics : (setCtx s a x).atomics = s.atomics := rfl
@[simp] theorem setCtx_slubs : (setCtx s a x).slubs = s.slubs := rfl
@[simp] theorem setCtx_nextId : (setCtx s a x).nextId = s.nextId := rfl
@[simp] theorem setCtx_winbase : (setCtx s a x).winbase = s.winbase := rfl
@[simp] theorem setCtx_sessions : (setCtx s a x).sessions = s.sessions := rfl
@[simp] theorem setCtx_svn : (setCtx s a x).svn = s.svn := rfl
@[simp] theorem setCtx_activeSvn : (setCtx s a x).activeSvn = s.activeSvn := rfl
@[simp] theorem setCtx_activeDigest : (setCtx s a x).activeDigest = s.activeDigest := rfl
@[simp] theorem setCtx_staged : (setCtx s a x).staged = s.staged := rfl
@[simp] theorem setCtx_log : (setCtx s a x).log = s.log := rfl
@[simp] theorem setCtx_egress : (setCtx s a x).egress = s.egress := rfl
@[simp] theorem setCtx_governed : (setCtx s a x).governed = s.governed := rfl
@[simp] theorem setCtx_pkg : (setCtx s a x).pkg = s.pkg := rfl
@[simp] theorem setCtx_ports : (setCtx s a x).ports = s.ports := rfl
@[simp] theorem setCtx_portsUp : (setCtx s a x).portsUp = s.portsUp := rfl
@[simp] theorem setCtx_windowMem : (setCtx s a x).windowMem = s.windowMem := rfl
@[simp] theorem setCtx_nextRid : (setCtx s a x).nextRid = s.nextRid := rfl
@[simp] theorem setCtx_fabReqs : (setCtx s a x).fabReqs = s.fabReqs := rfl
@[simp] theorem setCtx_admissions : (setCtx s a x).admissions = s.admissions := rfl
@[simp] theorem setCtx_leftJobs : (setCtx s a x).leftJobs = s.leftJobs := rfl
@[simp] theorem setCtx_mailVersion : (setCtx s a x).mailVersion = s.mailVersion := rfl
@[simp] theorem setCtx_walks : (setCtx s a x).walks = s.walks := rfl
@[simp] theorem setCtx_control : (setCtx s a x).control = s.control := rfl
@[simp] theorem setCtx_egressDone : (setCtx s a x).egressDone = s.egressDone := rfl
@[simp] theorem setCtx_dbg : (setCtx s a x).dbg = s.dbg := rfl
@[simp] theorem setCtx_host : (setCtx s a x).host = s.host := rfl
end setCtx

/-! ## modCore -/

section modCore
variable (c : Nat) (f : Core → Core)
@[simp] theorem modCore_gcyc : (modCore s c f).gcyc = s.gcyc := rfl
@[simp] theorem modCore_phase : (modCore s c f).phase = s.phase := rfl
@[simp] theorem modCore_agenda : (modCore s c f).agenda = s.agenda := rfl
@[simp] theorem modCore_cur : (modCore s c f).cur = s.cur := rfl
@[simp] theorem modCore_inputs : (modCore s c f).inputs = s.inputs := rfl
@[simp] theorem modCore_outbox : (modCore s c f).outbox = s.outbox := rfl
@[simp] theorem modCore_freeCtr : (modCore s c f).freeCtr = s.freeCtr := rfl
@[simp] theorem modCore_bringUp : (modCore s c f).bringUp = s.bringUp := rfl
@[simp] theorem modCore_ready : (modCore s c f).ready = s.ready := rfl
@[simp] theorem modCore_failedBring : (modCore s c f).failedBring = s.failedBring := rfl
@[simp] theorem modCore_failCode : (modCore s c f).failCode = s.failCode := rfl
@[simp] theorem modCore_frozenPkg : (modCore s c f).frozenPkg = s.frozenPkg := rfl
@[simp] theorem modCore_poweredOff : (modCore s c f).poweredOff = s.poweredOff := rfl
@[simp] theorem modCore_cutDies : (modCore s c f).cutDies = s.cutDies := rfl
@[simp] theorem modCore_retryUntil : (modCore s c f).retryUntil = s.retryUntil := rfl
@[simp] theorem modCore_ctxs : (modCore s c f).ctxs = s.ctxs := rfl
@[simp] theorem modCore_clusters : (modCore s c f).clusters = s.clusters := rfl
@[simp] theorem modCore_chans : (modCore s c f).chans = s.chans := rfl
@[simp] theorem modCore_engines : (modCore s c f).engines = s.engines := rfl
@[simp] theorem modCore_stewMem : (modCore s c f).stewMem = s.stewMem := rfl
@[simp] theorem modCore_stewCode : (modCore s c f).stewCode = s.stewCode := rfl
@[simp] theorem modCore_stewZero : (modCore s c f).stewZero = s.stewZero := rfl
@[simp] theorem modCore_worlds : (modCore s c f).worlds = s.worlds := rfl
@[simp] theorem modCore_funcs : (modCore s c f).funcs = s.funcs := rfl
@[simp] theorem modCore_ides : (modCore s c f).ides = s.ides := rfl
@[simp] theorem modCore_numVfs : (modCore s c f).numVfs = s.numVfs := rfl
@[simp] theorem modCore_vfEnable : (modCore s c f).vfEnable = s.vfEnable := rfl
@[simp] theorem modCore_vfMse : (modCore s c f).vfMse = s.vfMse := rfl
@[simp] theorem modCore_vfBar0 : (modCore s c f).vfBar0 = s.vfBar0 := rfl
@[simp] theorem modCore_vfBar2 : (modCore s c f).vfBar2 = s.vfBar2 := rfl
@[simp] theorem modCore_layoutGen : (modCore s c f).layoutGen = s.layoutGen := rfl
@[simp] theorem modCore_hbm : (modCore s c f).hbm = s.hbm := rfl
@[simp] theorem modCore_rows : (modCore s c f).rows = s.rows := rfl
@[simp] theorem modCore_nodes : (modCore s c f).nodes = s.nodes := rfl
@[simp] theorem modCore_clrs : (modCore s c f).clrs = s.clrs := rfl
@[simp] theorem modCore_cleared : (modCore s c f).cleared = s.cleared := rfl
@[simp] theorem modCore_eccLines : (modCore s c f).eccLines = s.eccLines := rfl
@[simp] theorem modCore_eccMeta : (modCore s c f).eccMeta = s.eccMeta := rfl
@[simp] theorem modCore_treeErr : (modCore s c f).treeErr = s.treeErr := rfl
@[simp] theorem modCore_badNodes : (modCore s c f).badNodes = s.badNodes := rfl
@[simp] theorem modCore_softErrors : (modCore s c f).softErrors = s.softErrors := rfl
@[simp] theorem modCore_pageWorld : (modCore s c f).pageWorld = s.pageWorld := rfl
@[simp] theorem modCore_pagePoison : (modCore s c f).pagePoison = s.pagePoison := rfl
@[simp] theorem modCore_pageCustody : (modCore s c f).pageCustody = s.pageCustody := rfl
@[simp] theorem modCore_trans : (modCore s c f).trans = s.trans := rfl
@[simp] theorem modCore_misses : (modCore s c f).misses = s.misses := rfl
@[simp] theorem modCore_monitors : (modCore s c f).monitors = s.monitors := rfl
@[simp] theorem modCore_monWrites : (modCore s c f).monWrites = s.monWrites := rfl
@[simp] theorem modCore_monFail : (modCore s c f).monFail = s.monFail := rfl
@[simp] theorem modCore_hostWaits : (modCore s c f).hostWaits = s.hostWaits := rfl
@[simp] theorem modCore_colls : (modCore s c f).colls = s.colls := rfl
@[simp] theorem modCore_doms : (modCore s c f).doms = s.doms := rfl
@[simp] theorem modCore_tladds : (modCore s c f).tladds = s.tladds := rfl
@[simp] theorem modCore_atomics : (modCore s c f).atomics = s.atomics := rfl
@[simp] theorem modCore_slubs : (modCore s c f).slubs = s.slubs := rfl
@[simp] theorem modCore_nextId : (modCore s c f).nextId = s.nextId := rfl
@[simp] theorem modCore_winbase : (modCore s c f).winbase = s.winbase := rfl
@[simp] theorem modCore_sessions : (modCore s c f).sessions = s.sessions := rfl
@[simp] theorem modCore_svn : (modCore s c f).svn = s.svn := rfl
@[simp] theorem modCore_activeSvn : (modCore s c f).activeSvn = s.activeSvn := rfl
@[simp] theorem modCore_activeDigest : (modCore s c f).activeDigest = s.activeDigest := rfl
@[simp] theorem modCore_staged : (modCore s c f).staged = s.staged := rfl
@[simp] theorem modCore_log : (modCore s c f).log = s.log := rfl
@[simp] theorem modCore_egress : (modCore s c f).egress = s.egress := rfl
@[simp] theorem modCore_governed : (modCore s c f).governed = s.governed := rfl
@[simp] theorem modCore_pkg : (modCore s c f).pkg = s.pkg := rfl
@[simp] theorem modCore_ports : (modCore s c f).ports = s.ports := rfl
@[simp] theorem modCore_portsUp : (modCore s c f).portsUp = s.portsUp := rfl
@[simp] theorem modCore_windowMem : (modCore s c f).windowMem = s.windowMem := rfl
@[simp] theorem modCore_nextRid : (modCore s c f).nextRid = s.nextRid := rfl
@[simp] theorem modCore_fabReqs : (modCore s c f).fabReqs = s.fabReqs := rfl
@[simp] theorem modCore_admissions : (modCore s c f).admissions = s.admissions := rfl
@[simp] theorem modCore_leftJobs : (modCore s c f).leftJobs = s.leftJobs := rfl
@[simp] theorem modCore_mailVersion : (modCore s c f).mailVersion = s.mailVersion := rfl
@[simp] theorem modCore_walks : (modCore s c f).walks = s.walks := rfl
@[simp] theorem modCore_control : (modCore s c f).control = s.control := rfl
@[simp] theorem modCore_egressDone : (modCore s c f).egressDone = s.egressDone := rfl
@[simp] theorem modCore_dbg : (modCore s c f).dbg = s.dbg := rfl
@[simp] theorem modCore_host : (modCore s c f).host = s.host := rfl
end modCore

/-! ## modCluster -/

section modCluster
variable (k : Nat) (f : Cluster → Cluster)
@[simp] theorem modCluster_gcyc : (modCluster s k f).gcyc = s.gcyc := rfl
@[simp] theorem modCluster_phase : (modCluster s k f).phase = s.phase := rfl
@[simp] theorem modCluster_agenda : (modCluster s k f).agenda = s.agenda := rfl
@[simp] theorem modCluster_cur : (modCluster s k f).cur = s.cur := rfl
@[simp] theorem modCluster_inputs : (modCluster s k f).inputs = s.inputs := rfl
@[simp] theorem modCluster_outbox : (modCluster s k f).outbox = s.outbox := rfl
@[simp] theorem modCluster_freeCtr : (modCluster s k f).freeCtr = s.freeCtr := rfl
@[simp] theorem modCluster_bringUp : (modCluster s k f).bringUp = s.bringUp := rfl
@[simp] theorem modCluster_ready : (modCluster s k f).ready = s.ready := rfl
@[simp] theorem modCluster_failedBring : (modCluster s k f).failedBring = s.failedBring := rfl
@[simp] theorem modCluster_failCode : (modCluster s k f).failCode = s.failCode := rfl
@[simp] theorem modCluster_frozenPkg : (modCluster s k f).frozenPkg = s.frozenPkg := rfl
@[simp] theorem modCluster_poweredOff : (modCluster s k f).poweredOff = s.poweredOff := rfl
@[simp] theorem modCluster_cutDies : (modCluster s k f).cutDies = s.cutDies := rfl
@[simp] theorem modCluster_retryUntil : (modCluster s k f).retryUntil = s.retryUntil := rfl
@[simp] theorem modCluster_ctxs : (modCluster s k f).ctxs = s.ctxs := rfl
@[simp] theorem modCluster_cores : (modCluster s k f).cores = s.cores := rfl
@[simp] theorem modCluster_chans : (modCluster s k f).chans = s.chans := rfl
@[simp] theorem modCluster_engines : (modCluster s k f).engines = s.engines := rfl
@[simp] theorem modCluster_stewMem : (modCluster s k f).stewMem = s.stewMem := rfl
@[simp] theorem modCluster_stewCode : (modCluster s k f).stewCode = s.stewCode := rfl
@[simp] theorem modCluster_stewZero : (modCluster s k f).stewZero = s.stewZero := rfl
@[simp] theorem modCluster_worlds : (modCluster s k f).worlds = s.worlds := rfl
@[simp] theorem modCluster_funcs : (modCluster s k f).funcs = s.funcs := rfl
@[simp] theorem modCluster_ides : (modCluster s k f).ides = s.ides := rfl
@[simp] theorem modCluster_numVfs : (modCluster s k f).numVfs = s.numVfs := rfl
@[simp] theorem modCluster_vfEnable : (modCluster s k f).vfEnable = s.vfEnable := rfl
@[simp] theorem modCluster_vfMse : (modCluster s k f).vfMse = s.vfMse := rfl
@[simp] theorem modCluster_vfBar0 : (modCluster s k f).vfBar0 = s.vfBar0 := rfl
@[simp] theorem modCluster_vfBar2 : (modCluster s k f).vfBar2 = s.vfBar2 := rfl
@[simp] theorem modCluster_layoutGen : (modCluster s k f).layoutGen = s.layoutGen := rfl
@[simp] theorem modCluster_hbm : (modCluster s k f).hbm = s.hbm := rfl
@[simp] theorem modCluster_rows : (modCluster s k f).rows = s.rows := rfl
@[simp] theorem modCluster_nodes : (modCluster s k f).nodes = s.nodes := rfl
@[simp] theorem modCluster_clrs : (modCluster s k f).clrs = s.clrs := rfl
@[simp] theorem modCluster_cleared : (modCluster s k f).cleared = s.cleared := rfl
@[simp] theorem modCluster_eccLines : (modCluster s k f).eccLines = s.eccLines := rfl
@[simp] theorem modCluster_eccMeta : (modCluster s k f).eccMeta = s.eccMeta := rfl
@[simp] theorem modCluster_treeErr : (modCluster s k f).treeErr = s.treeErr := rfl
@[simp] theorem modCluster_badNodes : (modCluster s k f).badNodes = s.badNodes := rfl
@[simp] theorem modCluster_softErrors : (modCluster s k f).softErrors = s.softErrors := rfl
@[simp] theorem modCluster_pageWorld : (modCluster s k f).pageWorld = s.pageWorld := rfl
@[simp] theorem modCluster_pagePoison : (modCluster s k f).pagePoison = s.pagePoison := rfl
@[simp] theorem modCluster_pageCustody : (modCluster s k f).pageCustody = s.pageCustody := rfl
@[simp] theorem modCluster_trans : (modCluster s k f).trans = s.trans := rfl
@[simp] theorem modCluster_misses : (modCluster s k f).misses = s.misses := rfl
@[simp] theorem modCluster_monitors : (modCluster s k f).monitors = s.monitors := rfl
@[simp] theorem modCluster_monWrites : (modCluster s k f).monWrites = s.monWrites := rfl
@[simp] theorem modCluster_monFail : (modCluster s k f).monFail = s.monFail := rfl
@[simp] theorem modCluster_hostWaits : (modCluster s k f).hostWaits = s.hostWaits := rfl
@[simp] theorem modCluster_colls : (modCluster s k f).colls = s.colls := rfl
@[simp] theorem modCluster_doms : (modCluster s k f).doms = s.doms := rfl
@[simp] theorem modCluster_tladds : (modCluster s k f).tladds = s.tladds := rfl
@[simp] theorem modCluster_atomics : (modCluster s k f).atomics = s.atomics := rfl
@[simp] theorem modCluster_slubs : (modCluster s k f).slubs = s.slubs := rfl
@[simp] theorem modCluster_nextId : (modCluster s k f).nextId = s.nextId := rfl
@[simp] theorem modCluster_winbase : (modCluster s k f).winbase = s.winbase := rfl
@[simp] theorem modCluster_sessions : (modCluster s k f).sessions = s.sessions := rfl
@[simp] theorem modCluster_svn : (modCluster s k f).svn = s.svn := rfl
@[simp] theorem modCluster_activeSvn : (modCluster s k f).activeSvn = s.activeSvn := rfl
@[simp] theorem modCluster_activeDigest : (modCluster s k f).activeDigest = s.activeDigest := rfl
@[simp] theorem modCluster_staged : (modCluster s k f).staged = s.staged := rfl
@[simp] theorem modCluster_log : (modCluster s k f).log = s.log := rfl
@[simp] theorem modCluster_egress : (modCluster s k f).egress = s.egress := rfl
@[simp] theorem modCluster_governed : (modCluster s k f).governed = s.governed := rfl
@[simp] theorem modCluster_pkg : (modCluster s k f).pkg = s.pkg := rfl
@[simp] theorem modCluster_ports : (modCluster s k f).ports = s.ports := rfl
@[simp] theorem modCluster_portsUp : (modCluster s k f).portsUp = s.portsUp := rfl
@[simp] theorem modCluster_windowMem : (modCluster s k f).windowMem = s.windowMem := rfl
@[simp] theorem modCluster_nextRid : (modCluster s k f).nextRid = s.nextRid := rfl
@[simp] theorem modCluster_fabReqs : (modCluster s k f).fabReqs = s.fabReqs := rfl
@[simp] theorem modCluster_admissions : (modCluster s k f).admissions = s.admissions := rfl
@[simp] theorem modCluster_leftJobs : (modCluster s k f).leftJobs = s.leftJobs := rfl
@[simp] theorem modCluster_mailVersion : (modCluster s k f).mailVersion = s.mailVersion := rfl
@[simp] theorem modCluster_walks : (modCluster s k f).walks = s.walks := rfl
@[simp] theorem modCluster_control : (modCluster s k f).control = s.control := rfl
@[simp] theorem modCluster_egressDone : (modCluster s k f).egressDone = s.egressDone := rfl
@[simp] theorem modCluster_dbg : (modCluster s k f).dbg = s.dbg := rfl
@[simp] theorem modCluster_host : (modCluster s k f).host = s.host := rfl
end modCluster

/-! ## modChan -/

section modChan
variable (n : Nat) (f : Chan → Chan)
@[simp] theorem modChan_gcyc : (modChan s n f).gcyc = s.gcyc := rfl
@[simp] theorem modChan_phase : (modChan s n f).phase = s.phase := rfl
@[simp] theorem modChan_agenda : (modChan s n f).agenda = s.agenda := rfl
@[simp] theorem modChan_cur : (modChan s n f).cur = s.cur := rfl
@[simp] theorem modChan_inputs : (modChan s n f).inputs = s.inputs := rfl
@[simp] theorem modChan_outbox : (modChan s n f).outbox = s.outbox := rfl
@[simp] theorem modChan_freeCtr : (modChan s n f).freeCtr = s.freeCtr := rfl
@[simp] theorem modChan_bringUp : (modChan s n f).bringUp = s.bringUp := rfl
@[simp] theorem modChan_ready : (modChan s n f).ready = s.ready := rfl
@[simp] theorem modChan_failedBring : (modChan s n f).failedBring = s.failedBring := rfl
@[simp] theorem modChan_failCode : (modChan s n f).failCode = s.failCode := rfl
@[simp] theorem modChan_frozenPkg : (modChan s n f).frozenPkg = s.frozenPkg := rfl
@[simp] theorem modChan_poweredOff : (modChan s n f).poweredOff = s.poweredOff := rfl
@[simp] theorem modChan_cutDies : (modChan s n f).cutDies = s.cutDies := rfl
@[simp] theorem modChan_retryUntil : (modChan s n f).retryUntil = s.retryUntil := rfl
@[simp] theorem modChan_ctxs : (modChan s n f).ctxs = s.ctxs := rfl
@[simp] theorem modChan_cores : (modChan s n f).cores = s.cores := rfl
@[simp] theorem modChan_clusters : (modChan s n f).clusters = s.clusters := rfl
@[simp] theorem modChan_engines : (modChan s n f).engines = s.engines := rfl
@[simp] theorem modChan_stewMem : (modChan s n f).stewMem = s.stewMem := rfl
@[simp] theorem modChan_stewCode : (modChan s n f).stewCode = s.stewCode := rfl
@[simp] theorem modChan_stewZero : (modChan s n f).stewZero = s.stewZero := rfl
@[simp] theorem modChan_worlds : (modChan s n f).worlds = s.worlds := rfl
@[simp] theorem modChan_funcs : (modChan s n f).funcs = s.funcs := rfl
@[simp] theorem modChan_ides : (modChan s n f).ides = s.ides := rfl
@[simp] theorem modChan_numVfs : (modChan s n f).numVfs = s.numVfs := rfl
@[simp] theorem modChan_vfEnable : (modChan s n f).vfEnable = s.vfEnable := rfl
@[simp] theorem modChan_vfMse : (modChan s n f).vfMse = s.vfMse := rfl
@[simp] theorem modChan_vfBar0 : (modChan s n f).vfBar0 = s.vfBar0 := rfl
@[simp] theorem modChan_vfBar2 : (modChan s n f).vfBar2 = s.vfBar2 := rfl
@[simp] theorem modChan_layoutGen : (modChan s n f).layoutGen = s.layoutGen := rfl
@[simp] theorem modChan_hbm : (modChan s n f).hbm = s.hbm := rfl
@[simp] theorem modChan_rows : (modChan s n f).rows = s.rows := rfl
@[simp] theorem modChan_nodes : (modChan s n f).nodes = s.nodes := rfl
@[simp] theorem modChan_clrs : (modChan s n f).clrs = s.clrs := rfl
@[simp] theorem modChan_cleared : (modChan s n f).cleared = s.cleared := rfl
@[simp] theorem modChan_eccLines : (modChan s n f).eccLines = s.eccLines := rfl
@[simp] theorem modChan_eccMeta : (modChan s n f).eccMeta = s.eccMeta := rfl
@[simp] theorem modChan_treeErr : (modChan s n f).treeErr = s.treeErr := rfl
@[simp] theorem modChan_badNodes : (modChan s n f).badNodes = s.badNodes := rfl
@[simp] theorem modChan_softErrors : (modChan s n f).softErrors = s.softErrors := rfl
@[simp] theorem modChan_pageWorld : (modChan s n f).pageWorld = s.pageWorld := rfl
@[simp] theorem modChan_pagePoison : (modChan s n f).pagePoison = s.pagePoison := rfl
@[simp] theorem modChan_pageCustody : (modChan s n f).pageCustody = s.pageCustody := rfl
@[simp] theorem modChan_trans : (modChan s n f).trans = s.trans := rfl
@[simp] theorem modChan_misses : (modChan s n f).misses = s.misses := rfl
@[simp] theorem modChan_monitors : (modChan s n f).monitors = s.monitors := rfl
@[simp] theorem modChan_monWrites : (modChan s n f).monWrites = s.monWrites := rfl
@[simp] theorem modChan_monFail : (modChan s n f).monFail = s.monFail := rfl
@[simp] theorem modChan_hostWaits : (modChan s n f).hostWaits = s.hostWaits := rfl
@[simp] theorem modChan_colls : (modChan s n f).colls = s.colls := rfl
@[simp] theorem modChan_doms : (modChan s n f).doms = s.doms := rfl
@[simp] theorem modChan_tladds : (modChan s n f).tladds = s.tladds := rfl
@[simp] theorem modChan_atomics : (modChan s n f).atomics = s.atomics := rfl
@[simp] theorem modChan_slubs : (modChan s n f).slubs = s.slubs := rfl
@[simp] theorem modChan_nextId : (modChan s n f).nextId = s.nextId := rfl
@[simp] theorem modChan_winbase : (modChan s n f).winbase = s.winbase := rfl
@[simp] theorem modChan_sessions : (modChan s n f).sessions = s.sessions := rfl
@[simp] theorem modChan_svn : (modChan s n f).svn = s.svn := rfl
@[simp] theorem modChan_activeSvn : (modChan s n f).activeSvn = s.activeSvn := rfl
@[simp] theorem modChan_activeDigest : (modChan s n f).activeDigest = s.activeDigest := rfl
@[simp] theorem modChan_staged : (modChan s n f).staged = s.staged := rfl
@[simp] theorem modChan_log : (modChan s n f).log = s.log := rfl
@[simp] theorem modChan_egress : (modChan s n f).egress = s.egress := rfl
@[simp] theorem modChan_governed : (modChan s n f).governed = s.governed := rfl
@[simp] theorem modChan_pkg : (modChan s n f).pkg = s.pkg := rfl
@[simp] theorem modChan_ports : (modChan s n f).ports = s.ports := rfl
@[simp] theorem modChan_portsUp : (modChan s n f).portsUp = s.portsUp := rfl
@[simp] theorem modChan_windowMem : (modChan s n f).windowMem = s.windowMem := rfl
@[simp] theorem modChan_nextRid : (modChan s n f).nextRid = s.nextRid := rfl
@[simp] theorem modChan_fabReqs : (modChan s n f).fabReqs = s.fabReqs := rfl
@[simp] theorem modChan_admissions : (modChan s n f).admissions = s.admissions := rfl
@[simp] theorem modChan_leftJobs : (modChan s n f).leftJobs = s.leftJobs := rfl
@[simp] theorem modChan_mailVersion : (modChan s n f).mailVersion = s.mailVersion := rfl
@[simp] theorem modChan_walks : (modChan s n f).walks = s.walks := rfl
@[simp] theorem modChan_control : (modChan s n f).control = s.control := rfl
@[simp] theorem modChan_egressDone : (modChan s n f).egressDone = s.egressDone := rfl
@[simp] theorem modChan_dbg : (modChan s n f).dbg = s.dbg := rfl
@[simp] theorem modChan_host : (modChan s n f).host = s.host := rfl
end modChan

/-! ## modWorld -/

section modWorld
variable (w : Nat) (f : World → World)
@[simp] theorem modWorld_gcyc : (modWorld s w f).gcyc = s.gcyc := rfl
@[simp] theorem modWorld_phase : (modWorld s w f).phase = s.phase := rfl
@[simp] theorem modWorld_agenda : (modWorld s w f).agenda = s.agenda := rfl
@[simp] theorem modWorld_cur : (modWorld s w f).cur = s.cur := rfl
@[simp] theorem modWorld_inputs : (modWorld s w f).inputs = s.inputs := rfl
@[simp] theorem modWorld_outbox : (modWorld s w f).outbox = s.outbox := rfl
@[simp] theorem modWorld_freeCtr : (modWorld s w f).freeCtr = s.freeCtr := rfl
@[simp] theorem modWorld_bringUp : (modWorld s w f).bringUp = s.bringUp := rfl
@[simp] theorem modWorld_ready : (modWorld s w f).ready = s.ready := rfl
@[simp] theorem modWorld_failedBring : (modWorld s w f).failedBring = s.failedBring := rfl
@[simp] theorem modWorld_failCode : (modWorld s w f).failCode = s.failCode := rfl
@[simp] theorem modWorld_frozenPkg : (modWorld s w f).frozenPkg = s.frozenPkg := rfl
@[simp] theorem modWorld_poweredOff : (modWorld s w f).poweredOff = s.poweredOff := rfl
@[simp] theorem modWorld_cutDies : (modWorld s w f).cutDies = s.cutDies := rfl
@[simp] theorem modWorld_retryUntil : (modWorld s w f).retryUntil = s.retryUntil := rfl
@[simp] theorem modWorld_ctxs : (modWorld s w f).ctxs = s.ctxs := rfl
@[simp] theorem modWorld_cores : (modWorld s w f).cores = s.cores := rfl
@[simp] theorem modWorld_clusters : (modWorld s w f).clusters = s.clusters := rfl
@[simp] theorem modWorld_chans : (modWorld s w f).chans = s.chans := rfl
@[simp] theorem modWorld_engines : (modWorld s w f).engines = s.engines := rfl
@[simp] theorem modWorld_stewMem : (modWorld s w f).stewMem = s.stewMem := rfl
@[simp] theorem modWorld_stewCode : (modWorld s w f).stewCode = s.stewCode := rfl
@[simp] theorem modWorld_stewZero : (modWorld s w f).stewZero = s.stewZero := rfl
@[simp] theorem modWorld_funcs : (modWorld s w f).funcs = s.funcs := rfl
@[simp] theorem modWorld_ides : (modWorld s w f).ides = s.ides := rfl
@[simp] theorem modWorld_numVfs : (modWorld s w f).numVfs = s.numVfs := rfl
@[simp] theorem modWorld_vfEnable : (modWorld s w f).vfEnable = s.vfEnable := rfl
@[simp] theorem modWorld_vfMse : (modWorld s w f).vfMse = s.vfMse := rfl
@[simp] theorem modWorld_vfBar0 : (modWorld s w f).vfBar0 = s.vfBar0 := rfl
@[simp] theorem modWorld_vfBar2 : (modWorld s w f).vfBar2 = s.vfBar2 := rfl
@[simp] theorem modWorld_layoutGen : (modWorld s w f).layoutGen = s.layoutGen := rfl
@[simp] theorem modWorld_hbm : (modWorld s w f).hbm = s.hbm := rfl
@[simp] theorem modWorld_rows : (modWorld s w f).rows = s.rows := rfl
@[simp] theorem modWorld_nodes : (modWorld s w f).nodes = s.nodes := rfl
@[simp] theorem modWorld_clrs : (modWorld s w f).clrs = s.clrs := rfl
@[simp] theorem modWorld_cleared : (modWorld s w f).cleared = s.cleared := rfl
@[simp] theorem modWorld_eccLines : (modWorld s w f).eccLines = s.eccLines := rfl
@[simp] theorem modWorld_eccMeta : (modWorld s w f).eccMeta = s.eccMeta := rfl
@[simp] theorem modWorld_treeErr : (modWorld s w f).treeErr = s.treeErr := rfl
@[simp] theorem modWorld_badNodes : (modWorld s w f).badNodes = s.badNodes := rfl
@[simp] theorem modWorld_softErrors : (modWorld s w f).softErrors = s.softErrors := rfl
@[simp] theorem modWorld_pageWorld : (modWorld s w f).pageWorld = s.pageWorld := rfl
@[simp] theorem modWorld_pagePoison : (modWorld s w f).pagePoison = s.pagePoison := rfl
@[simp] theorem modWorld_pageCustody : (modWorld s w f).pageCustody = s.pageCustody := rfl
@[simp] theorem modWorld_trans : (modWorld s w f).trans = s.trans := rfl
@[simp] theorem modWorld_misses : (modWorld s w f).misses = s.misses := rfl
@[simp] theorem modWorld_monitors : (modWorld s w f).monitors = s.monitors := rfl
@[simp] theorem modWorld_monWrites : (modWorld s w f).monWrites = s.monWrites := rfl
@[simp] theorem modWorld_monFail : (modWorld s w f).monFail = s.monFail := rfl
@[simp] theorem modWorld_hostWaits : (modWorld s w f).hostWaits = s.hostWaits := rfl
@[simp] theorem modWorld_colls : (modWorld s w f).colls = s.colls := rfl
@[simp] theorem modWorld_doms : (modWorld s w f).doms = s.doms := rfl
@[simp] theorem modWorld_tladds : (modWorld s w f).tladds = s.tladds := rfl
@[simp] theorem modWorld_atomics : (modWorld s w f).atomics = s.atomics := rfl
@[simp] theorem modWorld_slubs : (modWorld s w f).slubs = s.slubs := rfl
@[simp] theorem modWorld_nextId : (modWorld s w f).nextId = s.nextId := rfl
@[simp] theorem modWorld_winbase : (modWorld s w f).winbase = s.winbase := rfl
@[simp] theorem modWorld_sessions : (modWorld s w f).sessions = s.sessions := rfl
@[simp] theorem modWorld_svn : (modWorld s w f).svn = s.svn := rfl
@[simp] theorem modWorld_activeSvn : (modWorld s w f).activeSvn = s.activeSvn := rfl
@[simp] theorem modWorld_activeDigest : (modWorld s w f).activeDigest = s.activeDigest := rfl
@[simp] theorem modWorld_staged : (modWorld s w f).staged = s.staged := rfl
@[simp] theorem modWorld_log : (modWorld s w f).log = s.log := rfl
@[simp] theorem modWorld_egress : (modWorld s w f).egress = s.egress := rfl
@[simp] theorem modWorld_governed : (modWorld s w f).governed = s.governed := rfl
@[simp] theorem modWorld_pkg : (modWorld s w f).pkg = s.pkg := rfl
@[simp] theorem modWorld_ports : (modWorld s w f).ports = s.ports := rfl
@[simp] theorem modWorld_portsUp : (modWorld s w f).portsUp = s.portsUp := rfl
@[simp] theorem modWorld_windowMem : (modWorld s w f).windowMem = s.windowMem := rfl
@[simp] theorem modWorld_nextRid : (modWorld s w f).nextRid = s.nextRid := rfl
@[simp] theorem modWorld_fabReqs : (modWorld s w f).fabReqs = s.fabReqs := rfl
@[simp] theorem modWorld_admissions : (modWorld s w f).admissions = s.admissions := rfl
@[simp] theorem modWorld_leftJobs : (modWorld s w f).leftJobs = s.leftJobs := rfl
@[simp] theorem modWorld_mailVersion : (modWorld s w f).mailVersion = s.mailVersion := rfl
@[simp] theorem modWorld_walks : (modWorld s w f).walks = s.walks := rfl
@[simp] theorem modWorld_control : (modWorld s w f).control = s.control := rfl
@[simp] theorem modWorld_egressDone : (modWorld s w f).egressDone = s.egressDone := rfl
@[simp] theorem modWorld_dbg : (modWorld s w f).dbg = s.dbg := rfl
@[simp] theorem modWorld_host : (modWorld s w f).host = s.host := rfl
end modWorld

/-! ## modFunc -/

section modFunc
variable (n : Nat) (f : Func → Func)
@[simp] theorem modFunc_gcyc : (modFunc s n f).gcyc = s.gcyc := rfl
@[simp] theorem modFunc_phase : (modFunc s n f).phase = s.phase := rfl
@[simp] theorem modFunc_agenda : (modFunc s n f).agenda = s.agenda := rfl
@[simp] theorem modFunc_cur : (modFunc s n f).cur = s.cur := rfl
@[simp] theorem modFunc_inputs : (modFunc s n f).inputs = s.inputs := rfl
@[simp] theorem modFunc_outbox : (modFunc s n f).outbox = s.outbox := rfl
@[simp] theorem modFunc_freeCtr : (modFunc s n f).freeCtr = s.freeCtr := rfl
@[simp] theorem modFunc_bringUp : (modFunc s n f).bringUp = s.bringUp := rfl
@[simp] theorem modFunc_ready : (modFunc s n f).ready = s.ready := rfl
@[simp] theorem modFunc_failedBring : (modFunc s n f).failedBring = s.failedBring := rfl
@[simp] theorem modFunc_failCode : (modFunc s n f).failCode = s.failCode := rfl
@[simp] theorem modFunc_frozenPkg : (modFunc s n f).frozenPkg = s.frozenPkg := rfl
@[simp] theorem modFunc_poweredOff : (modFunc s n f).poweredOff = s.poweredOff := rfl
@[simp] theorem modFunc_cutDies : (modFunc s n f).cutDies = s.cutDies := rfl
@[simp] theorem modFunc_retryUntil : (modFunc s n f).retryUntil = s.retryUntil := rfl
@[simp] theorem modFunc_ctxs : (modFunc s n f).ctxs = s.ctxs := rfl
@[simp] theorem modFunc_cores : (modFunc s n f).cores = s.cores := rfl
@[simp] theorem modFunc_clusters : (modFunc s n f).clusters = s.clusters := rfl
@[simp] theorem modFunc_chans : (modFunc s n f).chans = s.chans := rfl
@[simp] theorem modFunc_engines : (modFunc s n f).engines = s.engines := rfl
@[simp] theorem modFunc_stewMem : (modFunc s n f).stewMem = s.stewMem := rfl
@[simp] theorem modFunc_stewCode : (modFunc s n f).stewCode = s.stewCode := rfl
@[simp] theorem modFunc_stewZero : (modFunc s n f).stewZero = s.stewZero := rfl
@[simp] theorem modFunc_worlds : (modFunc s n f).worlds = s.worlds := rfl
@[simp] theorem modFunc_ides : (modFunc s n f).ides = s.ides := rfl
@[simp] theorem modFunc_numVfs : (modFunc s n f).numVfs = s.numVfs := rfl
@[simp] theorem modFunc_vfEnable : (modFunc s n f).vfEnable = s.vfEnable := rfl
@[simp] theorem modFunc_vfMse : (modFunc s n f).vfMse = s.vfMse := rfl
@[simp] theorem modFunc_vfBar0 : (modFunc s n f).vfBar0 = s.vfBar0 := rfl
@[simp] theorem modFunc_vfBar2 : (modFunc s n f).vfBar2 = s.vfBar2 := rfl
@[simp] theorem modFunc_layoutGen : (modFunc s n f).layoutGen = s.layoutGen := rfl
@[simp] theorem modFunc_hbm : (modFunc s n f).hbm = s.hbm := rfl
@[simp] theorem modFunc_rows : (modFunc s n f).rows = s.rows := rfl
@[simp] theorem modFunc_nodes : (modFunc s n f).nodes = s.nodes := rfl
@[simp] theorem modFunc_clrs : (modFunc s n f).clrs = s.clrs := rfl
@[simp] theorem modFunc_cleared : (modFunc s n f).cleared = s.cleared := rfl
@[simp] theorem modFunc_eccLines : (modFunc s n f).eccLines = s.eccLines := rfl
@[simp] theorem modFunc_eccMeta : (modFunc s n f).eccMeta = s.eccMeta := rfl
@[simp] theorem modFunc_treeErr : (modFunc s n f).treeErr = s.treeErr := rfl
@[simp] theorem modFunc_badNodes : (modFunc s n f).badNodes = s.badNodes := rfl
@[simp] theorem modFunc_softErrors : (modFunc s n f).softErrors = s.softErrors := rfl
@[simp] theorem modFunc_pageWorld : (modFunc s n f).pageWorld = s.pageWorld := rfl
@[simp] theorem modFunc_pagePoison : (modFunc s n f).pagePoison = s.pagePoison := rfl
@[simp] theorem modFunc_pageCustody : (modFunc s n f).pageCustody = s.pageCustody := rfl
@[simp] theorem modFunc_trans : (modFunc s n f).trans = s.trans := rfl
@[simp] theorem modFunc_misses : (modFunc s n f).misses = s.misses := rfl
@[simp] theorem modFunc_monitors : (modFunc s n f).monitors = s.monitors := rfl
@[simp] theorem modFunc_monWrites : (modFunc s n f).monWrites = s.monWrites := rfl
@[simp] theorem modFunc_monFail : (modFunc s n f).monFail = s.monFail := rfl
@[simp] theorem modFunc_hostWaits : (modFunc s n f).hostWaits = s.hostWaits := rfl
@[simp] theorem modFunc_colls : (modFunc s n f).colls = s.colls := rfl
@[simp] theorem modFunc_doms : (modFunc s n f).doms = s.doms := rfl
@[simp] theorem modFunc_tladds : (modFunc s n f).tladds = s.tladds := rfl
@[simp] theorem modFunc_atomics : (modFunc s n f).atomics = s.atomics := rfl
@[simp] theorem modFunc_slubs : (modFunc s n f).slubs = s.slubs := rfl
@[simp] theorem modFunc_nextId : (modFunc s n f).nextId = s.nextId := rfl
@[simp] theorem modFunc_winbase : (modFunc s n f).winbase = s.winbase := rfl
@[simp] theorem modFunc_sessions : (modFunc s n f).sessions = s.sessions := rfl
@[simp] theorem modFunc_svn : (modFunc s n f).svn = s.svn := rfl
@[simp] theorem modFunc_activeSvn : (modFunc s n f).activeSvn = s.activeSvn := rfl
@[simp] theorem modFunc_activeDigest : (modFunc s n f).activeDigest = s.activeDigest := rfl
@[simp] theorem modFunc_staged : (modFunc s n f).staged = s.staged := rfl
@[simp] theorem modFunc_log : (modFunc s n f).log = s.log := rfl
@[simp] theorem modFunc_egress : (modFunc s n f).egress = s.egress := rfl
@[simp] theorem modFunc_governed : (modFunc s n f).governed = s.governed := rfl
@[simp] theorem modFunc_pkg : (modFunc s n f).pkg = s.pkg := rfl
@[simp] theorem modFunc_ports : (modFunc s n f).ports = s.ports := rfl
@[simp] theorem modFunc_portsUp : (modFunc s n f).portsUp = s.portsUp := rfl
@[simp] theorem modFunc_windowMem : (modFunc s n f).windowMem = s.windowMem := rfl
@[simp] theorem modFunc_nextRid : (modFunc s n f).nextRid = s.nextRid := rfl
@[simp] theorem modFunc_fabReqs : (modFunc s n f).fabReqs = s.fabReqs := rfl
@[simp] theorem modFunc_admissions : (modFunc s n f).admissions = s.admissions := rfl
@[simp] theorem modFunc_leftJobs : (modFunc s n f).leftJobs = s.leftJobs := rfl
@[simp] theorem modFunc_mailVersion : (modFunc s n f).mailVersion = s.mailVersion := rfl
@[simp] theorem modFunc_walks : (modFunc s n f).walks = s.walks := rfl
@[simp] theorem modFunc_control : (modFunc s n f).control = s.control := rfl
@[simp] theorem modFunc_egressDone : (modFunc s n f).egressDone = s.egressDone := rfl
@[simp] theorem modFunc_dbg : (modFunc s n f).dbg = s.dbg := rfl
@[simp] theorem modFunc_host : (modFunc s n f).host = s.host := rfl
end modFunc

/-! ## modEngine -/

section modEngine
variable (e : Nat) (f : Engine → Engine)
@[simp] theorem modEngine_gcyc : (modEngine s e f).gcyc = s.gcyc := rfl
@[simp] theorem modEngine_phase : (modEngine s e f).phase = s.phase := rfl
@[simp] theorem modEngine_agenda : (modEngine s e f).agenda = s.agenda := rfl
@[simp] theorem modEngine_cur : (modEngine s e f).cur = s.cur := rfl
@[simp] theorem modEngine_inputs : (modEngine s e f).inputs = s.inputs := rfl
@[simp] theorem modEngine_outbox : (modEngine s e f).outbox = s.outbox := rfl
@[simp] theorem modEngine_freeCtr : (modEngine s e f).freeCtr = s.freeCtr := rfl
@[simp] theorem modEngine_bringUp : (modEngine s e f).bringUp = s.bringUp := rfl
@[simp] theorem modEngine_ready : (modEngine s e f).ready = s.ready := rfl
@[simp] theorem modEngine_failedBring : (modEngine s e f).failedBring = s.failedBring := rfl
@[simp] theorem modEngine_failCode : (modEngine s e f).failCode = s.failCode := rfl
@[simp] theorem modEngine_frozenPkg : (modEngine s e f).frozenPkg = s.frozenPkg := rfl
@[simp] theorem modEngine_poweredOff : (modEngine s e f).poweredOff = s.poweredOff := rfl
@[simp] theorem modEngine_cutDies : (modEngine s e f).cutDies = s.cutDies := rfl
@[simp] theorem modEngine_retryUntil : (modEngine s e f).retryUntil = s.retryUntil := rfl
@[simp] theorem modEngine_ctxs : (modEngine s e f).ctxs = s.ctxs := rfl
@[simp] theorem modEngine_cores : (modEngine s e f).cores = s.cores := rfl
@[simp] theorem modEngine_clusters : (modEngine s e f).clusters = s.clusters := rfl
@[simp] theorem modEngine_chans : (modEngine s e f).chans = s.chans := rfl
@[simp] theorem modEngine_stewMem : (modEngine s e f).stewMem = s.stewMem := rfl
@[simp] theorem modEngine_stewCode : (modEngine s e f).stewCode = s.stewCode := rfl
@[simp] theorem modEngine_stewZero : (modEngine s e f).stewZero = s.stewZero := rfl
@[simp] theorem modEngine_worlds : (modEngine s e f).worlds = s.worlds := rfl
@[simp] theorem modEngine_funcs : (modEngine s e f).funcs = s.funcs := rfl
@[simp] theorem modEngine_ides : (modEngine s e f).ides = s.ides := rfl
@[simp] theorem modEngine_numVfs : (modEngine s e f).numVfs = s.numVfs := rfl
@[simp] theorem modEngine_vfEnable : (modEngine s e f).vfEnable = s.vfEnable := rfl
@[simp] theorem modEngine_vfMse : (modEngine s e f).vfMse = s.vfMse := rfl
@[simp] theorem modEngine_vfBar0 : (modEngine s e f).vfBar0 = s.vfBar0 := rfl
@[simp] theorem modEngine_vfBar2 : (modEngine s e f).vfBar2 = s.vfBar2 := rfl
@[simp] theorem modEngine_layoutGen : (modEngine s e f).layoutGen = s.layoutGen := rfl
@[simp] theorem modEngine_hbm : (modEngine s e f).hbm = s.hbm := rfl
@[simp] theorem modEngine_rows : (modEngine s e f).rows = s.rows := rfl
@[simp] theorem modEngine_nodes : (modEngine s e f).nodes = s.nodes := rfl
@[simp] theorem modEngine_clrs : (modEngine s e f).clrs = s.clrs := rfl
@[simp] theorem modEngine_cleared : (modEngine s e f).cleared = s.cleared := rfl
@[simp] theorem modEngine_eccLines : (modEngine s e f).eccLines = s.eccLines := rfl
@[simp] theorem modEngine_eccMeta : (modEngine s e f).eccMeta = s.eccMeta := rfl
@[simp] theorem modEngine_treeErr : (modEngine s e f).treeErr = s.treeErr := rfl
@[simp] theorem modEngine_badNodes : (modEngine s e f).badNodes = s.badNodes := rfl
@[simp] theorem modEngine_softErrors : (modEngine s e f).softErrors = s.softErrors := rfl
@[simp] theorem modEngine_pageWorld : (modEngine s e f).pageWorld = s.pageWorld := rfl
@[simp] theorem modEngine_pagePoison : (modEngine s e f).pagePoison = s.pagePoison := rfl
@[simp] theorem modEngine_pageCustody : (modEngine s e f).pageCustody = s.pageCustody := rfl
@[simp] theorem modEngine_trans : (modEngine s e f).trans = s.trans := rfl
@[simp] theorem modEngine_misses : (modEngine s e f).misses = s.misses := rfl
@[simp] theorem modEngine_monitors : (modEngine s e f).monitors = s.monitors := rfl
@[simp] theorem modEngine_monWrites : (modEngine s e f).monWrites = s.monWrites := rfl
@[simp] theorem modEngine_monFail : (modEngine s e f).monFail = s.monFail := rfl
@[simp] theorem modEngine_hostWaits : (modEngine s e f).hostWaits = s.hostWaits := rfl
@[simp] theorem modEngine_colls : (modEngine s e f).colls = s.colls := rfl
@[simp] theorem modEngine_doms : (modEngine s e f).doms = s.doms := rfl
@[simp] theorem modEngine_tladds : (modEngine s e f).tladds = s.tladds := rfl
@[simp] theorem modEngine_atomics : (modEngine s e f).atomics = s.atomics := rfl
@[simp] theorem modEngine_slubs : (modEngine s e f).slubs = s.slubs := rfl
@[simp] theorem modEngine_nextId : (modEngine s e f).nextId = s.nextId := rfl
@[simp] theorem modEngine_winbase : (modEngine s e f).winbase = s.winbase := rfl
@[simp] theorem modEngine_sessions : (modEngine s e f).sessions = s.sessions := rfl
@[simp] theorem modEngine_svn : (modEngine s e f).svn = s.svn := rfl
@[simp] theorem modEngine_activeSvn : (modEngine s e f).activeSvn = s.activeSvn := rfl
@[simp] theorem modEngine_activeDigest : (modEngine s e f).activeDigest = s.activeDigest := rfl
@[simp] theorem modEngine_staged : (modEngine s e f).staged = s.staged := rfl
@[simp] theorem modEngine_log : (modEngine s e f).log = s.log := rfl
@[simp] theorem modEngine_egress : (modEngine s e f).egress = s.egress := rfl
@[simp] theorem modEngine_governed : (modEngine s e f).governed = s.governed := rfl
@[simp] theorem modEngine_pkg : (modEngine s e f).pkg = s.pkg := rfl
@[simp] theorem modEngine_ports : (modEngine s e f).ports = s.ports := rfl
@[simp] theorem modEngine_portsUp : (modEngine s e f).portsUp = s.portsUp := rfl
@[simp] theorem modEngine_windowMem : (modEngine s e f).windowMem = s.windowMem := rfl
@[simp] theorem modEngine_nextRid : (modEngine s e f).nextRid = s.nextRid := rfl
@[simp] theorem modEngine_fabReqs : (modEngine s e f).fabReqs = s.fabReqs := rfl
@[simp] theorem modEngine_admissions : (modEngine s e f).admissions = s.admissions := rfl
@[simp] theorem modEngine_leftJobs : (modEngine s e f).leftJobs = s.leftJobs := rfl
@[simp] theorem modEngine_mailVersion : (modEngine s e f).mailVersion = s.mailVersion := rfl
@[simp] theorem modEngine_walks : (modEngine s e f).walks = s.walks := rfl
@[simp] theorem modEngine_control : (modEngine s e f).control = s.control := rfl
@[simp] theorem modEngine_egressDone : (modEngine s e f).egressDone = s.egressDone := rfl
@[simp] theorem modEngine_dbg : (modEngine s e f).dbg = s.dbg := rfl
@[simp] theorem modEngine_host : (modEngine s e f).host = s.host := rfl
end modEngine

/-! ## modIssue -/

section modIssue
variable (f : Issue → Issue)
@[simp] theorem modIssue_gcyc : (modIssue s f).gcyc = s.gcyc := rfl
@[simp] theorem modIssue_phase : (modIssue s f).phase = s.phase := rfl
@[simp] theorem modIssue_agenda : (modIssue s f).agenda = s.agenda := rfl
@[simp] theorem modIssue_inputs : (modIssue s f).inputs = s.inputs := rfl
@[simp] theorem modIssue_outbox : (modIssue s f).outbox = s.outbox := rfl
@[simp] theorem modIssue_freeCtr : (modIssue s f).freeCtr = s.freeCtr := rfl
@[simp] theorem modIssue_bringUp : (modIssue s f).bringUp = s.bringUp := rfl
@[simp] theorem modIssue_ready : (modIssue s f).ready = s.ready := rfl
@[simp] theorem modIssue_failedBring : (modIssue s f).failedBring = s.failedBring := rfl
@[simp] theorem modIssue_failCode : (modIssue s f).failCode = s.failCode := rfl
@[simp] theorem modIssue_frozenPkg : (modIssue s f).frozenPkg = s.frozenPkg := rfl
@[simp] theorem modIssue_poweredOff : (modIssue s f).poweredOff = s.poweredOff := rfl
@[simp] theorem modIssue_cutDies : (modIssue s f).cutDies = s.cutDies := rfl
@[simp] theorem modIssue_retryUntil : (modIssue s f).retryUntil = s.retryUntil := rfl
@[simp] theorem modIssue_ctxs : (modIssue s f).ctxs = s.ctxs := rfl
@[simp] theorem modIssue_cores : (modIssue s f).cores = s.cores := rfl
@[simp] theorem modIssue_clusters : (modIssue s f).clusters = s.clusters := rfl
@[simp] theorem modIssue_chans : (modIssue s f).chans = s.chans := rfl
@[simp] theorem modIssue_engines : (modIssue s f).engines = s.engines := rfl
@[simp] theorem modIssue_stewMem : (modIssue s f).stewMem = s.stewMem := rfl
@[simp] theorem modIssue_stewCode : (modIssue s f).stewCode = s.stewCode := rfl
@[simp] theorem modIssue_stewZero : (modIssue s f).stewZero = s.stewZero := rfl
@[simp] theorem modIssue_worlds : (modIssue s f).worlds = s.worlds := rfl
@[simp] theorem modIssue_funcs : (modIssue s f).funcs = s.funcs := rfl
@[simp] theorem modIssue_ides : (modIssue s f).ides = s.ides := rfl
@[simp] theorem modIssue_numVfs : (modIssue s f).numVfs = s.numVfs := rfl
@[simp] theorem modIssue_vfEnable : (modIssue s f).vfEnable = s.vfEnable := rfl
@[simp] theorem modIssue_vfMse : (modIssue s f).vfMse = s.vfMse := rfl
@[simp] theorem modIssue_vfBar0 : (modIssue s f).vfBar0 = s.vfBar0 := rfl
@[simp] theorem modIssue_vfBar2 : (modIssue s f).vfBar2 = s.vfBar2 := rfl
@[simp] theorem modIssue_layoutGen : (modIssue s f).layoutGen = s.layoutGen := rfl
@[simp] theorem modIssue_hbm : (modIssue s f).hbm = s.hbm := rfl
@[simp] theorem modIssue_rows : (modIssue s f).rows = s.rows := rfl
@[simp] theorem modIssue_nodes : (modIssue s f).nodes = s.nodes := rfl
@[simp] theorem modIssue_clrs : (modIssue s f).clrs = s.clrs := rfl
@[simp] theorem modIssue_cleared : (modIssue s f).cleared = s.cleared := rfl
@[simp] theorem modIssue_eccLines : (modIssue s f).eccLines = s.eccLines := rfl
@[simp] theorem modIssue_eccMeta : (modIssue s f).eccMeta = s.eccMeta := rfl
@[simp] theorem modIssue_treeErr : (modIssue s f).treeErr = s.treeErr := rfl
@[simp] theorem modIssue_badNodes : (modIssue s f).badNodes = s.badNodes := rfl
@[simp] theorem modIssue_softErrors : (modIssue s f).softErrors = s.softErrors := rfl
@[simp] theorem modIssue_pageWorld : (modIssue s f).pageWorld = s.pageWorld := rfl
@[simp] theorem modIssue_pagePoison : (modIssue s f).pagePoison = s.pagePoison := rfl
@[simp] theorem modIssue_pageCustody : (modIssue s f).pageCustody = s.pageCustody := rfl
@[simp] theorem modIssue_trans : (modIssue s f).trans = s.trans := rfl
@[simp] theorem modIssue_misses : (modIssue s f).misses = s.misses := rfl
@[simp] theorem modIssue_monitors : (modIssue s f).monitors = s.monitors := rfl
@[simp] theorem modIssue_monWrites : (modIssue s f).monWrites = s.monWrites := rfl
@[simp] theorem modIssue_monFail : (modIssue s f).monFail = s.monFail := rfl
@[simp] theorem modIssue_hostWaits : (modIssue s f).hostWaits = s.hostWaits := rfl
@[simp] theorem modIssue_colls : (modIssue s f).colls = s.colls := rfl
@[simp] theorem modIssue_doms : (modIssue s f).doms = s.doms := rfl
@[simp] theorem modIssue_tladds : (modIssue s f).tladds = s.tladds := rfl
@[simp] theorem modIssue_atomics : (modIssue s f).atomics = s.atomics := rfl
@[simp] theorem modIssue_slubs : (modIssue s f).slubs = s.slubs := rfl
@[simp] theorem modIssue_nextId : (modIssue s f).nextId = s.nextId := rfl
@[simp] theorem modIssue_winbase : (modIssue s f).winbase = s.winbase := rfl
@[simp] theorem modIssue_sessions : (modIssue s f).sessions = s.sessions := rfl
@[simp] theorem modIssue_svn : (modIssue s f).svn = s.svn := rfl
@[simp] theorem modIssue_activeSvn : (modIssue s f).activeSvn = s.activeSvn := rfl
@[simp] theorem modIssue_activeDigest : (modIssue s f).activeDigest = s.activeDigest := rfl
@[simp] theorem modIssue_staged : (modIssue s f).staged = s.staged := rfl
@[simp] theorem modIssue_log : (modIssue s f).log = s.log := rfl
@[simp] theorem modIssue_egress : (modIssue s f).egress = s.egress := rfl
@[simp] theorem modIssue_governed : (modIssue s f).governed = s.governed := rfl
@[simp] theorem modIssue_pkg : (modIssue s f).pkg = s.pkg := rfl
@[simp] theorem modIssue_ports : (modIssue s f).ports = s.ports := rfl
@[simp] theorem modIssue_portsUp : (modIssue s f).portsUp = s.portsUp := rfl
@[simp] theorem modIssue_windowMem : (modIssue s f).windowMem = s.windowMem := rfl
@[simp] theorem modIssue_nextRid : (modIssue s f).nextRid = s.nextRid := rfl
@[simp] theorem modIssue_fabReqs : (modIssue s f).fabReqs = s.fabReqs := rfl
@[simp] theorem modIssue_admissions : (modIssue s f).admissions = s.admissions := rfl
@[simp] theorem modIssue_leftJobs : (modIssue s f).leftJobs = s.leftJobs := rfl
@[simp] theorem modIssue_mailVersion : (modIssue s f).mailVersion = s.mailVersion := rfl
@[simp] theorem modIssue_walks : (modIssue s f).walks = s.walks := rfl
@[simp] theorem modIssue_control : (modIssue s f).control = s.control := rfl
@[simp] theorem modIssue_egressDone : (modIssue s f).egressDone = s.egressDone := rfl
@[simp] theorem modIssue_dbg : (modIssue s f).dbg = s.dbg := rfl
@[simp] theorem modIssue_host : (modIssue s f).host = s.host := rfl
end modIssue

/-! ## emit -/

section emit
variable (o : Output)
@[simp] theorem emit_gcyc : (emit s o).gcyc = s.gcyc := rfl
@[simp] theorem emit_phase : (emit s o).phase = s.phase := rfl
@[simp] theorem emit_agenda : (emit s o).agenda = s.agenda := rfl
@[simp] theorem emit_cur : (emit s o).cur = s.cur := rfl
@[simp] theorem emit_inputs : (emit s o).inputs = s.inputs := rfl
@[simp] theorem emit_freeCtr : (emit s o).freeCtr = s.freeCtr := rfl
@[simp] theorem emit_bringUp : (emit s o).bringUp = s.bringUp := rfl
@[simp] theorem emit_ready : (emit s o).ready = s.ready := rfl
@[simp] theorem emit_failedBring : (emit s o).failedBring = s.failedBring := rfl
@[simp] theorem emit_failCode : (emit s o).failCode = s.failCode := rfl
@[simp] theorem emit_frozenPkg : (emit s o).frozenPkg = s.frozenPkg := rfl
@[simp] theorem emit_poweredOff : (emit s o).poweredOff = s.poweredOff := rfl
@[simp] theorem emit_cutDies : (emit s o).cutDies = s.cutDies := rfl
@[simp] theorem emit_retryUntil : (emit s o).retryUntil = s.retryUntil := rfl
@[simp] theorem emit_ctxs : (emit s o).ctxs = s.ctxs := rfl
@[simp] theorem emit_cores : (emit s o).cores = s.cores := rfl
@[simp] theorem emit_clusters : (emit s o).clusters = s.clusters := rfl
@[simp] theorem emit_chans : (emit s o).chans = s.chans := rfl
@[simp] theorem emit_engines : (emit s o).engines = s.engines := rfl
@[simp] theorem emit_stewMem : (emit s o).stewMem = s.stewMem := rfl
@[simp] theorem emit_stewCode : (emit s o).stewCode = s.stewCode := rfl
@[simp] theorem emit_stewZero : (emit s o).stewZero = s.stewZero := rfl
@[simp] theorem emit_worlds : (emit s o).worlds = s.worlds := rfl
@[simp] theorem emit_funcs : (emit s o).funcs = s.funcs := rfl
@[simp] theorem emit_ides : (emit s o).ides = s.ides := rfl
@[simp] theorem emit_numVfs : (emit s o).numVfs = s.numVfs := rfl
@[simp] theorem emit_vfEnable : (emit s o).vfEnable = s.vfEnable := rfl
@[simp] theorem emit_vfMse : (emit s o).vfMse = s.vfMse := rfl
@[simp] theorem emit_vfBar0 : (emit s o).vfBar0 = s.vfBar0 := rfl
@[simp] theorem emit_vfBar2 : (emit s o).vfBar2 = s.vfBar2 := rfl
@[simp] theorem emit_layoutGen : (emit s o).layoutGen = s.layoutGen := rfl
@[simp] theorem emit_hbm : (emit s o).hbm = s.hbm := rfl
@[simp] theorem emit_rows : (emit s o).rows = s.rows := rfl
@[simp] theorem emit_nodes : (emit s o).nodes = s.nodes := rfl
@[simp] theorem emit_clrs : (emit s o).clrs = s.clrs := rfl
@[simp] theorem emit_cleared : (emit s o).cleared = s.cleared := rfl
@[simp] theorem emit_eccLines : (emit s o).eccLines = s.eccLines := rfl
@[simp] theorem emit_eccMeta : (emit s o).eccMeta = s.eccMeta := rfl
@[simp] theorem emit_treeErr : (emit s o).treeErr = s.treeErr := rfl
@[simp] theorem emit_badNodes : (emit s o).badNodes = s.badNodes := rfl
@[simp] theorem emit_softErrors : (emit s o).softErrors = s.softErrors := rfl
@[simp] theorem emit_pageWorld : (emit s o).pageWorld = s.pageWorld := rfl
@[simp] theorem emit_pagePoison : (emit s o).pagePoison = s.pagePoison := rfl
@[simp] theorem emit_pageCustody : (emit s o).pageCustody = s.pageCustody := rfl
@[simp] theorem emit_trans : (emit s o).trans = s.trans := rfl
@[simp] theorem emit_misses : (emit s o).misses = s.misses := rfl
@[simp] theorem emit_monitors : (emit s o).monitors = s.monitors := rfl
@[simp] theorem emit_monWrites : (emit s o).monWrites = s.monWrites := rfl
@[simp] theorem emit_monFail : (emit s o).monFail = s.monFail := rfl
@[simp] theorem emit_hostWaits : (emit s o).hostWaits = s.hostWaits := rfl
@[simp] theorem emit_colls : (emit s o).colls = s.colls := rfl
@[simp] theorem emit_doms : (emit s o).doms = s.doms := rfl
@[simp] theorem emit_tladds : (emit s o).tladds = s.tladds := rfl
@[simp] theorem emit_atomics : (emit s o).atomics = s.atomics := rfl
@[simp] theorem emit_slubs : (emit s o).slubs = s.slubs := rfl
@[simp] theorem emit_nextId : (emit s o).nextId = s.nextId := rfl
@[simp] theorem emit_winbase : (emit s o).winbase = s.winbase := rfl
@[simp] theorem emit_sessions : (emit s o).sessions = s.sessions := rfl
@[simp] theorem emit_svn : (emit s o).svn = s.svn := rfl
@[simp] theorem emit_activeSvn : (emit s o).activeSvn = s.activeSvn := rfl
@[simp] theorem emit_activeDigest : (emit s o).activeDigest = s.activeDigest := rfl
@[simp] theorem emit_staged : (emit s o).staged = s.staged := rfl
@[simp] theorem emit_log : (emit s o).log = s.log := rfl
@[simp] theorem emit_egress : (emit s o).egress = s.egress := rfl
@[simp] theorem emit_governed : (emit s o).governed = s.governed := rfl
@[simp] theorem emit_pkg : (emit s o).pkg = s.pkg := rfl
@[simp] theorem emit_ports : (emit s o).ports = s.ports := rfl
@[simp] theorem emit_portsUp : (emit s o).portsUp = s.portsUp := rfl
@[simp] theorem emit_windowMem : (emit s o).windowMem = s.windowMem := rfl
@[simp] theorem emit_nextRid : (emit s o).nextRid = s.nextRid := rfl
@[simp] theorem emit_fabReqs : (emit s o).fabReqs = s.fabReqs := rfl
@[simp] theorem emit_admissions : (emit s o).admissions = s.admissions := rfl
@[simp] theorem emit_leftJobs : (emit s o).leftJobs = s.leftJobs := rfl
@[simp] theorem emit_mailVersion : (emit s o).mailVersion = s.mailVersion := rfl
@[simp] theorem emit_walks : (emit s o).walks = s.walks := rfl
@[simp] theorem emit_control : (emit s o).control = s.control := rfl
@[simp] theorem emit_egressDone : (emit s o).egressDone = s.egressDone := rfl
@[simp] theorem emit_dbg : (emit s o).dbg = s.dbg := rfl
@[simp] theorem emit_host : (emit s o).host = s.host := rfl
end emit

/-! ## Compound updates -/

@[simp] theorem modCtx_eq (a : Agent) (f : Ctx → Ctx) : modCtx s a f = setCtx s a (f (ctxOf s a)) := rfl
@[simp] theorem modCur_eq (f : Ctx → Ctx) : modCur s f = setCtx s (curAgent s) (f (ctxOf s (curAgent s))) := rfl
theorem curCtx_eq : curCtx s = ctxOf s (curAgent s) := rfl

/-! ## What is put is read back -/

@[simp] theorem ctxOf_setCtx (a : Agent) (x : Ctx) : ctxOf (setCtx s a x) a = x := tabGet_tabSet_same _ _ _ _
theorem ctxOf_setCtx_other (a b : Agent) (x : Ctx) (h : agentId b ≠ agentId a) : ctxOf (setCtx s a x) b = ctxOf s b :=
  tabGet_tabSet_other _ _ _ _ _ h
@[simp] theorem setCtx_setCtx (a : Agent) (x y : Ctx) : setCtx (setCtx s a x) a y = setCtx s a y := by
  simp [setCtx, tabSet_tabSet]
@[simp] theorem coreOf_modCore (c : Nat) (f : Core → Core) : coreOf (modCore s c f) c = f (coreOf s c) :=
  tabGet_tabSet_same _ _ _ _
theorem coreOf_modCore_other (c d : Nat) (f : Core → Core) (h : d ≠ c) : coreOf (modCore s c f) d = coreOf s d :=
  tabGet_tabSet_other _ _ _ _ _ h
@[simp] theorem clusterOf_modCluster (k : Nat) (f : Cluster → Cluster) :
    clusterOf (modCluster s k f) k = f (clusterOf s k) := tabGet_tabSet_same _ _ _ _
@[simp] theorem chanOf_modChan (n : Nat) (f : Chan → Chan) : chanOf (modChan s n f) n = f (chanOf s n) :=
  tabGet_tabSet_same _ _ _ _
theorem chanOf_modChan_other (n m : Nat) (f : Chan → Chan) (h : m ≠ n) : chanOf (modChan s n f) m = chanOf s m :=
  tabGet_tabSet_other _ _ _ _ _ h
@[simp] theorem worldOf_modWorld (w : Nat) (f : World → World) : worldOf (modWorld s w f) w = f (worldOf s w) :=
  tabGet_tabSet_same _ _ _ _
theorem worldOf_modWorld_other (w v : Nat) (f : World → World) (h : v ≠ w) :
    worldOf (modWorld s w f) v = worldOf s v := tabGet_tabSet_other _ _ _ _ _ h
@[simp] theorem funcOf_modFunc (n : Nat) (f : Func → Func) : funcOf (modFunc s n f) n = f (funcOf s n) :=
  tabGet_tabSet_same _ _ _ _
theorem funcOf_modFunc_other (n m : Nat) (f : Func → Func) (h : m ≠ n) : funcOf (modFunc s n f) m = funcOf s m :=
  tabGet_tabSet_other _ _ _ _ _ h
@[simp] theorem engineOf_modEngine (e : Nat) (f : Engine → Engine) : engineOf (modEngine s e f) e = f (engineOf s e) :=
  tabGet_tabSet_same _ _ _ _
theorem engineOf_modEngine_other (e d : Nat) (f : Engine → Engine) (h : d ≠ e) :
    engineOf (modEngine s e f) d = engineOf s d := tabGet_tabSet_other _ _ _ _ _ h

/-! ## An update leaves what it does not name -/

section setCtxReads
variable (a : Agent) (x : Ctx)
@[simp] theorem coreOf_setCtx (i : Nat) : coreOf (setCtx s a x) i = coreOf s i := rfl
@[simp] theorem clusterOf_setCtx (i : Nat) : clusterOf (setCtx s a x) i = clusterOf s i := rfl
@[simp] theorem chanOf_setCtx (i : Nat) : chanOf (setCtx s a x) i = chanOf s i := rfl
@[simp] theorem worldOf_setCtx (i : Nat) : worldOf (setCtx s a x) i = worldOf s i := rfl
@[simp] theorem funcOf_setCtx (i : Nat) : funcOf (setCtx s a x) i = funcOf s i := rfl
@[simp] theorem engineOf_setCtx (i : Nat) : engineOf (setCtx s a x) i = engineOf s i := rfl
@[simp] theorem curAgent_setCtx : curAgent (setCtx s a x) = curAgent s := rfl
@[simp] theorem curT_setCtx : curT (setCtx s a x) = curT s := rfl
@[simp] theorem curSlot_setCtx : curSlot (setCtx s a x) = curSlot s := rfl
@[simp] theorem curWord_setCtx : curWord (setCtx s a x) = curWord s := rfl
end setCtxReads

section modCoreReads
variable (c : Nat) (f : Core → Core)
@[simp] theorem ctxOf_modCore (b : Agent) : ctxOf (modCore s c f) b = ctxOf s b := rfl
@[simp] theorem clusterOf_modCore (i : Nat) : clusterOf (modCore s c f) i = clusterOf s i := rfl
@[simp] theorem chanOf_modCore (i : Nat) : chanOf (modCore s c f) i = chanOf s i := rfl
@[simp] theorem worldOf_modCore (i : Nat) : worldOf (modCore s c f) i = worldOf s i := rfl
@[simp] theorem funcOf_modCore (i : Nat) : funcOf (modCore s c f) i = funcOf s i := rfl
@[simp] theorem engineOf_modCore (i : Nat) : engineOf (modCore s c f) i = engineOf s i := rfl
@[simp] theorem curAgent_modCore : curAgent (modCore s c f) = curAgent s := rfl
@[simp] theorem curT_modCore : curT (modCore s c f) = curT s := rfl
@[simp] theorem curSlot_modCore : curSlot (modCore s c f) = curSlot s := rfl
@[simp] theorem curWord_modCore : curWord (modCore s c f) = curWord s := rfl
end modCoreReads

section modClusterReads
variable (k : Nat) (f : Cluster → Cluster)
@[simp] theorem ctxOf_modCluster (b : Agent) : ctxOf (modCluster s k f) b = ctxOf s b := rfl
@[simp] theorem coreOf_modCluster (i : Nat) : coreOf (modCluster s k f) i = coreOf s i := rfl
@[simp] theorem chanOf_modCluster (i : Nat) : chanOf (modCluster s k f) i = chanOf s i := rfl
@[simp] theorem worldOf_modCluster (i : Nat) : worldOf (modCluster s k f) i = worldOf s i := rfl
@[simp] theorem funcOf_modCluster (i : Nat) : funcOf (modCluster s k f) i = funcOf s i := rfl
@[simp] theorem engineOf_modCluster (i : Nat) : engineOf (modCluster s k f) i = engineOf s i := rfl
@[simp] theorem curAgent_modCluster : curAgent (modCluster s k f) = curAgent s := rfl
@[simp] theorem curT_modCluster : curT (modCluster s k f) = curT s := rfl
@[simp] theorem curSlot_modCluster : curSlot (modCluster s k f) = curSlot s := rfl
@[simp] theorem curWord_modCluster : curWord (modCluster s k f) = curWord s := rfl
end modClusterReads

section modChanReads
variable (n : Nat) (f : Chan → Chan)
@[simp] theorem ctxOf_modChan (b : Agent) : ctxOf (modChan s n f) b = ctxOf s b := rfl
@[simp] theorem coreOf_modChan (i : Nat) : coreOf (modChan s n f) i = coreOf s i := rfl
@[simp] theorem clusterOf_modChan (i : Nat) : clusterOf (modChan s n f) i = clusterOf s i := rfl
@[simp] theorem worldOf_modChan (i : Nat) : worldOf (modChan s n f) i = worldOf s i := rfl
@[simp] theorem funcOf_modChan (i : Nat) : funcOf (modChan s n f) i = funcOf s i := rfl
@[simp] theorem engineOf_modChan (i : Nat) : engineOf (modChan s n f) i = engineOf s i := rfl
@[simp] theorem curAgent_modChan : curAgent (modChan s n f) = curAgent s := rfl
@[simp] theorem curT_modChan : curT (modChan s n f) = curT s := rfl
@[simp] theorem curSlot_modChan : curSlot (modChan s n f) = curSlot s := rfl
@[simp] theorem curWord_modChan : curWord (modChan s n f) = curWord s := rfl
end modChanReads

section modWorldReads
variable (w : Nat) (f : World → World)
@[simp] theorem ctxOf_modWorld (b : Agent) : ctxOf (modWorld s w f) b = ctxOf s b := rfl
@[simp] theorem coreOf_modWorld (i : Nat) : coreOf (modWorld s w f) i = coreOf s i := rfl
@[simp] theorem clusterOf_modWorld (i : Nat) : clusterOf (modWorld s w f) i = clusterOf s i := rfl
@[simp] theorem chanOf_modWorld (i : Nat) : chanOf (modWorld s w f) i = chanOf s i := rfl
@[simp] theorem funcOf_modWorld (i : Nat) : funcOf (modWorld s w f) i = funcOf s i := rfl
@[simp] theorem engineOf_modWorld (i : Nat) : engineOf (modWorld s w f) i = engineOf s i := rfl
@[simp] theorem curAgent_modWorld : curAgent (modWorld s w f) = curAgent s := rfl
@[simp] theorem curT_modWorld : curT (modWorld s w f) = curT s := rfl
@[simp] theorem curSlot_modWorld : curSlot (modWorld s w f) = curSlot s := rfl
@[simp] theorem curWord_modWorld : curWord (modWorld s w f) = curWord s := rfl
end modWorldReads

section modFuncReads
variable (n : Nat) (f : Func → Func)
@[simp] theorem ctxOf_modFunc (b : Agent) : ctxOf (modFunc s n f) b = ctxOf s b := rfl
@[simp] theorem coreOf_modFunc (i : Nat) : coreOf (modFunc s n f) i = coreOf s i := rfl
@[simp] theorem clusterOf_modFunc (i : Nat) : clusterOf (modFunc s n f) i = clusterOf s i := rfl
@[simp] theorem chanOf_modFunc (i : Nat) : chanOf (modFunc s n f) i = chanOf s i := rfl
@[simp] theorem worldOf_modFunc (i : Nat) : worldOf (modFunc s n f) i = worldOf s i := rfl
@[simp] theorem engineOf_modFunc (i : Nat) : engineOf (modFunc s n f) i = engineOf s i := rfl
@[simp] theorem curAgent_modFunc : curAgent (modFunc s n f) = curAgent s := rfl
@[simp] theorem curT_modFunc : curT (modFunc s n f) = curT s := rfl
@[simp] theorem curSlot_modFunc : curSlot (modFunc s n f) = curSlot s := rfl
@[simp] theorem curWord_modFunc : curWord (modFunc s n f) = curWord s := rfl
end modFuncReads

section modEngineReads
variable (e : Nat) (f : Engine → Engine)
@[simp] theorem ctxOf_modEngine (b : Agent) : ctxOf (modEngine s e f) b = ctxOf s b := rfl
@[simp] theorem coreOf_modEngine (i : Nat) : coreOf (modEngine s e f) i = coreOf s i := rfl
@[simp] theorem clusterOf_modEngine (i : Nat) : clusterOf (modEngine s e f) i = clusterOf s i := rfl
@[simp] theorem chanOf_modEngine (i : Nat) : chanOf (modEngine s e f) i = chanOf s i := rfl
@[simp] theorem worldOf_modEngine (i : Nat) : worldOf (modEngine s e f) i = worldOf s i := rfl
@[simp] theorem funcOf_modEngine (i : Nat) : funcOf (modEngine s e f) i = funcOf s i := rfl
@[simp] theorem curAgent_modEngine : curAgent (modEngine s e f) = curAgent s := rfl
@[simp] theorem curT_modEngine : curT (modEngine s e f) = curT s := rfl
@[simp] theorem curSlot_modEngine : curSlot (modEngine s e f) = curSlot s := rfl
@[simp] theorem curWord_modEngine : curWord (modEngine s e f) = curWord s := rfl
end modEngineReads

section modIssueReads
variable (f : Issue → Issue)
@[simp] theorem ctxOf_modIssue (b : Agent) : ctxOf (modIssue s f) b = ctxOf s b := rfl
@[simp] theorem coreOf_modIssue (i : Nat) : coreOf (modIssue s f) i = coreOf s i := rfl
@[simp] theorem clusterOf_modIssue (i : Nat) : clusterOf (modIssue s f) i = clusterOf s i := rfl
@[simp] theorem chanOf_modIssue (i : Nat) : chanOf (modIssue s f) i = chanOf s i := rfl
@[simp] theorem worldOf_modIssue (i : Nat) : worldOf (modIssue s f) i = worldOf s i := rfl
@[simp] theorem funcOf_modIssue (i : Nat) : funcOf (modIssue s f) i = funcOf s i := rfl
@[simp] theorem engineOf_modIssue (i : Nat) : engineOf (modIssue s f) i = engineOf s i := rfl
end modIssueReads

section emitReads
variable (o : Output)
@[simp] theorem ctxOf_emit (b : Agent) : ctxOf (emit s o) b = ctxOf s b := rfl
@[simp] theorem coreOf_emit (i : Nat) : coreOf (emit s o) i = coreOf s i := rfl
@[simp] theorem clusterOf_emit (i : Nat) : clusterOf (emit s o) i = clusterOf s i := rfl
@[simp] theorem chanOf_emit (i : Nat) : chanOf (emit s o) i = chanOf s i := rfl
@[simp] theorem worldOf_emit (i : Nat) : worldOf (emit s o) i = worldOf s i := rfl
@[simp] theorem funcOf_emit (i : Nat) : funcOf (emit s o) i = funcOf s i := rfl
@[simp] theorem engineOf_emit (i : Nat) : engineOf (emit s o) i = engineOf s i := rfl
@[simp] theorem curAgent_emit : curAgent (emit s o) = curAgent s := rfl
@[simp] theorem curT_emit : curT (emit s o) = curT s := rfl
@[simp] theorem curSlot_emit : curSlot (emit s o) = curSlot s := rfl
@[simp] theorem curWord_emit : curWord (emit s o) = curWord s := rfl
end emitReads

end Sys2Proof.Laws
end

