-- ==== Sys2Proof/Laws/Operands.lean ====
section
/-!
SUPPORT. What a slot, its Source and Dest steps and its operand forms can do, said once; a proof about an instruction
cites these and never unfolds them.
-/

namespace Sys2Proof.Laws

open Sys2Proof Sys2Proof.Machine

/-! ## A slot -/

theorem slot_ok {g : Nat} {u : Issue} {s t : State} {body : State → Except Nat State} (h : slotRuns g u s)
    (hb : body s = .ok t) : execSlot g body s = slotDone u t := by
  simp [execSlot, h.1, h.2, hb, slotDone]

theorem slot_trap {g : Nat} {u : Issue} {s : State} {body : State → Except Nat State} {c : Nat} (h : slotRuns g u s)
    (hb : body s = .error c) : execSlot g body s = .next (slotTrap c s) := by
  simp [execSlot, h.1, h.2, hb]

theorem slot_off {g : Nat} {s : State} {body : State → Except Nat State} (h : guardTrue g s = false) :
    execSlot g body s = .next s := by
  simp only [execSlot]
  split <;> simp [h]

theorem slot_next (g : Nat) (body : State → Except Nat State) (s : State) : ∃ t, execSlot g body s = .next t := by
  simp only [execSlot]
  split
  · exact ⟨_, rfl⟩
  · split
    · split <;> exact ⟨_, rfl⟩
    · exact ⟨_, rfl⟩

theorem runs_agent {g : Nat} {u : Issue} {s : State} (h : slotRuns g u s) : curAgent s = u.ag := by
  simp [curAgent, h.1]

theorem runs_time {g : Nat} {u : Issue} {s : State} (h : slotRuns g u s) : curT s = u.t := by simp [curT, h.1]

/-! ## Source and Dest -/

theorem source_ok {r : Nat} {pop : Bool} {s t : State} {v : Word} (h : source r pop s = .ok (v, t)) :
    ∃ q : Tab (Machine.Ring Word), t = setCtx s (curAgent s) { curCtx s with sregs := q } := by
  simp only [source, sourceIn] at h
  split at h
  · simp at h
  · rename_i w x hx
    split at hx
    · simp only [Except.ok.injEq, Prod.mk.injEq] at h hx
      exact ⟨(curCtx s).sregs, by rw [← h.2, ← hx.2]⟩
    · split at hx
      · simp at hx
      · simp only [Except.ok.injEq, Prod.mk.injEq] at h hx
        exact ⟨_, by rw [← h.2, ← hx.2]⟩

theorem dest_ok {r : Nat} {push : Bool} {s t : State} {c : Option Nat} (h : dest r push s = .ok (c, t)) :
    ∃ q : Tab (Machine.Ring Word), t = setCtx s (curAgent s) { curCtx s with sregs := q } := by
  simp only [dest, destIn] at h
  split at h
  · simp at h
  · rename_i w x hx
    split at hx
    · simp only [Except.ok.injEq, Prod.mk.injEq] at h hx
      exact ⟨(curCtx s).sregs, by rw [← h.2, ← hx.2]⟩
    · split at hx
      · simp at hx
      · simp only [Except.ok.injEq, Prod.mk.injEq] at h hx
        exact ⟨_, by rw [← h.2, ← hx.2]⟩

/-- The state that Source and Dest steps leave: only the scalar queues of the issuing context are other. -/
theorem source_keeps {r : Nat} {pop : Bool} {s t : State} {v : Word} (h : source r pop s = .ok (v, t)) :
    curAgent t = curAgent s ∧ t.cur = s.cur ∧ curCtx t = { curCtx s with sregs := (curCtx t).sregs } := by
  obtain ⟨q, rfl⟩ := source_ok h
  simp [curCtx]

theorem dest_keeps {r : Nat} {push : Bool} {s t : State} {c : Option Nat} (h : dest r push s = .ok (c, t)) :
    curAgent t = curAgent s ∧ t.cur = s.cur ∧ curCtx t = { curCtx s with sregs := (curCtx t).sregs } := by
  obtain ⟨q, rfl⟩ := dest_ok h
  simp [curCtx]

theorem source_zero (pop : Bool) (s : State) : source 0 pop s = .ok (0, setCtx s (curAgent s) (curCtx s)) := rfl

theorem dest_zero (push : Bool) (s : State) : dest 0 push s = .ok (none, setCtx s (curAgent s) (curCtx s)) := rfl

/-! ## Operand forms -/

theorem formRR_ok {o : RR} {L : Nat} {op : Word → Word → Word} {s t : State} {u : Issue} {x y : Word} {c : Option Nat}
    (h : slotRuns o.g u s) (hr : readsRR o s x y c t) : formRR o L op s = slotDone u (landReg L o.d c (op x y) t) := by
  obtain ⟨s2, ⟨s1, h1, h2⟩, h3⟩ := hr
  refine slot_ok h ?_
  simp [bind, Except.bind, h1, h2, h3, writeReg]

theorem formRRD_ok {o : RR} {L : Nat} {op : Word → Word → Word → Word} {s t : State} {u : Issue} {x y z : Word}
    {c : Option Nat} (h : slotRuns o.g u s) (hr : readsRRD o s x y z c t) :
    formRRD o L op s = slotDone u (landReg L o.d c (op x y z) t) := by
  obtain ⟨s2, s3, ⟨s1, h1, h2⟩, h3, h4⟩ := hr
  refine slot_ok h ?_
  simp [bind, Except.bind, h1, h2, h3, h4, writeReg]

theorem formRU_ok {o : RU} {L : Nat} {op : Word → Word} {s t : State} {u : Issue} {x : Word} {c : Option Nat}
    (h : slotRuns o.g u s) (hr : readsOne o.a o.m o.d o.q s x c t) :
    formRU o L op s = slotDone u (landReg L o.d c (op x) t) := by
  obtain ⟨s1, h1, h3⟩ := hr
  refine slot_ok h ?_
  simp [bind, Except.bind, h1, h3, writeReg]

theorem formRI_ok {o : RI} {L : Nat} {op : Word → Nat → Word} {s t : State} {u : Issue} {x : Word} {c : Option Nat}
    (h : slotRuns o.g u s) (hr : readsOne o.a o.m o.d o.q s x c t) :
    formRI o L op s = slotDone u (landReg L o.d c (op x o.i) t) := by
  obtain ⟨s1, h1, h3⟩ := hr
  refine slot_ok h ?_
  simp [bind, Except.bind, h1, h3, writeReg]

theorem formCmp_ok {o : CmpRR} {cond : Nat → Word → Word → Bool} {s t : State} {u : Issue} {x y : Word}
    (h : slotRuns o.g u s) (hr : readsTwo o.a o.m o.b o.n s x y t) :
    formCmp o cond s = slotDone u (land 1 (.pair o.p (cond o.c x y)) t) := by
  obtain ⟨s1, h1, h2⟩ := hr
  refine slot_ok h ?_
  simp [bind, Except.bind, h1, h2, writePair]

theorem formPLog_ok {o : PLog} {op : Bool → Bool → Bool} {s : State} {u : Issue} (h : slotRuns o.g u s) :
    formPLog o op s = slotDone u (land 1 (.pair o.p (op (predOf (curCtx s) o.a) (predOf (curCtx s) o.b))) s) :=
  slot_ok h rfl

theorem formFP_ok {o : RR} {op : Bool → Val → Val → Val} {s s2 t : State} {u : Issue} {x y : Word} {c : Option Nat}
    (h : slotRuns o.g u s) (hr : readsTwo o.a o.m o.b o.n s x y s2)
    (hd : dest o.d o.q (takeRmode s2).2.2 = .ok (c, t)) :
    formFP o op s = slotDone u (landReg 4 o.d c (wd (roundTo .fp32 (takeRmode s2).1 false (takeRmode s2).2.1
      (op ((takeRmode s2).1 == 3) (fpArg x) (fpArg y)))) t) := by
  obtain ⟨s1, h1, h2⟩ := hr
  refine slot_ok h ?_
  simp [bind, Except.bind, h1, h2, hd, writeReg]

theorem formFPExact_ok {o : RR} {op : Val → Val → Val} {s s2 t : State} {u : Issue} {x y : Word} {c : Option Nat}
    (h : slotRuns o.g u s) (hr : readsTwo o.a o.m o.b o.n s x y s2) (hd : dest o.d o.q s2 = .ok (c, t)) :
    formFPExact o op s = slotDone u (landReg 4 o.d c (wd (roundTo .fp32 1 false 0 (op (fpArg x) (fpArg y)))) t) := by
  obtain ⟨s1, h1, h2⟩ := hr
  refine slot_ok h ?_
  simp [bind, Except.bind, h1, h2, hd, writeReg]

/-! ## What is in flight -/

theorem landReg_none (L r : Nat) (v : Word) (s : State) : landReg L r none v s = s := rfl

theorem land_pend (L : Nat) (act : Pend) (s : State) :
    (curCtx (land L act s)).pend = (curCtx s).pend ++ [⟨curT s + L, curT s, curSlot s, act⟩] := by
  simp [land, landAt, curCtx]

theorem land_keeps (L : Nat) (act : Pend) (s : State) :
    (land L act s).cur = s.cur ∧ curCtx (land L act s) = { curCtx s with pend := (curCtx (land L act s)).pend } := by
  simp [land, landAt, curCtx]

end Sys2Proof.Laws
end

