-- ==== Sys2Proof/Laws/Frame.lean ====
section
/-!
SUPPORT. The frame of the parts that slot words are made of: a Source step, a Dest step, a result put in flight, the draws of
a rounding, a counted event.
-/

namespace Sys2Proof.Laws

open Sys2Proof Sys2Proof.Machine

theorem onlyCores_trans {s t r : State} (h : onlyCores s t) (h' : onlyCores t r) : onlyCores s r := by
  unfold onlyCores at *
  rw [h'] at *
  rw [h]

theorem keeps_refl (n : Named) (u : Issue) (s : State) : keepsRest n u s s :=
  ⟨rfl, rfl, fun _ _ => rfl, fun _ _ => rfl, rfl, fun _ _ => rfl, ⟨[], by simp, by simp⟩, rfl, fun _ _ => rfl⟩

theorem keeps_trans {n : Named} {u : Issue} {s t r : State} (h : keepsRest n u s t) (h' : keepsRest n u t r) :
    keepsRest n u s r := by
  obtain ⟨h1, h2, h3, h4, h5, h6, ⟨p, h7, h8⟩, h9, ha⟩ := h
  obtain ⟨g1, g2, g3, g4, g5, g6, ⟨q, g7, g8⟩, g9, ga⟩ := h'
  refine ⟨onlyCores_trans h1 g1, g2.trans h2, fun k hk => (g3 k hk).trans (h3 k hk),
    fun k hk => (g4 k hk).trans (h4 k hk), ?_, fun k hk => (g6 k hk).trans (h6 k hk), ⟨p ++ q, ?_, ?_⟩, ?_,
    fun k hk => (ga k hk).trans (ha k hk)⟩
  · rw [g5, h5]
  · rw [g7, h7, List.append_assoc]
  · intro x hx
    rcases List.mem_append.1 hx with h | h
    exacts [h8 x h, g8 x h]
  · rw [g9, h9]

theorem keeps_agent {n : Named} {u : Issue} {s t : State} (h : keepsRest n u s t) (ha : curAgent s = u.ag) :
    curAgent t = u.ag := by
  rw [← ha]
  simp [curAgent, h.2.1]

/-- A change of the issuing context's own queues, LFSR, counters and what is in flight. -/
theorem keeps_setCtx {n : Named} {u : Issue} {s : State} {x : Ctx}
    (hx : x = { ctxOf s u.ag with sregs := x.sregs, pend := x.pend, lfsr := x.lfsr, evcnt := x.evcnt })
    (hr : ∀ r : Nat, r ∉ n.regs → sregOf x r = sregOf (ctxOf s u.ag) r)
    (hp : ∃ p : List InFlight, x.pend = (ctxOf s u.ag).pend ++ p ∧ ∀ q ∈ p, inFlightOf n q.act = true) :
    keepsRest n u s (setCtx s u.ag x) := by
  refine ⟨by simp [onlyCores, setCtx], rfl, ?_, fun _ _ => rfl, ?_, ?_, ?_, rfl, fun _ _ => rfl⟩
  · intro k hk
    simp [setCtx, tabGet_tabSet_other _ _ _ _ _ hk]
  · simpa using hx
  · simpa using hr
  · simpa using hp

theorem keeps_source {n : Named} {u : Issue} {s t : State} {r : Nat} {pop : Bool} {v : Word} (ha : curAgent s = u.ag)
    (h : source r pop s = .ok (v, t)) (hn : pop = true → r ∈ n.regs) : keepsRest n u s t := by
  simp only [source, sourceIn] at h
  split at h
  · simp at h
  rename_i w x hx
  simp only [Except.ok.injEq, Prod.mk.injEq] at h
  rw [← h.2, ha]
  simp only [curCtx, ha] at hx
  refine keeps_setCtx ?_ ?_ ?_ <;> split at hx
  · simp only [Except.ok.injEq, Prod.mk.injEq] at hx
    rw [← hx.2]
  · split at hx
    · simp at hx
    · simp only [Except.ok.injEq, Prod.mk.injEq] at hx
      rw [← hx.2]
  · simp only [Except.ok.injEq, Prod.mk.injEq] at hx
    simp [← hx.2]
  · split at hx
    · simp at hx
    · rename_i q hq
      simp only [Except.ok.injEq, Prod.mk.injEq] at hx
      intro k hk
      rw [← hx.2]
      simp only [sregOf]
      by_cases hkr : k = r
      · subst hkr
        have hpop : pop = false := by
          cases pop
          · rfl
          · exact absurd (hn rfl) hk
        subst hpop
        simp only [ringSource] at hq
        split at hq
        · simp at hq
        · simp only [Bool.false_eq_true, if_false, Except.ok.injEq, Prod.mk.injEq] at hq
          simp [← hq.2, sregOf, *]
      · rw [tabGet_tabSet_other _ _ _ _ _ hkr]
  · simp only [Except.ok.injEq, Prod.mk.injEq] at hx
    exact ⟨[], by simp [← hx.2], by simp⟩
  · split at hx
    · simp at hx
    · simp only [Except.ok.injEq, Prod.mk.injEq] at hx
      exact ⟨[], by simp [← hx.2], by simp⟩

theorem keeps_dest {n : Named} {u : Issue} {s t : State} {r : Nat} {push : Bool} {c : Option Nat} (ha : curAgent s = u.ag)
    (h : dest r push s = .ok (c, t)) (hn : r ∈ n.regs) : keepsRest n u s t := by
  simp only [dest, destIn] at h
  split at h
  · simp at h
  rename_i w x hx
  simp only [Except.ok.injEq, Prod.mk.injEq] at h
  rw [← h.2, ha]
  simp only [curCtx, ha] at hx
  refine keeps_setCtx ?_ ?_ ?_ <;> split at hx
  · simp only [Except.ok.injEq, Prod.mk.injEq] at hx
    rw [← hx.2]
  · split at hx
    · simp at hx
    · simp only [Except.ok.injEq, Prod.mk.injEq] at hx
      rw [← hx.2]
  · simp only [Except.ok.injEq, Prod.mk.injEq] at hx
    simp [← hx.2]
  · split at hx
    · simp at hx
    · simp only [Except.ok.injEq, Prod.mk.injEq] at hx
      intro k hk
      rw [← hx.2]
      simp only [sregOf]
      rw [tabGet_tabSet_other]
      rintro rfl
      exact hk hn
  · simp only [Except.ok.injEq, Prod.mk.injEq] at hx
    exact ⟨[], by simp [← hx.2], by simp⟩
  · split at hx
    · simp at hx
    · simp only [Except.ok.injEq, Prod.mk.injEq] at hx
      exact ⟨[], by simp [← hx.2], by simp⟩

theorem keeps_landAt {n : Named} {u : Issue} {s : State} {due : Nat} {act : Pend} (ha : curAgent s = u.ag)
    (hn : inFlightOf n act = true) : keepsRest n u s (landAt due act s) := by
  simp only [landAt, modCur, modCtx, ha]
  exact keeps_setCtx rfl (fun _ _ => rfl) ⟨_, rfl, by simpa using hn⟩

theorem keeps_land {n : Named} {u : Issue} {s : State} {L : Nat} {act : Pend} (ha : curAgent s = u.ag)
    (hn : inFlightOf n act = true) : keepsRest n u s (land L act s) := keeps_landAt ha hn

theorem keeps_landReg {n : Named} {u : Issue} {s : State} {L r : Nat} {c : Option Nat} {v : Word} (ha : curAgent s = u.ag)
    (hn : r ∈ n.regs) : keepsRest n u s (landReg L r c v s) := by
  cases c with
  | none => exact keeps_refl _ _ _
  | some c => exact keeps_landAt ha (by simpa [inFlightOf] using hn)

theorem keeps_writeReg {n : Named} {u : Issue} {s t : State} {L r : Nat} {push : Bool} {v : Word} (ha : curAgent s = u.ag)
    (h : writeReg L r push v s = .ok t) (hn : r ∈ n.regs) : keepsRest n u s t := by
  simp only [writeReg] at h
  split at h
  · simp at h
  · rename_i c s1 hd
    cases h
    have k := keeps_dest ha hd hn
    exact keeps_trans k (keeps_landReg (keeps_agent k ha) hn)

theorem keeps_draws {n : Named} {u : Issue} {s : State} {mode k : Nat} (ha : curAgent s = u.ag) :
    keepsRest n u s (takeDraws mode k s).2 := by
  simp only [takeDraws, modCur, modCtx, ha]
  exact keeps_setCtx rfl (fun _ _ => rfl) ⟨[], by simp, by simp⟩

theorem keeps_count {n : Named} {u : Issue} {s : State} {e k : Nat} : keepsRest n u s (countEvent u.ag e k s) := by
  simp only [countEvent]
  split
  · exact keeps_refl _ _ _
  · refine keeps_setCtx ?_ ?_ ⟨[], ?_, by simp⟩ <;> simp only [countIn] <;> split <;> simp [sregOf]

/-- A change of the own core's vector queues. -/
theorem keeps_setVq {n : Named} {u : Issue} {s : State} {f : VFile} {q : Nat} {r : Machine.Ring Vec}
    (hn : fileNo f * 16 + q ∈ n.queues ∨ r = vqOf (coreOf s (agIdx u.ag)) f q) :
    keepsRest n u s (modCore s (agIdx u.ag) (fun k => setVq k f q r)) := by
  refine ⟨by simp [onlyCores, modCore], rfl, fun _ _ => rfl, ?_, rfl, fun _ _ => rfl, ⟨[], by simp [ctxOf, modCore], by simp⟩, ?_, ?_⟩
  · intro k hk
    simp [modCore, tabGet_tabSet_other _ _ _ _ _ hk]
  · simp [modCore, coreOf, setVq]
  · intro k hk
    simp only [modCore, coreOf, setVq, tabGet_tabSet_same]
    by_cases hkq : k = fileNo f * 16 + q
    · subst hkq
      rcases hn with hn | hn
      · exact absurd hn hk
      · simp [hn, vqOf, coreOf]
    · rw [tabGet_tabSet_other _ _ _ _ _ hkq]

theorem keeps_vsource {n : Named} {u : Issue} {s t : State} {f : VFile} {q : Nat} {pop : Bool} {v : Vec}
    (ha : curAgent s = u.ag) (h : vsource f q pop s = .ok (v, t)) (hn : pop = true → fileNo f * 16 + q ∈ n.queues) :
    keepsRest n u s t := by
  simp only [vsource] at h
  split at h
  · simp at h
  split at h
  · simp at h
  rename_i w r hr
  simp only [Except.ok.injEq, Prod.mk.injEq] at h
  rw [← h.2, ha]
  refine keeps_setVq ?_
  cases pop with
  | true => exact .inl (hn rfl)
  | false =>
    right
    simp only [ringSource] at hr
    split at hr
    · simp at hr
    · simp only [Bool.false_eq_true, if_false, Except.ok.injEq, Prod.mk.injEq] at hr
      rw [← hr.2, curCore, ha]

theorem keeps_writeVec {n : Named} {u : Issue} {s t : State} {L d : Nat} {v : Vec} (ha : curAgent s = u.ag)
    (h : writeVec L d v s = .ok t) (hn : fileNo (routeFile d) * 16 + routeQueue d ∈ n.queues) : keepsRest n u s t := by
  simp only [writeVec, vdest] at h
  split at h
  · simp at h
  rename_i c s1 hs
  split at hs
  · simp at hs
  split at hs
  · simp at hs
  simp only [Except.ok.injEq, Prod.mk.injEq] at h hs
  rw [← h]
  have k : keepsRest n u s s1 := by
    rw [← hs.2, ha]
    exact keeps_setVq (.inl hn)
  exact keeps_trans k (keeps_land (keeps_agent k ha) (by simpa [inFlightOf] using hn))

/-- A slot whose body keeps the rest keeps the rest, unless it traps. -/
theorem keeps_slot {n : Named} {u : Issue} {s t : State} {g : Nat} {body : State → Except Nat State} (hu : s.cur = some u)
    (h : execSlot g body s = .next t) (hb : ∀ r, body s = .ok r → keepsRest n u s r) :
    (∃ c : Nat, t = slotTrap c s) ∨ keepsRest n u s t := by
  simp only [execSlot, hu] at h
  split at h
  · split at h
    · rename_i r hr
      cases h
      exact .inr (keeps_trans (hb r hr) keeps_count)
    · cases h
      exact .inl ⟨_, rfl⟩
  · cases h
    exact .inr (keeps_refl _ _ _)

end Sys2Proof.Laws
end

