-- ==== Sys2Proof/Tests/Slice0.lean ====
section
/-!
SUPPORT. Tests: ill-formed terms that WellFormed refuses; the words that the manual prints, and words written out from its
layouts; and, for the statements of Sys2Proof.Certificates.Slice0.Obligations that have hypotheses, states and operands
that meet them.
-/

namespace Sys2Proof.Tests

open Sys2Proof Sys2Proof.Machine

set_option Elab.async false

/-! ## Ill-formed terms -/

/-- An operand one past its field, for each field of each layout. -/
theorem test_fits_0 : ∀ i ∈ ([
      .add ⟨16, 0, false, 0, false, 0, false⟩, .add ⟨0, 32, false, 0, false, 0, false⟩,
      .add ⟨0, 0, false, 32, false, 0, false⟩, .add ⟨0, 0, false, 0, false, 32, false⟩, .mov ⟨16, 0, false, 0, false⟩,
      .mov ⟨0, 32, false, 0, false⟩, .mov ⟨0, 0, false, 32, false⟩, .sel ⟨16, 0, false, 0, false, 0, false, 0⟩,
      .sel ⟨0, 32, false, 0, false, 0, false, 0⟩, .sel ⟨0, 0, false, 32, false, 0, false, 0⟩,
      .sel ⟨0, 0, false, 0, false, 32, false, 0⟩, .sel ⟨0, 0, false, 0, false, 0, false, 16⟩,
      .adds ⟨16, 0, false, 0, false, 0, false, 0⟩, .adds ⟨0, 32, false, 0, false, 0, false, 0⟩,
      .adds ⟨0, 0, false, 32, false, 0, false, 0⟩, .adds ⟨0, 0, false, 0, false, 32, false, 0⟩,
      .adds ⟨0, 0, false, 0, false, 0, false, 16⟩, .cmp ⟨16, 0, 1, 0, false, 0, false⟩,
      .cmp ⟨0, 16, 1, 0, false, 0, false⟩, .cmp ⟨0, 0, 4, 0, false, 0, false⟩, .cmp ⟨0, 0, 1, 32, false, 0, false⟩,
      .cmp ⟨0, 0, 1, 0, false, 32, false⟩, .cmpi ⟨16, 0, 1, 0, false, 0⟩, .cmpi ⟨0, 16, 1, 0, false, 0⟩] : List Instr), i.isWf = false := by decide

/-- An operand one past its field, for each field of each layout. -/
theorem test_fits_1 : ∀ i ∈ ([
      .cmpi ⟨0, 0, 4, 0, false, 0⟩, .cmpi ⟨0, 0, 1, 32, false, 0⟩, .cmpi ⟨0, 0, 1, 0, false, 1024⟩,
      .addi ⟨16, 0, false, 0, false, 0⟩, .addi ⟨0, 32, false, 0, false, 0⟩, .addi ⟨0, 0, false, 32, false, 0⟩,
      .addi ⟨0, 0, false, 0, false, 1024⟩, .shli ⟨16, 0, false, 0, false, 0⟩, .shli ⟨0, 32, false, 0, false, 0⟩,
      .shli ⟨0, 0, false, 32, false, 0⟩, .shli ⟨0, 0, false, 0, false, 64⟩, .lim ⟨16, 0, false, 0⟩,
      .lim ⟨0, 32, false, 0⟩, .lim ⟨0, 0, false, 65536⟩, .pand ⟨16, 1, 0, 0⟩, .pand ⟨0, 4, 0, 0⟩, .pand ⟨0, 1, 16, 0⟩,
      .pand ⟨0, 1, 0, 16⟩, .pset ⟨16, 1, false⟩, .pset ⟨0, 4, false⟩,
      .ffma ⟨16, 0, false, 0, false, 0, false, false, false⟩, .ffma ⟨0, 32, false, 0, false, 0, false, false, false⟩,
      .ffma ⟨0, 0, false, 32, false, 0, false, false, false⟩, .ffma ⟨0, 0, false, 0, false, 32, false, false, false⟩] : List Instr), i.isWf = false := by decide

/-- An operand one past its field, for each field of each layout. -/
theorem test_fits_2 : ∀ i ∈ ([
      .fcvt ⟨16, 0, false, 0, false, 0⟩, .fcvt ⟨0, 32, false, 0, false, 0⟩, .fcvt ⟨0, 0, false, 32, false, 0⟩,
      .fcvt ⟨0, 0, false, 0, false, 16⟩, .qlen ⟨16, 0, false, 0⟩, .qlen ⟨0, 32, false, 0⟩, .qlen ⟨0, 0, false, 32⟩,
      .qclr ⟨16, 0⟩, .qclr ⟨0, 32⟩, .csrrd ⟨16, 0, false, 0⟩, .csrrd ⟨0, 32, false, 0⟩, .csrrd ⟨0, 0, false, 4096⟩,
      .csrwr ⟨16, 0, 0, false⟩, .csrwr ⟨0, 4096, 0, false⟩, .csrwr ⟨0, 0, 32, false⟩, .br ⟨16, 0⟩, .br ⟨0, 4194304⟩,
      .brl ⟨16, false, 0⟩, .brl ⟨0, false, 2097152⟩, .bri ⟨16, 0, false⟩, .bri ⟨0, 32, false⟩, .loop ⟨16, 0, false, 0⟩,
      .loop ⟨0, 32, false, 0⟩, .loop ⟨0, 0, false, 8⟩] : List Instr), i.isWf = false := by decide

/-- An operand one past its field, for each field of each layout. -/
theorem test_fits_3 : ∀ i ∈ ([
      .loopi ⟨16, 0, 0⟩, .loopi ⟨0, 8, 0⟩, .loopi ⟨0, 0, 65536⟩, .loopiK ⟨16⟩, .bswap ⟨16, 0⟩, .bswap ⟨0, 262144⟩,
      .ifence ⟨16⟩, .iverify ⟨16, 1, 0, false, 0, false⟩, .iverify ⟨0, 4, 0, false, 0, false⟩,
      .iverify ⟨0, 1, 32, false, 0, false⟩, .iverify ⟨0, 1, 0, false, 32, false⟩, .trap ⟨16, 0⟩, .trap ⟨0, 65536⟩,
      .vld ⟨16, 0, 0, false, 0⟩, .vld ⟨0, 256, 0, false, 0⟩, .vld ⟨0, 0, 32, false, 0⟩, .vld ⟨0, 0, 0, false, 256⟩,
      .vst ⟨16, false, 0, 0, false, 0⟩, .vst ⟨0, false, 16, 0, false, 0⟩, .vst ⟨0, false, 0, 32, false, 0⟩,
      .vst ⟨0, false, 0, 0, false, 256⟩, .vstm ⟨16, false, 0, 0, 0, false, 0⟩, .vstm ⟨0, false, 16, 0, 0, false, 0⟩,
      .vstm ⟨0, false, 0, 8, 0, false, 0⟩] : List Instr), i.isWf = false := by decide

/-- An operand one past its field, for each field of each layout. -/
theorem test_fits_4 : ∀ i ∈ ([
      .vstm ⟨0, false, 0, 0, 32, false, 0⟩, .vstm ⟨0, false, 0, 0, 0, false, 256⟩, .vlds ⟨16, 0, 0⟩, .vlds ⟨0, 256, 0⟩,
      .vlds ⟨0, 0, 2048⟩, .vsts ⟨16, false, 0, 0⟩, .vsts ⟨0, false, 16, 0⟩, .vsts ⟨0, false, 0, 2048⟩,
      .latom ⟨16, 0, false, 0, false, 0, false, 0, false⟩, .latom ⟨0, 32, false, 0, false, 0, false, 0, false⟩,
      .latom ⟨0, 0, false, 32, false, 0, false, 0, false⟩, .latom ⟨0, 0, false, 0, false, 32, false, 0, false⟩,
      .latom ⟨0, 0, false, 0, false, 0, false, 8, false⟩, .sendt ⟨16, false, 0, 1⟩, .sendt ⟨0, false, 16, 1⟩,
      .sendt ⟨0, false, 0, 16⟩, .recvt ⟨16, 0, 0⟩, .recvt ⟨0, 256, 0⟩, .recvt ⟨0, 0, 4⟩,
      .vadd ⟨16, 0, false, 0, false, 0, 0⟩, .vadd ⟨0, 256, false, 0, false, 0, 0⟩,
      .vadd ⟨0, 0, false, 16, false, 0, 0⟩, .vadd ⟨0, 0, false, 0, false, 16, 0⟩, .vadd ⟨0, 0, false, 0, false, 0, 4⟩] : List Instr), i.isWf = false := by decide

/-- An operand one past its field, for each field of each layout. -/
theorem test_fits_5 : ∀ i ∈ ([
      .vaccr ⟨16, 0, false, false, 0, 0⟩, .vaccr ⟨0, 256, false, false, 0, 0⟩, .vaccr ⟨0, 0, false, false, 4, 0⟩,
      .vaccr ⟨0, 0, false, false, 0, 4⟩, .vabs ⟨16, 0, false, 0, 0⟩, .vabs ⟨0, 256, false, 0, 0⟩,
      .vabs ⟨0, 0, false, 16, 0⟩, .vabs ⟨0, 0, false, 0, 4⟩, .vshl ⟨16, 0, false, 0, false, 0, 0, false⟩,
      .vshl ⟨0, 256, false, 0, false, 0, 0, false⟩, .vshl ⟨0, 0, false, 16, false, 0, 0, false⟩,
      .vshl ⟨0, 0, false, 0, false, 16, 0, false⟩, .vshl ⟨0, 0, false, 0, false, 0, 4, false⟩,
      .vcmp ⟨16, 194, false, 0, false, 0, 0, 0⟩, .vcmp ⟨0, 256, false, 0, false, 0, 0, 0⟩,
      .vcmp ⟨0, 194, false, 16, false, 0, 0, 0⟩, .vcmp ⟨0, 194, false, 0, false, 16, 0, 0⟩,
      .vcmp ⟨0, 194, false, 0, false, 0, 4, 0⟩, .vcmp ⟨0, 194, false, 0, false, 0, 0, 4⟩,
      .vcvt ⟨16, 0, false, 0, 0, false⟩, .vcvt ⟨0, 256, false, 0, 0, false⟩, .vcvt ⟨0, 0, false, 16, 0, false⟩,
      .vcvt ⟨0, 0, false, 0, 4, false⟩, .vrot ⟨16, 0, false, 0, false, 0, 0, false, false⟩] : List Instr), i.isWf = false := by decide

/-- An operand one past its field, for each field of each layout. -/
theorem test_fits_6 : ∀ i ∈ ([
      .vrot ⟨0, 256, false, 0, false, 0, 0, false, false⟩, .vrot ⟨0, 0, false, 16, false, 0, 0, false, false⟩,
      .vrot ⟨0, 0, false, 0, false, 16, 0, false, false⟩, .vrot ⟨0, 0, false, 0, false, 0, 4, false, false⟩,
      .viota ⟨16, 0, 0⟩, .viota ⟨0, 256, 0⟩, .viota ⟨0, 0, 4⟩, .vpand ⟨16, 193, 0, 0, false⟩,
      .vpand ⟨0, 256, 0, 0, false⟩, .vpand ⟨0, 193, 8, 0, false⟩, .vpand ⟨0, 193, 0, 8, false⟩,
      .vpset ⟨16, 193, false⟩, .vpset ⟨0, 256, false⟩, .vpcnt ⟨16, 224, 0, 0⟩, .vpcnt ⟨0, 256, 0, 0⟩,
      .vpcnt ⟨0, 224, 8, 0⟩, .vpcnt ⟨0, 224, 0, 4⟩, .mcall ⟨16, 0, 1⟩, .mcall ⟨0, 64, 1⟩, .mcall ⟨0, 0, 65536⟩,
      .mparm ⟨16, 0, false, 0⟩, .mparm ⟨0, 32, false, 0⟩, .mparm ⟨0, 0, false, 8⟩,
      .mstep ⟨16, false, 0, false, 0, false⟩] : List Instr), i.isWf = false := by decide

/-- An operand one past its field, for each field of each layout. -/
theorem test_fits_7 : ∀ i ∈ ([
      .mstep ⟨0, false, 32, false, 0, false⟩, .mstep ⟨0, false, 0, false, 32, false⟩,
      .msteprd ⟨16, 0, false, 0, false, false⟩, .msteprd ⟨0, 32, false, 0, false, false⟩,
      .msteprd ⟨0, 0, false, 32, false, false⟩, .mzero ⟨16, 0⟩, .mzero ⟨0, 4⟩, .mzeroAll ⟨16⟩,
      .yset ⟨16, 0, false, 0, false, 0, false⟩, .yset ⟨0, 32, false, 0, false, 0, false⟩,
      .yset ⟨0, 0, false, 32, false, 0, false⟩, .yset ⟨0, 0, false, 0, false, 32, false⟩, .yget ⟨16, 0, false, 0, 0⟩,
      .yget ⟨0, 32, false, 0, 0⟩, .yget ⟨0, 0, false, 32, 0⟩, .yget ⟨0, 0, false, 0, 4⟩,
      .ygo ⟨16, 0, false, 0, false, 0⟩, .ygo ⟨0, 32, false, 0, false, 0⟩, .ygo ⟨0, 0, false, 32, false, 0⟩,
      .ygo ⟨0, 0, false, 0, false, 32⟩, .yhalt ⟨16, 0⟩, .yhalt ⟨0, 32⟩, .yhaltAll ⟨16⟩,
      .cpy ⟨16, 0, false, 0, false, 0, 0⟩] : List Instr), i.isWf = false := by decide

/-- An operand one past its field, for each field of each layout. -/
theorem test_fits_8 : ∀ i ∈ ([
      .cpy ⟨0, 32, false, 0, false, 0, 0⟩, .cpy ⟨0, 0, false, 32, false, 0, 0⟩, .cpy ⟨0, 0, false, 0, false, 32, 0⟩,
      .cpy ⟨0, 0, false, 0, false, 0, 32⟩, .hatom ⟨16, 0, false, 0, false, 0, 0, false⟩,
      .hatom ⟨0, 32, false, 0, false, 0, 0, false⟩, .hatom ⟨0, 0, false, 32, false, 0, 0, false⟩,
      .hatom ⟨0, 0, false, 0, false, 8, 0, false⟩, .hatom ⟨0, 0, false, 0, false, 0, 16, false⟩,
      .red ⟨16, 0, false, 0, false, 0⟩, .red ⟨0, 32, false, 0, false, 0⟩, .red ⟨0, 0, false, 32, false, 0⟩,
      .red ⟨0, 0, false, 0, false, 8⟩, .tladd ⟨16, 0, false, 0⟩, .tladd ⟨0, 32, false, 0⟩, .tladd ⟨0, 0, false, 8⟩,
      .tlwait ⟨16, 0, false, 0, 1⟩, .tlwait ⟨0, 32, false, 0, 1⟩, .tlwait ⟨0, 0, false, 8, 1⟩,
      .tlwait ⟨0, 0, false, 0, 4⟩, .tlrd ⟨16, 0, 0, 0⟩, .tlrd ⟨0, 8, 0, 0⟩, .tlrd ⟨0, 0, 4, 0⟩, .tlrd ⟨0, 0, 0, 32⟩] : List Instr), i.isWf = false := by decide

/-- An operand one past its field, for each field of each layout. -/
theorem test_fits_9 : ∀ i ∈ ([
      .waita ⟨16, 0, false, 0, false, 1, 0, 0⟩, .waita ⟨0, 32, false, 0, false, 1, 0, 0⟩,
      .waita ⟨0, 0, false, 32, false, 1, 0, 0⟩, .waita ⟨0, 0, false, 0, false, 4, 0, 0⟩,
      .waita ⟨0, 0, false, 0, false, 1, 8, 0⟩, .waita ⟨0, 0, false, 0, false, 1, 0, 32⟩, .fence ⟨16, 1, 0⟩,
      .fence ⟨0, 4, 0⟩, .fence ⟨0, 1, 16⟩, .launch ⟨16, 0, false, 0, false, 1⟩, .launch ⟨0, 32, false, 0, false, 1⟩,
      .launch ⟨0, 0, false, 32, false, 1⟩, .launch ⟨0, 0, false, 0, false, 4⟩, .krot ⟨16, 0, false, 0, false, 0⟩,
      .krot ⟨0, 32, false, 0, false, 0⟩, .krot ⟨0, 0, false, 32, false, 0⟩, .krot ⟨0, 0, false, 0, false, 32⟩,
      .scrub ⟨16, 0, false, 0, false, 0, 0⟩, .scrub ⟨0, 32, false, 0, false, 0, 0⟩,
      .scrub ⟨0, 0, false, 32, false, 0, 0⟩, .scrub ⟨0, 0, false, 0, false, 4, 0⟩,
      .scrub ⟨0, 0, false, 0, false, 0, 32⟩, .dact ⟨16, 0, 0⟩, .dact ⟨0, 32, 0⟩] : List Instr), i.isWf = false := by decide

/-- An operand one past its field, for each field of each layout. -/
theorem test_fits_10 : ∀ i ∈ ([
      .dact ⟨0, 0, 32768⟩, .dactReg ⟨16, 0, 0, false⟩, .dactReg ⟨0, 32, 0, false⟩, .dactReg ⟨0, 0, 32, false⟩,
      .drd ⟨16, 0, 0, 0, false, false, false⟩, .drd ⟨0, 32, 0, 0, false, false, false⟩,
      .drd ⟨0, 0, 8, 0, false, false, false⟩, .drd ⟨0, 0, 0, 32, false, false, false⟩,
      .dwr ⟨16, 0, 0, 1, 0, false, false, false⟩, .dwr ⟨0, 32, 0, 1, 0, false, false, false⟩,
      .dwr ⟨0, 0, 8, 1, 0, false, false, false⟩, .dwr ⟨0, 0, 0, 16, 0, false, false, false⟩,
      .dwr ⟨0, 0, 0, 1, 32, false, false, false⟩, .dpre ⟨16, 0⟩, .dpre ⟨0, 32⟩, .dclean ⟨16, 0, false, 0⟩,
      .dclean ⟨0, 32, false, 0⟩, .dclean ⟨0, 0, false, 32768⟩, .dcleanReg ⟨16, 0, false, 0, false⟩,
      .dcleanReg ⟨0, 32, false, 0, false⟩, .dcleanReg ⟨0, 0, false, 32, false⟩, .dwait ⟨16, 0, false, 0, false⟩,
      .dwait ⟨0, 32, false, 0, false⟩, .dwait ⟨0, 0, false, 32, false⟩] : List Instr), i.isWf = false := by decide

/-- A field value that the manual calls illegal, for each check. -/
theorem test_illegal_0 : ∀ i ∈ ([
      .cmp ⟨0, 8, 1, 0, false, 0, false⟩, .cmp ⟨0, 0, 0, 0, false, 0, false⟩, .cmpi ⟨0, 8, 1, 0, false, 0⟩,
      .cmpi ⟨0, 0, 0, 0, false, 0⟩, .fcmp ⟨0, 8, 1, 0, false, 0, false⟩, .fcmp ⟨0, 0, 0, 0, false, 0, false⟩,
      .pand ⟨0, 0, 0, 0⟩, .por ⟨0, 0, 0, 0⟩, .pxor ⟨0, 0, 0, 0⟩, .pandn ⟨0, 0, 0, 0⟩, .pset ⟨0, 0, false⟩,
      .fcvt ⟨0, 0, false, 0, false, 7⟩, .csrrd ⟨0, 0, false, 1023⟩, .csrwr ⟨0, 11, 0, false⟩,
      .iverify ⟨0, 0, 0, false, 0, false⟩, .vld ⟨0, 160, 0, false, 0⟩, .vlds ⟨0, 224, 0⟩, .recvt ⟨0, 193, 0⟩,
      .sendt ⟨0, false, 0, 0⟩, .vadd ⟨0, 224, false, 0, false, 0, 0⟩, .vsub ⟨0, 224, false, 0, false, 0, 0⟩,
      .vmul ⟨0, 224, false, 0, false, 0, 0⟩, .vmin ⟨0, 224, false, 0, false, 0, 0⟩,
      .vmax ⟨0, 224, false, 0, false, 0, 0⟩] : List Instr), i.isWf = false := by decide

/-- A field value that the manual calls illegal, for each check. -/
theorem test_illegal_1 : ∀ i ∈ ([
      .vand ⟨0, 224, false, 0, false, 0, 0⟩, .vor ⟨0, 224, false, 0, false, 0, 0⟩,
      .vxor ⟨0, 224, false, 0, false, 0, 0⟩, .vandn ⟨0, 224, false, 0, false, 0, 0⟩,
      .vfsl ⟨0, 224, false, 0, false, 0, 0⟩, .vfsr ⟨0, 224, false, 0, false, 0, 0⟩,
      .vsel ⟨0, 224, false, 0, false, 0, 0⟩, .vqnt ⟨0, 224, false, 0, false, 0, 0⟩,
      .vdqnt ⟨0, 224, false, 0, false, 0, 0⟩, .vperm ⟨0, 224, false, 0, false, 0, 0⟩,
      .vfma ⟨0, 164, false, 0, false, 0, 0⟩, .vfms ⟨0, 164, false, 0, false, 0, 0⟩,
      .vaccr ⟨0, 160, false, false, 0, 0⟩, .vaccr ⟨0, 161, false, true, 0, 0⟩, .vabs ⟨0, 224, false, 0, 0⟩,
      .vneg ⟨0, 224, false, 0, 0⟩, .vscan ⟨0, 224, false, 0, 0⟩, .vpack ⟨0, 224, false, 0, 0⟩,
      .vunpk ⟨0, 224, false, 0, 0⟩, .vclz ⟨0, 224, false, 0, 0⟩, .vpopc ⟨0, 224, false, 0, 0⟩,
      .vexp2 ⟨0, 224, false, 0, 0⟩, .vlog2 ⟨0, 224, false, 0, 0⟩, .vrcp ⟨0, 224, false, 0, 0⟩] : List Instr), i.isWf = false := by decide

/-- A field value that the manual calls illegal, for each check. -/
theorem test_illegal_2 : ∀ i ∈ ([
      .vrsq ⟨0, 224, false, 0, 0⟩, .vrmax ⟨0, 160, false, 0, 0⟩, .vrmin ⟨0, 160, false, 0, 0⟩,
      .vramax ⟨0, 160, false, 0, 0⟩, .vradd ⟨0, 160, false, 0, 0⟩, .vshl ⟨0, 224, false, 0, false, 0, 0, false⟩,
      .vshr ⟨0, 224, false, 0, false, 0, 0, false⟩, .vsra ⟨0, 224, false, 0, false, 0, 0, false⟩,
      .vbcast ⟨0, 224, false, 0, false, 0, 0, false⟩, .vextr ⟨0, 160, false, 0, false, 0, 0, false⟩,
      .vcmp ⟨0, 193, false, 0, false, 0, 0, 0⟩, .vcmp ⟨0, 192, false, 0, false, 0, 0, 0⟩,
      .vcvt ⟨0, 224, false, 0, 0, false⟩, .vrot ⟨0, 224, false, 0, false, 0, 0, false, false⟩, .viota ⟨0, 224, 0⟩,
      .vpand ⟨0, 192, 0, 0, false⟩, .vpor ⟨0, 192, 0, 0, false⟩, .vpxor ⟨0, 192, 0, 0, false⟩, .vpset ⟨0, 192, false⟩,
      .vpcnt ⟨0, 0, 0, 0⟩, .vpcnt ⟨0, 224, 0, 2⟩, .mcall ⟨0, 0, 0⟩, .hatom ⟨0, 0, false, 0, false, 0, 10, false⟩,
      .hatom ⟨0, 0, false, 0, false, 7, 0, false⟩] : List Instr), i.isWf = false := by decide

/-- A field value that the manual calls illegal, for each check. -/
theorem test_illegal_3 : ∀ i ∈ ([
      .tlwait ⟨0, 0, false, 0, 0⟩, .tlpoll ⟨0, 0, false, 0, 0⟩, .waita ⟨0, 0, false, 0, false, 0, 0, 0⟩,
      .waita ⟨0, 0, false, 0, false, 1, 5, 0⟩, .waita ⟨0, 0, false, 0, false, 1, 0, 31⟩, .fence ⟨0, 0, 0⟩,
      .fence ⟨0, 1, 10⟩, .launch ⟨0, 0, false, 0, false, 0⟩, .scrub ⟨0, 0, false, 0, false, 3, 0⟩,
      .drd ⟨0, 0, 7, 0, false, false, false⟩, .dwr ⟨0, 0, 7, 1, 0, false, false, false⟩,
      .dwr ⟨0, 0, 0, 0, 0, false, false, false⟩] : List Instr), i.isWf = false := by decide

/-- An agent, a number or a size that does not exist, for each kind of check. -/
theorem test_agent_0 : ∀ i ∈ ([
      .bundleIssue (.tile 64), .streamFault ⟨.tile 0, 0, false, 0⟩, .streamFault ⟨.tile 0, 7, false, 0⟩,
      .streamFault ⟨.tile 0, 1, false, 32⟩, .yarnBeat 64 .read, .pooledGrant 16, .translationFill ⟨5, 1, 0⟩,
      .translationFill ⟨4, 33, 0⟩, .copyTake 64, .copyComplete 72 0, .victimTake 64, .refreshTick 256, .slubWrite 328,
      .dieCutOff 4, .portDown 32, .ideIntegrityFailure 32, .vfEnableSet 32, .lockedItemWrite ⟨32, 1, 0⟩,
      .hostRange1Request ⟨1, false, 4032, 65, [], true, true⟩, .hostRange1Request ⟨1, false, 0, 0, [], true, true⟩,
      .pfWindowRequest ⟨1, false, 0, 64, [], true, true⟩, .finish 65536, .bindSession 0 65536, .debugPolicy 0 0 256] : List Instr), i.isWf = false := by decide

/-- An agent, a number or a size that does not exist, for each kind of check. -/
theorem test_agent_1 : ∀ i ∈ ([
      .lockInterface 0 0 256, .kSetGo 256 ⟨0, 0⟩, .kSetGo 0 ⟨2, 0⟩, .kSetGo 0 ⟨0, 8⟩, .pageAssign 0 7 256, .schedSet 0 256 1 1, .nearSet 256 0,
      .fabricSet 65536 0, .registerWrite 65536 0, .standardRequest 65536, .prechargeFreezeEnd 256, .bankBusyEnd 0 32,
      .switchAdmitTimeout 256, .getCertificate ⟨0x13, 16, 0, 0⟩, .keyProg ⟨256, 0, 0, 0⟩, .keyProg ⟨0, 2, 0, 0⟩,
      .keyProg ⟨0, 0, 8, 0⟩, .controlStart 0 ⟨0, 256, 0, 1⟩, .channelStart 0 ⟨0, 0, 0, 65536⟩, .channelStop 0 ⟨0, 256⟩,
      .custodySet 0 ⟨0, 256, 0, 0, 0, 0⟩, .custodyClear 0 ⟨0, 0, 2 ^ 32, 0, 0, 0⟩,
      .keyRelease 0 ⟨0, 256, 0, 0, 0, 0, 0, 0, 0, 0⟩, .worldResume 0 ⟨0, 0, 0, 2 ^ 32, 0, 0, 0, 0, 0, 0⟩,
      .jobJoin 0 ⟨0, 65536, 0, 0, 0, 0, 0, 0⟩] : List Instr), i.isWf = false := by decide

/-- An agent, a number or a size that does not exist, for each kind of check. -/
theorem test_agent_2 : ∀ i ∈ ([
      .jobLeave 0 0 (2 ^ 32), .switchAdmit 0 ⟨0, 65536, 0, 0, 0, 0, 0⟩, .windowSetMake 0 0 ⟨0, ⟨0, 256, 0, 0, 0, 0, 0, 0, 0⟩⟩,
      .windowSetInstall 0 0 ⟨0, ⟨0, 0, 0, 65536, 0, 0, 0, 0, 0⟩⟩, .layoutSet 65536 Layout.empty 0,
      .getMeasurements ⟨0x13, 256, false, 0⟩, .fwStage (2 ^ 64) 0, .pageMove (2 ^ 32) 0,
      .fabWrite ⟨256, 0, 0, 0, 0, 0, 0, 0, 0, 0, [], 0, 0⟩] : List Instr), i.isWf = false := by decide

/-- The same terms with every operand in its field. -/
theorem test_formed_0 : ∀ i ∈ ([
      .add ⟨0, 0, false, 0, false, 0, false⟩, .mov ⟨0, 0, false, 0, false⟩, .sel ⟨0, 0, false, 0, false, 0, false, 0⟩,
      .adds ⟨0, 0, false, 0, false, 0, false, 0⟩, .cmp ⟨0, 0, 1, 0, false, 0, false⟩, .cmpi ⟨0, 0, 1, 0, false, 0⟩,
      .addi ⟨0, 0, false, 0, false, 0⟩, .shli ⟨0, 0, false, 0, false, 0⟩, .lim ⟨0, 0, false, 0⟩, .pand ⟨0, 1, 0, 0⟩,
      .pset ⟨0, 1, false⟩, .ffma ⟨0, 0, false, 0, false, 0, false, false, false⟩, .fcvt ⟨0, 0, false, 0, false, 0⟩,
      .qlen ⟨0, 0, false, 0⟩, .qclr ⟨0, 0⟩, .csrrd ⟨0, 0, false, 0⟩, .csrwr ⟨0, 0, 0, false⟩, .br ⟨0, 0⟩,
      .brl ⟨0, false, 0⟩, .bri ⟨0, 0, false⟩, .loop ⟨0, 0, false, 0⟩, .loopi ⟨0, 0, 0⟩, .loopiK ⟨0⟩, .bswap ⟨0, 0⟩] : List Instr), i.isWf = true := by decide

/-- The same terms with every operand in its field. -/
theorem test_formed_1 : ∀ i ∈ ([
      .ifence ⟨0⟩, .iverify ⟨0, 1, 0, false, 0, false⟩, .trap ⟨0, 0⟩, .vld ⟨0, 0, 0, false, 0⟩,
      .vst ⟨0, false, 0, 0, false, 0⟩, .vstm ⟨0, false, 0, 0, 0, false, 0⟩, .vlds ⟨0, 0, 0⟩, .vsts ⟨0, false, 0, 0⟩,
      .latom ⟨0, 0, false, 0, false, 0, false, 0, false⟩, .sendt ⟨0, false, 0, 1⟩, .recvt ⟨0, 0, 0⟩,
      .vadd ⟨0, 0, false, 0, false, 0, 0⟩, .vaccr ⟨0, 0, false, false, 0, 0⟩, .vabs ⟨0, 0, false, 0, 0⟩,
      .vshl ⟨0, 0, false, 0, false, 0, 0, false⟩, .vcmp ⟨0, 194, false, 0, false, 0, 0, 0⟩,
      .vcvt ⟨0, 0, false, 0, 0, false⟩, .vrot ⟨0, 0, false, 0, false, 0, 0, false, false⟩, .viota ⟨0, 0, 0⟩,
      .vpand ⟨0, 193, 0, 0, false⟩, .vpset ⟨0, 193, false⟩, .vpcnt ⟨0, 224, 0, 0⟩, .mcall ⟨0, 0, 1⟩,
      .mparm ⟨0, 0, false, 0⟩] : List Instr), i.isWf = true := by decide

/-- The same terms with every operand in its field. -/
theorem test_formed_2 : ∀ i ∈ ([
      .mstep ⟨0, false, 0, false, 0, false⟩, .msteprd ⟨0, 0, false, 0, false, false⟩, .mzero ⟨0, 0⟩, .mzeroAll ⟨0⟩,
      .yset ⟨0, 0, false, 0, false, 0, false⟩, .yget ⟨0, 0, false, 0, 0⟩, .ygo ⟨0, 0, false, 0, false, 0⟩,
      .yhalt ⟨0, 0⟩, .yhaltAll ⟨0⟩, .cpy ⟨0, 0, false, 0, false, 0, 0⟩, .hatom ⟨0, 0, false, 0, false, 0, 0, false⟩,
      .red ⟨0, 0, false, 0, false, 0⟩, .tladd ⟨0, 0, false, 0⟩, .tlwait ⟨0, 0, false, 0, 1⟩, .tlrd ⟨0, 0, 0, 0⟩,
      .waita ⟨0, 0, false, 0, false, 1, 0, 0⟩, .fence ⟨0, 1, 0⟩, .launch ⟨0, 0, false, 0, false, 1⟩,
      .krot ⟨0, 0, false, 0, false, 0⟩, .scrub ⟨0, 0, false, 0, false, 0, 0⟩, .dact ⟨0, 0, 0⟩,
      .dactReg ⟨0, 0, 0, false⟩, .drd ⟨0, 0, 0, 0, false, false, false⟩, .dwr ⟨0, 0, 0, 1, 0, false, false, false⟩] : List Instr), i.isWf = true := by decide

/-- The same terms with every operand in its field. -/
theorem test_formed_3 : ∀ i ∈ ([
      .dpre ⟨0, 0⟩, .dclean ⟨0, 0, false, 0⟩, .dcleanReg ⟨0, 0, false, 0, false⟩, .dwait ⟨0, 0, false, 0, false⟩] : List Instr), i.isWf = true := by decide

/-! ## The words that the manual prints beside an instruction -/

/-- R22: "ADD s3, s1!, s2" -/
theorem test_word_add_popped : decodeSlot .tile .a 0x00060C40 = .ok (.add ⟨0, 3, false, 1, true, 2, false⟩) := by decide

/-- "LIM s5, 12" -/
theorem test_word_lim : decodeSlot .tile .a 0x03CA000C = .ok (.lim ⟨0, 5, false, 12⟩) := by decide

/-- "ADDI s6, s0, 96" -/
theorem test_word_addi : decodeSlot .tile .b 0x020C0060 = .ok (.addi ⟨0, 6, false, 0, false, 96⟩) := by decide

/-- "ADD s7, s5, s6" -/
theorem test_word_add : decodeSlot .tile .a 0x000E28C0 = .ok (.add ⟨0, 7, false, 5, false, 6, false⟩) := by decide

/-- R96 -/
theorem test_word_texit : decodeSlot .tile .a 0x0E800000 = .ok (.texit ⟨0⟩) := by decide

/-- R96 -/
theorem test_word_texit_p4 : decodeSlot .tile .a 0x4E800000 = .ok (.texit ⟨4⟩) := by decide

/-- "LIH s9, 0x4567" -/
theorem test_word_lih : decodeSlot .tile .a 0x04124567 = .ok (.lih ⟨0, 9, false, 0x4567⟩) := by decide

/-- "CSRRD s3, TILE0" -/
theorem test_word_csrrd : decodeSlot .tile .a 0x05C60001 = .ok (.csrrd ⟨0, 3, false, 1⟩) := by decide

/-- "LIM s11!, 0" -/
theorem test_word_lim_push : decodeSlot .tile .b 0x03D70000 = .ok (.lim ⟨0, 11, true, 0⟩) := by decide

/-- "SHLI s3, s3, 3" -/
theorem test_word_shli : decodeSlot .tile .a 0x03061803 = .ok (.shli ⟨0, 3, false, 3, false, 3⟩) := by decide

/-- "(p11) SHRI s9!, s8, 32" -/
theorem test_word_shri_push : decodeSlot .tile .b 0xB3534020 = .ok (.shri ⟨11, 9, true, 8, false, 32⟩) := by decide

/-- "(p11) FMUL s10!, s8!, s9!" -/
theorem test_word_fmul : decodeSlot .tile .a 0xB4D54532 = .ok (.fmul ⟨11, 10, true, 8, true, 9, true⟩) := by decide

/-- "(p13) FADD s11!, s11!, s10!" -/
theorem test_word_fadd : decodeSlot .tile .b 0xD4D75D50 = .ok (.fadd ⟨13, 11, true, 11, true, 10, true⟩) := by decide

/-- "FSR s21, s22, s19" -/
theorem test_word_fsr : decodeSlot .tile .a 0x002AB26E = .ok (.fsr ⟨0, 21, false, 22, false, 19, false⟩) := by decide

/-- "FSL s23, s24, s7" -/
theorem test_word_fsl : decodeSlot .tile .a 0x002EC0ED = .ok (.fsl ⟨0, 23, false, 24, false, 7, false⟩) := by decide

/-- "ADDS s4, s4, s3, 14" -/
theorem test_word_adds : decodeSlot .tile .a 0x0108206E = .ok (.adds ⟨0, 4, false, 4, false, 3, false, 14⟩) := by decide

/-- "CMPI.eq p4, s3, 0" -/
theorem test_word_cmpi : decodeSlot .tile .a 0x01821800 = .ok (.cmpi ⟨0, 0, 2, 3, false, 0⟩) := by decide

/-- "CSRWR TVEC, s9" -/
theorem test_word_csrwr : decodeSlot .tile .a 0x06009520 = .ok (.csrwr ⟨0, 0x025, 9, false⟩) := by decide

/-- "LOOP s6, 6" -/
theorem test_word_loop : decodeSlot .tile .a 0x0CC03005 = .ok (.loop ⟨0, 6, false, 5⟩) := by decide

/-- "LOOPI 30, 1" -/
theorem test_word_loopi : decodeSlot .channel .a 0x0D00001E = .ok (.loopi ⟨0, 0, 30⟩) := by decide

/-- "BR ref (OFF -4)" -/
theorem test_word_br_back : decodeSlot .channel .a 0x0C3FFFFC = .ok (.br ⟨0, 2 ^ 22 - 4⟩) := by decide

/-- "ERET" -/
theorem test_word_eret : decodeSlot .tile .a 0x0E400000 = .ok (.eret ⟨0⟩) := by decide

/-- "LDK s6, s3, 0" -/
theorem test_word_ldk : decodeSlot .tile .l 0x040C1800 = .ok (.ldk ⟨0, 6, false, 3, false, 0⟩) := by decide

/-- "(p8) LDK s8!, s4, 0" -/
theorem test_word_ldk_push : decodeSlot .tile .l 0x84112000 = .ok (.ldk ⟨8, 8, true, 4, false, 0⟩) := by decide

/-- "LDC s16, s0, 0" -/
theorem test_word_ldc : decodeSlot .tile .l 0x03A00000 = .ok (.ldc ⟨0, 16, false, 0, false, 0⟩) := by decide

/-- "VSTM vst.0!, s12, 1, vp4" -/
theorem test_word_vstm : decodeSlot .tile .l 0x04E11801 = .ok (.vstm ⟨0, true, 0, 4, 12, false, 1⟩) := by decide

/-- "VADD v1a.2!, v0a.0, v0b.1!" -/
theorem test_word_vadd : decodeSlot .tile .v0 0x00548110 = .ok (.vadd ⟨0, 0x52, false, 0, true, 1, 0⟩) := by decide

/-- "VSHL v0b.3!, v0a.2!, 5" -/
theorem test_word_vshl : decodeSlot .tile .v0 0x03CCE451 = .ok (.vshl ⟨0, 0x33, true, 2, false, 5, 0, true⟩) := by decide

/-- "VFMA vacc0.0, v0a.0!, v0b.2!" -/
theorem test_word_vfma : decodeSlot .tile .v0 0x01282120 = .ok (.vfma ⟨0, 0xA0, true, 0, true, 2, 0⟩) := by decide

/-- "VCMP.lt vp2, v0a.1, v0b.3" -/
theorem test_word_vcmp : decodeSlot .tile .v0 0x05308232 = .ok (.vcmp ⟨0, 0xC2, false, 1, false, 3, 0, 2⟩) := by decide

/-- "VROT.up v1b.0!, v1a.0, 1, vp2" -/
theorem test_word_vrot : decodeSlot .tile .v1 0x07DC001B = .ok (.vrot ⟨0, 0x70, false, 0, false, 1, 2, true, true⟩) := by decide

/-- "VRMAX s6!, v1a.2" -/
theorem test_word_vrmax : decodeSlot .tile .v1 0x06798400 = .ok (.vrmax ⟨0, 0xE6, false, 2, 0⟩) := by decide

/-- "VPACK vst.0!, v1a.2!" -/
theorem test_word_vpack : decodeSlot .tile .v1 0x08E42400 = .ok (.vpack ⟨0, 0x90, true, 2, 0⟩) := by decide

/-- "VPAND.n vp5, vp2, vp3" -/
theorem test_word_vpand : decodeSlot .tile .v0 0x0AF14431 = .ok (.vpand ⟨0, 0xC5, 2, 3, true⟩) := by decide

/-- "MCALL 0, 65" -/
theorem test_word_mcall : decodeSlot .tile .m 0x00400041 = .ok (.mcall ⟨0, 0, 65⟩) := by decide

/-- "MPARM mp1, s11" -/
theorem test_word_mparm : decodeSlot .tile .m 0x00805801 = .ok (.mparm ⟨0, 11, false, 1⟩) := by decide

/-- "YSET y3, 0, s0, s6" -/
theorem test_word_yset : decodeSlot .tile .y 0x00403060 = .ok (.yset ⟨0, 0, false, 6, false, 3, false⟩) := by decide

/-- "YSET y3, 1, s4, s5" -/
theorem test_word_yset_high : decodeSlot .tile .y 0x00482870 = .ok (.yset ⟨0, 4, false, 5, false, 3, true⟩) := by decide

/-- "CPY s10, y6, s4, s5" -/
theorem test_word_cpy : decodeSlot .tile .y 0x014828CA = .ok (.cpy ⟨0, 4, false, 5, false, 6, 10⟩) := by decide

/-- "SEAL s10, y6, s4, s5" -/
theorem test_word_seal : decodeSlot .tile .y 0x050828CA = .ok (.seal ⟨0, 4, false, 5, false, 6, 10⟩) := by decide

/-- "TLWAIT p2, tl0, s10" -/
theorem test_word_tlwait : decodeSlot .tile .y 0x02805020 = .ok (.tlwait ⟨0, 10, false, 0, 1⟩) := by decide

/-- "TLADD tl1, s5" -/
theorem test_word_tladd : decodeSlot .tile .y 0x02402880 = .ok (.tladd ⟨0, 5, false, 1⟩) := by decide

/-- "WAITA.geu p2, s4, s5, 12" -/
theorem test_word_waita : decodeSlot .steward .y 0x0348294C = .ok (.waita ⟨0, 4, false, 5, false, 1, 2, 12⟩) := by decide

/-- "LAUNCH s8, s6, p4" -/
theorem test_word_launch : decodeSlot .steward .y 0x048C0108 = .ok (.launch ⟨0, 6, false, 8, false, 2⟩) := by decide

/-- "BAR is 0x0380_0000" -/
theorem test_word_bar : decodeSlot .tile .y 0x03800000 = .ok (.bar ⟨0⟩) := by decide

/-- "BARA 0x03C0_0000" -/
theorem test_word_bara : decodeSlot .tile .y 0x03C00000 = .ok (.bara ⟨0⟩) := by decide

/-- "BARD 0x0400_0000" -/
theorem test_word_bard : decodeSlot .tile .y 0x04000000 = .ok (.bard ⟨0⟩) := by decide

/-- R359: "FENCE.rel.pk" -/
theorem test_word_fence_rel : decodeSlot .tile .y 0x04400250 = .ok (.fence ⟨0, 2, 5⟩) := by decide

/-- R359: "FENCE.full.cl" -/
theorem test_word_fence_full : decodeSlot .tile .y 0x04400330 = .ok (.fence ⟨0, 3, 3⟩) := by decide

/-- "DACT 3, 0x148C" -/
theorem test_word_dact : decodeSlot .channel .l 0x0046148C = .ok (.dact ⟨0, 3, 0x148C⟩) := by decide

/-- "DRD.s 3, 1, s4" -/
theorem test_word_drd : decodeSlot .channel .l 0x00864110 = .ok (.drd ⟨0, 3, 1, 4, false, true, false⟩) := by decide

/-- "DRD.lb.s 3, 1, s0" -/
theorem test_word_drd_lb : decodeSlot .channel .l 0x00864018 = .ok (.drd ⟨0, 3, 1, 0, false, true, true⟩) := by decide

/-- "DPRE 3" -/
theorem test_word_dpre : decodeSlot .channel .l 0x01060000 = .ok (.dpre ⟨0, 3⟩) := by decide

/-- "DPROM 3, 0x148C" -/
theorem test_word_dprom : decodeSlot .channel .l 0x0206148C = .ok (.dprom ⟨0, 3, 0x148C⟩) := by decide

/-- "DREF" -/
theorem test_word_dref : decodeSlot .channel .l 0x01800000 = .ok (.dref ⟨0⟩) := by decide

/-! ## Words written out, field by field, from the layouts of the manual -/

/-- ALU: RR, F 1 -/
theorem test_word_f_sub_fields : decodeSlot .tile .b 0xF03FF7B1 = .ok (.sub ⟨15, 31, true, 30, true, 29, true⟩) := by decide

/-- MULDIV: RR, F 4 -/
theorem test_word_f_divs : decodeSlot .tile .a 0x004828C4 = .ok (.divs ⟨0, 4, false, 5, false, 6, false⟩) := by decide

/-- UNARY: RR, F 1 -/
theorem test_word_f_clz : decodeSlot .tile .a 0x00882C01 = .ok (.clz ⟨0, 4, false, 5, true⟩) := by decide

/-- CMP.geu p6, s7, s8! -/
theorem test_word_f_cmp : decodeSlot .tile .a 0x01573910 = .ok (.cmp ⟨0, 5, 3, 7, false, 8, true⟩) := by decide

/-- PLOG: PP, PA, PB, F 3 -/
theorem test_word_f_pandn : decodeSlot .tile .a 0x04410943 = .ok (.pandn ⟨0, 1, 9, 4⟩) := by decide

/-- PSET: PP, V -/
theorem test_word_f_pset : decodeSlot .tile .a 0x04820001 = .ok (.pset ⟨0, 2, true⟩) := by decide

/-- QCTL: RR, F 1 -/
theorem test_word_f_qclr : decodeSlot .tile .a 0x05804801 = .ok (.qclr ⟨0, 9⟩) := by decide

/-- FFMA: NA 0, NP 1 -/
theorem test_word_f_ffma : decodeSlot .tile .a 0x050928C1 = .ok (.ffma ⟨0, 4, true, 5, false, 6, false, false, true⟩) := by decide

/-- BRL: LQ, OFF -/
theorem test_word_f_brl : decodeSlot .tile .a 0x0C7FFFFF = .ok (.brl ⟨0, true, 0x1FFFFF⟩) := by decide

/-- BRI: A, AQ -/
theorem test_word_f_bri : decodeSlot .tile .a 0x0C804C00 = .ok (.bri ⟨0, 9, true⟩) := by decide

/-- TRAP: CODE -/
theorem test_word_f_trap : decodeSlot .tile .a 0x0E00BEEF = .ok (.trap ⟨0, 0xBEEF⟩) := by decide

/-- IVERIFY: PP, A, B -/
theorem test_word_f_iverify : decodeSlot .tile .a 0x0DC120B0 = .ok (.iverify ⟨0, 1, 4, false, 5, true⟩) := by decide

/-- LDW: RI -/
theorem test_word_f_ldw : decodeSlot .tile .l 0x01492BFF = .ok (.ldw ⟨0, 4, true, 5, false, 0x3FF⟩) := by decide

/-- STS: RL -/
theorem test_word_f_sts : decodeSlot .tile .l 0x03490007 = .ok (.sts ⟨0, 4, true, 7⟩) := by decide

/-- VLD: DST, A, AQ, IMM -/
theorem test_word_f_vld : decodeSlot .tile .l 0x0444CB80 = .ok (.vld ⟨0, 0x13, 5, true, 0x80⟩) := by decide

/-- LATOM: OP, SP -/
theorem test_word_f_latom : decodeSlot .tile .l 0x058828CF = .ok (.latom ⟨0, 4, false, 5, false, 6, false, 7, true⟩) := by decide

/-- SENDT: SQ, SS, CM -/
theorem test_word_f_sendt : decodeSlot .tile .l 0x05E6000E = .ok (.sendt ⟨0, true, 3, 0xE⟩) := by decide

/-- RECVT: DST, FROM -/
theorem test_word_f_recvt : decodeSlot .tile .l 0x0604C002 = .ok (.recvt ⟨0, 0x13, 2⟩) := by decide

/-- VSEL: V -/
theorem test_word_f_vsel : decodeSlot .tile .v0 0x0544C32C = .ok (.vsel ⟨0, 0x13, false, 1, true, 2, 3⟩) := by decide

/-- MSTEP.t: T, A, B -/
theorem test_word_f_mstep : decodeSlot .tile .m 0x00E020B0 = .ok (.mstep ⟨0, true, 4, false, 5, true⟩) := by decide

/-- MZERO: ALL -/
theorem test_word_f_mzero_all : decodeSlot .tile .m 0x01400004 = .ok (.mzeroAll ⟨0⟩) := by decide

/-- MZERO: BANK -/
theorem test_word_f_mzero : decodeSlot .tile .m 0x01400003 = .ok (.mzero ⟨0, 3⟩) := by decide

/-- YGET: D, DQ, yarn, word -/
theorem test_word_f_yget : decodeSlot .tile .y 0x00890070 = .ok (.yget ⟨0, 4, true, 3, 2⟩) := by decide

/-- YGO: Y, yarn -/
theorem test_word_f_ygo : decodeSlot .tile .y 0x00C82FE0 = .ok (.ygo ⟨0, 4, false, 5, true, 31⟩) := by decide

/-- HATOM: OP, SCOPE, RET -/
theorem test_word_f_hatom : decodeSlot .tile .y 0x01C829AC = .ok (.hatom ⟨0, 4, false, 5, false, 3, 5, true⟩) := by decide

/-- DWR: BANK, COL, LM, A, S 0, DS 1 -/
theorem test_word_f_dwr : decodeSlot .channel .l 0x00C7BC94 = .ok (.dwr ⟨0, 3, 6, 15, 4, true, false, true⟩) := by decide

/-- DCLEAN: BANK, I, INV, A -/
theorem test_word_f_dclean_reg : decodeSlot .channel .l 0x02479200 = .ok (.dcleanReg ⟨0, 3, true, 4, true⟩) := by decide

/-- DINIT: BANK -/
theorem test_word_f_dinit : decodeSlot .channel .l 0x02BE0000 = .ok (.dinit ⟨0, 31⟩) := by decide

/-- DWAIT: A, B -/
theorem test_word_f_dwait : decodeSlot .channel .l 0x02C024A0 = .ok (.dwait ⟨0, 4, true, 5, false⟩) := by decide

/-! ## Small states -/

/-- A task of world 1 on one core. -/
def wTask : Task := { Task.none with world := 1, ncores := 1, budget := 1000, spill := 4096, timed := true }

/-- An open bundle of the agent, at its slot `sl`. -/
def wIssue (a : Agent) (sl : Slot) : Issue :=
  { ag := a, pc := 0x100, succ := 0x108, t := 10, hdr := ⟨0x40, false, false, 0⟩, hword := 0x80000000, slot := sl, word := 7
    rest := [], before := 0, mask := 0, ev := [], shadow := false, taken := false, trapped := false }

/-- The context of a running task: s5 holds 64 and 65, s6 holds 8, and s7 is empty. -/
def wCtx : Ctx :=
  { Ctx.reset with
    live := true, started := true, issuing := true, task := wTask, clk := 10
    sregs := [(5, ⟨64, 65, 0, 0, 0, 2, 0⟩), (6, ⟨8, 0, 0, 0, 0, 1, 0⟩)] }

/-- A state in which the agent issues its slot `sl` from the context `x`. -/
def wState (a : Agent) (sl : Slot) (x : Ctx) : State := { setCtx State.reset a x with cur := some (wIssue a sl) }

/-- Tile core 0, slot A. -/
def wA : State := wState (.tile 0) .a wCtx
def wIA : Issue := wIssue (.tile 0) .a

/-! ## Witnesses: scalar statements -/

/-- AluAndMulDivResult, AddsAndSelResult: a word that pops s5, reads s6 and pushes s7. -/
theorem test_hyp_alu : ∃ (t : State) (c : Option Nat), slotRuns 0 wIA wA ∧ readsRR ⟨0, 7, true, 5, true, 6, false⟩ wA 64 8 c t ∧
    (Instr.adds ⟨0, 7, true, 5, true, 6, false, 15⟩).isWf = true ∧ (Instr.sel ⟨0, 7, true, 5, true, 6, false, 15⟩).isWf = true :=
  ⟨_, _, ⟨rfl, rfl⟩, ⟨_, ⟨_, rfl, rfl⟩, rfl⟩, rfl, rfl⟩

/-- AluAndMulDivResult, of the funnel shifts. -/
theorem test_hyp_funnel : ∃ (t : State) (c : Option Nat), slotRuns 0 wIA wA ∧
    readsRRD ⟨0, 6, false, 5, true, 5, false⟩ wA 64 65 8 c t :=
  ⟨_, _, ⟨rfl, rfl⟩, ⟨_, _, ⟨_, rfl, rfl⟩, rfl, rfl⟩⟩

/-- UnaryAndImmediateResult. -/
theorem test_hyp_unary : ∃ (t t1 t2 : State) (c c1 c2 : Option Nat), slotRuns 0 wIA wA ∧
    readsOne 5 true 7 true wA 64 c t ∧ dest 7 true wA = .ok (c1, t1) ∧ readsOne 6 false 6 false wA 8 c2 t2 ∧ 65535 < 65536 :=
  ⟨_, _, _, _, _, _, ⟨rfl, rfl⟩, ⟨_, rfl, rfl⟩, rfl, ⟨_, rfl, rfl⟩, by decide⟩

/-- CompareResult, at the first and the last condition code. -/
theorem test_hyp_compare : ∃ (t t1 : State), slotRuns 0 wIA wA ∧ readsTwo 5 true 6 false wA 64 8 t ∧
    source 5 false wA = .ok (64, t1) ∧ (8 : Word).toInt = sext 10 8 ∧
    (false = true ↔ (0 = 0 ∧ (64 : Word) = 8)) ∧ (true = true ↔ (7 = 7 ∧ (64 : Word) &&& 8 = 0)) :=
  ⟨_, _, ⟨rfl, rfl⟩, ⟨_, rfl, rfl⟩, rfl, rfl, by decide, by decide⟩

/-- PsetResult, PredicateResult: any guard that is true; the pairs 1 and 3. -/
theorem test_hyp_pset : slotRuns 0 wIA wA ∧ (Instr.pset ⟨0, 3, true⟩).isWf = true ∧ (Instr.pset ⟨0, 1, false⟩).isWf = true :=
  ⟨⟨rfl, rfl⟩, rfl, rfl⟩

/-- FloatResult: with the draw of SR taken. -/
theorem test_hyp_float : ∃ (s2 s3 t t1 t2 : State) (c c1 c2 : Option Nat), slotRuns 0 wIA wA ∧ readsTwo 5 true 6 false wA 64 8 s2 ∧
    dest 7 true (takeRmode s2).2.2 = .ok (c, t) ∧ dest 7 true s2 = .ok (c1, t1) ∧
    source 6 false s2 = .ok (8, s3) ∧ dest 6 false (takeRmode s3).2.2 = .ok (c2, t2) :=
  ⟨_, _, _, _, _, _, _, _, ⟨rfl, rfl⟩, ⟨_, rfl, rfl⟩, rfl, rfl, rfl, rfl⟩

/-- QueueAndCsrResult: a CSR of no access (0x3FF), one that only reads (GCYC), and one that takes a write (TVEC). -/
theorem test_hyp_csr : ∃ (t t1 : State) (c : Option Nat), slotRuns 0 wIA wA ∧ dest 7 true wA = .ok (c, t) ∧
    csrAccess wIA.ag 0x3FF = .none ∧ csrAccess wIA.ag 0 ≠ .none ∧ source 5 true wA = .ok (64, t1) ∧
    csrAccess wIA.ag 0 ≠ .rw ∧ csrAccess wIA.ag 0x025 = .rw ∧ evselDenied wA 0x025 64 = false :=
  ⟨_, _, _, ⟨rfl, rfl⟩, rfl, rfl, by decide, rfl, by decide, rfl, rfl⟩

/-- SlotFrame, ContextFrame: words that complete. -/
theorem test_hyp_frames : ∃ (n m : Named) (t t1 t2 : State), scalarNamed (.add ⟨0, 7, true, 5, true, 6, false⟩) = some n ∧
    exec (.add ⟨0, 7, true, 5, true, 6, false⟩) wA = .next t ∧ ownContextOnly (.br ⟨0, 4⟩) = true ∧
    exec (.br ⟨0, 4⟩) wA = .next t1 ∧ vectorNamed wA (.vpset ⟨0, 1, true⟩) = some m ∧
    exec (.vpset ⟨0, 1, true⟩) wA = .next t2 ∧ wA.cur = some wIA :=
  ⟨_, _, _, _, _, rfl, rfl, rfl, rfl, rfl, rfl, rfl⟩

/-! ## Witnesses: control -/

/-- BranchResult: s5 holds an aligned address; in `wBri` it holds 2^21, and in `wBri2` an odd one. -/
def wBri (v : Word) : State := wState (.tile 0) .a { wCtx with sregs := [(5, ⟨v, 0, 0, 0, 0, 1, 0⟩)] }
theorem test_hyp_branch : ∃ (t t1 t2 t3 : State) (c : Option Nat), slotRuns 0 wIA wA ∧ dest 31 true wA = .ok (c, t) ∧
    source 5 true wA = .ok (64, t1) ∧ (64 : Word).toNat < 2 ^ 21 ∧ (64 : Word).toNat % 4 = 0 ∧
    source 5 true (wBri (2 ^ 21)) = .ok (2 ^ 21, t2) ∧ source 5 true (wBri 1) = .ok (1, t3) ∧ slotRuns 0 wIA (wBri 1) ∧
    2 ≤ ({ wIA with hdr := ⟨0x40, false, false, 2⟩ } : Issue).hdr.idle :=
  ⟨_, _, _, _, _, ⟨rfl, rfl⟩, rfl, rfl, by decide, by decide, rfl, rfl, ⟨rfl, rfl⟩, by decide⟩

/-- LoopResult: with no loop open, and in a shadow cycle; a loop-end step at both ends of its ranges. -/
def wShadow : Issue := { wIA with shadow := true }
theorem test_hyp_loop : ∃ t : State, slotRuns 0 wIA wA ∧ source 6 false wA = .ok (8, t) ∧ lcOpen (curCtx wA).lc = false ∧
    wIA.shadow = false ∧ wIA.succ < 2 ^ 21 ∧ slotRuns 0 wShadow { wA with cur := some wShadow } ∧
    ¬ (lcOpen (curCtx wA).lc = false ∧ wShadow.shadow = false) ∧ (7 < 8 ∧ 2 ^ 21 - 1 < 2 ^ 21 ∧ 255 < 256) :=
  ⟨_, ⟨rfl, rfl⟩, rfl, rfl, rfl, by decide, ⟨rfl, rfl⟩, by decide, by decide⟩

/-- CodeChangeResult: in the fence state and out of it, on a tile core and on a steward core; a range that fits one granule,
and ranges that do not. -/
def wFence : State := wState (.tile 0) .a { wCtx with
  fence := true, half1 := ⟨1, 3, 0⟩, sregs := [(5, ⟨2, 0, 0, 0, 0, 1, 0⟩), (6, ⟨1, 0, 0, 0, 0, 1, 0⟩)] }
theorem test_hyp_code_change : ∃ t t1 t2 : State, slotRuns 0 wIA wA ∧ idleCopies wA = [] ∧ idleYarns wA = [] ∧
    slotRuns 0 (wIssue (.steward 2) .a) (wState (.steward 2) .a wCtx) ∧ readsTwo 5 false 6 false (wState (.steward 2) .a wCtx) 64 8 t2 ∧
    (curCtx wA).fence = false ∧ (curCtx wA).estatH = false ∧ readsTwo 5 false 6 false wA 64 8 t ∧
    slotRuns 0 wIA wFence ∧ (curCtx wFence).fence = true ∧ readsTwo 5 false 6 false wFence 2 1 t1 ∧
    (2 : Word).toNat + (1 : Word).toNat ≤ (halfDesc (curCtx t1) (idleHalf (curCtx t1))).ngran ∧ 0 < (1 : Word).toNat :=
  ⟨_, _, _, ⟨rfl, rfl⟩, rfl, rfl, ⟨rfl, rfl⟩, ⟨_, rfl, rfl⟩, rfl, rfl, ⟨_, rfl, rfl⟩, ⟨rfl, rfl⟩, rfl, ⟨_, rfl, rfl⟩, by decide, by decide⟩
theorem test_hyp_ifence_waits : ∃ s : State, slotRuns 0 wIA s ∧ ¬ (idleCopies s = [] ∧ idleYarns s = []) :=
  ⟨{ wA with cores := [(0, { Core.reset with
      open_ := [⟨3, .tile 0, BitVec.ofNat 256 (7 * 2 ^ 248 + 0x100000 * 2 ^ 128), 0, 0, 10, 0, 5⟩] })] }, ⟨rfl, rfl⟩, by decide +kernel⟩

/-- TrapAndExitResult: guards true and false, in debug mode and out of it, in a handler and out of it. -/
def wHandler : State := wState (.tile 0) .a { wCtx with estatH := true }
theorem test_hyp_trap : wA.cur = some wIA ∧ guardTrue 0 wA = true ∧ guardTrue 1 wA = false ∧ debugMode wA wIA.ag = false ∧
    debugMode { wA with dbg := { wA.dbg with bkptpc := 2 ^ 31 } } wIA.ag = true ∧
    (curCtx wHandler).estatH = true ∧ guardTrue 0 wHandler = true ∧ (curCtx wA).estatH = false :=
  ⟨rfl, rfl, rfl, rfl, by decide, rfl, rfl, rfl⟩

/-! ## Witnesses: loads, stores and atomics -/

/-- A slot L of tile core 0 and of steward core 3, with the registers of `wCtx`. -/
def wL : State := wState (.tile 0) .l wCtx
def wIL : Issue := wIssue (.tile 0) .l
def wStew : State := wState (.steward 3) .l wCtx
def wReg (v : Word) : Ctx := { wCtx with sregs := [(5, ⟨v, 0, 0, 0, 0, 1, 0⟩), (6, ⟨8, 0, 0, 0, 0, 1, 0⟩)] }
def wUrgent (v : Word) : State := wState (.tile 0) .l { wReg v with task := { wTask with urgent := true } }

/-- LoadStoreResult, of a load and of a store that complete, at the first and at the last place of the Spool. -/
theorem test_hyp_load_store : ∃ (t t1 t2 t3 : State) (c c1 : Option Nat), slotRuns 0 wIL wL ∧ agTile wIL.ag = true ∧
    (curCtx wL).estatH = false ∧ readsOne 5 true 7 true wL 64 c t ∧ readsTwo 6 false 5 true wL 8 64 t1 ∧
    (64 = (addInt 64 (sext 10 0 * 8)).toNat ∧ 64 % 8 = 0 ∧ heldBlock (curCtx wL).task (64 / 0x140000) = true) ∧
    (let s := wState (.tile 0) .l (wReg 0x13FFFF8)
     readsOne 5 true 7 true s 0x13FFFF8 c1 t2 ∧ readsTwo 6 false 5 true s 8 0x13FFFF8 t3 ∧
     heldBlock (curCtx s).task (0x13FFFF8 / 0x140000) = true) :=
  ⟨_, _, _, _, _, _, ⟨rfl, rfl⟩, rfl, rfl, ⟨_, rfl, rfl⟩, ⟨_, rfl, rfl⟩, by decide, ⟨_, rfl, rfl⟩, ⟨_, rfl, rfl⟩, rfl⟩

/-- LoadStoreResult, of the traps: 0x09 from the end of the Spool on (aligned or not), 0x07 at its last byte, 0x09 on a block
that the urgent context does not hold; and in a handler. -/
theorem test_hyp_load_store_traps : ∃ t t1 t2 t3 : State,
    (let s := wState (.tile 0) .l (wReg 0x1400000)
     source 5 true s = .ok (0x1400000, t) ∧ 0x1400000 ≤ (addInt 0x1400000 (sext 10 0 * 8)).toNat) ∧
    (let s := wState (.tile 0) .l (wReg 0x13FFFFF)
     source 5 true s = .ok (0x13FFFFF, t1) ∧ readsTwo 6 false 5 true s 8 0x13FFFFF t2 ∧
     (addInt 0x13FFFFF (sext 10 0 * 8)).toNat < 0x1400000 ∧ (addInt 0x13FFFFF (sext 10 0 * 8)).toNat % 8 ≠ 0) ∧
    (source 5 true (wUrgent 0) = .ok (0, t3) ∧ heldBlock (curCtx (wUrgent 0)).task (0 / 0x140000) = false) ∧
    slotRuns 0 wIA wHandler ∧ (curCtx wHandler).estatH = true :=
  ⟨_, _, _, _, ⟨rfl, by decide⟩, ⟨rfl, ⟨_, rfl, rfl⟩, by decide, by decide⟩, ⟨rfl, rfl⟩, ⟨rfl, rfl⟩, rfl⟩

/-- LoadStoreResult, on a steward core: the last eight bytes of its store. -/
theorem test_hyp_load_store_steward : ∃ (t t1 : State) (c : Option Nat),
    (let s := wState (.steward 3) .l (wReg 0x1FFF8)
     slotRuns 0 (wIssue (.steward 3) .l) s ∧ (curCtx s).estatH = false ∧ readsOne 5 true 7 true s 0x1FFF8 c t ∧
     readsTwo 6 true 5 true s 8 0x1FFF8 t1 ∧ 0x1FFF8 = (addInt 0x1FFF8 (sext 10 0 * 8)).toNat ∧ 0x1FFF8 < 2 ^ 17) :=
  ⟨_, _, _, ⟨rfl, rfl⟩, rfl, ⟨_, rfl, rfl⟩, ⟨_, rfl, rfl⟩, by decide, by decide⟩

/-- SpillConstantPooledResult: the last word of the spill window; a constant table; one pooled bank; an atomic on either
memory, with a comparand and without. -/
def wPool : State := { wState (.tile 0) .l { wCtx with image := { wCtx.image with csid := 3, kbytes := 128 } } with
  clusters := [(0, { Cluster.reset with allocs := [{ world := 1, launch := 0, gang := 0, banks := [5] }] })] }
theorem test_hyp_spill_constant_pooled : ∃ (t t1 t2 t3 t4 t5 t6 : State) (c c1 c2 c3 : Option Nat), slotRuns 0 wIL wPool ∧
    511 * 8 + 8 ≤ (curCtx wPool).task.spill ∧ dest 7 true wPool = .ok (c, t) ∧ source 5 true wPool = .ok (64, t1) ∧
    readsOne 5 true 7 true wPool 64 c1 t2 ∧ (curCtx wPool).image.csid ≠ 0 ∧
    (addInt 64 (sext 10 0 * 8)).toNat < (curCtx wPool).image.kbytes ∧
    (addInt 64 (sext 10 0 * 8)).toNat < (allocOf wPool (clusterOfCore (agIdx wIL.ag)) (curCtx wPool).task).length * 983040 ∧
    ldcPoison t1 64 = false ∧ dest 7 true t1 = .ok (c2, t3) ∧ readsTwo 6 false 5 true wPool 8 64 t4 ∧
    (readsTwo 5 true 6 false wPool 64 8 t5 ∧ source 6 false t5 = .ok (8, t5) ∧ dest 6 false t5 = .ok (c3, t6)) :=
  ⟨_, _, _, _, _, _, _, _, _, _, _, ⟨rfl, rfl⟩, by decide, rfl, rfl, ⟨_, rfl, rfl⟩, by decide, by decide, by decide +kernel, by decide +kernel,
    rfl, ⟨_, rfl, rfl⟩, ⟨_, rfl, rfl⟩, rfl, rfl⟩

/-- VectorMemoryResult: vt0 of V0's A file holds a vector, and the core's network delivers one from core 9. -/
def wVecState (x : Ctx) : State := { wState (.tile 0) .l x with
  cores := [(0, setVq (setVq Core.reset .vst 0 ⟨5, 0, 0, 0, 0, 1, 0⟩) .v0a 0 ⟨7, 0, 0, 0, 0, 1, 0⟩)] }
def wVec : State := wVecState { wCtx with inbox := [(9, 3)] }
theorem test_hyp_vector_memory : ∃ (t t1 t2 t3 t4 t5 : State) (c c1 c2 : Nat), agTile wIL.ag = true ∧ slotRuns 0 wIL wVec ∧
    (curCtx wVec).estatH = false ∧ source 5 true wVec = .ok (64, t) ∧
    (64 + 256 ≤ 0x1400000 ∧ 64 / 0x140000 = (64 + 255) / 0x140000 ∧ heldBlock (curCtx wVec).task (64 / 0x140000) = true) ∧
    vdest 1 t = .ok (c, t1) ∧ vsource .vst 0 true wVec = .ok (5, t2) ∧ source 5 true t2 = .ok (64, t3) ∧
    15 * 256 + 256 ≤ (curCtx wVec).task.spill ∧ vdest 1 wVec = .ok (c1, t4) ∧ (curCtx wVec).task.timed = true ∧
    (curCtx wVec).inbox.find? (fun p => p.1 = 9) = some (9, 3) ∧
    vdest 1 (modCur wVec (fun x => { x with inbox := x.inbox.filter (fun q => q.1 != 9) })) = .ok (c2, t5) :=
  ⟨_, _, _, _, _, _, _, _, _, rfl, ⟨rfl, rfl⟩, rfl, rfl, by decide, rfl, rfl, rfl, by decide, rfl, rfl, rfl, rfl⟩

/-- StorePerforms: on the memories at reset. -/
theorem test_hyp_store : agTile (.tile 0) = true ∧ (leBytes 8 7).length = 8 ∧ Memory.wf (coreOf State.reset 0).spool = true ∧
    Memory.wf (coreOf State.reset 0).spill = true := ⟨rfl, rfl, rfl, rfl⟩

/-! ## Witnesses: vector statements, matrix slot and yarns -/

/-- Slot V0 of tile core 0, with one vector in va0 and one in vb1, and the lane type `v`. -/
def wV (v : Word) : State := { wState (.tile 0) .v0 { wCtx with vtype0 := v } with
  cores := [(0, setVq (setVq Core.reset .v0a 0 ⟨7, 0, 0, 0, 0, 1, 0⟩) .v0b 1 ⟨9, 0, 0, 0, 0, 1, 0⟩)] }
def wIV : Issue := wIssue (.tile 0) .v0

/-- VectorTwoSource, VectorOneSource with a count from b and with an immediate, VectorGroups: of 8-bit lanes. -/
theorem test_hyp_vector : ∃ t t1 t2 t3 : State, slotRuns 0 wIV (wV 0) ∧ readsV2 0 true 1 false 2 (wV 0) 7 9 t ∧
    (∃ y : Vec, some 9 = some y.toNat ∧ readsV2 0 false 1 true 2 (wV 0) 7 y t1) ∧
    ((none : Option Nat) = none ∧ readsV1 0 false 2 (wV 0) 7 t2) ∧ readsV1 0 true 2 (wV 0) 7 t3 ∧ dstScalar 2 = false :=
  ⟨_, _, _, _, ⟨rfl, rfl⟩, ⟨rfl, _, ⟨rfl, rfl, rfl⟩, rfl⟩, ⟨9, by decide +kernel, rfl, _, ⟨rfl, rfl, rfl⟩, rfl⟩, ⟨rfl, rfl, rfl, rfl⟩,
    ⟨rfl, rfl, rfl⟩, rfl⟩

/-- VectorConvert, and the transcendentals of VectorOneSource: float lanes (ET = 3), and the narrow formats 1 and 7. -/
theorem test_hyp_vector_convert : ∃ t t1 : State, slotRuns 0 wIV (wV 0x1003) ∧ readsV2 0 true 1 false 2 (wV 0x1003) 7 9 t ∧
    (curVType (wV 0x1003)).isFloat = true ∧ (curVType (wV 0x1003)).ct = 1 ∧ readsV2 0 true 1 false 2 (wV 0x7003) 7 9 t1 ∧
    (curVType (wV 0x7003)).isFloat = true ∧ (curVType (wV 0x7003)).ct = 7 ∧ dstScalar 2 = false :=
  ⟨_, _, ⟨rfl, rfl⟩, ⟨rfl, _, ⟨rfl, rfl, rfl⟩, rfl⟩, rfl, rfl, ⟨rfl, _, ⟨rfl, rfl, rfl⟩, rfl⟩, rfl, rfl, rfl⟩

/-- VectorAccumulate; the routes of VACCR into an accumulator and into a queue. -/
theorem test_hyp_vector_accumulate : ∃ (t t1 : State) (c : Nat), slotRuns 0 wIV (wV 0) ∧ qHeld 0 (wV 0) = true ∧ qHeld 1 (wV 0) = true ∧
    (∃ s1, vsource (fileA (wV 0)) 0 true (wV 0) = .ok (7, s1) ∧ vsource (fileB s1) 1 false s1 = .ok (9, t)) ∧
    routeHeld 160 (wV 0) = true ∧ dstAcc 160 = true ∧ routeHeld 2 (wV 0) = true ∧ dstAcc 2 = false ∧ vdest 2 (wV 0) = .ok (c, t1) :=
  ⟨_, _, _, ⟨rfl, rfl⟩, rfl, rfl, ⟨_, rfl, rfl⟩, rfl, rfl, rfl, rfl, rfl⟩

/-- VectorPredicatesAndRouting: every route, and a queue that an urgent context does not hold. -/
def wVUrgent : State := wState (.tile 0) .v0 { wCtx with task := { wTask with urgent := true } }
theorem test_hyp_vector_routes : ∃ (t t1 : State) (c : Option Nat) (d : Nat), slotRuns 0 wIV (wV 0) ∧
    dest (224 % 32) true (wV 0) = .ok (c, t) ∧ dstScalar 224 = true ∧ routeHeld 2 (wV 0) = true ∧ dstScalar 2 = false ∧
    vdest 2 (wV 0) = .ok (d, t1) ∧ (curVType (wV 0)).isFloat = false ∧ slotRuns 0 wIV wVUrgent ∧ qHeld 0 wVUrgent = false :=
  ⟨_, _, _, _, ⟨rfl, rfl⟩, rfl, rfl, rfl, rfl, rfl, rfl, ⟨rfl, rfl⟩, rfl⟩

/-- LaneArithmetic: saturating 8-bit lanes whose sum lies in the range, below it and above it, and a wrapping type; NaN. -/
theorem test_hyp_lane_arithmetic :
    (let ty := vtypeOf 0x800
     ty.et ≤ 2 ∧ 0x80 < 2 ^ ty.w ∧ 0x7F < 2 ^ ty.w ∧ ty.sat = true ∧
     (-128 ≤ intOf ty.w ty.u 0x80 + intOf ty.w ty.u 0x7F ∧ intOf ty.w ty.u 0x80 + intOf ty.w ty.u 0x7F ≤ 127) ∧
     intOf ty.w ty.u 0x80 + intOf ty.w ty.u 0xFF < -128 ∧ 127 < intOf ty.w ty.u 0x7F + intOf ty.w ty.u 1) ∧
    (vtypeOf 0).sat = false ∧ (isNaN (Val.nan 0) || isNaN (.inf true)) = true := by decide

/-- MatrixResult: slot M of tile core 0, outside a call and a handler. -/
def wCall : State := { wState (.tile 0) .m { wCtx with
    image := { wCtx.image with kenc := 0, nonce := 0, msid := 1, mwords := 1 }
    mstream := [(0, 72), (1, 22), (2, 239), (3, 227)] } with
  cores := [(0, { Core.reset with steps := [(0, BitVec.ofNat 64 (7 * 2 ^ 59))], table := [(0, 0x80000000)] })] }
def wIM : Issue := wIssue (.tile 0) .m
theorem test_hyp_matrix : ∃ (t t1 t2 : State) (c : Option Nat), slotRuns 0 wIM wCall ∧ (curCtx wCall).estatH = false ∧
    callBusy (curCtx wCall) wIM.t = false ∧ source 5 true wCall = .ok (64, t) ∧ readsTwo 6 true 5 false wCall 8 64 t1 ∧
    stepHeld (curCtx wCall).task 8 = true ∧ entryHeld (curCtx wCall).task 8 = true ∧ readsOne 6 false 7 true wCall 8 c t2 ∧
    bankHeld (curCtx wCall).task 3 = true ∧ (curCtx wCall).task.urgent = false ∧
    slotRuns 0 wIA wHandler ∧ (curCtx wHandler).estatH = true :=
  ⟨_, _, _, _, ⟨rfl, rfl⟩, rfl, rfl, rfl, ⟨_, rfl, rfl⟩, by decide, by decide, ⟨_, rfl, rfl⟩, rfl, rfl, ⟨rfl, rfl⟩, rfl⟩

/-- MatrixResult, of a running call: in its first cycle. -/
theorem test_hyp_matrix_busy : ∃ s : State, slotRuns 0 wIM s ∧ (curCtx s).estatH = false ∧ callBusy (curCtx s) wIM.t = true :=
  ⟨wState (.tile 0) .m { wCtx with call := some ⟨10, 5, 0, [], [], none⟩ }, ⟨rfl, rfl⟩, rfl, rfl⟩

/-- MatrixResult, of MCALL: a step of one cycle, LAST set, so a block count of 1 agrees and a count of 2 does not; a context
without an M-stream section; an entry that an urgent context does not hold. -/
theorem test_hyp_mcall : ∃ k : WalkAt, slotRuns 0 wIM wCall ∧ (curCtx wCall).image.msid ≠ 0 ∧
    (curCtx wCall).mpc < (curCtx wCall).image.mwords ∧ bf (mstreamWord (curCtx wCall)) 11 0 = 0 ∧
    bf (mstreamWord (curCtx wCall)) 15 12 ≤ 6 ∧ entryHeld (curCtx wCall).task 0 = true ∧
    (let e := (tabGet 0 (coreOf wCall 0).table 0).toNat
     bm e 31 = true ∧ bf e 30 11 = 0 ∧
     walkRecipe wCall 0 (curCtx wCall).task (latchParams (curCtx wCall)) (bf e 10 0) (2 ^ 80) ⟨bf e 10 0, 0, 0, [], [], []⟩ = .ok k) ∧
    k.c = 1 ∧ k.c ≠ 2 ∧ (curCtx wA).image.msid = 0 ∧ entryHeld { wTask with urgent := true } 0 = false :=
  ⟨⟨0, 1, 0, [], [(0, 1)], [⟨0, 7 * 2 ^ 59, 0, 0, 0⟩]⟩, ⟨rfl, rfl⟩, by decide, by decide, by decide +kernel, by decide +kernel, rfl,
    ⟨by decide +kernel, by decide +kernel, rfl⟩, rfl, by decide, rfl, rfl⟩

/-- YarnResult: an empty yarn, and one that moves four beats from the Spool to the spill window. -/
def wYarn (q : W256) : State := { wState (.tile 0) .y { wCtx with task := { wTask with spill := 4096 } } with
  cores := [(0, { Core.reset with yarns := [(3, q)] })] }
def wIY : Issue := wIssue (.tile 0) .y
def wDesc : W256 := BitVec.ofNat 256 (1 * 2 ^ 252 + 3 * 2 ^ 248 + 3 * 2 ^ 200)
theorem test_hyp_yarn : ∃ (t t1 t2 : State) (c : Option Nat), slotRuns 0 wIY (wYarn 0) ∧ yarnHeld (curCtx (wYarn 0)).task 3 = true ∧
    readsTwo 5 true 6 true (wYarn 0) 64 8 t ∧ dest 7 true (wYarn 0) = .ok (c, t1) ∧ (curCtx (wYarn 0)).estatH = false ∧
    isOpen t 0 3 wIY.t = false ∧ yarnEmpty (yarnReg (coreOf (wYarn 0) 0) 3) = true ∧
    (let q := yarnReg (coreOf (wYarn wDesc) 0) 3
     slotRuns 0 wIY (wYarn wDesc) ∧ readsTwo 0 false 0 false (wYarn wDesc) 0 0 t2 ∧ isOpen t2 0 3 wIY.t = false ∧
     yarnEmpty q = false ∧ yarnValid q = true ∧ isNetYarn q = false ∧ beatsCause t2 wIY.ag q 0 0 (yqBeats q) 0 = 0 ∧ yqGeom q = 0) :=
  ⟨_, _, _, _, ⟨rfl, rfl⟩, rfl, ⟨_, rfl, rfl⟩, rfl, rfl, by decide +kernel, by decide +kernel,
    ⟨rfl, rfl⟩, ⟨_, rfl, rfl⟩, by decide +kernel, by decide +kernel, by decide +kernel, by decide +kernel, by decide +kernel, by decide +kernel⟩

/-! ## Witnesses: engine operations, timelines, monitors, barriers, fences, launches -/

/-- Slot Y of tile core 0 (or of steward core 2): s5 holds `x`, s6 holds `z`; y3 describes 64 bytes from memory to memory;
one pooled bank is the task's. -/
def wY (a : Agent) (x z : Word) : State :=
  { wState a .y { wCtx with task := { wTask with tlbind := [2 ^ 28] }, sregs := [(5, ⟨x, 0, 0, 0, 0, 1, 0⟩), (6, ⟨z, 0, 0, 0, 0, 1, 0⟩)] } with
    cores := [(0, { Core.reset with yarns := [(3, BitVec.ofNat 256 (63 * 2 ^ 192))] })]
    clusters := [(0, { Cluster.reset with allocs := [{ world := 1, launch := 0, gang := 0, banks := [5] }] })] }
def wE : State := wY (.tile 0) 0x10000 0x100

/-- EngineIssueResult: every engine instruction with these operands. -/
theorem test_hyp_engine : ∃ (t t1 : State) (c : Option Nat), slotRuns 0 wIY wE ∧ readsTwo 5 true 6 true wE 0x10000 0x100 t ∧
    yarnHeld (curCtx wE).task 3 = true ∧ queueLoad (engineOf wE (agEngine wIY.ag)) true < 16 ∧
    queueLoad (engineOf wE (agEngine wIY.ag)) false < 64 ∧ dest 7 false t = .ok (c, t1) ∧
    (let q := yarnReg (coreOf wE 0) 3
     rowsOk t q 0x10000 0x100 = true ∧ cpMode q = 0 ∧ copyValid q false false = true ∧ copyValid q true false = true ∧
     unsealValid q = true ∧ localOk t wIY.ag (cpDsp q) 0x100 (cpLen q) = true) ∧
    scrubOk t 0 0x10000 0x100 = true ∧ hatomOwned t false 0x10000 = true ∧ bits (0x10000 : Word) 34 32 = 0 :=
  ⟨_, _, _, ⟨rfl, rfl⟩, ⟨_, rfl, rfl⟩, rfl, by decide +kernel, by decide +kernel, rfl,
    ⟨by decide +kernel, by decide +kernel, by decide +kernel, by decide +kernel, by decide +kernel, by decide +kernel⟩,
    by decide +kernel, by decide +kernel, by decide +kernel⟩

/-- EngineIssueResult, of SEAL. -/
theorem test_hyp_seal : ∃ (t t1 : State) (c : Option Nat), slotRuns 0 wIY wE ∧ agTile wIY.ag = true ∧
    readsTwo 5 true 6 true wE 0x10000 0x100 t ∧ sealValid (yarnReg (coreOf wE 0) 3) = true ∧
    localOk t wIY.ag (cpSsp (yarnReg (coreOf wE 0) 3)) 0x10000 (cpLen (yarnReg (coreOf wE 0) 3)) = true ∧
    dest 7 false { (modWorld t 1 (fun v => { v with ckptCtr := 1 })) with freeCtr := t.freeCtr + 1 } = .ok (c, t1) :=
  ⟨_, _, _, ⟨rfl, rfl⟩, rfl, ⟨_, rfl, rfl⟩, by decide +kernel, by decide +kernel, rfl⟩

/-- TimelineAndMonitorResult: tl1 is a signal timeline, met at 0 and not at 256; tl0 is the core's own. -/
theorem test_hyp_timeline : ∃ (t t1 t2 z : State) (c : Option Nat), slotRuns 0 (wIssue (.steward 2) .y) (wY (.steward 2) 0 0x100) ∧
    (let s := wY (.steward 2) 0 0x100
     source 5 true s = .ok (0, t) ∧ source 6 false s = .ok (0x100, t1) ∧ handle 2 1 5 t = .ok (2 ^ 28) ∧ handle 2 1 5 t1 = .ok (2 ^ 28) ∧
     (curCtx s).estatH = false ∧ kindOf (Agent.steward 2) ≠ .tile ∧ (curCtx s).kept = none ∧ source 0 false s = .ok (0, z) ∧
     tlMet t (.steward 2) 1 (2 ^ 28) 0 = true ∧ tlMet t1 (.steward 2) 1 (2 ^ 28) 0x100 = false ∧
     handle 0 5 5 s = .ok (5 * 2 ^ 28 + agEngine (.steward 2)) ∧ handle 2 1 1 s = .ok (2 ^ 28) ∧ dest 7 false s = .ok (c, t2)) :=
  ⟨_, _, _, _, _, ⟨rfl, rfl⟩, rfl, rfl, rfl, rfl, rfl, by decide, rfl, rfl, by decide +kernel, by decide +kernel, rfl, rfl, rfl⟩

/-- TimelineAndMonitorResult, of WAITA on a translated line of memory that was never written: a condition that holds, one
that does not, a line of no owner, and a world without free entries. -/
def wMon (n : Nat) : State := { wY (.steward 2) 0x20008 0 with
  trans := [(transKey (dieOf (.steward 2)) 1 0x20008, ⟨0x100000, true⟩)]
  funcs := [(0, { Func.reset with layout := { Layout.empty with monitors := n } })] }
theorem test_hyp_monitor : ∃ t : State,
    slotRuns 0 (wIssue (.steward 2) .y) (wMon 1) ∧ (curCtx (wMon 1)).estatH = false ∧ (curCtx (wMon 1)).kept = none ∧
    readsTwo 5 true 6 true (wMon 1) 0x20008 0 t ∧ 0x20008 < 2 ^ 56 ∧ 0x20008 % 8 = 0 ∧
    translate t (dieOf (.steward 2)) 1 0x20008 false = (.ok 0x1000000008, t) ∧ targetOf 0x1000000008 = 0 ∧
    monitorsFull t (dieOf (.steward 2)) 1 = false ∧ readWatch t 1 0x1000000008 = .ok 0 ∧ condHolds 0 0 0 = true ∧
    condHolds 1 0 0 = false ∧ monitorsFull (wMon 0) (dieOf (.steward 2)) 1 = true ∧
    readWatch { t with pageWorld := [(0xFFFFC, 7, 2)] } 1 0x1000000008 = .error 0x09 :=
  ⟨_, ⟨rfl, rfl⟩, rfl, rfl, ⟨_, rfl, rfl⟩, by decide, by decide, rfl, by decide, by decide +kernel, by decide +kernel, rfl, rfl, by decide +kernel, by decide +kernel⟩

/-- BarrierAndFenceResult: a task of a level-1 domain, with an arrival pending and with none; a task of no domain; a reduction
of the task's that has not performed, within the scope .sy. -/
def wDom : State := { wState (.tile 0) .y { wCtx with task := { wTask with level := 1 } } with
  doms := [⟨⟨1, 0, 0, false⟩, 1, 4, 0, 0, [], [], [], false⟩] }
def wBusy : State := modEngine wE (agEngine (.tile 0)) (fun k => { k with ops := [{
  num := 1, kind := .red, ag := .tile 0, world := 1, tid := tidOf wCtx, desc := 0, x := 0x10000, z := 0x100
  entry := 0, op := 0, scope := 0, ret := false, cmp := 0, queued := true, started := false, taken := none, todo := []
  todoSet := false, at_ := 0, fail := none, stopped := false, governed := false, aux := 0, nonce := 0, performed := false
  gang := 0, waitPage := none, fetched := [], lost := [], pages := [], data := [], bad := [], held := none
  wroteHost := false, hostRead := none }] })
theorem test_hyp_barrier : slotRuns 0 wIY wDom ∧ (curCtx wDom).estatH = false ∧ (curCtx wDom).task.level ≠ 0 ∧
    (curCtx wDom).dropped = false ∧ domPending wDom wIY.ag = false ∧ slotRuns 0 wIY (domSend wDom wIY.ag 0 false false) ∧
    domPending (domSend wDom wIY.ag 0 false false) wIY.ag = true ∧ ¬ ((curCtx wE).task.level ≠ 0) ∧
    (fenceOps wE wIY.ag).filter (fenceBusy wE 3 false) = [] ∧ slotRuns 0 wIY wBusy ∧
    (fenceOps wBusy wIY.ag).filter (fenceBusy wBusy 7 false) ≠ [] ∧ 2 < 7 :=
  ⟨⟨rfl, rfl⟩, rfl, by decide, rfl, by decide +kernel, ⟨rfl, rfl⟩, by decide +kernel, by decide, by decide +kernel, ⟨rfl, rfl⟩,
    by decide +kernel, by decide⟩

/-- LaunchResult: a held world; a launch record in memory that was never written; 0x20040 is in a page
whose translation is held. -/
theorem ok_pair {α β : Type} (e : Except Nat (α × β)) (h : e.isOk = true) : ∃ (c : α) (t : β), e = .ok (c, t) := by
  cases e with
  | error _ => cases h
  | ok p => exact ⟨p.1, p.2, rfl⟩
theorem test_hyp_launch : ∃ (t t1 : State) (c : Option Nat), slotRuns 0 (wIssue (.steward 2) .y) (wMon 1) ∧
    (let s := { wY (.steward 2) 0x20040 0 with trans := [(transKey 4 1 0x20000, ⟨0x100000, true⟩)], worlds := [(1, World.reset)] }
     (curCtx s).kept = none ∧ readsTwo 5 true 0 false s 0x20040 0 t ∧ (worldOf s 1).held = false ∧
     dest 7 true (readLaunch t 1 0x20040).2 = .ok (c, t1)) ∧
    (let s := { wY (.steward 2) 0x20040 0 with trans := [(transKey 4 1 0x20000, ⟨0x100000, true⟩)] }
     missesOf 4 s (readLaunch s 1 0x20040).2 = [] ∧ (0x20040 : Word).toNat % 64 = 0 ∧ (0x20041 : Word).toNat % 64 ≠ 0 ∧
     (match (readLaunch s 1 0x20040).1 with | .ok (1, _, none) => true | _ => false) = true) ∧
    (worldOf { wMon 1 with worlds := [(1, { World.reset with held := true })] } 1).held = true :=
  have ⟨c, t1, h⟩ := ok_pair _ (by decide +kernel)
  ⟨_, t1, c, ⟨rfl, rfl⟩, ⟨rfl, ⟨_, rfl, rfl⟩, rfl, h⟩, ⟨by decide +kernel, by decide, by decide, by decide +kernel⟩, rfl⟩

/-- LaunchResult, TimelineAndMonitorResult: pages that no translation is held for: the root of the walk of one maps it, and the
other is met by a fault. -/
theorem test_hyp_miss : transLookup { wMon 1 with trans := [] } (dieOf (.steward 2)) 1 0x20008 = none ∧
    transLookup (wMon 1) (dieOf (.steward 2)) 1 0x20008 ≠ none ∧
    (match (readLaunch { wMon 1 with trans := [] } 1 0x20040).1 with | .error _ => true | _ => false) = true := by decide +kernel

/-! ## Witnesses: channel commands -/

/-- Slot L of channel core 3, whose program belongs to world 1: s5 holds a slice address, s6 the row 100. -/
def wCh (v : Word) (banks : Tab Bank) : State :=
  { wState (.channel 3) .l { wCtx with sregs := [(5, ⟨v, 0, 0, 0, 0, 1, 0⟩), (6, ⟨100, 0, 0, 0, 0, 1, 0⟩)] } with
    chans := [(3, { Chan.reset with owner := 1, banks := banks })] }
def wICh : Issue := wIssue (.channel 3) .l

/-- ChannelRowResult: row 100 (not near), by word and by register; row 5, a cache row, to clean. -/
theorem test_hyp_channel_row : ∃ t : State, slotRuns 0 wICh (wCh 0 []) ∧ rowOperand 6 true (wCh 0 []) = .ok (100, t) ∧
    (curCtx (wCh 0 [])).task.world ≠ 0 ∧ needRowOwner 2 100 t = .ok () ∧ needRowOwner 2 100 (wCh 0 []) = .ok () ∧
    bankIdle (chanOf t 3) 2 (nowChc t) = true ∧ isCacheRow t (rowNumber 3 2 100) = false ∧
    gapsOk (chanOf t 3) .act 2 (nowChc t) = true ∧ nearRow 100 = false ∧ (chanOf t 3).pin ≠ 15 ∧
    gapsOk (chanOf t 3) .prom 2 (nowChc t) = true ∧ needRowOwner 2 5 (wCh 0 []) = .ok () ∧
    isCacheRow (wCh 0 []) (rowNumber 3 2 5) = true ∧ gapsOk (chanOf (wCh 0 []) 3) .clean 2 0 = true :=
  ⟨_, ⟨rfl, rfl⟩, rfl, by decide, by decide +kernel, by decide +kernel, rfl, by decide +kernel, by decide +kernel, by decide,
    by decide, by decide +kernel, by decide +kernel, by decide +kernel, by decide +kernel⟩

/-- ChannelColumnAndBankResult: bank 2 open at row 100, and idle; the first and the last slice address. -/
def wOpen (v : Word) : State := wCh v [(2, .opened 100 [] [] false)]
theorem test_hyp_channel_column : ∃ t t1 : State, slotRuns 0 wICh (wOpen 0) ∧ (curCtx (wOpen 0)).task.world ≠ 0 ∧
    source 5 true (wOpen 0) = .ok (0, t) ∧ needDAddr true 0 t = .ok 0 ∧ source 5 true (wOpen 0xFF00) = .ok (0xFF00, t1) ∧
    needDAddr true 0xFF00 t1 = .ok 0xFF00 ∧
    bankOpen (chanOf t 3) 2 = true ∧ gapsOk (chanOf t 3) .rd 2 (nowChc t) = true ∧ countersOk t 3 2 false (colLines 0 15) = true ∧
    clearedWriteOk t 3 2 0 15 = true ∧ clearedWriteOk t 3 2 1 15 = false ∧ gapsOk (chanOf t 3) .wr 2 (nowChc t) = true ∧
    countersOk (wOpen 0) 3 2 true allLines = true ∧ gapsOk (chanOf t 3) .init 2 0 = true ∧ bankOpen (chanOf (wCh 0 []) 3) 2 = false :=
  ⟨_, _, ⟨rfl, rfl⟩, by decide, rfl, rfl, rfl, rfl, rfl, by decide +kernel, by decide +kernel, by decide +kernel, by decide +kernel,
    by decide +kernel, by decide +kernel, by decide +kernel, by decide +kernel⟩

/-- ChannelColumnAndBankResult: closing, refreshing, and waiting on the launch timeline, on timeline 0, and on none. -/
theorem test_hyp_channel_bank : ∃ t t1 : State, bankOpen (chanOf (wOpen 0) 3) 2 = true ∧ clearedCloseOk (wOpen 0) 3 2 = true ∧
    gapsOk (chanOf (wOpen 0) 3) .pre 2 (nowChc (wOpen 0)) = true ∧
    (∀ b : Nat, b < 32 → bankOpen (chanOf (wOpen 0) 3) b = true ∨ bankIdle (chanOf (wOpen 0) 3) b 0 = true) ∧
    (∀ b : Nat, b < 32 → bankOpen (chanOf (wOpen 0) 3) b = true → clearedCloseOk (wOpen 0) 3 b = true ∧
      gapsOk (chanOf (wOpen 0) 3) .pre b 0 = true) ∧
    (∀ b : Nat, b < 32 → bankIdle (chanOf (wCh 0 []) 3) b 0 = true ∧ -8 < debtOf (chanOf (wCh 0 []) 3) b) ∧
    gapsOk (chanOf (wCh 0 []) 3) .ref 0 0 = true ∧ gapsOk (chanOf (wCh 0 []) 3) .refp 2 0 = true ∧
    readsTwo 5 true 6 true (wCh 0x40000000 []) 0x40000000 100 t ∧ tlKind 0x40000000 = 4 ∧ tlValid t 1 0x40000000 = true ∧
    tlValue t 1 0x40000000 < (100 : Word).toNat ∧ (0 : Word).toNat ≤ tlValue t 1 0x40000000 ∧
    readsTwo 5 true 6 true (wCh 0 []) 0 100 t1 ∧ ¬ (1 ≤ tlKind 0) :=
  ⟨_, _, rfl, by decide +kernel, by decide +kernel, by decide +kernel, by decide +kernel, by decide +kernel, by decide +kernel, by decide +kernel,
    ⟨_, rfl, rfl⟩, rfl, rfl, by decide +kernel, by decide +kernel, ⟨_, rfl, rfl⟩, by decide⟩

/-! ## Witnesses: issue, queues, traps -/

/-- FalseGuard: a word guarded by p1, which reads as 0. -/
theorem test_hyp_false_guard : (Instr.add ⟨1, 7, true, 5, true, 6, false⟩).hasWord = true ∧
    (Instr.add ⟨1, 7, true, 5, true, 6, false⟩).isWf = true ∧ wA.cur = some wIA ∧
    guardTrue (bf (encodeWord (.add ⟨1, 7, true, 5, true, 6, false⟩)) 31 28) wA = false := by decide

/-- SourceAndDestSteps: queues of length 0, 1, 2 and 4; a word whose first source, second source or destination fails. -/
def wFull : State := wState (.tile 0) .a { wCtx with sregs := [(5, ⟨64, 65, 0, 0, 0, 2, 0⟩), (6, ⟨1, 2, 3, 4, 3, 4, 0⟩)] }
theorem test_hyp_queues : ∃ (t t1 t2 : State), slotRuns 0 wIA wFull ∧ (sregOf (curCtx wFull) 7).len = 0 ∧ (sregOf (curCtx wFull) 5).len ≠ 0 ∧
    (sregOf (curCtx wFull) 5).len ≠ 4 ∧ (sregOf (curCtx wFull) 6).len = 4 ∧ source 7 true wFull = .error 0x03 ∧
    (source 5 true wFull = .ok (64, t) ∧ source 7 false t = .error 0x03) ∧
    (readsTwo 5 true 5 false wFull 64 65 t1 ∧ dest 6 true t1 = .error 0x02) ∧ dest 0 true wFull = .ok (none, t2) :=
  ⟨_, _, _, ⟨rfl, rfl⟩, rfl, by decide, by decide, rfl, rfl, ⟨rfl, rfl⟩, ⟨⟨_, rfl, rfl⟩, rfl⟩, rfl⟩

/-- TrapEntryAndReturn: with a handler to run; and at the return from one that ran for 20 cycles. -/
def wTvec : State := wState (.tile 0) .a { wCtx with tvec := 0x200, pend := [⟨12, 9, 0, .pair 1 true⟩] }
theorem test_hyp_trap_entry : wTvec.cur = some wIA ∧ (0x04 : Nat) ≠ 0x06 ∧ (ctxOf wTvec wIA.ag).tvec ≠ 0 ∧
    (ctxOf wTvec wIA.ag).estatH = false ∧ kindOf wIA.ag ≠ .channel ∧
    (ctxOf (trapEntry (.tile 0) 4 0x100 0 7 0 false none wTvec) (.tile 0)).susp.isSome = true := by decide +kernel

/-- BundleIssueResult: code of two bundles, ADD with VADD and then an empty bundle with Q, held in half 0 under the key 0;
a context that cannot issue, an address past the code, words that are no bundle, and a Q bundle that is not quiet. -/
def wCode (pc : Nat) (x : Ctx) : State := { setCtx State.reset (.tile 0) { x with
    image := { Image.none with codeSid := 1 }, half0 := ⟨1, 1, 0⟩, seqPc := pc, seqAt := 10 } with
  cores := [(0, { Core.reset with imem := memWrite [] 0 (toBytes (sectionOpen 0 0 1 0 (toNats
    ([0x90060000, 0x00060C40, 0x00548110, 0x01000000].flatMap (leBytes 4)))))})] }
theorem test_hyp_bundle : ∃ (h h1 : Header) (l l1 : List SlotWord) (e : Option Slot × Nat × BadWord),
    canIssue (ctxOf State.reset (.tile 0)) = false ∧
    (let s := wCode 0 wCtx
     canIssue (ctxOf s (.tile 0)) = true ∧ nextIssue (ctxOf s (.tile 0)) = some (0, 10) ∧
     (if (ctxOf s (.tile 0)).susp.isNone then dueDeferred (ctxOf s (.tile 0)) else none) = none ∧ debtTrap s (.tile 0) = false ∧
     fetchRefused s (.tile 0) 0 = false ∧ decodeBundle .tile (fetchWords s (.tile 0) 0) = .ok (h, l) ∧
     scheduleFault s (.tile 0) h 0x90060000 l = none) ∧
    fetchRefused (wCode 0x4000 wCtx) (.tile 0) 0x4000 = true ∧
    decodeBundle .tile (fetchWords (wCode 4 wCtx) (.tile 0) 4) = .error e ∧
    (let s := wCode 12 { wCtx with pend := [⟨12, 9, 0, .pair 1 true⟩] }
     decodeBundle .tile (fetchWords s (.tile 0) 12) = .ok (h1, l1) ∧ scheduleFault s (.tile 0) h1 0x01000000 l1 = some (7, 0x01000000)) :=
  ⟨⟨0x48, false, false, 12⟩, ⟨0, true, false, 0⟩,
    [⟨.a, 0x00060C40, .add ⟨0, 3, false, 1, true, 2, false⟩⟩, ⟨.v0, 0x00548110, .vadd ⟨0, 0x52, false, 0, true, 1, 0⟩⟩], [],
    ⟨none, 0x00060C40, .headerReserved⟩, by decide +kernel,
    ⟨by decide +kernel, by decide +kernel, by decide +kernel, by decide +kernel, by decide +kernel, by decide +kernel, by decide +kernel⟩,
    by decide +kernel, by decide +kernel, by decide +kernel, by decide +kernel⟩

/-- StepRunsRow: an agenda with one row; no open bundle; a slot word still to issue. -/
def wRest : State := { wA with cur := some { wIA with rest := [⟨.a, 0x00060C40, .add ⟨0, 3, false, 1, true, 2, false⟩⟩] } }
theorem test_hyp_step : trapFirst (refill 24 { State.reset with agenda := [.schedTick] }) = { State.reset with agenda := [.schedTick] } ∧
    State.reset.poweredOff = false ∧ State.reset.cur = none ∧ bm (0 : Nat) (Slot.a).num = false ∧ debugMode wRest (.tile 0) = false :=
  ⟨rfl, rfl, rfl, rfl, rfl⟩

/-- ResultLanding: a frozen context, and one that is not, with one store due. -/
theorem test_hyp_landing : (ctxOf (wState (.tile 0) .a { wCtx with frozen := true }) (.tile 0)).frozen = true ∧
    (let s := wState (.tile 0) .a { wCtx with pend := [⟨10, 8, 2, .store .spool [(0, 1)]⟩] }
     (ctxOf s (.tile 0)).frozen = false ∧ (ctxOf s (.tile 0)).pend = [⟨10, 8, 2, .store .spool [(0, 1)]⟩] ∧ 10 ≤ (ctxOf s (.tile 0)).clk) :=
  ⟨rfl, rfl, rfl, by decide⟩

/-- CoreEvents: a call in its first cycle, one with a fault, a running task, and charges on either side of the budget. -/
def wRun (n : Nat) : State := setCtx State.reset (.tile 0) { wCtx with charge := n, call := some ⟨10, 5, 0, [], [], some 3⟩ }
theorem test_hyp_core_events : (ctxOf (wRun 1000) (.tile 0)).frozen = false ∧
    callBusy (ctxOf (wRun 1000) (.tile 0)) (ctxOf (wRun 1000) (.tile 0)).clk = true ∧
    (ctxOf (wRun 1000) (.tile 0)).call = some ⟨10, 5, 0, [], [], some 3⟩ ∧ (ctxOf (wRun 1000) (.tile 0)).live = true ∧
    (ctxOf (wRun 1000) (.tile 0)).started = true ∧ (ctxOf (wRun 1000) (.tile 0)).task.control = false ∧ agTile (.tile 0) = true ∧
    (ctxOf (wRun 1000) (.tile 0)).charge ≤ (ctxOf (wRun 1000) (.tile 0)).task.budget ∧
    (ctxOf (wRun 1001) (.tile 0)).task.budget < (ctxOf (wRun 1001) (.tile 0)).charge := by decide

/-! ## Witnesses: events -/

/-- TaskAndSchedulingEvents: a task whose exit stands, and one whose result is still in flight; the ends of zeroing. -/
def wExit (p : List InFlight) : State := setCtx State.reset (.tile 0) { wCtx with texit := true, issuing := false, pend := p }
theorem test_hyp_retire : exitReady (wExit []) (.tile 0) = true ∧ exitReady (wExit [⟨12, 9, 0, .pair 1 true⟩]) (.tile 0) = false ∧
    (coreOf { State.reset with cores := [(3, { Core.reset with zeroUntil := some 9 })], gcyc := 9 } 3).zeroUntil = some 9 ∧
    (chanOf { State.reset with chans := [(3, { Chan.reset with zeroUntil := some 9 })], gcyc := 8 } 3).zeroUntil = some 9 :=
  ⟨by decide +kernel, by decide +kernel, rfl, rfl⟩

theorem test_hyp_zeroing : (ctxOf { wExit [] with gcyc := 10 } (.channel 3)).live = false ∧
    (ctxOf (setCtx State.reset (.channel 3) wCtx) (.channel 3)).live = true ∧ (9 < 10 ∧ 9 ≤ 9) := by decide +kernel

/-- TaskAndSchedulingEvents, of an entry: nothing to fill, a code section that the image lacks, and a saved task. -/
def wTrec (sid : Nat) : TaskRec := ⟨0, 0, 1, 1, 1000, 4096, 0, [1], [sid], 0, 0, 0, 0, []⟩
def wLaunched (sid : Nat) : Machine.Launch := ⟨1, parseLaunch (leBytes 8 0 ++ leBytes 4 0x10000 ++ leBytes 1 1 ++ leBytes 243 0), wTrec sid, Image.none, [], 1, [], [0], [], false,
  [], 0, 0, 0, 0, none, []⟩
def wPlaced (sid : Nat) (v : List Saved) : State := { setCtx State.reset (.tile 0) { Ctx.reset with
    live := true, fillUntil := some 0, task := { wTask with launch := 1 } } with
  worlds := [(1, { World.reset with launches := [wLaunched sid], saved := v })] }
theorem test_hyp_entry : ∃ s2 s3 : State,
    (let s := modCtx (wPlaced 0 []) (.tile 0) (fun x => { x with fillUntil := none })
     (ctxOf (wPlaced 0 []) (.tile 0)).live = true ∧ (ctxOf (wPlaced 0 []) (.tile 0)).started = false ∧
     (ctxOf (wPlaced 0 []) (.tile 0)).fillUntil = some 0 ∧ 0 ≤ (wPlaced 0 []).gcyc ∧ savedFor s (.tile 0) = none ∧
     (worldOf s 1).launches.find? (fun l => l.n = 1) = some (wLaunched 0) ∧ fillTask (.tile 0) (wLaunched 0) s = (.ok (), s2) ∧
     preempts s2 (.tile 0) = false) ∧
    (let s := modCtx (wPlaced 7 []) (.tile 0) (fun x => { x with fillUntil := none })
     fillTask (.tile 0) (wLaunched 7) s = (.error 0x0A, s3)) ∧
    savedFor (wPlaced 0 [⟨0, 1, 5, { wCtx with task := { wTask with launch := 1 } }, Core.reset⟩]) (.tile 0) =
      some ⟨0, 1, 5, { wCtx with task := { wTask with launch := 1 } }, Core.reset⟩ :=
  ⟨_, _, ⟨rfl, rfl, rfl, by decide, rfl, rfl, rfl, rfl⟩, rfl, rfl⟩

/-- TaskAndSchedulingEvents, of a save and of an urgent gang that has its cores. -/
def wGang : State := { setCtx (setCtx State.reset (.tile 0) { wCtx with saveDue := 3 }) (.urgent 0)
  { Ctx.reset with live := true, task := { wTask with urgent := true, level := 1, launch := 2 } } with gcyc := 100 }
def wTaken (v : Option Nat) : State := { wGang with cores := [(0, { Core.reset with victim := v })] }
theorem test_hyp_gang : (ctxOf wA (.tile 0)).saveDue = 0 ∧ 3 ≤ (ctxOf wGang (.tile 0)).saveDue ∧
    (unitOf wGang (.tile 0)).all (localOpsDone wGang) = true ∧ urgentWaits wGang 0 = true ∧
    (urgentMembers (wTaken (some 85)) ⟨1, 2, 0⟩).all (fun a => (ctxOf (wTaken (some 85)) a).task.level == 0) = false ∧
    (urgentMembers (wTaken (some 85)) ⟨1, 2, 0⟩).all (urgentReady (wTaken (some 85))) = true ∧
    (coreOf { wA with cores := [(0, { Core.reset with victim := some 85 })] } 0).victim = some 85 ∧ holds wA (.urgent 0) = false ∧
    (ctxOf wA (.tile 0)).saveDue < 3 := by decide +kernel

/-- TaskAndSchedulingEvents: a unit that cannot be taken yet; an urgent context over a task; one under level 0; a victim whose
core has been zeroed. -/
def wAloneUrgent : State := setCtx State.reset (.urgent 0) { Ctx.reset with live := true, task := { wTask with urgent := true, launch := 2 } }
theorem test_hyp_take :
    (let s := setCtx State.reset (.tile 0) { wCtx with saveDue := 1, texit := true }
     1 ≤ (ctxOf s (.tile 0)).saveDue ∧ (ctxOf s (.tile 0)).saveDue ≤ 2 ∧ (unitOf s (.tile 0)).all (saveStands s) = false) ∧
    preempts wGang (.urgent 0) = true ∧ preempts wAloneUrgent (.urgent 0) = false ∧ urgentWaits State.reset 0 = false ∧
    (urgentMembers wAloneUrgent ⟨1, 2, 0⟩).all (fun a => (ctxOf wAloneUrgent a).task.level == 0) = true ∧
    logFull wAloneUrgent = false ∧
    (let s := { wA with gcyc := 90, cores := [(0, { Core.reset with victim := some 85, zeroUntil := some 90 })] }
     holds s (.urgent 0) = false ∧ zeroingOver s 0 = true ∧ urgentTakes s 0 = false) := by decide +kernel

/-- WaitsAndQueuedEffects: each kind of wait, at its time. -/
def wWait (a : Agent) (f : WaitFor) : State := setCtx State.reset a { wCtx with wait := some ⟨f, 0, 0, 0, ⟨[], none, 0, 0, 0⟩, false, some 0⟩ }
def wWaitOn (f : WaitFor) : State := { wWait (.tile 0) f with engines := [(0, { Engine.reset with ops := (engineOf wBusy 0).ops })] }
theorem test_hyp_waits : ∃ op : EngOp,
    (∃ w, (ctxOf (wWait (.steward 2) (.monitor 0x1000000008 0 0 1 0 0 true 4)) (.steward 2)).wait = some w ∧ w.until_ = some 0 ∧
      readWatch (noteSoft (wWait (.steward 2) (.monitor 0x1000000008 0 0 1 0 0 true 4)) 0x1000000008) 1 0x1000000008 = .ok 0 ∧
      condHolds 0 0 0 = true ∧ readWatch (noteSoft (wWait (.steward 2) (.monitor 8 0 0 1 0 0 true 4)) 8) 1 8 = .error 0x09) ∧
    (∃ w, (ctxOf { wWait (.steward 2) (.monitor 0x1000000008 0 0 1 0 1024 false 4) with gcyc := 1024 } (.steward 2)).wait = some w ∧
      (1024 : Nat) ≠ 0 ∧ 0 + 1024 ≤ { wWait (.steward 2) (.monitor 0x1000000008 0 0 1 0 1024 false 4) with gcyc := 1024 }.gcyc) ∧
    (∃ w, (ctxOf (wWait (.tile 0) (.barrier 1 true)) (.tile 0)).wait = some w ∧ w.what = .barrier 1 true ∧ w.until_ = some 0) ∧
    (([] : List (Nat × Nat)).any (fenceBusy (wWait (.tile 0) (.fence [] 7 false)) 7 false) = false ∧
      [(0, 1)].any (fenceBusy (wWaitOn (.fence [(0, 1)] 7 false)) 7 false) = true) ∧
    (opOf (wWaitOn (.queue 1)) 0 1 = some op ∧ queueFull (engineOf (wWaitOn (.queue 1)) 0) (queueKind op.kind) = false) ∧
    (∃ w, (ctxOf (wWait (.channel 3) .precharge) (.channel 3)).wait = some w ∧ w.what = .precharge ∧ w.until_ = some 0) :=
  ⟨_, ⟨_, rfl, rfl, by decide +kernel, rfl, by decide +kernel⟩, ⟨_, rfl, by decide, by decide⟩, ⟨_, rfl, rfl, rfl⟩,
    ⟨rfl, by decide +kernel⟩, ⟨rfl, by decide +kernel⟩, ⟨_, rfl, rfl, rfl⟩⟩

theorem test_hyp_waits_end : (∃ w, (ctxOf (wWait (.steward 2) (.timeline 0 1 1 true)) (.steward 2)).wait = some w ∧
      w.what = .timeline 0 1 1 true ∧ w.until_ = some 0) ∧
    (∃ w, (ctxOf (wWait (.steward 2) (.xlate false 0 0 0 [⟨4, 1, 9⟩])) (.steward 2)).wait = some w ∧
      w.what = .xlate false 0 0 0 [⟨4, 1, 9⟩] ∧
      [(⟨4, 1, 9⟩ : Miss)].any (wWait (.steward 2) (.xlate false 0 0 0 [⟨4, 1, 9⟩])).misses.elem = false ∧
      [(⟨4, 1, 9⟩ : Miss)].any ({ wWait (.steward 2) (.xlate false 0 0 0 [⟨4, 1, 9⟩]) with misses := [⟨4, 1, 9⟩] } : State).misses.elem = true) :=
  ⟨⟨_, rfl, rfl, rfl⟩, ⟨_, rfl, rfl, by decide +kernel, by decide +kernel⟩⟩

/-- WaitsAndQueuedEffects: an advance with nothing before it, and one behind an operation; a domain with one arrival that has
reached its leader, and with none; a translation waited for. -/
def wQueued (ops : List (Nat × Nat)) : State := { wBusy with
  tladds := [⟨0, .tile 0, tidOf wCtx, 0, 1, 5, 7, ops, 10⟩]
  doms := [⟨⟨1, 0, 0, false⟩, 1, 4, 0, 0, [], [⟨0, [], 3, .tile 0, false, false⟩], [], false⟩, ⟨⟨2, 0, 0, false⟩, 1, 4, 0, 0, [], [], [], false⟩]
  misses := [⟨4, 1, 9⟩] }
theorem test_hyp_queued : ∃ (t t1 : TlAddOp) (d d1 : Dom) (q : DomDue),
    (wQueued []).tladds.find? (fun q => q.id = 0) = some t ∧ tladdReady (wQueued []) t = true ∧
    (wQueued [(0, 1)]).tladds.find? (fun q => q.id = 0) = some t1 ∧ tladdReady (wQueued [(0, 1)]) t1 = false ∧
    domOf (wQueued []) ⟨1, 0, 0, false⟩ = some d ∧ domLeader (wQueued []) ⟨1, 0, 0, false⟩ = none ∧ d.due = [q] ∧
    landReady (wQueued []) q = true ∧ q.drop = false ∧ q.withdraw = false ∧
    domOf (wQueued []) ⟨2, 0, 0, false⟩ = some d1 ∧ d1.due.filter (landReady (wQueued [])) = [] ∧
    walking (wQueued []) ⟨4, 1, 9⟩ = true ∧ walking (wQueued []) ⟨4, 1, 8⟩ = false :=
  ⟨_, _, _, _, _, rfl, by decide +kernel, rfl, by decide +kernel, rfl, rfl, rfl, rfl, rfl, rfl, rfl, rfl, by decide, by decide⟩

/-! ## Witnesses: engines, channels, records -/

/-- EngineSteps: an operation that may begin, one that has begun, one that was stopped; HATOM on the task's bank; a drain
atomic; a sibling's copy that an idle engine takes. -/
def wOp (k : EngKind) (stopped set : Bool) : EngOp := {
  num := 1, kind := k, ag := .tile 0, world := 1, tid := tidOf wCtx, desc := 0, x := 0, z := 0
  entry := 0, op := 0, scope := 0, ret := true, cmp := 0, queued := true, started := false, taken := none, todo := []
  todoSet := set, at_ := 0, fail := none, stopped := stopped, governed := false, aux := 0x4B0000, nonce := 0, performed := false
  gang := 0, waitPage := none, fetched := [], lost := [], pages := [], data := [], bad := [], held := none
  wroteHost := false, hostRead := none }
def wEng (e : Nat) (op : EngOp) : State := { wE with engines := [(e, { Engine.reset with ops := [op] })] }
theorem test_hyp_engine_steps :
    (opOf (wEng 0 (wOp .cpy false false)) 0 1 = some (wOp .cpy false false) ∧ (wOp .cpy false false).at_ ≤ (wEng 0 (wOp .cpy false false)).gcyc ∧
      mayStart (wEng 0 (wOp .cpy false false)) 0 (wOp .cpy false false) = true) ∧
    (opOf (wEng 0 (wOp .seal false true)) 0 1 = some (wOp .seal false true) ∧ (wOp .seal false true).todo = []) ∧
    (opOf (wEng 0 (wOp .red false false)) 0 1 = some (wOp .red false false) ∧ (wOp .red false false).queued = true ∧
      (wOp .red true false).stopped = true ∧ (wOp .cpy false true).todo = [] ∧ (wOp .cpy false true).held = none) ∧
    (opOf (wEng 0 (wOp .krot true true)) 0 1 = some (wOp .krot true true) ∧ (wOp .krot true true).stopped = true) ∧
    (let s := wEng 0 (wOp .hatom false false)
     let op := wOp .hatom false false
     s.cutDies.elem (bits op.x 29 26 / 4) = false ∧ atomBehind s 0 op = false ∧ bankTaken s 0 (placeBank op.aux) = false ∧
     (opBanks s op 0).elem (placeBank op.aux) = true ∧ linePoisoned (takeBank 0 (placeBank op.aux) s) 0 op.aux = false) := by
  decide +kernel
def wDrain : State := { wA with atomics := [⟨0, .tile 0, 1, 0, 0, 1, 0x100, 7, 0, false⟩] }
def wTake : State := wEng 1 (wOp .cpyr false false)
theorem test_hyp_drain_and_take : (∃ d, wDrain.atomics.find? (fun q => q.id = 0) = some d ∧ d.at_ ≤ wDrain.gcyc ∧ d.amx = 1 ∧
      (ctxOf wDrain d.ag).live = true ∧ (ctxOf wDrain d.ag).task.launch = d.launch ∧ (ctxOf wDrain d.ag).task.world = d.world) ∧
    (engineRuns wTake 1 = true ∨ unstarted wTake 1 ≠ []) ∧
    (engineRuns wTake 0 = false ∧ unstarted wTake 0 = [] ∧
      (sortBy (fun j => (1000 - (unstarted wTake j).length) * 4 + j % 4) (((clusterCores 0).filter (· != 0)).filter (fun j =>
        !(unstarted wTake j).isEmpty))).head? = some 1 ∧
      (unstarted wTake 1).find? (fun op => op.kind == .cpyr && heldByWorld wTake 0 op.world) = some (wOp .cpyr false false)) :=
  ⟨⟨_, rfl, by decide, rfl, rfl, rfl, rfl⟩, by decide +kernel, by decide +kernel, by decide +kernel, by decide +kernel, by decide +kernel⟩

/-- ChannelAndRecordEvents: the first refresh of an owned channel and of one without owner; a busy bank at its time and before
it; bursts due, and a request of the service program. -/
def wBurst (w ds : Bool) (step : Nat) : DBurst := ⟨1, w, 0, 20, [], 100, 0, 15, ds, 0, step, false⟩
def wCev (b : List DBurst) (r : List SvcReq) (stop : Bool) : State := { wState (.channel 3) .l wCtx with
  chans := [(3, { Chan.reset with owner := 1, banks := [(2, .busy 7)], bursts := b, reqs := r, stopping := stop })] }
theorem test_hyp_channel_events :
    (let s := { wCev [] [] false with gcyc := 15600 }
     (chanOf s 3).owner ≠ 0 ∧ (chanOf s 3).zeroUntil = none ∧ nowChc s = (chanOf s 3).refBase + 7800 * ((chanOf s 3).ticks + 1)) ∧ (chanOf wA 3).owner = 0 ∧
    (bankOf (chanOf (wCev [] [] false) 3) 2 = .busy 7 ∧ nowChc (wCev [] [] false) < 7 ∧ 7 ≤ nowChc { wCev [] [] false with gcyc := 14 }) ∧
    burstDue (wCev [wBurst false true 0] [] false) 3 (wBurst false true 0) = true ∧
    burstDue (wCev [wBurst true false 4] [] false) 3 (wBurst true false 4) = true ∧ (wCev [wBurst true false 4] [] false).phase ≠ 3 ∧
    burstDue (wCev [wBurst true true 3] [] false) 3 (wBurst true true 3) = true ∧
    burstDue { wCev [wBurst true true 3] [] false with gcyc := 3, ctxs := [] } 3 { wBurst true true 3 with at_ := 9 } = false ∧
    bankOf (chanOf (wCev [] [] false) 3) 1 = .idle ∧ ({ wCev [wBurst true false 4] [] false with phase := 3 } : State).phase = 3 ∧
    stopReady (wCev [] [] true) 3 = true ∧ stopReady (wCev [] [⟨false, 1, 0, 64, [], false, 0, 0⟩] false) 3 = false := by decide +kernel

/-- ChannelAndRecordEvents: a record of a world without a slub ring, and one that is written; a log entry with room for it
and without; the governor. -/
def wSlub (base : Nat) : State := { State.reset with
  slubs := [(0, ⟨[⟨0, 0, 0, 0, 0, 0, 0, 0, 1⟩], 0⟩)]
  trans := [(transKey (slubDie 0) 1 0x20000, ⟨0x100000, true⟩)]
  worlds := [(1, { World.reset with slubBase := base })] }
def wLog (size : Nat) : State := { State.reset with log := { LogRegs.reset with size := size, held := [⟨0, 0, 1, 1, 0, 0⟩] } }
theorem test_hyp_records : (worldOf (wSlub 0) 1).slubBase = 0 ∧ (worldOf (wSlub 0x20000) 1).slubBase ≠ 0 ∧
    logRoom (wLog 0) = false ∧ logRoom (wLog 4096) = true ∧ (4095 : Nat) % 4096 = 4095 ∧
    (({ State.reset with egress := [⟨1, 0, 33, 64, 0⟩] } : State).egress = [⟨1, 0, 33, 64, 0⟩] ∧
      logFull { State.reset with egress := [⟨1, 0, 33, 64, 0⟩] } = false) ∧
    logFull { State.reset with log := { LogRegs.reset with held := List.replicate 4096 ⟨0, 0, 1, 1, 0, 0⟩ } } = true := by decide +kernel
theorem test_hyp_slub_fails : ((writeVirt (wSlub 0x40000) (slubDie 0) 1 (0x40000 + 64 * (0 % 65536))
    (slubBytes 0 0 ⟨0, 0, 0, 0, 0, 0, 0, 0, 1⟩)).1.toBool = false) ∧ (tabGet ⟨[], 0⟩ (wSlub 0).slubs 1).recs = [] := by decide +kernel
theorem test_hyp_slub_written : ∃ t : State, writeVirt (wSlub 0x20000) (slubDie 0) 1 (0x20000 + 64 * (0 % 65536))
    (slubBytes 0 0 ⟨0, 0, 0, 0, 0, 0, 0, 0, 1⟩) = (.ok (), t) :=
  have h : (writeVirt (wSlub 0x20000) (slubDie 0) 1 (0x20000 + 64 * (0 % 65536)) (slubBytes 0 0 ⟨0, 0, 0, 0, 0, 0, 0, 0, 1⟩)).1 =
    .ok () := by decide +kernel
  ⟨_, Prod.ext h rfl⟩

/-! ## Witnesses: requests from outside -/

/-- A ready package: function 1 (world 2) runs and holds session 1; session 2 is not finished, session 3 is not bound. -/
def wReady : State := { State.reset with
  ready := true
  funcs := [(1, { Func.reset with vfEnabled := true, tdi := .run, layout := { Layout.empty with stewards := 4, channels := 8 } })]
  worlds := [(1, World.reset), (2, { World.reset with policy := 7 })]
  pageWorld := [(0xFFFFC, 70, 2)]
  sessions := [⟨1, true, some 1⟩, ⟨2, false, none⟩, ⟨3, true, none⟩] }

/-- HostRequests: WINBASE at the end of its range and past it; the log's registers with an entry outstanding and with none. -/
theorem test_hyp_winbase : ((0x6F00000000 : Word).toNat % 2 ^ 32 = 0 ∧ (0x6F00000000 : Word).toNat ≤ 0x6F00000000) ∧
    (0x6F00000000 < (0x7000000000 : Word).toNat) ∧ (1 : Word).toNat % 2 ^ 32 ≠ 0 ∧ logOutstanding State.reset = false ∧
    logOutstanding { State.reset with log := { LogRegs.reset with head := 1 } } = true ∧ (4096 : Word).toNat % 4096 = 0 ∧
    (2 ^ 12 ≤ (4096 : Word).toNat ∧ (0x1000000 : Word).toNat ≤ 2 ^ 24) := by decide

/-- HostRequests, of memory: a request of function 1 that its open range takes, at the last line of the range, and one that
crosses it; a PF-window request at the window's last line, and one past it. -/
def wRange : State := { wReady with trans := [(transKey 4 2 0xFFFFFFC0, ⟨0x100000, true⟩)] }
def wReq (off : Nat) : HostReq := ⟨1, false, off, 64, [], true, true⟩
theorem test_hyp_range : rangeOpen wRange (wReq 0xFFFFFFC0) = true ∧ rangeOpen wRange (wReq 0xFFFFFFE0) = false ∧
    translate wRange 4 2 0xFFFFFFC0 false = (.ok 0x100000FFC0, wRange) ∧ targetOf 0x100000FFC0 = 0 ∧ svcCheck wRange 2 0x100000FFC0 = 0 ∧
    rangeBytes < 0xFFFFFFE0 + 64 ∧ 0xFFFFFFC0 + 64 ≤ rangeBytes ∧ 0xFFFFFFC0 % 4096 + 64 ≤ 4096 ∧
    (0x2000000000 : Word).toNat % 2 ^ 32 = 0 ∧ svcCheck { wRange with winbase := 0x2000000000 } 1 ((0x2000000000 : Word).toNat + 0xFFFFFFC0) = 0 :=
  ⟨by decide, by decide, rfl, by decide, by decide +kernel, by decide, by decide, by decide, by decide, by decide +kernel⟩

/-- HostRequests: a page that is not cached, one behind an earlier request, a translation refused; no world with a custody region. -/
theorem test_hyp_range_waits : rangeOpen wReady (wReq 0) = true ∧ (transLookup wReady 4 2 0).isSome = false ∧
    (transLookup wRange 4 2 0xFFFFFFC0).isSome = true ∧ wRange.hostWaits.any (fun q => q.f == 1) = false ∧
    ({ wRange with hostWaits := [wReq 0] } : State).hostWaits.any (fun q => q.f == 1) = true ∧
    (translate { wRange with trans := [(transKey 4 2 0xFFFFFFC0, ⟨0x100000, false⟩)] } 4 2 0xFFFFFFC0 true).1 = .error 0x08 := by decide +kernel
theorem test_hyp_freeze : ∀ w : Nat, captureRegion State.reset w = none := fun w => by
  have h : (worldOf State.reset w).regions = [] := by
    simp only [worldOf, State.reset, tabGet]
    grind [World.reset]
  simp [captureRegion, h, sortBy]

/-- SpdmRequests: slots 1 and 2, 3 sessions and 32, a measurement block that exists not, every kind of session. -/
theorem test_hyp_spdm : wReady.ready = true ∧ wReady.sessions.length < 32 ∧
    32 ≤ { wReady with sessions := List.replicate 32 ⟨1, true, none⟩ }.sessions.length ∧ measureBlock wReady 9 = none ∧
    sessionOf wReady 2 = some ⟨2, false, none⟩ ∧ sessionOf wReady 3 = some ⟨3, true, none⟩ ∧ sessionOf wReady 4 = none :=
  ⟨rfl, by decide, by decide, rfl, rfl, rfl, rfl⟩

/-- ManagerRequests: binding of a session that is not bound; a resumption under the policy of no block; custody; the units. -/
def wHeld : State := { wReady with worlds := [(2, { World.reset with held := true })] }
def wResume : KeyReleaseReq := ⟨1, 0, 0, 0, 0, 0, layoutDigest (funcOf wReady 1).layout, sha256W [], 0, 0⟩
theorem test_hyp_manager : wReady.ready = true ∧ sessionOf wReady 1 = some ⟨1, true, some 1⟩ ∧ sessionOf wReady 3 = some ⟨3, true, none⟩ ∧
    enabledFunc wReady 1 = true ∧ enabledFunc wReady 0 = true ∧ wReady.sessions.any (fun y => y.func == some 0) = false ∧
    logFull wReady = false ∧ badRegion wReady 2 ⟨1, 0, 0xFFFFC, 7, 2 ^ 32, 64⟩ = false ∧ (15 : Nat) ≤ 15 ∧
    startCheck wReady ⟨1, true, some 1⟩ 1 = 0 ∧ startCheck wReady ⟨3, true, none⟩ 1 ≠ 0 ∧ holds wReady (.steward 2) = false ∧
    wReady.stewZero.any (fun p => p.1 == 2) = false ∧ bm (funcOf wReady 1).layout.stewards.toNat 2 = true ∧
    (chanOf wReady 3).owner = 0 ∧ (chanOf wReady 3).zeroUntil = none ∧ bm (funcOf wReady 1).layout.channels.toNat 3 = true ∧
    wReady.cutDies.elem (3 / 64) = false :=
  ⟨rfl, rfl, rfl, rfl, rfl, by decide, by decide, by decide +kernel, by decide, by decide, by decide, rfl, rfl, by decide, rfl, rfl, by decide, rfl⟩
theorem test_hyp_resume : releaseCheck wHeld ⟨1, true, some 1⟩ wResume true = 0 ∧ releaseCheck wHeld ⟨1, true, none⟩ wResume true ≠ 0 ∧
    wResume.resv = 0 ∧ wResume.kind = 0 ∧ wResume.keyid = 0 := by decide +kernel
theorem test_hyp_bind : enabledFunc wReady 5 = false ∧ wReady.sessions.any (fun y => y.id != 3 && y.func == some 1) = true ∧
    wReady.sessions.any (fun y => y.id != 1 && y.func == some 1) = false := by decide
def wStarting (v : Bool) : State := { wReady with chans := [(3, { Chan.reset with owner := 2, func := 1, starting := v })] }
theorem test_hyp_channel_start : (chanOf (wStarting true) 3).starting = true ∧ (chanOf (wStarting true) 3).func = 1 ∧
    startCheck (wStarting true) ⟨1, true, some 1⟩ 1 = 0 ∧ (chanOf (wStarting false) 3).starting = false ∧
    chanTaken (chanOf (wStarting false) 3) = true ∧ chanTaken (chanOf wReady 3) = false := by decide
theorem test_hyp_channel_stop : (chanOf wReady 3).faultRec = none ∧
    (chanOf { wReady with chans := [(3, { Chan.reset with faultRec := some (4, 8), func := 1 })] } 3).faultRec = some (4, 8) ∧
    (chanOf { wReady with chans := [(3, { Chan.reset with owner := 2, func := 1 })] } 3).owner = 1 + 1 := ⟨rfl, rfl, rfl⟩

/-- FabricMessages: package 5, leader of a job with package 6; a message of each kind, with the tag of the job's key. -/
def wWin (mode : Nat) : WinDesc := ⟨9, 1, mode, 5, 0, 0x10000, 0x1000#256, 0, 0⟩
def wJob (leader mode : Nat) : Job := ⟨9, leader, 2, 0x60, 3, 4, 0, [], [(12, true)], [wWin mode]⟩
def wFab (leader mode : Nat) (req : List FabReq) : State := { wReady with
  pkg := some 5, fabReqs := req
  worlds := [(2, { World.reset with job := some (wJob leader mode) })]
  doms := [⟨⟨2, 0, 9, true⟩, 4, 2, 0, 4, [], [], [], false⟩] }
def wMsg (opc op src nline rid addr : Nat) (body : List Byte) : FabMsg :=
  let m : FabMsg := ⟨opc, op, src, 5, nline, 0, 9, rid, 1, addr, body, 0, 0⟩
  { m with tag := BitVec.ofNat 128 (bytesNat (gcmTag 3 (fabNonce m) (fabHeader m) (toNats body))) }
theorem test_hyp_fabric : jobWorld (wFab 5 0 []) 9 = some (2, wJob 5 0) ∧
    dropStatus (wFab 5 0 []) (wMsg 6 0 6 0 1 1 []) 6 = none ∧ some (wJob 5 0).leader = (wFab 5 0 []).pkg ∧
    some (wJob 6 0).leader ≠ (wFab 6 0 []).pkg := by decide +kernel
def wOpenMsg (s : State) (m : FabMsg) : FabMsg := { m with body := (openMsg (((jobWorld s m.djob).map (·.2.kt)).getD 0) m).getD [] }
def wAfter (s : State) (m : FabMsg) : State :=
  modWorld s 2 (fun x => { x with job := x.job.map (fun j => { j with lastCtr := tabSet j.lastCtr m.src m.ctr }) })
def wWr : FabMsg := wMsg 1 0 6 1 1 0x1000000000 []
def wRd : FabMsg := wMsg 2 0 6 1 1 0x1000000000 []
theorem test_hyp_fabric_lines : dropStatus (wFab 5 0 []) wWr 1 = none ∧ wWr.nline = 1 ∧
    lineStatus (wAfter (wFab 5 0 []) wWr) 2 (wOpenMsg (wFab 5 0 []) wWr) = 0 ∧
    lineStatus (wAfter (wFab 5 0 []) wWr) 2 { wWr with addr := 0 } ≠ 0 ∧
    dropStatus (wFab 5 0 []) wRd 2 = none ∧ lineStatus (wAfter (wFab 5 0 []) wRd) 2 (wOpenMsg (wFab 5 0 []) wRd) = 0 ∧
    (msgLines (wOpenMsg (wFab 5 0 []) wRd)).filterMap (fun o => if o < hbmBytes then regionOf (wFab 5 0 []) (pageOfAddr o) else none) = [] := by
  decide +kernel
def wRed (src k : Nat) : FabMsg := wMsg (if k = 0 then 3 else 4) 1 src 1 1 (k * 2 ^ 48 + windowBase) []
theorem test_hyp_fabric_windows : dropStatus (wFab 5 0 []) (wRed 6 0) 3 = none ∧ redAddrOk (wOpenMsg (wFab 5 0 []) (wRed 6 0)) = true ∧
    redPlace (wFab 5 0 []) 2 (wOpenMsg (wFab 5 0 []) (wRed 6 0)) = some (0, wWin 0) ∧ (wWin 0).mode = 0 ∧ bm (wRed 6 0).op 3 = false ∧
    redAddrOk { wRed 6 0 with addr := 8 } = false ∧
    dropStatus (wFab 5 1 []) (wRed 0x800C 2) 4 = none ∧ redAddrOk (wRed 0x800C 2) = true ∧
    redPlace (wFab 5 1 []) 2 (wRed 0x800C 2) = some (0, wWin 1) ∧ (wWin 1).mode = 1 ∧ bm (wWin 1).switches.toNat (0x800C - 0x8000) = true ∧
    (wRed 0x800C 2).addr / 2 ^ 48 ≠ 0 := by decide +kernel
def wRq (opc : Nat) : FabReq := ⟨1, 2, 6, 0, opc, 100, 0, 1, 0, none, 0⟩
theorem test_hyp_fabric_answers :
    (∃ d, domOf (reply 2 (wOpenMsg (wFab 6 0 []) (wMsg 7 0 6 0 1 4 [])) 0 (wAfter (wFab 6 0 []) (wMsg 7 0 6 0 1 4 []))) (jobDom 2 (wJob 6 0)) =
      some d ∧ d.phase = 4) ∧
    (dropStatus (wFab 6 0 []) (wMsg 7 0 6 0 1 4 []) 7 = none ∧ dropStatus (wFab 5 0 []) (wMsg 0x84 0 6 0 1 0 []) 0x84 = none ∧
     dropStatus (wFab 5 0 [wRq 1]) (wMsg 0x81 0 6 0 1 0 []) 0x81 = none ∧ requestOf (wFab 5 0 [wRq 1]) 2 1 (wMsg 0x81 0 6 0 1 0 []) = some (wRq 1) ∧
     dropStatus (wFab 5 0 [wRq 2]) (wMsg 0x82 0 6 0 1 0 []) 0x82 = none ∧ requestOf (wFab 5 0 [wRq 2]) 2 2 (wMsg 0x82 0 6 0 1 0 []) = some (wRq 2) ∧
     dropStatus (wFab 5 0 [wRq 3]) (wMsg 0x83 0 6 0 1 0 []) 0x83 = none ∧ requestOf (wFab 5 0 [wRq 3]) 2 3 (wMsg 0x83 0 6 0 1 0 []) = some (wRq 3) ∧
     dropStatus (wFab 5 0 [wRq 6]) (wMsg 0x86 0 6 0 1 0 []) 0x86 = none ∧ requestOf (wFab 5 0 [wRq 6]) 2 6 (wMsg 0x86 0 6 0 1 0 []) = some (wRq 6) ∧
     dropStatus (wFab 5 0 [wRq 7]) (wMsg 0x87 0 6 0 1 0 []) 0x87 = none ∧ requestOf (wFab 5 0 [wRq 7]) 2 7 (wMsg 0x87 0 6 0 1 0 []) = some (wRq 7)) :=
  ⟨⟨_, rfl, rfl⟩, by decide +kernel⟩

def wAdm : Admission := ⟨2, 12, 0x800C, 1, 100, 0, 0, 0, 0⟩
/-- FabricManagement: ports; a request and an admission at their deadlines; an admission's answer, and a message for another
package; a session's joining, leaving, admitting and windows. -/
theorem test_hyp_fabric_ports : ({ wReady with ports := 3 } : State).ports.getLsbD 1 = true ∧ ({ wReady with ports := 3 } : State).ports.getLsbD 31 = false ∧
    ({ wReady with fabReqs := [wRq 1], gcyc := 100 } : State).fabReqs.find? (fun q => q.rid = 1 && decide (q.deadline ≤ 100)) = some (wRq 1) ∧
    [wAdm].find? (fun q => q.ordinal = 12 && decide (q.deadline ≤ 100)) = some wAdm ∧ [wAdm].find? (fun q => q.swid = 0x800C) = some wAdm ∧
    (∀ r ∈ wReady.fabReqs, r.port ≠ 1) ∧ (∀ g ∈ wReady.governed, g.port ≠ 1 + 1) ∧
    some 7 ≠ (wFab 5 0 []).pkg := by decide
def wJoin : JobJoinReq := ⟨1, 5, 9, 0, 2, layoutDigest (funcOf wReady 1).layout, 0x60, 0⟩
def wAlone : State := { wReady with pkg := some 5 }
theorem test_hyp_join : joinCheck wAlone ⟨1, true, some 1⟩ wJoin = 0 ∧ notBound wAlone ⟨1, true, some 1⟩ 1 = false ∧ logFull wAlone = false ∧
    startCheck (wFab 5 0 []) ⟨1, true, some 1⟩ 1 = 0 ∧ (worldOf (wFab 5 0 []) 2).job = some (wJob 5 0) ∧
    admitCheck (wFab 5 0 []) ⟨1, true, some 1⟩ ⟨1, 13, 0x800D, 0, 0, 0, 0⟩ = 0 ∧
    makeOk (wFab 5 0 []) (wJob 5 0) { wWin 0 with mode := 0, base := 0x10000, window := 2 } = true ∧
    makeOk (wFab 5 0 []) (wJob 5 0) { wWin 0 with mode := 1 } = false := by decide +kernel
def wNew : WinDesc := let d : WinDesc := ⟨9, 2, 0, 5, 0x10000, 0x10000, 0, 0, 0⟩; { d with mac := winMac 4 d }
theorem test_hyp_install : installOk (wFab 5 0 []) (wJob 5 0) wNew = true := by decide +kernel

/-- InterfaceRequests: a session of function 1 and one of the PF; a locked interface with its nonce; a stream with a key. -/
def wTdi (v : Tdi) : State := { wReady with
  funcs := [(1, { Func.reset with vfEnabled := true, tdi := v })], ides := [(4, ⟨[(0, 0, 5)], []⟩)] }
theorem test_hyp_interface : sessionOf (wTdi .unlocked) 1 = some ⟨1, true, some 1⟩ ∧ enabledFunc (wTdi .unlocked) 1 = true ∧
    tdiLocked (wTdi .run) 1 = true ∧ (funcOf (wTdi .unlocked) 1).tdi = .unlocked ∧ ideReady (wTdi .unlocked) 4 = true ∧
    (funcOf (wTdi .locked) 1).tdi = .locked ∧ (funcOf (wTdi .locked) 1).nonce = 0 ∧ (funcOf (wTdi .locked) 1).nonce ≠ 1 ∧
    logFull (wTdi .run) = false ∧ (tabGet Ide.reset (wTdi .run).ides 4).keys.any (fun k => k.1 == 0 && k.2.1 == 0) = true ∧
    (tabGet Ide.reset (wTdi .run).ides 4).keys.any (fun k => k.1 == 1 && k.2.1 == 0) = false ∧
    (wTdi .run).vfEnable = false ∧ ({ wTdi .run with vfEnable := true } : State).vfEnable = true ∧
    itemChanges State.reset ⟨0, 4, 1⟩ = true ∧ itemChanges State.reset ⟨0, 4, 0⟩ = false ∧ vfRetries State.reset ⟨0, 4, 1⟩ = false ∧
    vfRetries { wTdi .run with vfEnable := true, retryUntil := 9 } ⟨1, 4, 1⟩ = true := by decide

/-- InterfaceRequests, ManagementRequests: a stop and a reclaim that are done at once, and ones that wait for the program of
channel 3, which the world runs; a channel that is taken. -/
def wOwns (s : State) : State := { s with chans := [(3, { Chan.reset with owner := 2, func := 1 })] }
theorem test_hyp_tearing : (worldOf (stopInterface 1 (wTdi .run)) 2).tearing = none ∧
    (worldOf (stopInterface 1 (wOwns (wTdi .run))) 2).tearing ≠ none ∧
    (worldOf (tearHeld 2 wHeld) 2).tearing = none ∧ (worldOf (tearHeld 2 (wOwns wHeld)) 2).tearing ≠ none ∧
    chanTaken (chanOf (wOwns wReady) 3) = true ∧ chanTaken (chanOf wReady 3) = false ∧
    reclaimStatus wReady 0 70 ≠ 0 := by decide +kernel

/-- ManagementRequests: each request at the ends of the ranges that it takes. -/
theorem test_hyp_management :
    (layoutOk wReady 0 { Layout.empty with pooled := 64, monitors := 1088 } 0 = true ∧ layoutOk wReady 0 { Layout.empty with pooled := 65 } 0 = false) ∧
    (groupSpan 0x100042 7 = true ∧ (∀ o ∈ spanOwners wReady 0x100042 7, o = 1) ∧ clrRoom wReady (0x100042 / 7) 1 = true) ∧
    (reclaimStatus { wReady with funcs := [] } 0xFFFFC 70 = 0 ∧ spanOwners wReady 0xFFFFC 70 ≠ []) ∧
    (∃ v, ({ wReady with funcs := [], staged := some (64, 0) } : State).staged = some v ∧ enabledVfs { wReady with funcs := [], staged := some (64, 0) } = []) ∧
    enabledFunc wReady 1 = true ∧ (∀ q ∈ wReady.worlds, q.2.job = none) ∧ (1023 : Nat) ≤ 1023 ∧ 1023 < 1024 ∧
    ({ wReady with log := { LogRegs.reset with head := 1 } } : State).log.head ≠ 0 := by
  refine ⟨by decide +kernel, by decide +kernel, by decide +kernel, ⟨_, rfl, by decide⟩, by decide, by decide, by decide, by decide, by decide⟩
theorem test_hyp_near_and_move : (15 < 16 ∧ (chanOf wReady 3).owner = 0 ∧ turned (chanOf wReady 3).pin.toNat 0 true = [] ∧
      turned (chanOf wReady 3).pin.toNat 0 false = []) ∧ (chanOf (wCh 0 []) 3).owner ≠ 0 ∧
    (groupSpan 0xFFFFC 7 = true ∧ groupSpan 0x100042 7 = true ∧ 2 ≤ pageOwner wReady 0xFFFFC ∧ pageOwner wReady 0x100042 = 1 ∧
      (chanOf wReady (chanOfPage 0xFFFFC)).owner = 0 ∧ (chanOf wReady (chanOfPage 0x100042)).owner = 0) := by decide +kernel

/-- ResetEvents: a bring-up at its end and before it; a die that is cut off and one that is not. -/
theorem test_hyp_reset : ({ wReady with bringUp := some 9, gcyc := 9 } : State).bringUp = some 9 ∧ (8 : Nat) < 9 ∧
    ({ wReady with cutDies := [2] } : State).cutDies.elem 2 = true ∧ wReady.cutDies.elem 3 = false := by decide

/-- DecodeEncodeAgree: a slot that takes a word, and a word that decodes. -/
theorem test_hyp_decode : (Instr.add ⟨0, 3, false, 1, true, 2, false⟩).isWf = true ∧
    slotTakes .tile .a (.add ⟨0, 3, false, 1, true, 2, false⟩) = true ∧
    decodeSlot .tile .a 0x00060C40 = .ok (.add ⟨0, 3, false, 1, true, 2, false⟩) := by decide

/-- NoOpenBundle, NothingStopsButPowerOff: a state with a row to run, and one of a package that is off. -/
theorem test_hyp_steps : (∃ t : State, ({ wReady with agenda := [.logackWrite 3], phase := 7, bringUp := none } : State).cur = none ∧
      step { wReady with agenda := [.logackWrite 3], phase := 7, bringUp := none } = .next t) ∧
    ({ State.reset with poweredOff := true } : State).agenda = [] ∧ ({ State.reset with poweredOff := true } : State).inputs = [] :=
  ⟨⟨_, rfl, rfl⟩, rfl, rfl⟩

/-! ## Witnesses: rounding draws, shifts by the whole width, what takes a trap in slot M -/

/-- FloatResult: a context that rounds stochastically, and one that does not. -/
def wSr : State := wState (.tile 0) .a { wCtx with rmode := 4, lfsr := 5 }
theorem test_hyp_draws : (curCtx wSr).rmode = 4 ∧ (curCtx wA).rmode ≠ 4 := by decide

/-- SlotFrame: CSRWR where it completes; a CSR of the world, and one of the context. -/
theorem test_hyp_csr_frame : ∃ t : State, wA.cur = some wIA ∧ exec (.csrwr ⟨0, 0x025, 5, true⟩) wA = .next t ∧
    ((0x025 : Nat) < 0x030 ∨ 0x033 < 0x025) ∧ (0x030 ≤ 0x031 ∧ 0x031 ≤ 0x033 ∧ 0x031 ≠ 0x030) ∧ (0x034 ≤ 0x037 ∧ 0x037 ≤ 0x037) :=
  ⟨_, rfl, rfl, by decide, by decide, by decide⟩

/-- StorePerforms: the store of a steward core, at reset. -/
theorem test_hyp_steward_store : Memory.wf (tabGet [] State.reset.stewMem 2) = true ∧ (3 : Nat) ≠ 2 := ⟨rfl, by decide⟩

/-- VectorPredicatesAndRouting: lane 0 to a scalar register, of a signed, an unsigned and a floating type. -/
theorem test_hyp_route_types : (vtypeOf 0).et ≤ 2 ∧ (vtypeOf 0).u = false ∧ (vtypeOf 8).et ≤ 2 ∧ (vtypeOf 8).u = true ∧
    3 ≤ (vtypeOf 3).et ∧ dstScalar 224 = true := by decide

/-- LaneArithmetic: 8-bit lanes with SHAMT at the whole width, past it and at 0. -/
theorem test_hyp_whole_width : ∃ t t1 : State, slotRuns 0 wIV (wV (8 * 2 ^ 16)) ∧ readsV2 0 true 1 false 2 (wV (8 * 2 ^ 16)) 7 9 t ∧
    (curVType (wV (8 * 2 ^ 16))).w ≤ (curVType (wV (8 * 2 ^ 16))).shamt ∧
    (curVType (wV (31 * 2 ^ 16))).w ≤ (curVType (wV (31 * 2 ^ 16))).shamt ∧
    readsV2 0 true 1 false 2 (wV 0) 7 9 t1 ∧ (curVType (wV 0)).shamt = 0 :=
  ⟨_, _, ⟨rfl, rfl⟩, ⟨rfl, _, ⟨rfl, rfl, rfl⟩, rfl⟩, by decide +kernel, by decide +kernel, ⟨rfl, _, ⟨rfl, rfl, rfl⟩, rfl⟩, by decide +kernel⟩

/-- MatrixResult, of traps: a word of slot M in a handler and in a call; what an urgent context does not hold; its MMPC. -/
def wMTrap (x : Ctx) : State := wState (.tile 0) .m x
def wMUrgent (v : Word) : State := wMTrap { wReg v with task := { wTask with urgent := true } }
theorem test_hyp_matrix_traps : ∃ t t1 t2 t3 : State,
    (slotRuns 0 wIM (wMTrap { wCtx with estatH := true }) ∧ (curCtx (wMTrap { wCtx with estatH := true })).estatH = true) ∧
    (let s := wMTrap { wCtx with call := some ⟨10, 5, 0, [], [], none⟩ }
     slotRuns 0 wIM s ∧ (curCtx s).estatH = false ∧ callBusy (curCtx s) wIM.t = true) ∧
    (slotRuns 0 wIM (wMUrgent 0) ∧ (curCtx (wMUrgent 0)).estatH = false ∧ callBusy (curCtx (wMUrgent 0)) wIM.t = false ∧
     readsTwo 5 true 6 false (wMUrgent 0) 0 8 t ∧ stepHeld (curCtx (wMUrgent 0)).task 0 = false ∧
     entryHeld (curCtx (wMUrgent 0)).task 0 = false ∧ bankHeld (curCtx (wMUrgent 0)).task 0 = false) ∧
    (source 5 true (wMUrgent 0xFFF) = .ok (0xFFF, t1) ∧ (0xFFF : Word).toNat / 2 ^ 12 % 16 = 0) ∧
    (source 5 true (wMUrgent 0x1000) = .ok (0x1000, t2) ∧ (0x1000 : Word).toNat / 2 ^ 12 % 16 ≠ 0) ∧
    (source 5 true (wMTrap wCtx) = .ok (64, t3) ∧ (curCtx (wMTrap wCtx)).task.urgent = false ∧ (curCtx (wMUrgent 0)).task.urgent = true) :=
  ⟨_, _, _, _, ⟨⟨rfl, rfl⟩, rfl⟩, ⟨⟨rfl, rfl⟩, rfl, rfl⟩, ⟨⟨rfl, rfl⟩, rfl, rfl, ⟨_, rfl, rfl⟩, rfl, rfl, rfl⟩,
    ⟨rfl, by decide⟩, ⟨rfl, by decide⟩, ⟨rfl, rfl, rfl⟩⟩

/-- MatrixResult, of MCALL's traps: MPC at the section's end; a reserved bit of the M-stream word and an undefined PSEL; an
entry that is not valid and one with a reserved bit; a recipe whose walk fails. -/
def wMWord (m : List Host.Cell) (e : BitVec 32) (st : Word) : State := { wState (.tile 0) .m { wCtx with
    image := { wCtx.image with kenc := 0, nonce := 0, msid := 1, mwords := 1 }, mstream := m } with
  cores := [(0, { Core.reset with steps := [(0, st)], table := [(0, e)] })] }
def wGoodWord : List Host.Cell := [(0, 72), (1, 22), (2, 239), (3, 227)]
theorem test_hyp_mcall_traps :
    (curCtx (setCtx wCall (.tile 0) { curCtx wCall with mpc := 1 })).image.mwords ≤ (curCtx (setCtx wCall (.tile 0) { curCtx wCall with mpc := 1 })).mpc ∧
    bf (mstreamWord (curCtx (wMWord [(0, 73), (1, 22), (2, 239), (3, 227)] 0 0))) 11 0 ≠ 0 ∧
    6 < bf (mstreamWord (curCtx (wMWord [(0, 72), (1, 102), (2, 239), (3, 227)] 0 0))) 15 12 ∧
    (bm (tabGet 0 (coreOf (wMWord wGoodWord 0 0) 0).table 0).toNat 31 = false) ∧
    (bf (tabGet 0 (coreOf (wMWord wGoodWord 0x80000800 0) 0).table 0).toNat 30 11 ≠ 0) ∧
    (match walkRecipe (wMWord wGoodWord 0x80000000 0) 0 wTask [] 0 (2 ^ 80) ⟨0, 0, 0, [], [], []⟩ with
      | .error c => c | .ok _ => 0) = 0x01 := by decide +kernel

/-- MatrixResult, of the walk: past the last step; a step outside the profile; a substitution out of range; an illegal field; a
range outside the operand file. -/
def wStepIs (w : Nat) : State := wMWord [] 0 (BitVec.ofNat 64 w)
theorem test_hyp_walk_traps : stepHeld { wTask with urgent := true } 2047 = true ∧ stepHeld { wTask with urgent := true } 0 = false ∧
    stepHeld wTask 0 = true ∧ fieldsOk 0 = false ∧
    substStep (2 ^ 60 + 4 * 2 ^ 41 + 4 * 2 ^ 38) [] = some (2 ^ 60 + 4 * 2 ^ 41 + 4 * 2 ^ 38) ∧
    fieldsOk (2 ^ 60 + 4 * 2 ^ 41 + 4 * 2 ^ 38) = true ∧ stKind (2 ^ 60 + 4 * 2 ^ 41 + 4 * 2 ^ 38) ≠ 6 ∧
    substStep (2 ^ 60 + 2 ^ 53 + 1 * 2 ^ 15) [2 ^ 14 - 1] = none ∧
    (let w := 2 ^ 60 + 4 * 2 ^ 41 + 4 * 2 ^ 38 + 0x3FFF * 2 ^ 15
     fieldsOk w = true ∧ rangesCause (wStepIs w) 0 wTask [] w 0 = 0x09) := by decide +kernel

/-- MatrixStepResult: in a cycle that reads a K-block which is kept and fits, is kept and does not fit, and is dropped; in a later
cycle of its step; in the first and the last cycle of a drain with Z and AMX; in ZERO's cycle; and with no call. -/
def wMac : Nat := 2 ^ 60 + 4 * 2 ^ 41 + 4 * 2 ^ 38
def wStepping (w o nb : Nat) (ta tb : Bool) : State := { setCtx State.reset (.tile 0) { wCtx with
    clk := 10 + o, call := some ⟨10, 64, 0x10000, [], [⟨0, w, 0, 0, nb⟩], none⟩ } with
  cores := [(0, { Core.reset with
    atags := if ta then (List.range 96).map (fun i => (i, 0x1000)) else [], btags := if tb then (List.range 256).map (fun i => (i, 0x1000)) else [] })] }
def wTags (m : Tab (BitVec 14)) (n : Nat) : Bool := (List.range n).all (fun i =>
  (tabGet 0 m i).toNat / 2 ^ 10 == 4 && (tabGet 0 m i).toNat / 2 ^ 8 % 4 == 0)
theorem test_hyp_matrix_step :
    (let s := wStepping wMac 0 0 true true
     let x := ctxOf s (.tile 0)
     x.frozen = false ∧ callBusy x x.clk = true ∧ x.call = some ⟨10, 64, 0x10000, [], [⟨0, wMac, 0, 0, 0⟩], none⟩ ∧
     itemAt [⟨0, wMac, 0, 0, 0⟩] (x.clk - 10) = some ⟨0, wMac, 0, 0, 0⟩ ∧ stIsMac wMac = true ∧ stFa wMac = 4 ∧ stFb wMac = 4 ∧
     blockA 4 / 16 = 96 ∧ blockB 4 / 16 = 256 ∧ stepC wMac = 16 ∧ 0x10000 / 2 ^ (16 + 0 % 16) % 2 = 1 ∧
     wTags (coreOf s 0).atags 96 = true ∧ wTags (coreOf s 0).btags 256 = true ∧ ((coreOf s 0).accs.map (·.1)).Pairwise (· < ·)) ∧
    (wTags (coreOf (wStepping wMac 0 0 false true) 0).atags 96 = false ∧ wTags (coreOf (wStepping wMac 0 0 true false) 0).btags 256 = false) ∧
    (0x10000 / 2 ^ (16 + 1 % 16) % 2 = 0 ∧ 1 % stepC wMac ≠ 0 ∧ itemAt [⟨0, wMac, 0, 0, 1⟩] 15 = some ⟨0, wMac, 0, 0, 1⟩) ∧
    (stKind (3 * 2 ^ 60) = 3 ∧ stIsDrain (3 * 2 ^ 60) = false ∧ stepCycles (3 * 2 ^ 60) = 1) ∧
    (let w := 4 * 2 ^ 60 + 2 ^ 42 + 2 ^ 40
     stIsDrain w = true ∧ stZ w = true ∧ stAmx w = 1 ∧ stepCycles w = 48 ∧ itemAt [⟨0, w, 0, 0, 0⟩] 47 = some ⟨0, w, 0, 0, 0⟩ ∧
     itemAt [⟨0, w, 0, 0, 0⟩] 0 = some ⟨0, w, 0, 0, 0⟩) ∧
    (stIsDrain (5 * 2 ^ 60) = true ∧ stZ (5 * 2 ^ 60) = false ∧ stAmx (5 * 2 ^ 60) = 0 ∧ stepCycles (5 * 2 ^ 60) = 64) ∧
    callBusy (ctxOf wA (.tile 0)) 10 = false := by decide +kernel

/-! ## Witnesses: lines, walks, and what waits for a walk -/

/-- World 1, with the line of table entries at 0x1000000000, as it stands encrypted in HBM: entry 0 names the same table as the
next, entry 1 is a leaf of 2^30 bytes in HBM, entries 2 to 4 are leaves of a host, of a peer and of no target, entry 5 has a
reserved bit, and entry 6 is 0. So page k * 16384 + 2 is reached by entries 0 and k. -/
def wMap : State := { State.reset with
  worlds := [(1, { World.reset with troot := 0x1000000000, slubBase := 0x40020000, saveBase := 0x40020000 })]
  cleared := [(38347922, 1, false)]
  hbm := memWrite [] 0x1000000000 (leBytes 64
    0x197d7279aecd6b0de5eeca98af31717c5c99a04ae85bc9226cc677042cbeec28f16e050e5d0989fb48d0d85952b2b313a8e7eca74eed8b166919237e932b809f)
  rows := [(38347922, { RowMeta.reset with macs := [(8, 0x684FFA004696A8A3)] })] }

/-- HbmLinesAndWalk, of lines: a row that is not cleared, and one that is. -/
def wLine : State := setCleared State.reset 5 false
theorem test_hyp_lines : Memory.wf wLine.hbm = true ∧ (List.replicate 64 (7 : Byte)).length = 64 ∧ isCleared wLine 5 = false ∧
    wLine.eccMeta.elem 5 = false ∧ nodeFails wLine (5 / 64) = false ∧ (metaOf wLine ⟨5, 5⟩).tag = 0 ∧ (metaOf wLine ⟨5, 5⟩).top = false ∧
    isCleared State.reset 5 = true ∧ (6 : Nat) ≠ 5 := by decide +kernel

/-- HbmLinesAndWalk, of the walk: a root that is none; a leaf whose frame is the world's, is a peer's without a job, and is of no
target; and a walk that faults. -/
def wLeaf (k : Nat) : Option Nat := match (walkFrom 1 (k * 2 ^ 30 + 0x20008) 4 0x1000000000 wMap).1 with
  | .ok e => some (e.frame * 65536)
  | .error _ => none
theorem test_hyp_walk : (worldOf State.reset 2).troot = 0 ∧ (let root := (worldOf wMap 1).troot
     root ≠ 0 ∧ root % 2 ^ 20 = 0 ∧ root < 2 ^ 56) ∧ wLeaf 1 = some 0x1040020000 ∧ pageOwner wMap (0x1040020000 / 65536) = 1 ∧
    (walkFrom 1 0 4 0x6FFFFF0000 wMap).1.toBool = false := by decide +kernel
theorem test_hyp_walk_targets : (wLeaf 3).map (· / 2 ^ 52 % 16) = some 2 ∧ (worldOf wMap 1).job = none ∧
    (wLeaf 4).map (· / 2 ^ 52 % 16) = some 3 := by decide +kernel

/-- HbmLinesAndWalk, of a level: a table that is the world's and one that is not; a die that is cut off; an entry that cannot be
read; the next table, a leaf, a leaf with a reserved bit, and an entry that is 0. -/
theorem test_hyp_walk_level :
    (0x1000000000 / 2 ^ 52 % 16 = 0 ∧ 0x1000000000 < 0x7000000000 ∧ pageOwner wMap (0x1000000000 / 65536) = 1) ∧
    pageOwner wMap (0x6FFFFF0000 / 65536) ≠ 1 ∧ svcCheck wMap 1 0x1000000000 = 0 ∧
    svcCheck { wMap with cutDies := [0, 1, 2, 3] } 1 0x1000000000 = 0x0C ∧
    (svcRead { wMap with eccLines := [0x1000000000 / 64] } 0x1000000000 8).2 = true ∧
    (let d := svcRead wMap 0x1000000000 64
     d.2 = false ∧ leNat (d.1.take 8) = 0x1000000001 ∧ leNat ((d.1.drop 8).take 8) = 0x1040000007 ∧
     leNat ((d.1.drop 40).take 8) = 0x104000000F ∧ leNat ((d.1.drop 48).take 8) = 0) := by decide +kernel

/-- HbmLinesAndWalk, of translation: an address past the range; a page that is held; one whose walk ends; one whose walk faults. -/
theorem test_hyp_translate : (2 ^ 56 ≤ 2 ^ 56 ∧ 0x40020008 < 2 ^ 56) ∧ (transLookup (wMon 1) 4 1 0x20008).isSome = true ∧
    transLookup wMap 4 1 0x40020008 = none ∧ (walk (countDie 4 0x10 1 wMap) 1 0x40020008).1.toBool = true ∧
    (walk (countDie 4 0x10 1 State.reset) 1 0).1.toBool = false ∧
    (wMap.trans.filter (fun p => p.1 / 2 ^ 46 = 4)).length < 65536 := by decide +kernel

/-- ChannelAndRecordEvents, TaskAndSchedulingEvents, ManagerRequests: a slub record, a fill, a restoration and a CONTROL_START whose
page has to be walked first, and ones that need no walk. -/
def wMapped (s : State) (l : List Machine.Launch) (v : List Saved) : State := { wMap with
  ctxs := s.ctxs, worlds := [(1, { worldOf wMap 1 with launches := l, saved := v })] }
theorem test_hyp_walks_slub : walksFirst (slubDie 0) wMap (writeVirt wMap (slubDie 0) 1 0x40020000 (leBytes 8 1)).2 = true ∧
    walksFirst (slubDie 0) (wSlub 0x20000) (writeVirt (wSlub 0x20000) (slubDie 0) 1 0x20000 (leBytes 8 1)).2 = false := by decide +kernel
def wFilled : Machine.Launch := { wLaunched 7 with sections := [⟨1, 7, 0x40000000, 256, 0, 0⟩] }
def wSaved : Saved := ⟨0, 1, 5, { wCtx with task := { wTask with launch := 1 } }, Core.reset⟩
theorem test_hyp_walks_fill :
    (let s := wMapped (wPlaced 7 []) [wFilled] []
     walksFirst 0 s (fillTask (.tile 0) wFilled (modCtx s (.tile 0) (fun x => { x with fillUntil := none }))).2 = true) ∧
    walksFirst 0 (wPlaced 0 []) (fillTask (.tile 0) (wLaunched 0) (modCtx (wPlaced 0 []) (.tile 0) (fun x => { x with fillUntil := none }))).2 = false ∧
    walksFirst 0 (wPlaced 7 []) (fillTask (.tile 0) (wLaunched 7) (modCtx (wPlaced 7 []) (.tile 0) (fun x => { x with fillUntil := none }))).2 = false := by
  decide +kernel
theorem test_hyp_walks_restore :
    (let s := wMapped (wPlaced 0 []) [wLaunched 0] [wSaved]
     savedFor (modCtx s (.tile 0) (fun x => { x with fillUntil := none })) (.tile 0) = some wSaved ∧ logFull s = false ∧
     walksFirst 0 s (restoreTask (.tile 0) wSaved (modCtx s (.tile 0) (fun x => { x with fillUntil := none }))) = true) ∧
    (let s := wPlaced 0 [wSaved]
     savedFor (modCtx s (.tile 0) (fun x => { x with fillUntil := none })) (.tile 0) = some wSaved ∧
     walksFirst 0 s (restoreTask (.tile 0) wSaved (modCtx s (.tile 0) (fun x => { x with fillUntil := none }))) = false) ∧
    logFull { wPlaced 0 [wSaved] with log := { LogRegs.reset with held := List.replicate 4096 ⟨0, 0, 1, 1, 0, 0⟩ } } = true := by
  decide +kernel
def wWalkReady : State := { wReady with
  pageWorld := [(0xFFFFC, 0x8000, 2)], cleared := wMap.cleared, hbm := wMap.hbm, rows := wMap.rows
  worlds := [(1, World.reset), (2, { worldOf wMap 1 with policy := 7 })] }
theorem test_hyp_walks_control : startCheck wWalkReady ⟨1, true, some 1⟩ 1 = 0 ∧ holds wWalkReady (.steward 2) = false ∧
    walksFirst 4 wWalkReady (readTask wWalkReady 4 2 0x40020000 1).2 = true ∧
    (match (readTask wWalkReady 4 2 0x40020000 1).1 with | .ok none => true | _ => false) = true ∧
    walksFirst 4 wReady (readTask wReady 4 2 0x40020000 1).2 = false := by decide +kernel

/-- WaitsAndQueuedEffects, of a walk: one whose end has come, and one whose end is to come. -/
def wWalking (z : Nat) : State := { wMap with misses := [⟨4, 1, 16386⟩], walks := [(⟨4, 1, 16386⟩, z)], gcyc := 9 }
theorem test_hyp_walk_ends : walking (wWalking 9) ⟨4, 1, 16386⟩ = true ∧ walkEnd ⟨4, 1, 16386⟩ (wWalking 9) = (9, wWalking 9) ∧
    walkEnd ⟨4, 1, 16386⟩ (wWalking 12) = (12, wWalking 12) ∧ (wWalking 12).gcyc < 12 ∧ 9 ≤ (wWalking 9).gcyc ∧
    walking (wWalking 9) ⟨4, 1, 1⟩ = false :=
  ⟨by decide +kernel, rfl, rfl, by decide, by decide, by decide +kernel⟩

/-! ## Witnesses: beats of yarns -/

/-- YarnBeatResult: a yarn of yarn register 3 whose beat is due, to its own core or over the network, and one that is not due. -/
def wYarnOf (sk dk : Nat) : OpenYarn := ⟨3, .tile 0, BitVec.ofNat 256 (sk * 2 ^ 252 + dk * 2 ^ 248 + 2 * 2 ^ 200), 0, 0, 10, 0, 2⟩
def wOpens (o : OpenYarn) : State := { wState (.tile 0) .y { wCtx with task := { wTask with spill := 4096 } } with
  cores := [(0, { Core.reset with open_ := [o] })] }
theorem test_hyp_yarn_read :
    ((coreOf (wOpens (wYarnOf 1 3)) 0).open_.filter (fun o => yarnRuns (wOpens (wYarnOf 1 3)) o.ag o.y && decide (o.next ≤ o.last) &&
       decide (o.t + yqStart o.desc + o.next * yqPeriod o.desc = (ctxOf (wOpens (wYarnOf 1 3)) o.ag).clk))).length = 1 ∧
    (coreOf (wOpens (wYarnOf 1 3)) 0).beats = [] ∧ isNetYarn (wYarnOf 1 3).desc = false ∧ yqGeom (wYarnOf 1 3).desc = 0 ∧
    isNetYarn (BitVec.ofNat 256 (2 * 2 ^ 252 + 3 * 2 ^ 248)) = true ∧
    yqGeom (BitVec.ofNat 256 (2 ^ 252 + 5 * 2 ^ 248 + 2 ^ 236 + 4 * 2 ^ 232)) = 1 ∧ yqDk (wYarnOf 1 6).desc = 6 := by decide +kernel

/-- YarnBeatResult, of an arrival: a beat for each kind of destination that is written, in the cycle before its delivery; an
instruction half that is idle and one that is not. -/
def wBeat (dk z at_ : Nat) : Beat := { readBeat (wOpens (wYarnOf 1 dk)) { wYarnOf 1 dk with z := z } 0 with deliver := at_ }
def wArrives (b : Beat) (ph : Nat) : State := { wOpens (wYarnOf 1 3) with phase := ph, cores := [(0, { Core.reset with beats := [b] })] }
theorem test_hyp_yarn_write : ∀ dk ∈ [1, 3, 5, 6, 7], storeBeats (wArrives (wBeat dk 0x100000 11) 5) 0 = [(0, wBeat dk 0x100000 11)] ∧
    nearWait (wArrives (wBeat dk 0x100000 11) 5) 0 (wBeat dk 0x100000 11) = false ∧ yqDk (wBeat dk 0x100000 11).desc = dk ∧
    (∀ i ∈ clusterCores 0, ∀ q ∈ (coreOf (wArrives (wBeat dk 0x100000 11) 5) i).beats, q.granted = []) ∧
    (wArrives (wBeat dk 0x100000 11) 5).phase ≠ 0 ∧ (wArrives (wBeat dk 0x100000 11) 5).phase ≠ 8 := by decide +kernel
theorem test_hyp_yarn_half : (let s := wArrives (wBeat 7 0x100000 11) 5
      idleHalf (ctxOf s (.tile 0)) = halfOf (wBeat 7 0x100000 11).dstAddr ∧ idleHalf (ctxOf s (.tile 0)) ≠ halfOf (wBeat 7 0 11).dstAddr) := by
  decide +kernel
/-- YarnBeatResult, of a queue: one with room and one that is full. -/
def wQueueFull : State := { wArrives (wBeat 4 0 10) 0 with
  cores := [(0, setVq { Core.reset with beats := [wBeat 4 0 10] } .v0a 0 ⟨0, 0, 0, 0, 0, 4, 0⟩)] }
theorem test_hyp_yarn_queue : ∃ (c : Nat) (r : Machine.Ring Vec) (e : Nat),
    arriving (wArrives (wBeat 4 0 10) 0) 0 (fun b t => yqDk b.desc == 4 && b.deliver == t) = [(0, wBeat 4 0 10)] ∧
    ringDest (vqOf (coreOf (wArrives (wBeat 4 0 10) 0) 0) (routeFile 0) (routeQueue 0)) (routePush 0) = .ok (c, r) ∧
    arriving wQueueFull 0 (fun b t => yqDk b.desc == 4 && b.deliver == t) = [(0, wBeat 4 0 10)] ∧
    ringDest (vqOf (coreOf wQueueFull 0) (routeFile 16) (routeQueue 16)) (routePush 16) = .error e :=
  ⟨_, _, 0x02, by decide +kernel, rfl, by decide +kernel, by decide +kernel⟩

/-! ## Witnesses: waits, domains, saves, versions, and the rest of this list -/

/-- TimelineAndMonitorResult: a page of a host, and the condition of any write. -/
theorem test_hyp_monitor_rest : (let s := { wMon 1 with trans := [(transKey (dieOf (.steward 2)) 1 0x20008, ⟨2 ^ 36, true⟩)] }
      transLookup s 4 1 0x20008 ≠ none ∧ translate s 4 1 0x20008 false = (.ok (2 ^ 52 + 8), s) ∧ targetOf (2 ^ 52 + 8) ≠ 0) ∧
    noteSoft (wMon 1) 0x1000000008 = wMon 1 :=
  ⟨⟨by decide +kernel, rfl, by decide⟩, rfl⟩

/-- TaskAndSchedulingEvents: an urgent task whose drain waits for the log, with room in it and with none; a unit whose
operations on its own store have not ended, and a log without room for a save. -/
def wForced (n : Nat) : State := { setCtx State.reset (.urgent 0) { wCtx with saveDue := 2, task := { wTask with urgent := true } } with
  log := { LogRegs.reset with held := List.replicate n ⟨0, 0, 1, 1, 0, 0⟩ } }
theorem test_hyp_forced : (ctxOf (wForced 0) (.urgent 0)).saveDue ≠ 0 ∧ agUrgent (.urgent 0) = true ∧ logFull (wForced 0) = false ∧
    logFull (wForced 4096) = true ∧ logSpace (wForced 4096) 1 = false ∧ logSpace (wForced 4095) 1 = true ∧
    (let s := modCtx (wEng 0 (wOp .scrub false false)) (.tile 0) (fun x => { x with saveDue := 3 })
     3 ≤ (ctxOf s (.tile 0)).saveDue ∧ (unitOf s (.tile 0)).all (localOpsDone s) = false) := by decide +kernel

/-- WaitsAndQueuedEffects: a monitor that has observed a write, and one that has not; a wait that no other step ends. -/
def wSeen (h : Option Nat) (c : Nat) (seen : Bool) : State := { wWait (.steward 2) (.monitor 0x1000000008 c 0 1 0 0 seen 4) with
  monitors := [⟨4, 1, 0x40000000, .steward 2, h⟩] }
theorem test_hyp_monitor_hit : monitorHit (wSeen none 0 false) (.steward 2) = none ∧ monitorHit (wSeen (some 7) 0 false) (.steward 2) = some 7 ∧
    readWatch (clearHit (.steward 2) (noteSoft (wSeen (some 7) 0 true) 0x1000000008)) 1 0x1000000008 = .ok 0 ∧ condHolds 0 0 0 = true ∧
    condHolds 1 0 0 = false ∧ (4 : Nat) = 4 ∧
    (ctxOf (wSeen (some 7) 4 true) (.steward 2)).wait.any (fun w => match w.what with | .timeline _ _ _ _ => true | _ => false) = false ∧
    (ctxOf (wWait (.channel 3) (.dwait 0 1)) (.channel 3)).wait.any (fun w => w.what == .precharge) = false := by decide +kernel

/-- WaitsAndQueuedEffects: two arrivals of a domain due together, a drop among them; a phase that they complete and one that they
do not; the last parties' drops with arrivals still to land. -/
def wDue (expect : Nat) : State := { wBusy with doms := [⟨⟨1, 0, 0, false⟩, 1, expect, 0, 0, [],
  [⟨0, [], 3, .tile 0, false, false⟩, ⟨0, [], 3, .tile 1, true, false⟩, ⟨9, [], 3, .tile 2, false, false⟩], [], false⟩] }
theorem test_hyp_landings : ∃ d d1 : Dom, domOf (wDue 4) ⟨1, 0, 0, false⟩ = some d ∧ domLeader (wDue 4) ⟨1, 0, 0, false⟩ = none ∧
    (d.due.filter (landReady (wDue 4))).length = 2 ∧ (∀ q ∈ d.due, q.withdraw = false) ∧ (d.arrived + 1) % 2 ^ 32 < d.expect - 1 ∧
    domOf (wDue 2) ⟨1, 0, 0, false⟩ = some d1 ∧ d1.expect - 1 ≤ (d1.arrived + 1) % 2 ^ 32 ∧ d1.expect ≠ 1 ∧ 1 ≤ d1.expect :=
  ⟨_, _, rfl, rfl, by decide +kernel, by decide, by decide, rfl, by decide, by decide, by decide⟩

/-- ChannelAndRecordEvents: an egress interval that ends and one that goes on, a count that is 0 and one that is not, with room in
the log and with none; counts that wait. -/
def wEgress (g n : Nat) (e d : List Egress) : State := { State.reset with
  gcyc := g, bringUp := none, egress := e, egressDone := d, log := { LogRegs.reset with held := List.replicate n ⟨0, 0, 1, 1, 0, 0⟩ } }
theorem test_hyp_egress : isInterval (wEgress 4000000 0 [⟨1, 0, 33, 0, 0⟩] []) = true ∧
    (∀ e ∈ (wEgress 4000000 0 [⟨1, 0, 33, 0, 0⟩] []).egress, e.bytes = 0 ∧ e.stalled = 0) ∧
    (wEgress 4000000 0 [⟨1, 0, 33, 64, 0⟩] []).egress = [⟨1, 0, 33, 64, 0⟩] ∧ (64 ≠ 0 ∨ 0 ≠ 0) ∧
    logFull (wEgress 4000000 0 [⟨1, 0, 33, 64, 0⟩] []) = false ∧ logFull (wEgress 4000000 4096 [] []) = true ∧
    isInterval (wEgress 4000001 4096 [] [⟨1, 0, 33, 64, 0⟩]) = false ∧ (wEgress 4000001 0 [] [⟨1, 0, 33, 64, 0⟩]).egressDone = [⟨1, 0, 33, 64, 0⟩] := by
  decide +kernel

/-- SpdmRequests, ManagerRequests, InterfaceRequests: a message of version 1.3 and one of another; an interface in ERROR. -/
theorem test_hyp_versions : wReady.mailVersion = 0x13 ∧ ({ wReady with mailVersion := 0x12 } : State).mailVersion ≠ 0x13 ∧
    (⟨0x12, 0, 0, 0⟩ : ChallengeReq).version ≠ 0x13 ∧ (funcOf (wTdi .error) 1).tdi = .error ∧ (funcOf (wTdi .unlocked) 1).tdi ≠ .error := by decide

/-- FabricMessages: a RED with M = 1; ARRIVE with a count, and with one that takes back more than the member has sent. -/
theorem test_hyp_fabric_rest : bm (8 : Nat) 3 = true ∧
    (let m := wMsg 3 8 6 1 1 windowBase []
     dropStatus (wFab 5 0 []) m 3 = none ∧ bm (wOpenMsg (wFab 5 0 []) m).op 3 = true) ∧
    (let m := wMsg 4 1 0x800C 1 1 (2 * 2 ^ 48) []
     dropStatus (wFab 5 1 []) m 4 = none ∧ redAddrOk (wOpenMsg (wFab 5 1 []) m) = false) ∧
    (let m := wMsg 6 0 6 0 1 (2 ^ 32 - 3) []
     dropStatus (wFab 5 0 []) m 6 = none ∧ ¬ m.addr % 2 ^ 32 < 2 ^ 31 ∧ (3 : Nat) < 2 ^ 31) := by decide +kernel

/-- ManagementRequests: a staged image with and without admitted switches; a locked interface; a group on a die that is cut off. -/
theorem test_hyp_activate : (let s : State := { wReady with staged := some (64, 0), funcs := [] }
      s.staged = some (64, 0) ∧ enabledVfs s = [] ∧ openSwitches s = [] ∧ s.admissions = []) ∧
    (let s : State := { wReady with staged := some (64, 0) }
     1 ∈ enabledVfs s ∧ tdiLocked s 1 = true) ∧
    groupCut { wReady with cutDies := [0, 1, 2, 3] } 0xFFFFC = true ∧ groupCut wReady 0xFFFFC = false := by decide

/-- NothingStopsButPowerOff: a package that is off, with an input that it does not take and one that it takes. -/
theorem test_hyp_off : (let s : State := { State.reset with poweredOff := true, inputs := [(0, .logSign)] }
      s.poweredOff = true ∧ s.agenda = [] ∧ (∀ p ∈ s.inputs, takeable s p.2 = false)) ∧
    takeable { State.reset with poweredOff := true } .deviceReset = true := by decide

/-! ## Behaviour: corners of the tables, the expected values taken from the manual -/

/-- The word that the instruction puts in flight, with s5 = x and s6 = y. -/
def lands (i : Instr) (x y : Word) : Option Word :=
  match exec i (wState (.tile 0) .a { wCtx with sregs := [(5, ⟨x, 0, 0, 0, 0, 1, 0⟩), (6, ⟨y, 0, 0, 0, 0, 1, 0⟩)] }) with
  | .next t => (curCtx t).pend.getLast?.bind (fun p => match p.act with
    | .sreg _ _ v => some v
    | .pair _ b => some (if b then 1 else 0)
    | _ => none)
  | _ => none
def rr : RR := ⟨0, 7, true, 5, true, 6, false⟩

/-- R143. -/
theorem test_add_wraps : lands (.add rr) (BitVec.allOnes 64) 2 = some 1 := by decide +kernel
/-- R143: the shift count is b[5:0]. -/
theorem test_shl_count : lands (.shl rr) 1 65 = some 2 := by decide +kernel
theorem test_sra_sign : lands (.sra rr) (2 ^ 63) 63 = some (BitVec.allOnes 64) := by decide +kernel
theorem test_sub_order : lands (.sub rr) 7 9 = some (-2) := by decide +kernel
/-- R145: the corners of division. -/
theorem test_div_zero : lands (.div rr) 7 0 = some (BitVec.allOnes 64) := by decide +kernel
theorem test_divs_overflow : lands (.divs rr) (2 ^ 63) (-1) = some (2 ^ 63) := by decide +kernel
theorem test_rems_sign : lands (.rems rr) (-7) 2 = some (-1) := by decide +kernel
theorem test_mulhs : lands (.mulhs rr) (-1) 2 = some (-1) := by decide +kernel
/-- R146. -/
theorem test_clz_zero : lands (.clz ⟨0, 7, true, 5, true⟩) 0 0 = some 64 := by decide +kernel
theorem test_ctz : lands (.ctz ⟨0, 7, true, 5, true⟩) 8 0 = some 3 := by decide +kernel
/-- R147: the immediate is signed. -/
theorem test_addi_sign : lands (.addi ⟨0, 7, true, 5, true, 0x3FF⟩) 5 0 = some 4 := by decide +kernel
/-- R144. -/
theorem test_adds : lands (.adds ⟨0, 7, true, 5, true, 6, false, 15⟩) 1 2 = some 65537 := by decide +kernel
/-- R149: the signed and the unsigned comparison differ. -/
theorem test_cmp_signed : lands (.cmp ⟨0, 2, 1, 5, true, 6, false⟩) (-1) 0 = some 1 := by decide +kernel
theorem test_cmp_unsigned : lands (.cmp ⟨0, 4, 1, 5, true, 6, false⟩) (-1) 0 = some 0 := by decide +kernel
/-- R154: 1.0 + 1.0 is 2.0, and 1.0 + 2^-30 rounds to 1.0. -/
theorem test_fadd : lands (.fadd rr) 0x3F800000 0x3F800000 = some 0x40000000 := by decide +kernel
theorem test_fadd_rounds : lands (.fadd rr) 0x3F800000 0x30800000 = some 0x3F800000 := by decide +kernel
/-- R155: infinity less infinity is the canonical NaN. -/
theorem test_fsub_nan : lands (.fsub rr) 0x7F800000 0x7F800000 = some 0x7FC00000 := by decide +kernel
/-- R157: NaN compares not equal. -/
theorem test_fcmp_nan : lands (.fcmp ⟨0, 1, 1, 5, true, 6, false⟩) 0x7FC00000 0 = some 1 := by decide +kernel
/-- R129, R128: reading an empty queue traps 0x03, and undoes the pop before it. -/
theorem test_empty_traps : (match exec (.add ⟨0, 7, true, 5, true, 9, false⟩) wA with
    | .next t => some ((curCtx t).faultCause, (sregOf (curCtx t) 5).len)
    | _ => none) = some (3, 2) := by decide +kernel
/-- FIPS 180-4 (R435): the digest of "abc". -/
theorem test_sha256 : sha256 [0x61, 0x62, 0x63] = [0xBA, 0x78, 0x16, 0xBF, 0x8F, 0x01, 0xCF, 0xEA, 0x41, 0x41, 0x40, 0xDE, 0x5D, 0xAE, 0x22,
    0x23, 0xB0, 0x03, 0x61, 0xA3, 0x96, 0x17, 0x7A, 0x9C, 0xB4, 0x10, 0xFF, 0x61, 0xF2, 0x00, 0x15, 0xAD] := by decide +kernel
/-- FIPS 197 C.3 (R435): AES-256 of one block. -/
theorem test_aes256 : aesBlock (roundKeys (List.range 32)) ((List.range 16).map (fun i => 17 * i)) =
    [0x8E, 0xA2, 0xB7, 0xCA, 0x51, 0x67, 0x45, 0xBF, 0xEA, 0xFC, 0x49, 0x90, 0x4B, 0x49, 0x60, 0x89] := by decide +kernel

end Sys2Proof.Tests
end

/-!
PROOFS. The statements of the scope: a store that performs (O19), a word whose guard is false (O36), and that every row answers a
next state (O60).
-/

namespace Sys2Proof.Proofs
open Sys2Proof Sys2Proof.Machine Sys2Proof.Laws

/-! ## A run of bytes that is stored (spec/01_a_job_on_qualas.md R2) -/

theorem memGet_memPuts_cellsAt {m : Mem} (h : Memory.wf m = true) {p i : Nat} {l : List Byte} (hi : i < l.length) :
    memGet (memPuts m (cellsAt p l)) (p + i) = l.getD i 0 := by
  induction l generalizing m p i with
  | nil => simp at hi
  | cons b bs ih =>
    change memGet (memPuts (memSet m p b) (cellsAt (p + 1) bs)) (p + i) = _
    have hw := memSet_wf p b h
    cases i with
    | zero =>
      have hrest : ∀ c ∈ cellsAt (p + 1) bs, c.1 ≠ p := fun c hc => by have := (mem_cellsAt.1 hc).1; omega
      exact (memGet_memPuts_other _ p hw hrest).trans (memGet_memSet_same p b h)
    | succ j =>
      rw [List.getD_cons_succ, ← ih hw (by simpa using hi)]
      congr 1
      omega

/-- The memory `m'` is `m` with the bytes `l` stored from address `p` on: the canonical form is kept, each byte of the run
reads as stored, and every other as before. -/
def StoresRun (p : Nat) (l : List Byte) (m m' : Mem) : Prop :=
  Memory.wf m' = true ∧ (∀ i : Nat, i < l.length → memGet m' (p + i) = l.getD i 0) ∧
    ∀ b : Nat, b < p ∨ p + l.length ≤ b → memGet m' b = memGet m b

theorem memPuts_cellsAt_storesRun {m : Mem} (h : Memory.wf m = true) (p : Nat) (l : List Byte) :
    StoresRun p l m (memPuts m (cellsAt p l)) :=
  ⟨memPuts_wf _ h, fun _ => memGet_memPuts_cellsAt h, fun b hb =>
    memGet_memPuts_other _ b h fun c hc => by have := mem_cellsAt.1 hc; omega⟩

/-! ## Where a store performs (R75, R76, R196) -/

theorem performStore_spool_tile {a : Agent} (ha : agTile a = true) (l : List Host.Cell) (s : State) :
    (coreOf (performStore a .spool l s) (agIdx a)).spool = memPuts (coreOf s (agIdx a)).spool l := by
  cases a with
  | tile c | urgent c =>
    cases l with
    | nil => rfl
    | cons x xs => simp [performStore, markBlocks]
  | channel n | steward n => cases ha

theorem performStore_spill (a : Agent) (l : List Host.Cell) (s : State) :
    (coreOf (performStore a .spill l s) (agIdx a)).spill = memPuts (coreOf s (agIdx a)).spill l := by
  simp [performStore]

theorem performStore_steward (u : Nat) (l : List Host.Cell) (s : State) :
    performStore (.steward u) .spool l s = { s with stewMem := tabMod [] s.stewMem u (fun m => memPuts m l) } := rfl

/-- Settles O19: each of the three memories is written by `memPuts` of the cells, and that stores the run. -/
theorem storePerforms : Obligations.StorePerforms := by
  rintro a p n l s ha rfl
  refine ⟨fun h => ?_, fun h => ?_, fun u h => ?_⟩
  · rw [performStore_spool_tile ha]
    exact memPuts_cellsAt_storesRun h p l
  · rw [performStore_spill]
    exact memPuts_cellsAt_storesRun h p l
  · obtain ⟨hwf, hin, hout⟩ := memPuts_cellsAt_storesRun h p l
    simp only [performStore_steward, tabGet_tabMod_same]
    exact ⟨hwf, hin, hout, fun v hv => tabGet_tabMod_other _ _ _ _ _ hv, trivial, trivial⟩

/-! ## The guard field of a slot word (spec/02_program_image_and_encodings.md R21)

In the word of each layout the major opcode and every operand but the guard stay below bit 28; `x` is what the layout fixes in
the bits below its lowest operand. A mark is rewritten as a word of one bit, whose bound `omega` knows. -/

section guardField

variable {mj : Nat} (hm : mj < 64)
include hm

theorem encRR_guard {x : Nat} (hx : x < 16) {o : RR} (h : fitsRR o = true) : bf (encRR mj x o) 31 28 = o.g := by
  simp only [fitsRR, Bool.and_eq_true, decide_eq_true_eq] at h
  simp only [bf, encRR, ← BitVec.toNat_ofBool]
  omega

theorem encRU_guard {x : Nat} (hx : x < 1024) {o : RU} (h : fitsRU o = true) : bf (encRU mj x o) 31 28 = o.g := by
  simp only [fitsRU, Bool.and_eq_true, decide_eq_true_eq] at h
  simp only [bf, encRU, ← BitVec.toNat_ofBool]
  omega

theorem encRRP_guard {o : RRP} (h : fitsRRP o = true) : bf (encRRP mj 0 o) 31 28 = o.g := by
  simp only [fitsRRP, Bool.and_eq_true, decide_eq_true_eq] at h
  simp only [bf, encRRP, ← BitVec.toNat_ofBool]
  omega

theorem encRRK_guard {o : RRK} (h : fitsRRK o = true) : bf (encRRK mj 0 o) 31 28 = o.g := by
  simp only [fitsRRK, Bool.and_eq_true, decide_eq_true_eq] at h
  simp only [bf, encRRK, ← BitVec.toNat_ofBool]
  omega

theorem encCmpRR_guard {o : CmpRR} (h : fitsCmpRR o = true) : bf (encCmpRR mj 0 o) 31 28 = o.g := by
  simp only [fitsCmpRR, Bool.and_eq_true, decide_eq_true_eq] at h
  simp only [bf, encCmpRR, ← BitVec.toNat_ofBool]
  omega

theorem encCmpRI_guard {o : CmpRI} (h : fitsCmpRI o = true) : bf (encCmpRI mj 0 o) 31 28 = o.g := by
  simp only [fitsCmpRI, Bool.and_eq_true, decide_eq_true_eq] at h
  simp only [bf, encCmpRI, ← BitVec.toNat_ofBool]
  omega

theorem encRI_guard {o : RI} (h : fitsRI o = true) : bf (encRI mj 0 o) 31 28 = o.g := by
  simp only [fitsRI, Bool.and_eq_true, decide_eq_true_eq] at h
  simp only [bf, encRI, ← BitVec.toNat_ofBool]
  omega

theorem encRIB_guard {o : RI} (h : fitsRIB o = true) : bf (encRIB mj 0 o) 31 28 = o.g := by
  simp only [fitsRIB, Bool.and_eq_true, decide_eq_true_eq] at h
  simp only [bf, encRIB, ← BitVec.toNat_ofBool]
  omega

theorem encRL_guard {o : RL} (h : fitsRL o = true) : bf (encRL mj 0 o) 31 28 = o.g := by
  simp only [fitsRL, Bool.and_eq_true, decide_eq_true_eq] at h
  simp only [bf, encRL, ← BitVec.toNat_ofBool]
  omega

theorem encPLog_guard {x : Nat} (hx : x < 16) {o : PLog} (h : fitsPLog o = true) : bf (encPLog mj x o) 31 28 = o.g :=
    by
  simp only [fitsPLog, Bool.and_eq_true, decide_eq_true_eq] at h
  simp only [bf, encPLog]
  omega

theorem encPSet_guard {o : PSet} (h : fitsPSet o = true) : bf (encPSet mj 0 o) 31 28 = o.g := by
  simp only [fitsPSet, Bool.and_eq_true, decide_eq_true_eq] at h
  simp only [bf, encPSet, ← BitVec.toNat_ofBool]
  omega

theorem encRRF_guard {o : RRF} (h : fitsRRF o = true) : bf (encRRF mj 0 o) 31 28 = o.g := by
  simp only [fitsRRF, Bool.and_eq_true, decide_eq_true_eq] at h
  simp only [bf, encRRF, ← BitVec.toNat_ofBool]
  omega

theorem encRUF_guard {o : RUF} (h : fitsRUF o = true) : bf (encRUF mj 0 o) 31 28 = o.g := by
  simp only [fitsRUF, Bool.and_eq_true, decide_eq_true_eq] at h
  simp only [bf, encRUF, ← BitVec.toNat_ofBool]
  omega

theorem encQLen_guard {o : QLen} (h : fitsQLen o = true) : bf (encQLen mj 0 o) 31 28 = o.g := by
  simp only [fitsQLen, Bool.and_eq_true, decide_eq_true_eq] at h
  simp only [bf, encQLen, ← BitVec.toNat_ofBool]
  omega

theorem encQReg_guard {x : Nat} (hx : x < 2048) {o : QReg} (h : fitsQReg o = true) : bf (encQReg mj x o) 31 28 = o.g
    := by
  simp only [fitsQReg, Bool.and_eq_true, decide_eq_true_eq] at h
  simp only [bf, encQReg]
  omega

theorem encCsrRd_guard {o : CsrRd} (h : fitsCsrRd o = true) : bf (encCsrRd mj 0 o) 31 28 = o.g := by
  simp only [fitsCsrRd, Bool.and_eq_true, decide_eq_true_eq] at h
  simp only [bf, encCsrRd, ← BitVec.toNat_ofBool]
  omega

theorem encCsrWr_guard {o : CsrWr} (h : fitsCsrWr o = true) : bf (encCsrWr mj 0 o) 31 28 = o.g := by
  simp only [fitsCsrWr, Bool.and_eq_true, decide_eq_true_eq] at h
  simp only [bf, encCsrWr, ← BitVec.toNat_ofBool]
  omega

theorem encBr_guard {o : Br} (h : fitsBr o = true) : bf (encBr mj 0 o) 31 28 = o.g := by
  simp only [fitsBr, Bool.and_eq_true, decide_eq_true_eq] at h
  simp only [bf, encBr]
  omega

theorem encBrl_guard {o : Brl} (h : fitsBrl o = true) : bf (encBrl mj 0 o) 31 28 = o.g := by
  simp only [fitsBrl, Bool.and_eq_true, decide_eq_true_eq] at h
  simp only [bf, encBrl, ← BitVec.toNat_ofBool]
  omega

theorem encSA_guard {o : SA} (h : fitsSA o = true) : bf (encSA mj 0 o) 31 28 = o.g := by
  simp only [fitsSA, Bool.and_eq_true, decide_eq_true_eq] at h
  simp only [bf, encSA, ← BitVec.toNat_ofBool]
  omega

theorem encLoop_guard {o : Loop} (h : fitsLoop o = true) : bf (encLoop mj 0 o) 31 28 = o.g := by
  simp only [fitsLoop, Bool.and_eq_true, decide_eq_true_eq] at h
  simp only [bf, encLoop, ← BitVec.toNat_ofBool]
  omega

theorem encLoopI_guard {o : LoopI} (h : fitsLoopI o = true) : bf (encLoopI mj 0 o) 31 28 = o.g := by
  simp only [fitsLoopI, Bool.and_eq_true, decide_eq_true_eq] at h
  simp only [bf, encLoopI]
  omega

theorem encG_guard {x : Nat} (hx : x < 4194304) {o : G} (h : fitsG o = true) : bf (encG mj x o) 31 28 = o.g := by
  simp only [fitsG, decide_eq_true_eq] at h
  simp only [bf, encG]
  omega

theorem encBswap_guard {o : Bswap} (h : fitsBswap o = true) : bf (encBswap mj 0 o) 31 28 = o.g := by
  simp only [fitsBswap, Bool.and_eq_true, decide_eq_true_eq] at h
  simp only [bf, encBswap]
  omega

theorem encGB_guard {o : G} (h : fitsGB o = true) : bf (encGB mj 0 o) 31 28 = o.g := by
  simp only [fitsGB, decide_eq_true_eq] at h
  simp only [bf, encGB]
  omega

theorem encIVer_guard {o : IVer} (h : fitsIVer o = true) : bf (encIVer mj 0 o) 31 28 = o.g := by
  simp only [fitsIVer, Bool.and_eq_true, decide_eq_true_eq] at h
  simp only [bf, encIVer, ← BitVec.toNat_ofBool]
  omega

theorem encCode_guard {o : Code} (h : fitsCode o = true) : bf (encCode mj 0 o) 31 28 = o.g := by
  simp only [fitsCode, Bool.and_eq_true, decide_eq_true_eq] at h
  simp only [bf, encCode]
  omega

theorem encVLd_guard {o : VLd} (h : fitsVLd o = true) : bf (encVLd mj 0 o) 31 28 = o.g := by
  simp only [fitsVLd, Bool.and_eq_true, decide_eq_true_eq] at h
  simp only [bf, encVLd, ← BitVec.toNat_ofBool]
  omega

theorem encVSt_guard {o : VSt} (h : fitsVSt o = true) : bf (encVSt mj 0 o) 31 28 = o.g := by
  simp only [fitsVSt, Bool.and_eq_true, decide_eq_true_eq] at h
  simp only [bf, encVSt, ← BitVec.toNat_ofBool]
  omega

theorem encVStM_guard {o : VStM} (h : fitsVStM o = true) : bf (encVStM mj 0 o) 31 28 = o.g := by
  simp only [fitsVStM, Bool.and_eq_true, decide_eq_true_eq] at h
  simp only [bf, encVStM, ← BitVec.toNat_ofBool]
  omega

theorem encVLdS_guard {o : VLdS} (h : fitsVLdS o = true) : bf (encVLdS mj 0 o) 31 28 = o.g := by
  simp only [fitsVLdS, Bool.and_eq_true, decide_eq_true_eq] at h
  simp only [bf, encVLdS]
  omega

theorem encVStS_guard {o : VStS} (h : fitsVStS o = true) : bf (encVStS mj 0 o) 31 28 = o.g := by
  simp only [fitsVStS, Bool.and_eq_true, decide_eq_true_eq] at h
  simp only [bf, encVStS, ← BitVec.toNat_ofBool]
  omega

theorem encLatom_guard {o : Latom} (h : fitsLatom o = true) : bf (encLatom mj 0 o) 31 28 = o.g := by
  simp only [fitsLatom, Bool.and_eq_true, decide_eq_true_eq] at h
  simp only [bf, encLatom, ← BitVec.toNat_ofBool]
  omega

theorem encSendT_guard {o : SendT} (h : fitsSendT o = true) : bf (encSendT mj 0 o) 31 28 = o.g := by
  simp only [fitsSendT, Bool.and_eq_true, decide_eq_true_eq] at h
  simp only [bf, encSendT, ← BitVec.toNat_ofBool]
  omega

theorem encRecvT_guard {o : RecvT} (h : fitsRecvT o = true) : bf (encRecvT mj 0 o) 31 28 = o.g := by
  simp only [fitsRecvT, Bool.and_eq_true, decide_eq_true_eq] at h
  simp only [bf, encRecvT]
  omega

theorem encVAB_guard {o : VAB} (h : fitsVAB o = true) : bf (encVAB mj 0 o) 31 28 = o.g := by
  simp only [fitsVAB, Bool.and_eq_true, decide_eq_true_eq] at h
  simp only [bf, encVAB, ← BitVec.toNat_ofBool]
  omega

theorem encVAccR_guard {o : VAccR} (h : fitsVAccR o = true) : bf (encVAccR mj 0 o) 31 28 = o.g := by
  simp only [fitsVAccR, Bool.and_eq_true, decide_eq_true_eq] at h
  simp only [bf, encVAccR, ← BitVec.toNat_ofBool]
  omega

theorem encVA_guard {o : VA} (h : fitsVA o = true) : bf (encVA mj 0 o) 31 28 = o.g := by
  simp only [fitsVA, Bool.and_eq_true, decide_eq_true_eq] at h
  simp only [bf, encVA, ← BitVec.toNat_ofBool]
  omega

theorem encVABI_guard {o : VABI} (h : fitsVABI o = true) : bf (encVABI mj 0 o) 31 28 = o.g := by
  simp only [fitsVABI, Bool.and_eq_true, decide_eq_true_eq] at h
  simp only [bf, encVABI, ← BitVec.toNat_ofBool]
  omega

theorem encVABC_guard {o : VABC} (h : fitsVABC o = true) : bf (encVABC mj 0 o) 31 28 = o.g := by
  simp only [fitsVABC, Bool.and_eq_true, decide_eq_true_eq] at h
  simp only [bf, encVABC, ← BitVec.toNat_ofBool]
  omega

theorem encVAR_guard {o : VAR} (h : fitsVAR o = true) : bf (encVAR mj 0 o) 31 28 = o.g := by
  simp only [fitsVAR, Bool.and_eq_true, decide_eq_true_eq] at h
  simp only [bf, encVAR, ← BitVec.toNat_ofBool]
  omega

theorem encVABUI_guard {o : VABUI} (h : fitsVABUI o = true) : bf (encVABUI mj 0 o) 31 28 = o.g := by
  simp only [fitsVABUI, Bool.and_eq_true, decide_eq_true_eq] at h
  simp only [bf, encVABUI, ← BitVec.toNat_ofBool]
  omega

theorem encVT_guard {o : VT} (h : fitsVT o = true) : bf (encVT mj 0 o) 31 28 = o.g := by
  simp only [fitsVT, Bool.and_eq_true, decide_eq_true_eq] at h
  simp only [bf, encVT]
  omega

theorem encVPLog_guard {o : VPLog} (h : fitsVPLog o = true) : bf (encVPLog mj 0 o) 31 28 = o.g := by
  simp only [fitsVPLog, Bool.and_eq_true, decide_eq_true_eq] at h
  simp only [bf, encVPLog, ← BitVec.toNat_ofBool]
  omega

theorem encVPSet_guard {o : VPSet} (h : fitsVPSet o = true) : bf (encVPSet mj 0 o) 31 28 = o.g := by
  simp only [fitsVPSet, Bool.and_eq_true, decide_eq_true_eq] at h
  simp only [bf, encVPSet, ← BitVec.toNat_ofBool]
  omega

theorem encVPCnt_guard {o : VPCnt} (h : fitsVPCnt o = true) : bf (encVPCnt mj 0 o) 31 28 = o.g := by
  simp only [fitsVPCnt, Bool.and_eq_true, decide_eq_true_eq] at h
  simp only [bf, encVPCnt]
  omega

theorem encMCall_guard {o : MCall} (h : fitsMCall o = true) : bf (encMCall mj 0 o) 31 28 = o.g := by
  simp only [fitsMCall, Bool.and_eq_true, decide_eq_true_eq] at h
  simp only [bf, encMCall]
  omega

theorem encMParm_guard {o : MParm} (h : fitsMParm o = true) : bf (encMParm mj 0 o) 31 28 = o.g := by
  simp only [fitsMParm, Bool.and_eq_true, decide_eq_true_eq] at h
  simp only [bf, encMParm, ← BitVec.toNat_ofBool]
  omega

theorem encMStep_guard {o : MStep} (h : fitsMStep o = true) : bf (encMStep mj 0 o) 31 28 = o.g := by
  simp only [fitsMStep, Bool.and_eq_true, decide_eq_true_eq] at h
  simp only [bf, encMStep, ← BitVec.toNat_ofBool]
  omega

theorem encMStepRd_guard {o : MStepRd} (h : fitsMStepRd o = true) : bf (encMStepRd mj 0 o) 31 28 = o.g := by
  simp only [fitsMStepRd, Bool.and_eq_true, decide_eq_true_eq] at h
  simp only [bf, encMStepRd, ← BitVec.toNat_ofBool]
  omega

theorem encMZero_guard {o : MZero} (h : fitsMZero o = true) : bf (encMZero mj 0 o) 31 28 = o.g := by
  simp only [fitsMZero, Bool.and_eq_true, decide_eq_true_eq] at h
  simp only [bf, encMZero]
  omega

theorem encGC_guard {x : Nat} (hx : x < 4194304) {o : G} (h : fitsGC o = true) : bf (encGC mj x o) 31 28 = o.g := by
  simp only [fitsGC, decide_eq_true_eq] at h
  simp only [bf, encGC]
  omega

theorem encYSet_guard {o : YSet} (h : fitsYSet o = true) : bf (encYSet mj 0 o) 31 28 = o.g := by
  simp only [fitsYSet, Bool.and_eq_true, decide_eq_true_eq] at h
  simp only [bf, encYSet, ← BitVec.toNat_ofBool]
  omega

theorem encYGet_guard {o : YGet} (h : fitsYGet o = true) : bf (encYGet mj 0 o) 31 28 = o.g := by
  simp only [fitsYGet, Bool.and_eq_true, decide_eq_true_eq] at h
  simp only [bf, encYGet, ← BitVec.toNat_ofBool]
  omega

theorem encYGo_guard {o : YGo} (h : fitsYGo o = true) : bf (encYGo mj 0 o) 31 28 = o.g := by
  simp only [fitsYGo, Bool.and_eq_true, decide_eq_true_eq] at h
  simp only [bf, encYGo, ← BitVec.toNat_ofBool]
  omega

theorem encYHalt_guard {o : YHalt} (h : fitsYHalt o = true) : bf (encYHalt mj 0 o) 31 28 = o.g := by
  simp only [fitsYHalt, Bool.and_eq_true, decide_eq_true_eq] at h
  simp only [bf, encYHalt]
  omega

theorem encGD_guard {x : Nat} (hx : x < 4194304) {o : G} (h : fitsGD o = true) : bf (encGD mj x o) 31 28 = o.g := by
  simp only [fitsGD, decide_eq_true_eq] at h
  simp only [bf, encGD]
  omega

theorem encCpy_guard {o : Cpy} (h : fitsCpy o = true) : bf (encCpy mj 0 o) 31 28 = o.g := by
  simp only [fitsCpy, Bool.and_eq_true, decide_eq_true_eq] at h
  simp only [bf, encCpy, ← BitVec.toNat_ofBool]
  omega

theorem encHAtom_guard {o : HAtom} (h : fitsHAtom o = true) : bf (encHAtom mj 0 o) 31 28 = o.g := by
  simp only [fitsHAtom, Bool.and_eq_true, decide_eq_true_eq] at h
  simp only [bf, encHAtom, ← BitVec.toNat_ofBool]
  omega

theorem encRed_guard {o : Red} (h : fitsRed o = true) : bf (encRed mj 0 o) 31 28 = o.g := by
  simp only [fitsRed, Bool.and_eq_true, decide_eq_true_eq] at h
  simp only [bf, encRed, ← BitVec.toNat_ofBool]
  omega

theorem encTlAdd_guard {o : TlAdd} (h : fitsTlAdd o = true) : bf (encTlAdd mj 0 o) 31 28 = o.g := by
  simp only [fitsTlAdd, Bool.and_eq_true, decide_eq_true_eq] at h
  simp only [bf, encTlAdd, ← BitVec.toNat_ofBool]
  omega

theorem encTlWait_guard {o : TlWait} (h : fitsTlWait o = true) : bf (encTlWait mj 0 o) 31 28 = o.g := by
  simp only [fitsTlWait, Bool.and_eq_true, decide_eq_true_eq] at h
  simp only [bf, encTlWait, ← BitVec.toNat_ofBool]
  omega

theorem encTlRd_guard {o : TlRd} (h : fitsTlRd o = true) : bf (encTlRd mj 0 o) 31 28 = o.g := by
  simp only [fitsTlRd, Bool.and_eq_true, decide_eq_true_eq] at h
  simp only [bf, encTlRd]
  omega

theorem encWaitA_guard {o : WaitA} (h : fitsWaitA o = true) : bf (encWaitA mj 0 o) 31 28 = o.g := by
  simp only [fitsWaitA, Bool.and_eq_true, decide_eq_true_eq] at h
  simp only [bf, encWaitA, ← BitVec.toNat_ofBool]
  omega

theorem encFence_guard {o : Fence} (h : fitsFence o = true) : bf (encFence mj 0 o) 31 28 = o.g := by
  simp only [fitsFence, Bool.and_eq_true, decide_eq_true_eq] at h
  simp only [bf, encFence]
  omega

theorem encLaunch_guard {o : Sys2Proof.Launch} (h : fitsLaunch o = true) : bf (encLaunch mj 0 o) 31 28 = o.g := by
  simp only [fitsLaunch, Bool.and_eq_true, decide_eq_true_eq] at h
  simp only [bf, encLaunch, ← BitVec.toNat_ofBool]
  omega

theorem encKrot_guard {o : Krot} (h : fitsKrot o = true) : bf (encKrot mj 0 o) 31 28 = o.g := by
  simp only [fitsKrot, Bool.and_eq_true, decide_eq_true_eq] at h
  simp only [bf, encKrot, ← BitVec.toNat_ofBool]
  omega

theorem encScrub_guard {o : Scrub} (h : fitsScrub o = true) : bf (encScrub mj 0 o) 31 28 = o.g := by
  simp only [fitsScrub, Bool.and_eq_true, decide_eq_true_eq] at h
  simp only [bf, encScrub, ← BitVec.toNat_ofBool]
  omega

theorem encDRow_guard {o : DRow} (h : fitsDRow o = true) : bf (encDRow mj 0 o) 31 28 = o.g := by
  simp only [fitsDRow, Bool.and_eq_true, decide_eq_true_eq] at h
  simp only [bf, encDRow]
  omega

theorem encDRowReg_guard {o : DRowReg} (h : fitsDRowReg o = true) : bf (encDRowReg mj 0x10000 o) 31 28 = o.g := by
  simp only [fitsDRowReg, Bool.and_eq_true, decide_eq_true_eq] at h
  simp only [bf, encDRowReg, ← BitVec.toNat_ofBool]
  omega

theorem encDRd_guard {o : DRd} (h : fitsDRd o = true) : bf (encDRd mj 0 o) 31 28 = o.g := by
  simp only [fitsDRd, Bool.and_eq_true, decide_eq_true_eq] at h
  simp only [bf, encDRd, ← BitVec.toNat_ofBool]
  omega

theorem encDWr_guard {o : DWr} (h : fitsDWr o = true) : bf (encDWr mj 0 o) 31 28 = o.g := by
  simp only [fitsDWr, Bool.and_eq_true, decide_eq_true_eq] at h
  simp only [bf, encDWr, ← BitVec.toNat_ofBool]
  omega

theorem encDBank_guard {o : DBank} (h : fitsDBank o = true) : bf (encDBank mj 0 o) 31 28 = o.g := by
  simp only [fitsDBank, Bool.and_eq_true, decide_eq_true_eq] at h
  simp only [bf, encDBank]
  omega

theorem encDClean_guard {o : DClean} (h : fitsDClean o = true) : bf (encDClean mj 0 o) 31 28 = o.g := by
  simp only [fitsDClean, Bool.and_eq_true, decide_eq_true_eq] at h
  simp only [bf, encDClean, ← BitVec.toNat_ofBool]
  omega

theorem encDCleanReg_guard {o : DCleanReg} (h : fitsDCleanReg o = true) : bf (encDCleanReg mj 0x10000 o) 31 28 = o.g
    := by
  simp only [fitsDCleanReg, Bool.and_eq_true, decide_eq_true_eq] at h
  simp only [bf, encDCleanReg, ← BitVec.toNat_ofBool]
  omega

theorem encDWait_guard {o : DWait} (h : fitsDWait o = true) : bf (encDWait mj 0 o) 31 28 = o.g := by
  simp only [fitsDWait, Bool.and_eq_true, decide_eq_true_eq] at h
  simp only [bf, encDWait, ← BitVec.toNat_ofBool]
  omega

end guardField

/-- The guard operand of a slot word; a row that has no word has none. -/
def guardOf : Instr → Nat
  | .add o | .sub o | .and o | .or o | .xor o | .andn o | .min o | .max o | .mins o | .maxs o | .shl o | .shr o
    | .sra o | .fsl o | .fsr o | .mul o | .mulh o | .mulhs o | .div o | .divs o | .rem o | .rems o | .fadd o | .fsub o
    | .fmul o | .fmin o | .fmax o => o.g
  | .mov o | .clz o | .ctz o | .popc o | .brev o => o.g
  | .sel o => o.g
  | .adds o => o.g
  | .cmp o | .fcmp o => o.g
  | .cmpi o => o.g
  | .addi o | .andi o | .ori o | .xori o | .ldb o | .ldbu o | .ldh o | .ldhu o | .ldw o | .ldwu o | .ldd o | .stb o
    | .sth o | .stw o | .std o | .ldc o | .stc o | .ldk o => o.g
  | .shli o | .shri o | .srai o => o.g
  | .lim o | .lih o | .lds o | .sts o => o.g
  | .pand o | .por o | .pxor o | .pandn o => o.g
  | .pset o => o.g
  | .ffma o => o.g
  | .fcvt o => o.g
  | .qlen o => o.g
  | .qclr o => o.g
  | .csrrd o => o.g
  | .csrwr o => o.g
  | .br o => o.g
  | .brl o => o.g
  | .bri o | .mmpc o => o.g
  | .loop o => o.g
  | .loopi o => o.g
  | .loopiK o => o.g
  | .bswap o => o.g
  | .ifence o | .eret o | .texit o | .bar o | .bara o | .bard o | .dprea o | .dref o => o.g
  | .iverify o => o.g
  | .trap o | .bkpt o => o.g
  | .vld o => o.g
  | .vst o => o.g
  | .vstm o => o.g
  | .vlds o => o.g
  | .vsts o => o.g
  | .latom o => o.g
  | .sendt o => o.g
  | .recvt o => o.g
  | .vadd o | .vsub o | .vmul o | .vfma o | .vfms o | .vmin o | .vmax o | .vand o | .vor o | .vxor o | .vandn o
    | .vfsl o | .vfsr o | .vsel o | .vqnt o | .vdqnt o | .vperm o => o.g
  | .vaccr o => o.g
  | .vabs o | .vneg o | .vrmax o | .vrmin o | .vramax o | .vradd o | .vscan o | .vpack o | .vunpk o | .vclz o
    | .vpopc o | .vexp2 o | .vlog2 o | .vrcp o | .vrsq o => o.g
  | .vshl o | .vshr o | .vsra o | .vbcast o | .vextr o => o.g
  | .vcmp o => o.g
  | .vcvt o => o.g
  | .vrot o => o.g
  | .viota o => o.g
  | .vpand o | .vpor o | .vpxor o => o.g
  | .vpset o => o.g
  | .vpcnt o => o.g
  | .mcall o => o.g
  | .mparm o => o.g
  | .mstep o => o.g
  | .msteprd o => o.g
  | .mzero o => o.g
  | .mzeroAll o => o.g
  | .yset o => o.g
  | .yget o => o.g
  | .ygo o => o.g
  | .yhalt o => o.g
  | .yhaltAll o => o.g
  | .cpy o | .cpyr o | .seal o | .unseal o => o.g
  | .hatom o => o.g
  | .red o => o.g
  | .tladd o => o.g
  | .tlwait o | .tlpoll o => o.g
  | .tlrd o => o.g
  | .waita o => o.g
  | .fence o => o.g
  | .launch o => o.g
  | .krot o => o.g
  | .scrub o => o.g
  | .dact o | .dprom o => o.g
  | .dactReg o | .dpromReg o => o.g
  | .drd o => o.g
  | .dwr o => o.g
  | .dpre o | .drefp o | .dinit o => o.g
  | .dclean o => o.g
  | .dcleanReg o => o.g
  | .dwait o => o.g
  | _ => 0

/-- R21: bits 31:28 of the word of a well-formed instruction are its guard operand. Last come CPY, CPYR, SEAL and UNSEAL, which
share a layout. -/
theorem bf_encodeWord {i : Instr} (hw : i.hasWord = true) (hf : i.isWf = true) :
    bf (encodeWord i) 31 28 = guardOf i := by
  cases i <;> cases hw
  case add | sub | and | or | xor | andn | min | max | mins | maxs | shl | shr | sra | fsl | fsr | mul | mulh | mulhs
    | div | divs | rem | rems | fadd | fsub | fmul | fmin | fmax => exact encRR_guard (by decide) (by decide) hf
  case mov | clz | ctz | popc | brev => exact encRU_guard (by decide) (by decide) hf
  case sel => exact encRRP_guard (by decide) hf
  case adds => exact encRRK_guard (by decide) hf
  case cmp | fcmp => exact encCmpRR_guard (by decide) (Bool.and_elim_left hf)
  case cmpi => exact encCmpRI_guard (by decide) (Bool.and_elim_left hf)
  case addi | andi | ori | xori | ldb | ldbu | ldh | ldhu | ldw | ldwu | ldd | stb | sth | stw | std | ldc | stc | ldk
    => exact encRI_guard (by decide) hf
  case shli | shri | srai => exact encRIB_guard (by decide) hf
  case lim | lih | lds | sts => exact encRL_guard (by decide) hf
  case pand | por | pxor | pandn => exact encPLog_guard (by decide) (by decide) (Bool.and_elim_left hf)
  case pset => exact encPSet_guard (by decide) (Bool.and_elim_left hf)
  case ffma => exact encRRF_guard (by decide) hf
  case fcvt => exact encRUF_guard (by decide) (Bool.and_elim_left hf)
  case qlen => exact encQLen_guard (by decide) hf
  case qclr => exact encQReg_guard (by decide) (by decide) hf
  case csrrd => exact encCsrRd_guard (by decide) (Bool.and_elim_left hf)
  case csrwr => exact encCsrWr_guard (by decide) (Bool.and_elim_left hf)
  case br => exact encBr_guard (by decide) hf
  case brl => exact encBrl_guard (by decide) hf
  case bri | mmpc => exact encSA_guard (by decide) hf
  case loop => exact encLoop_guard (by decide) hf
  case loopi => exact encLoopI_guard (by decide) hf
  case loopiK => exact encG_guard (by decide) (by decide) hf
  case bswap => exact encBswap_guard (by decide) hf
  case ifence | eret | texit | bar | bara | bard | dprea | dref => exact encGB_guard (by decide) hf
  case iverify => exact encIVer_guard (by decide) (Bool.and_elim_left hf)
  case trap | bkpt => exact encCode_guard (by decide) hf
  case vld => exact encVLd_guard (by decide) (Bool.and_elim_left hf)
  case vst => exact encVSt_guard (by decide) hf
  case vstm => exact encVStM_guard (by decide) hf
  case vlds => exact encVLdS_guard (by decide) (Bool.and_elim_left hf)
  case vsts => exact encVStS_guard (by decide) hf
  case latom => exact encLatom_guard (by decide) hf
  case sendt => exact encSendT_guard (by decide) (Bool.and_elim_left hf)
  case recvt => exact encRecvT_guard (by decide) (Bool.and_elim_left hf)
  case vadd | vsub | vmul | vfma | vfms | vmin | vmax | vand | vor | vxor | vandn | vfsl | vfsr | vsel | vqnt | vdqnt
    | vperm => exact encVAB_guard (by decide) (Bool.and_elim_left hf)
  case vaccr => exact encVAccR_guard (by decide) (Bool.and_elim_left hf)
  case vabs | vneg | vrmax | vrmin | vramax | vradd | vscan | vpack | vunpk | vclz | vpopc | vexp2 | vlog2 | vrcp |
    vrsq => exact encVA_guard (by decide) (Bool.and_elim_left hf)
  case vshl | vshr | vsra | vbcast | vextr => exact encVABI_guard (by decide) (Bool.and_elim_left hf)
  case vcmp => exact encVABC_guard (by decide) (Bool.and_elim_left hf)
  case vcvt => exact encVAR_guard (by decide) (Bool.and_elim_left hf)
  case vrot => exact encVABUI_guard (by decide) (Bool.and_elim_left hf)
  case viota => exact encVT_guard (by decide) (Bool.and_elim_left hf)
  case vpand | vpor | vpxor => exact encVPLog_guard (by decide) (Bool.and_elim_left hf)
  case vpset => exact encVPSet_guard (by decide) (Bool.and_elim_left hf)
  case vpcnt => exact encVPCnt_guard (by decide) (Bool.and_elim_left hf)
  case mcall => exact encMCall_guard (by decide) (Bool.and_elim_left hf)
  case mparm => exact encMParm_guard (by decide) hf
  case mstep => exact encMStep_guard (by decide) hf
  case msteprd => exact encMStepRd_guard (by decide) hf
  case mzero => exact encMZero_guard (by decide) hf
  case mzeroAll => exact encGC_guard (by decide) (by decide) hf
  case yset => exact encYSet_guard (by decide) hf
  case yget => exact encYGet_guard (by decide) hf
  case ygo => exact encYGo_guard (by decide) hf
  case yhalt => exact encYHalt_guard (by decide) hf
  case yhaltAll => exact encGD_guard (by decide) (by decide) hf
  case hatom => exact encHAtom_guard (by decide) (Bool.and_elim_left hf)
  case red => exact encRed_guard (by decide) hf
  case tladd => exact encTlAdd_guard (by decide) hf
  case tlwait | tlpoll => exact encTlWait_guard (by decide) (Bool.and_elim_left hf)
  case tlrd => exact encTlRd_guard (by decide) hf
  case waita => exact encWaitA_guard (by decide) (Bool.and_elim_left hf)
  case fence => exact encFence_guard (by decide) (Bool.and_elim_left hf)
  case launch => exact encLaunch_guard (by decide) (Bool.and_elim_left hf)
  case krot => exact encKrot_guard (by decide) hf
  case scrub => exact encScrub_guard (by decide) (Bool.and_elim_left hf)
  case dact | dprom => exact encDRow_guard (by decide) hf
  case dactReg | dpromReg => exact encDRowReg_guard (by decide) hf
  case drd => exact encDRd_guard (by decide) (Bool.and_elim_left hf)
  case dwr => exact encDWr_guard (by decide) (Bool.and_elim_left hf)
  case dpre | drefp | dinit => exact encDBank_guard (by decide) hf
  case dclean => exact encDClean_guard (by decide) hf
  case dcleanReg => exact encDCleanReg_guard (by decide) hf
  case dwait => exact encDWait_guard (by decide) hf
  all_goals exact encCpy_guard (by decide) hf

/-! ## Every slot word is guarded (R5, R21) -/

/-- A meaning under the guard `g`: it always answers a next state, and where the guard is false that is the state as it
was. -/
def Guarded (g : Nat) (e : State → Out) : Prop :=
  ∀ s : State, ∃ t, e s = .next t ∧ (guardTrue g s = false → t = s)

theorem execSlot_guarded (g : Nat) (body : State → Except Nat State) : Guarded g (execSlot g body) := fun s => by
  obtain ⟨t, ht⟩ := slot_next g body s
  refine ⟨t, ht, fun hg => ?_⟩
  rw [slot_off hg] at ht
  exact (Host.Outcome.next.inj ht).symm

/-- A slot whose body first looks at the state, where that look changes nothing under a false guard. -/
theorem execSlot_of_look_guarded {g : Nat} {body : State → State → Except Nat State} {look : State → State}
    (hl : ∀ s, guardTrue g s = false → look s = s) : Guarded g (fun s => execSlot g (body s) (look s)) := fun s => by
  obtain ⟨t, ht, hkeep⟩ := execSlot_guarded g (body s) (look s)
  exact ⟨t, ht, fun hg => by rw [hl s hg] at hkeep; exact hkeep hg⟩

theorem noteWatch_off {o : WaitA} {s : State} (h : guardTrue o.g s = false) : noteWatch o s = s := by
  simp [noteWatch, h]

theorem execCsrwr_guarded (o : CsrWr) : Guarded o.g (execCsrwr o) := by
  unfold execCsrwr
  exact execSlot_of_look_guarded fun s h => by simp [h]

theorem formPLog_guarded (o : PLog) (op : Bool → Bool → Bool) : Guarded o.g (formPLog o op) := execSlot_guarded _ _

theorem formVPLog_guarded (o : VPLog) (op : W256 → W256 → W256) : Guarded o.g (formVPLog o op) := execSlot_guarded _ _

theorem execTrap_guarded (o : Code) : Guarded o.g (execTrap o) := fun s => by
  cases h : guardTrue o.g s <;> simp [execTrap, h]

theorem execBkpt_guarded (o : Code) : Guarded o.g (execBkpt o) := fun s => by
  cases h : guardTrue o.g s
  · simp [execBkpt, h]
  · cases hd : debugMode s (curAgent s) <;> simp [execBkpt, h, hd]

/-- The meaning of each of the 185 slot words is guarded by its guard operand: TRAP and BKPT test the guard themselves, CSRWR
and WAITA note an access before the slot, and every other word is a slot. Where the body answers on every path, its meaning is
named for the unifier, which would otherwise unfold the slot. -/
theorem exec_guarded {i : Instr} (hw : i.hasWord = true) : Guarded (guardOf i) (exec i) := by
  cases i <;> cases hw
  case trap o => exact execTrap_guarded o
  case bkpt o => exact execBkpt_guarded o
  case csrwr o => exact execCsrwr_guarded o
  case waita o => exact execSlot_of_look_guarded (body := fun _ => waitaBody o) fun s h => noteWatch_off h
  case pand o | por o | pxor o => exact formPLog_guarded o _
  case pandn o => exact (formPLog_guarded o _ : Guarded o.g (execPandn o))
  case vpand o | vpor o | vpxor o => exact formVPLog_guarded o _
  case pset o => exact (execSlot_guarded _ _ : Guarded o.g (execPset o))
  case vpset o => exact (execSlot_guarded _ _ : Guarded o.g (execVpset o))
  case br o => exact (execSlot_guarded _ _ : Guarded o.g (execBr o))
  case loopiK o => exact (execSlot_guarded _ _ : Guarded o.g (execLoopiK o))
  case texit o => exact (execSlot_guarded _ _ : Guarded o.g (execTexit o))
  all_goals exact execSlot_guarded _ _

/-- Settles O36: the word's bits 31:28 are the guard operand, and every slot word is guarded by it. -/
theorem falseGuard : Obligations.FalseGuard := by
  intro i s u hw hf _ hg
  rw [bf_encodeWord hw hf] at hg
  obtain ⟨t, ht, hkeep⟩ := exec_guarded hw s
  rw [ht, hkeep hg]

/-! ## Every row answers a next state (R5, R129) -/

theorem runOp_next (e num : Nat) (kinds : List EngKind) (start act : EngOp → State → State) (s : State) :
    ∃ t, runOp e num kinds start act s = .next t := by
  fun_cases runOp e num kinds start act s <;> exact ⟨_, rfl⟩

theorem execCopyComplete_next (e n : Nat) (s : State) : ∃ t, execCopyComplete e n s = .next t := by
  fun_cases execCopyComplete e n s
  case case3 => exact runOp_next _ _ _ _ _ _
  all_goals exact ⟨_, rfl⟩

theorem receive_next (row : Nat) (m : FabMsg) (k : Nat → Job → FabMsg → State → State) (s : State) :
    ∃ t, receive row m k s = .next t := by
  fun_cases receive row m k s <;> exact ⟨_, rfl⟩

theorem response_next (opc : Nat) (m : FabMsg) (k : FabReq → FabMsg → State → State) (s : State) :
    ∃ t, response opc m k s = .next t := receive_next _ _ _ _

/-- The rows without words: operations of the engines and messages between packages have one frame each; of the others, those
that branch are split along their own branches, and the rest answer directly. -/
theorem exec_row_next {i : Instr} (hw : i.hasWord = false) (s : State) : ∃ t, exec i s = .next t := by
  cases i <;> cases hw
  case krotComplete | sealComplete | unsealComplete | scrubComplete => exact runOp_next _ _ _ _ _ _
  case copyComplete e n => exact execCopyComplete_next e n s
  case fabWrite m => rw [exec_fabWrite]; exact receive_next _ _ _ _
  case fabRead m => rw [exec_fabRead]; exact receive_next _ _ _ _
  case redMessage m => rw [exec_redMessage]; exact receive_next _ _ _ _
  case mergeMessage m => rw [exec_mergeMessage]; exact receive_next _ _ _ _
  case arrive m => rw [exec_arrive]; exact receive_next _ _ _ _
  case completeMessage m => rw [exec_completeMessage]; exact receive_next _ _ _ _
  case mergeAck m => rw [exec_mergeAck]; exact receive_next _ _ _ _
  case writeAck m => rw [exec_writeAck]; exact response_next _ _ _ _
  case readData m => rw [exec_readData]; exact response_next _ _ _ _
  case redAck m => rw [exec_redAck]; exact response_next _ _ _ _
  case arriveAck m => rw [exec_arriveAck]; exact response_next _ _ _ _
  case completeAck m => rw [exec_completeAck]; exact response_next _ _ _ _
  case bundleIssue a => rw [exec_bundleIssue]; fun_cases execBundleIssue a s <;> exact ⟨_, rfl⟩
  case callFault a => rw [exec_callFault]; fun_cases execCallFault a s <;> exact ⟨_, rfl⟩
  case deadlineFault a => rw [exec_deadlineFault]; fun_cases execDeadlineFault a s <;> exact ⟨_, rfl⟩
  case streamFault o => rw [exec_streamFault]; fun_cases execStreamFault o s <;> exact ⟨_, rfl⟩
  case yarnBeat core st => rw [exec_yarnBeat]; fun_cases execYarnBeat core st s <;> exact ⟨_, rfl⟩
  case drainAtomicPerform id => rw [exec_drainAtomicPerform]; fun_cases execDrainAtomicPerform id s <;> exact ⟨_, rfl⟩
  case translationFill o => rw [exec_translationFill]; fun_cases execTranslationFill o s <;> exact ⟨_, rfl⟩
  case monitorWake a => rw [exec_monitorWake]; fun_cases execMonitorWake a s <;> exact ⟨_, rfl⟩
  case waitaTimeout a => rw [exec_waitaTimeout]; fun_cases execWaitaTimeout a s <;> exact ⟨_, rfl⟩
  case timelineWake a => rw [exec_timelineWake]; fun_cases execTimelineWake a s <;> exact ⟨_, rfl⟩
  case tladdEffect id => rw [exec_tladdEffect]; fun_cases execTladdEffect id s <;> exact ⟨_, rfl⟩
  case barrierLanding k => rw [exec_barrierLanding]; fun_cases execBarrierLanding k s <;> exact ⟨_, rfl⟩
  case barrierResume a => rw [exec_barrierResume]; fun_cases execBarrierResume a s <;> exact ⟨_, rfl⟩
  case fenceWaitEnd a => rw [exec_fenceWaitEnd]; fun_cases execFenceWaitEnd a s <;> exact ⟨_, rfl⟩
  case iverifyFreezeEnd a => rw [exec_iverifyFreezeEnd]; fun_cases execIverifyFreezeEnd a s <;> exact ⟨_, rfl⟩
  case prechargeFreezeEnd ch => rw [exec_prechargeFreezeEnd]; fun_cases execPrechargeFreezeEnd ch s <;> exact ⟨_, rfl⟩
  case copyQueueEntryFree a => rw [exec_copyQueueEntryFree]; fun_cases execCopyQueueEntryFree a s <;> exact ⟨_, rfl⟩
  case copyTake core => rw [exec_copyTake]; fun_cases execCopyTake core s <;> exact ⟨_, rfl⟩
  case hatomPerform e n => rw [exec_hatomPerform]; fun_cases execHatomPerform e n s <;> exact ⟨_, rfl⟩
  case zeroingComplete r => rw [exec_zeroingComplete]; fun_cases execZeroingComplete r s <;> exact ⟨_, rfl⟩
  case taskEntry a => rw [exec_taskEntry]; fun_cases execTaskEntry a s <;> exact ⟨_, rfl⟩
  case sliceSave a => rw [exec_sliceSave]; fun_cases execSliceSave a s <;> exact ⟨_, rfl⟩
  case victimTake core => rw [exec_victimTake]; fun_cases execVictimTake core s <;> exact ⟨_, rfl⟩
  case victimResume core => rw [exec_victimResume]; fun_cases execVictimResume core s <;> exact ⟨_, rfl⟩
  case refreshTick ch => rw [exec_refreshTick]; fun_cases execRefreshTick ch s <;> exact ⟨_, rfl⟩
  case bankBusyEnd ch bank => rw [exec_bankBusyEnd]; fun_cases execBankBusyEnd ch bank s <;> exact ⟨_, rfl⟩
  case resultLanding a st => rw [exec_resultLanding]; fun_cases execResultLanding a st s <;> exact ⟨_, rfl⟩
  case stepExecution a st => rw [exec_stepExecution]; fun_cases execStepExecution a st s <;> exact ⟨_, rfl⟩
  case slubWrite u => rw [exec_slubWrite]; fun_cases execSlubWrite u s <;> exact ⟨_, rfl⟩
  case logEntryWrite => rw [exec_logEntryWrite]; fun_cases execLogEntryWrite s <;> exact ⟨_, rfl⟩
  case fabricTimeout rid => rw [exec_fabricTimeout]; fun_cases execFabricTimeout rid s <;> exact ⟨_, rfl⟩
  case switchAdmitTimeout ordinal => rw [exec_switchAdmitTimeout]; fun_cases execSwitchAdmitTimeout ordinal s <;> exact ⟨_, rfl⟩
  case mgmt m => rw [exec_mgmt]; fun_cases execMgmt m s <;> exact ⟨_, rfl⟩
  case hostRange1Request o => rw [exec_hostRange1Request]; fun_cases execHostRange1Request o s <;> exact ⟨_, rfl⟩
  case dieCutOff d => rw [exec_dieCutOff]; fun_cases execDieCutOff d s <;> exact ⟨_, rfl⟩
  case bringUpComplete => rw [exec_bringUpComplete]; fun_cases execBringUpComplete s <;> exact ⟨_, rfl⟩
  case dbgStop => rw [exec_dbgStop]; fun_cases execDbgStop s <;> exact ⟨_, rfl⟩
  all_goals exact ⟨_, rfl⟩

theorem exec_next (i : Instr) (s : State) : ∃ t, exec i s = .next t := by
  cases hw : i.hasWord with
  | false => exact exec_row_next hw s
  | true => exact (exec_guarded hw s).imp fun _ h => h.1

/-! ## A step stops only where the package is off (R434) -/

theorem issueSlots_next (n : Nat) (s : State) : ∃ t, issueSlots n s = .next t := by
  induction n generalizing s with
  | zero => exact ⟨_, rfl⟩
  | succ n ih =>
    cases hs : nextSlot 8 s with
    | none => exact ⟨finishBundle s, by rw [issueSlots, hs]⟩
    | some p =>
      obtain ⟨t, ht⟩ := exec_next p.1 p.2
      obtain ⟨r, hr⟩ := ih t
      exact ⟨r, by rw [issueSlots, hs]; simp only [ht, hr]⟩

theorem afterExec_next (s : State) : ∃ t, afterExec (.next s) = .next t := by
  cases hc : s.cur with
  | none => exact ⟨settle s, by simp only [afterExec, hc]⟩
  | some u =>
    obtain ⟨t, ht⟩ := issueSlots_next 8 s
    exact ⟨settle t, by simp only [afterExec, hc, ht]⟩

/-- R434: the package is off, nothing is due in this cycle, and it takes none of the inputs to come. -/
def StandsOff (s : State) : Prop :=
  s.poweredOff = true ∧ s.agenda = [] ∧ ∀ p ∈ s.inputs, takeable s p.2 = false

theorem step_of_standsOff {s : State} (h : StandsOff s) : step s = .fault .poweredOff := by
  obtain ⟨hoff, hag, hin⟩ := h
  have hany : s.inputs.any (fun p => takeable s p.2) = false := by simpa using hin
  simp [step, runStep, hoff, hag, hany]

theorem step_next_of_not_standsOff {s : State} (h : ¬ StandsOff s) : ∃ t, step s = .next t := by
  have hgo : (s.poweredOff && s.agenda.isEmpty && !s.inputs.any (fun p => takeable s p.2)) = false := by
    rw [Bool.eq_false_iff]
    intro hc
    simp only [Bool.and_eq_true, List.isEmpty_iff, Bool.not_eq_true', List.any_eq_false, Bool.not_eq_true] at hc
    obtain ⟨⟨hoff, hag⟩, hin⟩ := hc
    exact h ⟨hoff, hag, hin⟩
  simp only [step, runStep, hgo]
  cases ha : (trapFirst (refill 24 s)).agenda with
  | nil => exact ⟨_, rfl⟩
  | cons i rest =>
    obtain ⟨t, ht⟩ := exec_next i { trapFirst (refill 24 s) with agenda := rest }
    simpa [ht] using afterExec_next t

/-- A package that is off takes a device reset. -/
theorem not_deviceReset_of_not_takeable {s : State} {i : Instr} (hoff : s.poweredOff = true) (h : takeable s i = false) :
    i ≠ .deviceReset := by
  rintro rfl
  simp [takeable, hoff] at h

/-- Settles O60: every row answers, so a step stops only at the test that it makes first. -/
theorem nothingStopsButPowerOff : Obligations.NothingStopsButPowerOff := by
  refine ⟨exec_next, fun s => ?_, fun s hoff hag hin => step_of_standsOff ⟨hoff, hag, hin⟩⟩
  by_cases h : StandsOff s
  · have hstep := step_of_standsOff h
    obtain ⟨hoff, hag, hin⟩ := h
    exact .inr ⟨hstep, hoff, hag, fun p hp => ⟨hin p hp, not_deviceReset_of_not_takeable hoff (hin p hp)⟩⟩
  · exact .inl (step_next_of_not_standsOff h)

end Sys2Proof.Proofs

/-!
PROOFS. Program image and encodings: decode and encode agree (O57), lane predicates and the routing of vector results (O25),
the bundle that opens (O40), and the words that the manual prints (O56).
-/

namespace Sys2Proof.Proofs
open Sys2Proof Sys2Proof.Machine Sys2Proof.Laws

theorem bm_eq_iff (w k : Nat) (b : Bool) : bm w k = b ↔ w / 2 ^ k % 2 = b.toNat := by
  cases b <;> simp [bm]

/-! ## Each layout reads back (spec/02_program_image_and_encodings.md R21, R22)

A word `w` that is written in a layout with operands that fit has 32 bits, the major opcode `mj` in its bits 27:22, and the
operands it was written from. Where rows of one major share these bits with others, the field that tells them apart reads as
the layout fixes it. The fields of a word do not overlap, so each is a digit of it, which is linear arithmetic; a mark is
rewritten as a word of one bit, whose bound `omega` knows. -/

section layouts

variable {mj w : Nat}

theorem encRR_reads {x : Nat} {o : RR} (hw : encRR mj x o = w) (h : fitsRR o = true)
    (hm : mj < 64 := by decide) (hx : x < 16 := by decide) :
    w < 2 ^ 32 ∧ bf w 27 22 = mj ∧ bf w 3 0 = x ∧ decRR w = o := by
  cases o
  simp only [fitsRR, Bool.and_eq_true, decide_eq_true_eq] at h
  simp only [encRR, ← BitVec.toNat_ofBool] at hw
  simp only [decRR, RR.mk.injEq, bf, bm_eq_iff, ← BitVec.toNat_ofBool]
  omega

theorem encRU_reads {x : Nat} {o : RU} (hw : encRU mj x o = w) (h : fitsRU o = true)
    (hm : mj < 64 := by decide) (hx : x < 16 := by decide) :
    w < 2 ^ 32 ∧ bf w 27 22 = mj ∧ bf w 3 0 = x ∧ decRU w = o := by
  cases o
  simp only [fitsRU, Bool.and_eq_true, decide_eq_true_eq] at h
  simp only [encRU, ← BitVec.toNat_ofBool] at hw
  simp only [decRU, RU.mk.injEq, bf, bm_eq_iff, ← BitVec.toNat_ofBool]
  omega

theorem encRRP_reads {o : RRP} (hw : encRRP mj 0 o = w) (h : fitsRRP o = true) (hm : mj < 64 := by decide) :
    w < 2 ^ 32 ∧ bf w 27 22 = mj ∧ decRRP w = o := by
  cases o
  simp only [fitsRRP, Bool.and_eq_true, decide_eq_true_eq] at h
  simp only [encRRP, ← BitVec.toNat_ofBool] at hw
  simp only [decRRP, RRP.mk.injEq, bf, bm_eq_iff, ← BitVec.toNat_ofBool]
  omega

theorem encRRK_reads {o : RRK} (hw : encRRK mj 0 o = w) (h : fitsRRK o = true) (hm : mj < 64 := by decide) :
    w < 2 ^ 32 ∧ bf w 27 22 = mj ∧ decRRK w = o := by
  cases o
  simp only [fitsRRK, Bool.and_eq_true, decide_eq_true_eq] at h
  simp only [encRRK, ← BitVec.toNat_ofBool] at hw
  simp only [decRRK, RRK.mk.injEq, bf, bm_eq_iff, ← BitVec.toNat_ofBool]
  omega

theorem encCmpRR_reads {o : CmpRR} (hw : encCmpRR mj 0 o = w) (h : fitsCmpRR o = true) (hm : mj < 64 := by decide) :
    w < 2 ^ 32 ∧ bf w 27 22 = mj ∧ decCmpRR w = o := by
  cases o
  simp only [fitsCmpRR, Bool.and_eq_true, decide_eq_true_eq] at h
  simp only [encCmpRR, ← BitVec.toNat_ofBool] at hw
  simp only [decCmpRR, CmpRR.mk.injEq, bf, bm_eq_iff, ← BitVec.toNat_ofBool]
  omega

theorem encCmpRI_reads {o : CmpRI} (hw : encCmpRI mj 0 o = w) (h : fitsCmpRI o = true) (hm : mj < 64 := by decide) :
    w < 2 ^ 32 ∧ bf w 27 22 = mj ∧ decCmpRI w = o := by
  cases o
  simp only [fitsCmpRI, Bool.and_eq_true, decide_eq_true_eq] at h
  simp only [encCmpRI, ← BitVec.toNat_ofBool] at hw
  simp only [decCmpRI, CmpRI.mk.injEq, bf, bm_eq_iff, ← BitVec.toNat_ofBool]
  omega

theorem encRI_reads {o : RI} (hw : encRI mj 0 o = w) (h : fitsRI o = true) (hm : mj < 64 := by decide) :
    w < 2 ^ 32 ∧ bf w 27 22 = mj ∧ decRI w = o := by
  cases o
  simp only [fitsRI, Bool.and_eq_true, decide_eq_true_eq] at h
  simp only [encRI, ← BitVec.toNat_ofBool] at hw
  simp only [decRI, RI.mk.injEq, bf, bm_eq_iff, ← BitVec.toNat_ofBool]
  omega

theorem encRIB_reads {o : RI} (hw : encRIB mj 0 o = w) (h : fitsRIB o = true) (hm : mj < 64 := by decide) :
    w < 2 ^ 32 ∧ bf w 27 22 = mj ∧ decRIB w = o := by
  cases o
  simp only [fitsRIB, Bool.and_eq_true, decide_eq_true_eq] at h
  simp only [encRIB, ← BitVec.toNat_ofBool] at hw
  simp only [decRIB, RI.mk.injEq, bf, bm_eq_iff, ← BitVec.toNat_ofBool]
  omega

theorem encRL_reads {o : RL} (hw : encRL mj 0 o = w) (h : fitsRL o = true) (hm : mj < 64 := by decide) :
    w < 2 ^ 32 ∧ bf w 27 22 = mj ∧ decRL w = o := by
  cases o
  simp only [fitsRL, Bool.and_eq_true, decide_eq_true_eq] at h
  simp only [encRL, ← BitVec.toNat_ofBool] at hw
  simp only [decRL, RL.mk.injEq, bf, bm_eq_iff, ← BitVec.toNat_ofBool]
  omega

theorem encPLog_reads {x : Nat} {o : PLog} (hw : encPLog mj x o = w) (h : fitsPLog o = true)
    (hm : mj < 64 := by decide) (hx : x < 16 := by decide) :
    w < 2 ^ 32 ∧ bf w 27 22 = mj ∧ bf w 3 0 = x ∧ decPLog w = o := by
  cases o
  simp only [fitsPLog, Bool.and_eq_true, decide_eq_true_eq] at h
  simp only [encPLog] at hw
  simp only [decPLog, PLog.mk.injEq, bf]
  omega

theorem encPSet_reads {o : PSet} (hw : encPSet mj 0 o = w) (h : fitsPSet o = true) (hm : mj < 64 := by decide) :
    w < 2 ^ 32 ∧ bf w 27 22 = mj ∧ decPSet w = o := by
  cases o
  simp only [fitsPSet, Bool.and_eq_true, decide_eq_true_eq] at h
  simp only [encPSet, ← BitVec.toNat_ofBool] at hw
  simp only [decPSet, PSet.mk.injEq, bf, bm_eq_iff, ← BitVec.toNat_ofBool]
  omega

theorem encRRF_reads {o : RRF} (hw : encRRF mj 0 o = w) (h : fitsRRF o = true) (hm : mj < 64 := by decide) :
    w < 2 ^ 32 ∧ bf w 27 22 = mj ∧ decRRF w = o := by
  cases o
  simp only [fitsRRF, Bool.and_eq_true, decide_eq_true_eq] at h
  simp only [encRRF, ← BitVec.toNat_ofBool] at hw
  simp only [decRRF, RRF.mk.injEq, bf, bm_eq_iff, ← BitVec.toNat_ofBool]
  omega

theorem encRUF_reads {o : RUF} (hw : encRUF mj 0 o = w) (h : fitsRUF o = true) (hm : mj < 64 := by decide) :
    w < 2 ^ 32 ∧ bf w 27 22 = mj ∧ decRUF w = o := by
  cases o
  simp only [fitsRUF, Bool.and_eq_true, decide_eq_true_eq] at h
  simp only [encRUF, ← BitVec.toNat_ofBool] at hw
  simp only [decRUF, RUF.mk.injEq, bf, bm_eq_iff, ← BitVec.toNat_ofBool]
  omega

theorem encQLen_reads {o : QLen} (hw : encQLen mj 0 o = w) (h : fitsQLen o = true) (hm : mj < 64 := by decide) :
    w < 2 ^ 32 ∧ bf w 27 22 = mj ∧ bf w 3 0 = 0 ∧ decQLen w = o := by
  cases o
  simp only [fitsQLen, Bool.and_eq_true, decide_eq_true_eq] at h
  simp only [encQLen, ← BitVec.toNat_ofBool] at hw
  simp only [decQLen, QLen.mk.injEq, bf, bm_eq_iff, ← BitVec.toNat_ofBool]
  omega

theorem encQReg_reads {o : QReg} (hw : encQReg mj 1 o = w) (h : fitsQReg o = true) (hm : mj < 64 := by decide) :
    w < 2 ^ 32 ∧ bf w 27 22 = mj ∧ bf w 3 0 = 1 ∧ decQReg w = o := by
  cases o
  simp only [fitsQReg, Bool.and_eq_true, decide_eq_true_eq] at h
  simp only [encQReg] at hw
  simp only [decQReg, QReg.mk.injEq, bf]
  omega

theorem encCsrRd_reads {o : CsrRd} (hw : encCsrRd mj 0 o = w) (h : fitsCsrRd o = true) (hm : mj < 64 := by decide) :
    w < 2 ^ 32 ∧ bf w 27 22 = mj ∧ decCsrRd w = o := by
  cases o
  simp only [fitsCsrRd, Bool.and_eq_true, decide_eq_true_eq] at h
  simp only [encCsrRd, ← BitVec.toNat_ofBool] at hw
  simp only [decCsrRd, CsrRd.mk.injEq, bf, bm_eq_iff, ← BitVec.toNat_ofBool]
  omega

theorem encCsrWr_reads {o : CsrWr} (hw : encCsrWr mj 0 o = w) (h : fitsCsrWr o = true) (hm : mj < 64 := by decide) :
    w < 2 ^ 32 ∧ bf w 27 22 = mj ∧ decCsrWr w = o := by
  cases o
  simp only [fitsCsrWr, Bool.and_eq_true, decide_eq_true_eq] at h
  simp only [encCsrWr, ← BitVec.toNat_ofBool] at hw
  simp only [decCsrWr, CsrWr.mk.injEq, bf, bm_eq_iff, ← BitVec.toNat_ofBool]
  omega

theorem encBr_reads {o : Br} (hw : encBr mj 0 o = w) (h : fitsBr o = true) (hm : mj < 64 := by decide) :
    w < 2 ^ 32 ∧ bf w 27 22 = mj ∧ decBr w = o := by
  cases o
  simp only [fitsBr, Bool.and_eq_true, decide_eq_true_eq] at h
  simp only [encBr] at hw
  simp only [decBr, Br.mk.injEq, bf]
  omega

theorem encBrl_reads {o : Brl} (hw : encBrl mj 0 o = w) (h : fitsBrl o = true) (hm : mj < 64 := by decide) :
    w < 2 ^ 32 ∧ bf w 27 22 = mj ∧ decBrl w = o := by
  cases o
  simp only [fitsBrl, Bool.and_eq_true, decide_eq_true_eq] at h
  simp only [encBrl, ← BitVec.toNat_ofBool] at hw
  simp only [decBrl, Brl.mk.injEq, bf, bm_eq_iff, ← BitVec.toNat_ofBool]
  omega

theorem encSA_reads {o : SA} (hw : encSA mj 0 o = w) (h : fitsSA o = true) (hm : mj < 64 := by decide) :
    w < 2 ^ 32 ∧ bf w 27 22 = mj ∧ decSA w = o := by
  cases o
  simp only [fitsSA, Bool.and_eq_true, decide_eq_true_eq] at h
  simp only [encSA, ← BitVec.toNat_ofBool] at hw
  simp only [decSA, SA.mk.injEq, bf, bm_eq_iff, ← BitVec.toNat_ofBool]
  omega

theorem encLoop_reads {o : Loop} (hw : encLoop mj 0 o = w) (h : fitsLoop o = true) (hm : mj < 64 := by decide) :
    w < 2 ^ 32 ∧ bf w 27 22 = mj ∧ decLoop w = o := by
  cases o
  simp only [fitsLoop, Bool.and_eq_true, decide_eq_true_eq] at h
  simp only [encLoop, ← BitVec.toNat_ofBool] at hw
  simp only [decLoop, Loop.mk.injEq, bf, bm_eq_iff, ← BitVec.toNat_ofBool]
  omega

theorem encLoopI_reads {o : LoopI} (hw : encLoopI mj 0 o = w) (h : fitsLoopI o = true) (hm : mj < 64 := by decide) :
    w < 2 ^ 32 ∧ bf w 27 22 = mj ∧ bf w 21 21 = 0 ∧ decLoopI w = o := by
  cases o
  simp only [fitsLoopI, Bool.and_eq_true, decide_eq_true_eq] at h
  simp only [encLoopI] at hw
  simp only [decLoopI, LoopI.mk.injEq, bf]
  omega

theorem encG_reads {o : G} (hw : encG mj 0x200000 o = w) (h : fitsG o = true) (hm : mj < 64 := by decide) :
    w < 2 ^ 32 ∧ bf w 27 22 = mj ∧ bf w 21 21 = 1 ∧ decG w = o := by
  cases o
  simp only [fitsG, decide_eq_true_eq] at h
  simp only [encG] at hw
  simp only [decG, G.mk.injEq, bf]
  omega

theorem encBswap_reads {o : Bswap} (hw : encBswap mj 0 o = w) (h : fitsBswap o = true) (hm : mj < 64 := by decide) :
    w < 2 ^ 32 ∧ bf w 27 22 = mj ∧ decBswap w = o := by
  cases o
  simp only [fitsBswap, Bool.and_eq_true, decide_eq_true_eq] at h
  simp only [encBswap] at hw
  simp only [decBswap, Bswap.mk.injEq, bf]
  omega

theorem encGB_reads {o : G} (hw : encGB mj 0 o = w) (h : fitsGB o = true) (hm : mj < 64 := by decide) :
    w < 2 ^ 32 ∧ bf w 27 22 = mj ∧ decGB w = o := by
  cases o
  simp only [fitsGB, decide_eq_true_eq] at h
  simp only [encGB] at hw
  simp only [decGB, G.mk.injEq, bf]
  omega

theorem encIVer_reads {o : IVer} (hw : encIVer mj 0 o = w) (h : fitsIVer o = true) (hm : mj < 64 := by decide) :
    w < 2 ^ 32 ∧ bf w 27 22 = mj ∧ decIVer w = o := by
  cases o
  simp only [fitsIVer, Bool.and_eq_true, decide_eq_true_eq] at h
  simp only [encIVer, ← BitVec.toNat_ofBool] at hw
  simp only [decIVer, IVer.mk.injEq, bf, bm_eq_iff, ← BitVec.toNat_ofBool]
  omega

theorem encCode_reads {o : Code} (hw : encCode mj 0 o = w) (h : fitsCode o = true) (hm : mj < 64 := by decide) :
    w < 2 ^ 32 ∧ bf w 27 22 = mj ∧ decCode w = o := by
  cases o
  simp only [fitsCode, Bool.and_eq_true, decide_eq_true_eq] at h
  simp only [encCode] at hw
  simp only [decCode, Code.mk.injEq, bf]
  omega

theorem encVLd_reads {o : VLd} (hw : encVLd mj 0 o = w) (h : fitsVLd o = true) (hm : mj < 64 := by decide) :
    w < 2 ^ 32 ∧ bf w 27 22 = mj ∧ decVLd w = o := by
  cases o
  simp only [fitsVLd, Bool.and_eq_true, decide_eq_true_eq] at h
  simp only [encVLd, ← BitVec.toNat_ofBool] at hw
  simp only [decVLd, VLd.mk.injEq, bf, bm_eq_iff, ← BitVec.toNat_ofBool]
  omega

theorem encVSt_reads {o : VSt} (hw : encVSt mj 0 o = w) (h : fitsVSt o = true) (hm : mj < 64 := by decide) :
    w < 2 ^ 32 ∧ bf w 27 22 = mj ∧ decVSt w = o := by
  cases o
  simp only [fitsVSt, Bool.and_eq_true, decide_eq_true_eq] at h
  simp only [encVSt, ← BitVec.toNat_ofBool] at hw
  simp only [decVSt, VSt.mk.injEq, bf, bm_eq_iff, ← BitVec.toNat_ofBool]
  omega

theorem encVStM_reads {o : VStM} (hw : encVStM mj 0 o = w) (h : fitsVStM o = true) (hm : mj < 64 := by decide) :
    w < 2 ^ 32 ∧ bf w 27 22 = mj ∧ decVStM w = o := by
  cases o
  simp only [fitsVStM, Bool.and_eq_true, decide_eq_true_eq] at h
  simp only [encVStM, ← BitVec.toNat_ofBool] at hw
  simp only [decVStM, VStM.mk.injEq, bf, bm_eq_iff, ← BitVec.toNat_ofBool]
  omega

theorem encVLdS_reads {o : VLdS} (hw : encVLdS mj 0 o = w) (h : fitsVLdS o = true) (hm : mj < 64 := by decide) :
    w < 2 ^ 32 ∧ bf w 27 22 = mj ∧ decVLdS w = o := by
  cases o
  simp only [fitsVLdS, Bool.and_eq_true, decide_eq_true_eq] at h
  simp only [encVLdS] at hw
  simp only [decVLdS, VLdS.mk.injEq, bf]
  omega

theorem encVStS_reads {o : VStS} (hw : encVStS mj 0 o = w) (h : fitsVStS o = true) (hm : mj < 64 := by decide) :
    w < 2 ^ 32 ∧ bf w 27 22 = mj ∧ decVStS w = o := by
  cases o
  simp only [fitsVStS, Bool.and_eq_true, decide_eq_true_eq] at h
  simp only [encVStS, ← BitVec.toNat_ofBool] at hw
  simp only [decVStS, VStS.mk.injEq, bf, bm_eq_iff, ← BitVec.toNat_ofBool]
  omega

theorem encLatom_reads {o : Latom} (hw : encLatom mj 0 o = w) (h : fitsLatom o = true) (hm : mj < 64 := by decide) :
    w < 2 ^ 32 ∧ bf w 27 22 = mj ∧ decLatom w = o := by
  cases o
  simp only [fitsLatom, Bool.and_eq_true, decide_eq_true_eq] at h
  simp only [encLatom, ← BitVec.toNat_ofBool] at hw
  simp only [decLatom, Latom.mk.injEq, bf, bm_eq_iff, ← BitVec.toNat_ofBool]
  omega

theorem encSendT_reads {o : SendT} (hw : encSendT mj 0 o = w) (h : fitsSendT o = true) (hm : mj < 64 := by decide) :
    w < 2 ^ 32 ∧ bf w 27 22 = mj ∧ decSendT w = o := by
  cases o
  simp only [fitsSendT, Bool.and_eq_true, decide_eq_true_eq] at h
  simp only [encSendT, ← BitVec.toNat_ofBool] at hw
  simp only [decSendT, SendT.mk.injEq, bf, bm_eq_iff, ← BitVec.toNat_ofBool]
  omega

theorem encRecvT_reads {o : RecvT} (hw : encRecvT mj 0 o = w) (h : fitsRecvT o = true) (hm : mj < 64 := by decide) :
    w < 2 ^ 32 ∧ bf w 27 22 = mj ∧ decRecvT w = o := by
  cases o
  simp only [fitsRecvT, Bool.and_eq_true, decide_eq_true_eq] at h
  simp only [encRecvT] at hw
  simp only [decRecvT, RecvT.mk.injEq, bf]
  omega

theorem encVAB_reads {o : VAB} (hw : encVAB mj 0 o = w) (h : fitsVAB o = true) (hm : mj < 64 := by decide) :
    w < 2 ^ 32 ∧ bf w 27 22 = mj ∧ decVAB w = o := by
  cases o
  simp only [fitsVAB, Bool.and_eq_true, decide_eq_true_eq] at h
  simp only [encVAB, ← BitVec.toNat_ofBool] at hw
  simp only [decVAB, VAB.mk.injEq, bf, bm_eq_iff, ← BitVec.toNat_ofBool]
  omega

theorem encVAccR_reads {o : VAccR} (hw : encVAccR mj 0 o = w) (h : fitsVAccR o = true) (hm : mj < 64 := by decide) :
    w < 2 ^ 32 ∧ bf w 27 22 = mj ∧ decVAccR w = o := by
  cases o
  simp only [fitsVAccR, Bool.and_eq_true, decide_eq_true_eq] at h
  simp only [encVAccR, ← BitVec.toNat_ofBool] at hw
  simp only [decVAccR, VAccR.mk.injEq, bf, bm_eq_iff, ← BitVec.toNat_ofBool]
  omega

theorem encVA_reads {o : VA} (hw : encVA mj 0 o = w) (h : fitsVA o = true) (hm : mj < 64 := by decide) :
    w < 2 ^ 32 ∧ bf w 27 22 = mj ∧ decVA w = o := by
  cases o
  simp only [fitsVA, Bool.and_eq_true, decide_eq_true_eq] at h
  simp only [encVA, ← BitVec.toNat_ofBool] at hw
  simp only [decVA, VA.mk.injEq, bf, bm_eq_iff, ← BitVec.toNat_ofBool]
  omega

theorem encVABI_reads {o : VABI} (hw : encVABI mj 0 o = w) (h : fitsVABI o = true) (hm : mj < 64 := by decide) :
    w < 2 ^ 32 ∧ bf w 27 22 = mj ∧ decVABI w = o := by
  cases o
  simp only [fitsVABI, Bool.and_eq_true, decide_eq_true_eq] at h
  simp only [encVABI, ← BitVec.toNat_ofBool] at hw
  simp only [decVABI, VABI.mk.injEq, bf, bm_eq_iff, ← BitVec.toNat_ofBool]
  omega

theorem encVABC_reads {o : VABC} (hw : encVABC mj 0 o = w) (h : fitsVABC o = true) (hm : mj < 64 := by decide) :
    w < 2 ^ 32 ∧ bf w 27 22 = mj ∧ decVABC w = o := by
  cases o
  simp only [fitsVABC, Bool.and_eq_true, decide_eq_true_eq] at h
  simp only [encVABC, ← BitVec.toNat_ofBool] at hw
  simp only [decVABC, VABC.mk.injEq, bf, bm_eq_iff, ← BitVec.toNat_ofBool]
  omega

theorem encVAR_reads {o : VAR} (hw : encVAR mj 0 o = w) (h : fitsVAR o = true) (hm : mj < 64 := by decide) :
    w < 2 ^ 32 ∧ bf w 27 22 = mj ∧ decVAR w = o := by
  cases o
  simp only [fitsVAR, Bool.and_eq_true, decide_eq_true_eq] at h
  simp only [encVAR, ← BitVec.toNat_ofBool] at hw
  simp only [decVAR, VAR.mk.injEq, bf, bm_eq_iff, ← BitVec.toNat_ofBool]
  omega

theorem encVABUI_reads {o : VABUI} (hw : encVABUI mj 0 o = w) (h : fitsVABUI o = true) (hm : mj < 64 := by decide) :
    w < 2 ^ 32 ∧ bf w 27 22 = mj ∧ decVABUI w = o := by
  cases o
  simp only [fitsVABUI, Bool.and_eq_true, decide_eq_true_eq] at h
  simp only [encVABUI, ← BitVec.toNat_ofBool] at hw
  simp only [decVABUI, VABUI.mk.injEq, bf, bm_eq_iff, ← BitVec.toNat_ofBool]
  omega

theorem encVT_reads {o : VT} (hw : encVT mj 0 o = w) (h : fitsVT o = true) (hm : mj < 64 := by decide) :
    w < 2 ^ 32 ∧ bf w 27 22 = mj ∧ decVT w = o := by
  cases o
  simp only [fitsVT, Bool.and_eq_true, decide_eq_true_eq] at h
  simp only [encVT] at hw
  simp only [decVT, VT.mk.injEq, bf]
  omega

theorem encVPLog_reads {o : VPLog} (hw : encVPLog mj 0 o = w) (h : fitsVPLog o = true) (hm : mj < 64 := by decide) :
    w < 2 ^ 32 ∧ bf w 27 22 = mj ∧ decVPLog w = o := by
  cases o
  simp only [fitsVPLog, Bool.and_eq_true, decide_eq_true_eq] at h
  simp only [encVPLog, ← BitVec.toNat_ofBool] at hw
  simp only [decVPLog, VPLog.mk.injEq, bf, bm_eq_iff, ← BitVec.toNat_ofBool]
  omega

theorem encVPSet_reads {o : VPSet} (hw : encVPSet mj 0 o = w) (h : fitsVPSet o = true) (hm : mj < 64 := by decide) :
    w < 2 ^ 32 ∧ bf w 27 22 = mj ∧ decVPSet w = o := by
  cases o
  simp only [fitsVPSet, Bool.and_eq_true, decide_eq_true_eq] at h
  simp only [encVPSet, ← BitVec.toNat_ofBool] at hw
  simp only [decVPSet, VPSet.mk.injEq, bf, bm_eq_iff, ← BitVec.toNat_ofBool]
  omega

theorem encVPCnt_reads {o : VPCnt} (hw : encVPCnt mj 0 o = w) (h : fitsVPCnt o = true) (hm : mj < 64 := by decide) :
    w < 2 ^ 32 ∧ bf w 27 22 = mj ∧ decVPCnt w = o := by
  cases o
  simp only [fitsVPCnt, Bool.and_eq_true, decide_eq_true_eq] at h
  simp only [encVPCnt] at hw
  simp only [decVPCnt, VPCnt.mk.injEq, bf]
  omega

theorem encMCall_reads {o : MCall} (hw : encMCall mj 0 o = w) (h : fitsMCall o = true) (hm : mj < 64 := by decide) :
    w < 2 ^ 32 ∧ bf w 27 22 = mj ∧ decMCall w = o := by
  cases o
  simp only [fitsMCall, Bool.and_eq_true, decide_eq_true_eq] at h
  simp only [encMCall] at hw
  simp only [decMCall, MCall.mk.injEq, bf]
  omega

theorem encMParm_reads {o : MParm} (hw : encMParm mj 0 o = w) (h : fitsMParm o = true) (hm : mj < 64 := by decide) :
    w < 2 ^ 32 ∧ bf w 27 22 = mj ∧ decMParm w = o := by
  cases o
  simp only [fitsMParm, Bool.and_eq_true, decide_eq_true_eq] at h
  simp only [encMParm, ← BitVec.toNat_ofBool] at hw
  simp only [decMParm, MParm.mk.injEq, bf, bm_eq_iff, ← BitVec.toNat_ofBool]
  omega

theorem encMStep_reads {o : MStep} (hw : encMStep mj 0 o = w) (h : fitsMStep o = true) (hm : mj < 64 := by decide) :
    w < 2 ^ 32 ∧ bf w 27 22 = mj ∧ decMStep w = o := by
  cases o
  simp only [fitsMStep, Bool.and_eq_true, decide_eq_true_eq] at h
  simp only [encMStep, ← BitVec.toNat_ofBool] at hw
  simp only [decMStep, MStep.mk.injEq, bf, bm_eq_iff, ← BitVec.toNat_ofBool]
  omega

theorem encMStepRd_reads {o : MStepRd} (hw : encMStepRd mj 0 o = w) (h : fitsMStepRd o = true)
    (hm : mj < 64 := by decide) :
    w < 2 ^ 32 ∧ bf w 27 22 = mj ∧ decMStepRd w = o := by
  cases o
  simp only [fitsMStepRd, Bool.and_eq_true, decide_eq_true_eq] at h
  simp only [encMStepRd, ← BitVec.toNat_ofBool] at hw
  simp only [decMStepRd, MStepRd.mk.injEq, bf, bm_eq_iff, ← BitVec.toNat_ofBool]
  omega

theorem encMZero_reads {o : MZero} (hw : encMZero mj 0 o = w) (h : fitsMZero o = true) (hm : mj < 64 := by decide) :
    w < 2 ^ 32 ∧ bf w 27 22 = mj ∧ bm w 2 = false ∧ decMZero w = o := by
  cases o
  simp only [fitsMZero, Bool.and_eq_true, decide_eq_true_eq] at h
  simp only [encMZero] at hw
  simp only [decMZero, MZero.mk.injEq, bf, bm_eq_iff, Bool.toNat_false]
  omega

theorem encGC_reads {o : G} (hw : encGC mj 0x4 o = w) (h : fitsGC o = true) (hm : mj < 64 := by decide) :
    w < 2 ^ 32 ∧ bf w 27 22 = mj ∧ bm w 2 = true ∧ decGC w = o := by
  cases o
  simp only [fitsGC, decide_eq_true_eq] at h
  simp only [encGC] at hw
  simp only [decGC, G.mk.injEq, bf, bm_eq_iff, Bool.toNat_true]
  omega

theorem encYSet_reads {o : YSet} (hw : encYSet mj 0 o = w) (h : fitsYSet o = true) (hm : mj < 64 := by decide) :
    w < 2 ^ 32 ∧ bf w 27 22 = mj ∧ decYSet w = o := by
  cases o
  simp only [fitsYSet, Bool.and_eq_true, decide_eq_true_eq] at h
  simp only [encYSet, ← BitVec.toNat_ofBool] at hw
  simp only [decYSet, YSet.mk.injEq, bf, bm_eq_iff, ← BitVec.toNat_ofBool]
  omega

theorem encYGet_reads {o : YGet} (hw : encYGet mj 0 o = w) (h : fitsYGet o = true) (hm : mj < 64 := by decide) :
    w < 2 ^ 32 ∧ bf w 27 22 = mj ∧ decYGet w = o := by
  cases o
  simp only [fitsYGet, Bool.and_eq_true, decide_eq_true_eq] at h
  simp only [encYGet, ← BitVec.toNat_ofBool] at hw
  simp only [decYGet, YGet.mk.injEq, bf, bm_eq_iff, ← BitVec.toNat_ofBool]
  omega

theorem encYGo_reads {o : YGo} (hw : encYGo mj 0 o = w) (h : fitsYGo o = true) (hm : mj < 64 := by decide) :
    w < 2 ^ 32 ∧ bf w 27 22 = mj ∧ decYGo w = o := by
  cases o
  simp only [fitsYGo, Bool.and_eq_true, decide_eq_true_eq] at h
  simp only [encYGo, ← BitVec.toNat_ofBool] at hw
  simp only [decYGo, YGo.mk.injEq, bf, bm_eq_iff, ← BitVec.toNat_ofBool]
  omega

theorem encYHalt_reads {o : YHalt} (hw : encYHalt mj 0 o = w) (h : fitsYHalt o = true) (hm : mj < 64 := by decide) :
    w < 2 ^ 32 ∧ bf w 27 22 = mj ∧ bf w 4 4 = 0 ∧ decYHalt w = o := by
  cases o
  simp only [fitsYHalt, Bool.and_eq_true, decide_eq_true_eq] at h
  simp only [encYHalt] at hw
  simp only [decYHalt, YHalt.mk.injEq, bf]
  omega

theorem encGD_reads {o : G} (hw : encGD mj 0x10 o = w) (h : fitsGD o = true) (hm : mj < 64 := by decide) :
    w < 2 ^ 32 ∧ bf w 27 22 = mj ∧ bf w 4 4 = 1 ∧ decGD w = o := by
  cases o
  simp only [fitsGD, decide_eq_true_eq] at h
  simp only [encGD] at hw
  simp only [decGD, G.mk.injEq, bf]
  omega

theorem encCpy_reads {o : Cpy} (hw : encCpy mj 0 o = w) (h : fitsCpy o = true) (hm : mj < 64 := by decide) :
    w < 2 ^ 32 ∧ bf w 27 22 = mj ∧ decCpy w = o := by
  cases o
  simp only [fitsCpy, Bool.and_eq_true, decide_eq_true_eq] at h
  simp only [encCpy, ← BitVec.toNat_ofBool] at hw
  simp only [decCpy, Cpy.mk.injEq, bf, bm_eq_iff, ← BitVec.toNat_ofBool]
  omega

theorem encHAtom_reads {o : HAtom} (hw : encHAtom mj 0 o = w) (h : fitsHAtom o = true) (hm : mj < 64 := by decide) :
    w < 2 ^ 32 ∧ bf w 27 22 = mj ∧ decHAtom w = o := by
  cases o
  simp only [fitsHAtom, Bool.and_eq_true, decide_eq_true_eq] at h
  simp only [encHAtom, ← BitVec.toNat_ofBool] at hw
  simp only [decHAtom, HAtom.mk.injEq, bf, bm_eq_iff, ← BitVec.toNat_ofBool]
  omega

theorem encRed_reads {o : Red} (hw : encRed mj 0 o = w) (h : fitsRed o = true) (hm : mj < 64 := by decide) :
    w < 2 ^ 32 ∧ bf w 27 22 = mj ∧ decRed w = o := by
  cases o
  simp only [fitsRed, Bool.and_eq_true, decide_eq_true_eq] at h
  simp only [encRed, ← BitVec.toNat_ofBool] at hw
  simp only [decRed, Red.mk.injEq, bf, bm_eq_iff, ← BitVec.toNat_ofBool]
  omega

theorem encTlAdd_reads {o : TlAdd} (hw : encTlAdd mj 0 o = w) (h : fitsTlAdd o = true) (hm : mj < 64 := by decide) :
    w < 2 ^ 32 ∧ bf w 27 22 = mj ∧ decTlAdd w = o := by
  cases o
  simp only [fitsTlAdd, Bool.and_eq_true, decide_eq_true_eq] at h
  simp only [encTlAdd, ← BitVec.toNat_ofBool] at hw
  simp only [decTlAdd, TlAdd.mk.injEq, bf, bm_eq_iff, ← BitVec.toNat_ofBool]
  omega

theorem encTlWait_reads {o : TlWait} (hw : encTlWait mj 0 o = w) (h : fitsTlWait o = true) (hm : mj < 64 := by decide) :
    w < 2 ^ 32 ∧ bf w 27 22 = mj ∧ decTlWait w = o := by
  cases o
  simp only [fitsTlWait, Bool.and_eq_true, decide_eq_true_eq] at h
  simp only [encTlWait, ← BitVec.toNat_ofBool] at hw
  simp only [decTlWait, TlWait.mk.injEq, bf, bm_eq_iff, ← BitVec.toNat_ofBool]
  omega

theorem encTlRd_reads {o : TlRd} (hw : encTlRd mj 0 o = w) (h : fitsTlRd o = true) (hm : mj < 64 := by decide) :
    w < 2 ^ 32 ∧ bf w 27 22 = mj ∧ decTlRd w = o := by
  cases o
  simp only [fitsTlRd, Bool.and_eq_true, decide_eq_true_eq] at h
  simp only [encTlRd] at hw
  simp only [decTlRd, TlRd.mk.injEq, bf]
  omega

theorem encWaitA_reads {o : WaitA} (hw : encWaitA mj 0 o = w) (h : fitsWaitA o = true) (hm : mj < 64 := by decide) :
    w < 2 ^ 32 ∧ bf w 27 22 = mj ∧ decWaitA w = o := by
  cases o
  simp only [fitsWaitA, Bool.and_eq_true, decide_eq_true_eq] at h
  simp only [encWaitA, ← BitVec.toNat_ofBool] at hw
  simp only [decWaitA, WaitA.mk.injEq, bf, bm_eq_iff, ← BitVec.toNat_ofBool]
  omega

theorem encFence_reads {o : Fence} (hw : encFence mj 0 o = w) (h : fitsFence o = true) (hm : mj < 64 := by decide) :
    w < 2 ^ 32 ∧ bf w 27 22 = mj ∧ decFence w = o := by
  cases o
  simp only [fitsFence, Bool.and_eq_true, decide_eq_true_eq] at h
  simp only [encFence] at hw
  simp only [decFence, Fence.mk.injEq, bf]
  omega

theorem encLaunch_reads {o : Sys2Proof.Launch} (hw : encLaunch mj 0 o = w) (h : fitsLaunch o = true)
    (hm : mj < 64 := by decide) :
    w < 2 ^ 32 ∧ bf w 27 22 = mj ∧ decLaunch w = o := by
  cases o
  simp only [fitsLaunch, Bool.and_eq_true, decide_eq_true_eq] at h
  simp only [encLaunch, ← BitVec.toNat_ofBool] at hw
  simp only [decLaunch, Sys2Proof.Launch.mk.injEq, bf, bm_eq_iff, ← BitVec.toNat_ofBool]
  omega

theorem encKrot_reads {o : Krot} (hw : encKrot mj 0 o = w) (h : fitsKrot o = true) (hm : mj < 64 := by decide) :
    w < 2 ^ 32 ∧ bf w 27 22 = mj ∧ decKrot w = o := by
  cases o
  simp only [fitsKrot, Bool.and_eq_true, decide_eq_true_eq] at h
  simp only [encKrot, ← BitVec.toNat_ofBool] at hw
  simp only [decKrot, Krot.mk.injEq, bf, bm_eq_iff, ← BitVec.toNat_ofBool]
  omega

theorem encScrub_reads {o : Scrub} (hw : encScrub mj 0 o = w) (h : fitsScrub o = true) (hm : mj < 64 := by decide) :
    w < 2 ^ 32 ∧ bf w 27 22 = mj ∧ decScrub w = o := by
  cases o
  simp only [fitsScrub, Bool.and_eq_true, decide_eq_true_eq] at h
  simp only [encScrub, ← BitVec.toNat_ofBool] at hw
  simp only [decScrub, Scrub.mk.injEq, bf, bm_eq_iff, ← BitVec.toNat_ofBool]
  omega

theorem encDRow_reads {o : DRow} (hw : encDRow mj 0 o = w) (h : fitsDRow o = true) (hm : mj < 64 := by decide) :
    w < 2 ^ 32 ∧ bf w 27 22 = mj ∧ bf w 16 16 = 0 ∧ decDRow w = o := by
  cases o
  simp only [fitsDRow, Bool.and_eq_true, decide_eq_true_eq] at h
  simp only [encDRow] at hw
  simp only [decDRow, DRow.mk.injEq, bf]
  omega

theorem encDRowReg_reads {o : DRowReg} (hw : encDRowReg mj 0x10000 o = w) (h : fitsDRowReg o = true)
    (hm : mj < 64 := by decide) :
    w < 2 ^ 32 ∧ bf w 27 22 = mj ∧ bf w 16 16 = 1 ∧ decDRowReg w = o := by
  cases o
  simp only [fitsDRowReg, Bool.and_eq_true, decide_eq_true_eq] at h
  simp only [encDRowReg, ← BitVec.toNat_ofBool] at hw
  simp only [decDRowReg, DRowReg.mk.injEq, bf, bm_eq_iff, ← BitVec.toNat_ofBool]
  omega

theorem encDRd_reads {o : DRd} (hw : encDRd mj 0 o = w) (h : fitsDRd o = true) (hm : mj < 64 := by decide) :
    w < 2 ^ 32 ∧ bf w 27 22 = mj ∧ decDRd w = o := by
  cases o
  simp only [fitsDRd, Bool.and_eq_true, decide_eq_true_eq] at h
  simp only [encDRd, ← BitVec.toNat_ofBool] at hw
  simp only [decDRd, DRd.mk.injEq, bf, bm_eq_iff, ← BitVec.toNat_ofBool]
  omega

theorem encDWr_reads {o : DWr} (hw : encDWr mj 0 o = w) (h : fitsDWr o = true) (hm : mj < 64 := by decide) :
    w < 2 ^ 32 ∧ bf w 27 22 = mj ∧ decDWr w = o := by
  cases o
  simp only [fitsDWr, Bool.and_eq_true, decide_eq_true_eq] at h
  simp only [encDWr, ← BitVec.toNat_ofBool] at hw
  simp only [decDWr, DWr.mk.injEq, bf, bm_eq_iff, ← BitVec.toNat_ofBool]
  omega

theorem encDBank_reads {o : DBank} (hw : encDBank mj 0 o = w) (h : fitsDBank o = true) (hm : mj < 64 := by decide) :
    w < 2 ^ 32 ∧ bf w 27 22 = mj ∧ decDBank w = o := by
  cases o
  simp only [fitsDBank, Bool.and_eq_true, decide_eq_true_eq] at h
  simp only [encDBank] at hw
  simp only [decDBank, DBank.mk.injEq, bf]
  omega

theorem encDClean_reads {o : DClean} (hw : encDClean mj 0 o = w) (h : fitsDClean o = true) (hm : mj < 64 := by decide) :
    w < 2 ^ 32 ∧ bf w 27 22 = mj ∧ bf w 16 16 = 0 ∧ decDClean w = o := by
  cases o
  simp only [fitsDClean, Bool.and_eq_true, decide_eq_true_eq] at h
  simp only [encDClean, ← BitVec.toNat_ofBool] at hw
  simp only [decDClean, DClean.mk.injEq, bf, bm_eq_iff, ← BitVec.toNat_ofBool]
  omega

theorem encDCleanReg_reads {o : DCleanReg} (hw : encDCleanReg mj 0x10000 o = w) (h : fitsDCleanReg o = true)
    (hm : mj < 64 := by decide) :
    w < 2 ^ 32 ∧ bf w 27 22 = mj ∧ bf w 16 16 = 1 ∧ decDCleanReg w = o := by
  cases o
  simp only [fitsDCleanReg, Bool.and_eq_true, decide_eq_true_eq] at h
  simp only [encDCleanReg, ← BitVec.toNat_ofBool] at hw
  simp only [decDCleanReg, DCleanReg.mk.injEq, bf, bm_eq_iff, ← BitVec.toNat_ofBool]
  omega

theorem encDWait_reads {o : DWait} (hw : encDWait mj 0 o = w) (h : fitsDWait o = true) (hm : mj < 64 := by decide) :
    w < 2 ^ 32 ∧ bf w 27 22 = mj ∧ decDWait w = o := by
  cases o
  simp only [fitsDWait, Bool.and_eq_true, decide_eq_true_eq] at h
  simp only [encDWait, ← BitVec.toNat_ofBool] at hw
  simp only [decDWait, DWait.mk.injEq, bf, bm_eq_iff, ← BitVec.toNat_ofBool]
  omega

end layouts

/-! ## The row of a word (spec/02_program_image_and_encodings.md R24-R26)

Each map names, for the word of a well-formed instruction that belongs to it, that instruction: the major opcode and the
function field lead to the row, and the layout reads its operands back. -/

theorem candidateScalar_encodeWord {i : Instr} (hm : mapOf i = some .scalar) (hf : i.isWf = true) :
    encodeWord i < 2 ^ 32 ∧ candidateScalar (encodeWord i) = some i := by
  generalize hw : encodeWord i = w
  cases i <;> cases hm
  case add | sub | and | or | xor | andn | min | max | mins | maxs | shl | shr | sra | fsl | fsr | mul | mulh
    | mulhs | div | divs | rem | rems | fadd | fsub | fmul | fmin | fmax =>
    exact (encRR_reads hw hf).imp_right fun ⟨hmj, hx, ho⟩ => by simp only [candidateScalar, hmj, hx, ho]
  case mov | clz | ctz | popc | brev =>
    exact (encRU_reads hw hf).imp_right fun ⟨hmj, hx, ho⟩ => by simp only [candidateScalar, hmj, hx, ho]
  case sel => exact (encRRP_reads hw hf).imp_right fun ⟨hmj, ho⟩ => by simp only [candidateScalar, hmj, ho]
  case adds => exact (encRRK_reads hw hf).imp_right fun ⟨hmj, ho⟩ => by simp only [candidateScalar, hmj, ho]
  case cmp | fcmp =>
    exact (encCmpRR_reads hw (Bool.and_elim_left hf)).imp_right fun ⟨hmj, ho⟩ => by simp only [candidateScalar, hmj, ho]
  case cmpi =>
    exact (encCmpRI_reads hw (Bool.and_elim_left hf)).imp_right fun ⟨hmj, ho⟩ => by simp only [candidateScalar, hmj, ho]
  case addi | andi | ori | xori =>
    exact (encRI_reads hw hf).imp_right fun ⟨hmj, ho⟩ => by simp only [candidateScalar, hmj, ho]
  case shli | shri | srai =>
    exact (encRIB_reads hw hf).imp_right fun ⟨hmj, ho⟩ => by simp only [candidateScalar, hmj, ho]
  case lim | lih => exact (encRL_reads hw hf).imp_right fun ⟨hmj, ho⟩ => by simp only [candidateScalar, hmj, ho]
  case pand | por | pxor | pandn =>
    exact (encPLog_reads hw (Bool.and_elim_left hf)).imp_right fun ⟨hmj, hx, ho⟩ => by
      simp only [candidateScalar, hmj, hx, ho]
  case pset =>
    exact (encPSet_reads hw (Bool.and_elim_left hf)).imp_right fun ⟨hmj, ho⟩ => by simp only [candidateScalar, hmj, ho]
  case ffma => exact (encRRF_reads hw hf).imp_right fun ⟨hmj, ho⟩ => by simp only [candidateScalar, hmj, ho]
  case fcvt =>
    exact (encRUF_reads hw (Bool.and_elim_left hf)).imp_right fun ⟨hmj, ho⟩ => by simp only [candidateScalar, hmj, ho]
  case qlen => exact (encQLen_reads hw hf).imp_right fun ⟨hmj, hx, ho⟩ => by simp only [candidateScalar, hmj, hx, ho]
  case qclr => exact (encQReg_reads hw hf).imp_right fun ⟨hmj, hx, ho⟩ => by simp only [candidateScalar, hmj, hx, ho]
  case csrrd =>
    exact (encCsrRd_reads hw (Bool.and_elim_left hf)).imp_right fun ⟨hmj, ho⟩ => by simp only [candidateScalar, hmj, ho]
  case csrwr =>
    exact (encCsrWr_reads hw (Bool.and_elim_left hf)).imp_right fun ⟨hmj, ho⟩ => by simp only [candidateScalar, hmj, ho]

theorem candidateControl_encodeWord {i : Instr} (hm : mapOf i = some .control) (hf : i.isWf = true) :
    encodeWord i < 2 ^ 32 ∧ candidateControl (encodeWord i) = some i := by
  generalize hw : encodeWord i = w
  cases i <;> cases hm
  case br => exact (encBr_reads hw hf).imp_right fun ⟨hmj, ho⟩ => by simp only [candidateControl, hmj, ho]
  case brl => exact (encBrl_reads hw hf).imp_right fun ⟨hmj, ho⟩ => by simp only [candidateControl, hmj, ho]
  case bri => exact (encSA_reads hw hf).imp_right fun ⟨hmj, ho⟩ => by simp only [candidateControl, hmj, ho]
  case loop => exact (encLoop_reads hw hf).imp_right fun ⟨hmj, ho⟩ => by simp only [candidateControl, hmj, ho]
  case loopi => exact (encLoopI_reads hw hf).imp_right fun ⟨hmj, hx, ho⟩ => by simp only [candidateControl, hmj, hx, ho]
  case loopiK => exact (encG_reads hw hf).imp_right fun ⟨hmj, hx, ho⟩ => by simp only [candidateControl, hmj, hx, ho]
  case bswap => exact (encBswap_reads hw hf).imp_right fun ⟨hmj, ho⟩ => by simp only [candidateControl, hmj, ho]
  case ifence | eret | texit =>
    exact (encGB_reads hw hf).imp_right fun ⟨hmj, ho⟩ => by simp only [candidateControl, hmj, ho]
  case iverify =>
    exact (encIVer_reads hw (Bool.and_elim_left hf)).imp_right fun ⟨hmj, ho⟩ => by simp only [candidateControl, hmj, ho]
  case trap | bkpt => exact (encCode_reads hw hf).imp_right fun ⟨hmj, ho⟩ => by simp only [candidateControl, hmj, ho]

theorem candidateL_encodeWord {i : Instr} (hm : mapOf i = some .load) (hf : i.isWf = true) :
    encodeWord i < 2 ^ 32 ∧ candidateL (encodeWord i) = some i := by
  generalize hw : encodeWord i = w
  cases i <;> cases hm
  case ldb | ldbu | ldh | ldhu | ldw | ldwu | ldd | stb | sth | stw | std | ldc | stc | ldk =>
    exact (encRI_reads hw hf).imp_right fun ⟨hmj, ho⟩ => by simp only [candidateL, hmj, ho]
  case lds | sts => exact (encRL_reads hw hf).imp_right fun ⟨hmj, ho⟩ => by simp only [candidateL, hmj, ho]
  case vld =>
    exact (encVLd_reads hw (Bool.and_elim_left hf)).imp_right fun ⟨hmj, ho⟩ => by simp only [candidateL, hmj, ho]
  case vst => exact (encVSt_reads hw hf).imp_right fun ⟨hmj, ho⟩ => by simp only [candidateL, hmj, ho]
  case vstm => exact (encVStM_reads hw hf).imp_right fun ⟨hmj, ho⟩ => by simp only [candidateL, hmj, ho]
  case vlds =>
    exact (encVLdS_reads hw (Bool.and_elim_left hf)).imp_right fun ⟨hmj, ho⟩ => by simp only [candidateL, hmj, ho]
  case vsts => exact (encVStS_reads hw hf).imp_right fun ⟨hmj, ho⟩ => by simp only [candidateL, hmj, ho]
  case latom => exact (encLatom_reads hw hf).imp_right fun ⟨hmj, ho⟩ => by simp only [candidateL, hmj, ho]
  case sendt =>
    exact (encSendT_reads hw (Bool.and_elim_left hf)).imp_right fun ⟨hmj, ho⟩ => by simp only [candidateL, hmj, ho]
  case recvt =>
    exact (encRecvT_reads hw (Bool.and_elim_left hf)).imp_right fun ⟨hmj, ho⟩ => by simp only [candidateL, hmj, ho]

theorem candidateV_encodeWord {i : Instr} (hm : mapOf i = some .vector) (hf : i.isWf = true) :
    encodeWord i < 2 ^ 32 ∧ candidateV (encodeWord i) = some i := by
  generalize hw : encodeWord i = w
  cases i <;> cases hm
  case vadd | vsub | vmul | vfma | vfms | vmin | vmax | vand | vor | vxor | vandn | vfsl | vfsr | vsel | vqnt
    | vdqnt | vperm =>
    exact (encVAB_reads hw (Bool.and_elim_left hf)).imp_right fun ⟨hmj, ho⟩ => by simp only [candidateV, hmj, ho]
  case vaccr =>
    exact (encVAccR_reads hw (Bool.and_elim_left hf)).imp_right fun ⟨hmj, ho⟩ => by simp only [candidateV, hmj, ho]
  case vabs | vneg | vrmax | vrmin | vramax | vradd | vscan | vpack | vunpk | vclz | vpopc | vexp2 | vlog2 | vrcp
    | vrsq =>
    exact (encVA_reads hw (Bool.and_elim_left hf)).imp_right fun ⟨hmj, ho⟩ => by simp only [candidateV, hmj, ho]
  case vshl | vshr | vsra | vbcast | vextr =>
    exact (encVABI_reads hw (Bool.and_elim_left hf)).imp_right fun ⟨hmj, ho⟩ => by simp only [candidateV, hmj, ho]
  case vcmp =>
    exact (encVABC_reads hw (Bool.and_elim_left hf)).imp_right fun ⟨hmj, ho⟩ => by simp only [candidateV, hmj, ho]
  case vcvt =>
    exact (encVAR_reads hw (Bool.and_elim_left hf)).imp_right fun ⟨hmj, ho⟩ => by simp only [candidateV, hmj, ho]
  case vrot =>
    exact (encVABUI_reads hw (Bool.and_elim_left hf)).imp_right fun ⟨hmj, ho⟩ => by simp only [candidateV, hmj, ho]
  case viota =>
    exact (encVT_reads hw (Bool.and_elim_left hf)).imp_right fun ⟨hmj, ho⟩ => by simp only [candidateV, hmj, ho]
  case vpand | vpor | vpxor =>
    exact (encVPLog_reads hw (Bool.and_elim_left hf)).imp_right fun ⟨hmj, ho⟩ => by simp only [candidateV, hmj, ho]
  case vpset =>
    exact (encVPSet_reads hw (Bool.and_elim_left hf)).imp_right fun ⟨hmj, ho⟩ => by simp only [candidateV, hmj, ho]
  case vpcnt =>
    exact (encVPCnt_reads hw (Bool.and_elim_left hf)).imp_right fun ⟨hmj, ho⟩ => by simp only [candidateV, hmj, ho]

theorem candidateM_encodeWord {i : Instr} (hm : mapOf i = some .matrix) (hf : i.isWf = true) :
    encodeWord i < 2 ^ 32 ∧ candidateM (encodeWord i) = some i := by
  generalize hw : encodeWord i = w
  cases i <;> cases hm
  case mcall =>
    exact (encMCall_reads hw (Bool.and_elim_left hf)).imp_right fun ⟨hmj, ho⟩ => by simp only [candidateM, hmj, ho]
  case mparm => exact (encMParm_reads hw hf).imp_right fun ⟨hmj, ho⟩ => by simp only [candidateM, hmj, ho]
  case mstep => exact (encMStep_reads hw hf).imp_right fun ⟨hmj, ho⟩ => by simp only [candidateM, hmj, ho]
  case msteprd => exact (encMStepRd_reads hw hf).imp_right fun ⟨hmj, ho⟩ => by simp only [candidateM, hmj, ho]
  case mzero => exact (encMZero_reads hw hf).imp_right fun ⟨hmj, hx, ho⟩ => by simp [candidateM, hmj, hx, ho]
  case mzeroAll => exact (encGC_reads hw hf).imp_right fun ⟨hmj, hx, ho⟩ => by simp [candidateM, hmj, hx, ho]
  case mmpc => exact (encSA_reads hw hf).imp_right fun ⟨hmj, ho⟩ => by simp only [candidateM, hmj, ho]

/-- Last come CPY, CPYR, SEAL and UNSEAL, which share a layout. -/
theorem candidateY_encodeWord {i : Instr} (hm : mapOf i = some .sync) (hf : i.isWf = true) :
    encodeWord i < 2 ^ 32 ∧ candidateY (encodeWord i) = some i := by
  generalize hw : encodeWord i = w
  cases i <;> cases hm
  case yset => exact (encYSet_reads hw hf).imp_right fun ⟨hmj, ho⟩ => by simp only [candidateY, hmj, ho]
  case yget => exact (encYGet_reads hw hf).imp_right fun ⟨hmj, ho⟩ => by simp only [candidateY, hmj, ho]
  case ygo => exact (encYGo_reads hw hf).imp_right fun ⟨hmj, ho⟩ => by simp only [candidateY, hmj, ho]
  case yhalt => exact (encYHalt_reads hw hf).imp_right fun ⟨hmj, hx, ho⟩ => by simp only [candidateY, hmj, hx, ho]
  case yhaltAll => exact (encGD_reads hw hf).imp_right fun ⟨hmj, hx, ho⟩ => by simp only [candidateY, hmj, hx, ho]
  case hatom =>
    exact (encHAtom_reads hw (Bool.and_elim_left hf)).imp_right fun ⟨hmj, ho⟩ => by simp only [candidateY, hmj, ho]
  case red => exact (encRed_reads hw hf).imp_right fun ⟨hmj, ho⟩ => by simp only [candidateY, hmj, ho]
  case tladd => exact (encTlAdd_reads hw hf).imp_right fun ⟨hmj, ho⟩ => by simp only [candidateY, hmj, ho]
  case tlwait | tlpoll =>
    exact (encTlWait_reads hw (Bool.and_elim_left hf)).imp_right fun ⟨hmj, ho⟩ => by simp only [candidateY, hmj, ho]
  case tlrd => exact (encTlRd_reads hw hf).imp_right fun ⟨hmj, ho⟩ => by simp only [candidateY, hmj, ho]
  case waita =>
    exact (encWaitA_reads hw (Bool.and_elim_left hf)).imp_right fun ⟨hmj, ho⟩ => by simp only [candidateY, hmj, ho]
  case bar | bara | bard => exact (encGB_reads hw hf).imp_right fun ⟨hmj, ho⟩ => by simp only [candidateY, hmj, ho]
  case fence =>
    exact (encFence_reads hw (Bool.and_elim_left hf)).imp_right fun ⟨hmj, ho⟩ => by simp only [candidateY, hmj, ho]
  case launch =>
    exact (encLaunch_reads hw (Bool.and_elim_left hf)).imp_right fun ⟨hmj, ho⟩ => by simp only [candidateY, hmj, ho]
  case krot => exact (encKrot_reads hw hf).imp_right fun ⟨hmj, ho⟩ => by simp only [candidateY, hmj, ho]
  case scrub =>
    exact (encScrub_reads hw (Bool.and_elim_left hf)).imp_right fun ⟨hmj, ho⟩ => by simp only [candidateY, hmj, ho]
  all_goals exact (encCpy_reads hw hf).imp_right fun ⟨hmj, ho⟩ => by simp only [candidateY, hmj, ho]

theorem candidateD_encodeWord {i : Instr} (hm : mapOf i = some .channel) (hf : i.isWf = true) :
    encodeWord i < 2 ^ 32 ∧ candidateD (encodeWord i) = some i := by
  generalize hw : encodeWord i = w
  cases i <;> cases hm
  case dact | dprom => exact (encDRow_reads hw hf).imp_right fun ⟨hmj, hx, ho⟩ => by simp only [candidateD, hmj, hx, ho]
  case dactReg | dpromReg =>
    exact (encDRowReg_reads hw hf).imp_right fun ⟨hmj, hx, ho⟩ => by simp only [candidateD, hmj, hx, ho]
  case drd =>
    exact (encDRd_reads hw (Bool.and_elim_left hf)).imp_right fun ⟨hmj, ho⟩ => by simp only [candidateD, hmj, ho]
  case dwr =>
    exact (encDWr_reads hw (Bool.and_elim_left hf)).imp_right fun ⟨hmj, ho⟩ => by simp only [candidateD, hmj, ho]
  case dpre | drefp | dinit =>
    exact (encDBank_reads hw hf).imp_right fun ⟨hmj, ho⟩ => by simp only [candidateD, hmj, ho]
  case dprea | dref => exact (encGB_reads hw hf).imp_right fun ⟨hmj, ho⟩ => by simp only [candidateD, hmj, ho]
  case dclean => exact (encDClean_reads hw hf).imp_right fun ⟨hmj, hx, ho⟩ => by simp only [candidateD, hmj, hx, ho]
  case dcleanReg =>
    exact (encDCleanReg_reads hw hf).imp_right fun ⟨hmj, hx, ho⟩ => by simp only [candidateD, hmj, hx, ho]
  case dwait => exact (encDWait_reads hw hf).imp_right fun ⟨hmj, ho⟩ => by simp only [candidateD, hmj, ho]

/-- The row that a word names in each of the opcode maps. -/
def candidateIn : WordMap → Nat → Option Instr
  | .scalar => candidateScalar
  | .control => candidateControl
  | .load => candidateL
  | .vector => candidateV
  | .matrix => candidateM
  | .sync => candidateY
  | .channel => candidateD

theorem candidateIn_encodeWord {m : WordMap} {i : Instr} (hm : mapOf i = some m) (hf : i.isWf = true) :
    encodeWord i < 2 ^ 32 ∧ candidateIn m (encodeWord i) = some i := by
  cases m with
  | scalar => exact candidateScalar_encodeWord hm hf
  | control => exact candidateControl_encodeWord hm hf
  | load => exact candidateL_encodeWord hm hf
  | vector => exact candidateV_encodeWord hm hf
  | matrix => exact candidateM_encodeWord hm hf
  | sync => exact candidateY_encodeWord hm hf
  | channel => exact candidateD_encodeWord hm hf

/-! ## What a map names belongs to it -/

theorem candidateScalar_eq_some {w : Nat} {i : Instr} (h : candidateScalar w = some i) :
    mapOf i = some .scalar ∧ bf w 27 22 < 0x30 := by
  simp only [candidateScalar] at h
  repeat' split at h
  all_goals cases h <;> exact ⟨rfl, by omega⟩

theorem candidateControl_eq_some {w : Nat} {i : Instr} (h : candidateControl w = some i) :
    mapOf i = some .control ∧ 0x30 ≤ bf w 27 22 := by
  simp only [candidateControl] at h
  repeat' split at h
  all_goals cases h <;> exact ⟨rfl, by omega⟩

theorem mapOf_of_candidateIn {m : WordMap} {w : Nat} {i : Instr} (h : candidateIn m w = some i) : mapOf i = some m := by
  cases m
  case scalar => exact (candidateScalar_eq_some h).1
  case control => exact (candidateControl_eq_some h).1
  all_goals
    simp only [candidateIn, candidateL, candidateV, candidateM, candidateY, candidateD] at h
    repeat' split at h
    all_goals cases h <;> rfl

/-- A slot names a row by one of its maps: the A slot's two have different majors. -/
theorem candidate_eq_some {k : CoreKind} {sl : Slot} {w : Nat} {i : Instr} :
    candidate k sl w = some i ↔ ∃ m ∈ slotMaps k sl, candidateIn m w = some i := by
  cases sl with
  | a =>
    simp only [candidate, slotMaps, List.mem_cons, List.not_mem_nil, or_false, exists_eq_or_imp, exists_eq_left,
      candidateIn]
    constructor
    · intro h
      split at h
      · exact .inl h
      · exact .inr h
    · rintro (h | h)
      · rwa [if_pos (candidateScalar_eq_some h).2]
      · rwa [if_neg (Nat.not_lt.2 (candidateControl_eq_some h).2)]
  | l => cases k <;> simp [candidate, slotMaps, candidateIn]
  | b | v0 | v1 | m | y => simp [candidate, slotMaps, candidateIn]

/-! ## What a slot decodes, and what it takes -/

theorem decodeSlot_eq_ok {k : CoreKind} {sl : Slot} {w : Nat} {i : Instr} :
    decodeSlot k sl w = .ok i ↔ (k.hasSlot sl = true ∧ unassignedOn k sl (bf w 27 22) = false) ∧
      candidate k sl w = some i ∧ (encodeWord i = w ∧ i.isWf = true) ∧ allowedOn k i = true := by
  simp only [decodeSlot, checkWord]
  cases candidate k sl w with
  | none => simp
  | some j => grind

theorem slotTakes_eq_true {k : CoreKind} {sl : Slot} {i : Instr} :
    slotTakes k sl i = true ↔ (k.hasSlot sl = true ∧ unassignedOn k sl (bf (encodeWord i) 27 22) = false) ∧
      (∃ m ∈ slotMaps k sl, mapOf i = some m) ∧ allowedOn k i = true := by
  simp only [slotTakes, Bool.and_eq_true, Bool.not_eq_true', Option.any_eq_true, List.elem_eq_mem, decide_eq_true_eq]
  tauto

/-- Settles O57: a slot takes an instruction of one of its maps; that map names the instruction for its word, and names only
its own instructions. -/
theorem decodeEncodeAgree : Obligations.DecodeEncodeAgree := by
  refine ⟨fun i k sl hf ht => ?_, fun i k sl w h => ?_⟩
  · obtain ⟨hslot, ⟨m, hm, hi⟩, hk⟩ := slotTakes_eq_true.1 ht
    obtain ⟨hlt, hc⟩ := candidateIn_encodeWord hi hf
    exact ⟨hlt, decodeSlot_eq_ok.2 ⟨hslot, candidate_eq_some.2 ⟨m, hm, hc⟩, ⟨rfl, hf⟩, hk⟩⟩
  · obtain ⟨hslot, hc, ⟨rfl, hf⟩, hk⟩ := decodeSlot_eq_ok.1 h
    obtain ⟨m, hm, hi⟩ := candidate_eq_some.1 hc
    exact ⟨rfl, hf, slotTakes_eq_true.2 ⟨hslot, ⟨m, hm, mapOf_of_candidateIn hi⟩, hk⟩⟩

/-! ## A result that is written (R141, R226) -/

theorem writeReg_ok {L r : Nat} {c : Option Nat} {push : Bool} {v : Word} {s t : State}
    (h : dest r push s = .ok (c, t)) : writeReg L r push v s = .ok (landReg L r c v t) := by
  simp only [writeReg, h]

theorem writeVec_ok {L d c : Nat} {v : Vec} {s t : State} (h : vdest d s = .ok (c, t)) :
    writeVec L d v s = .ok (land L (.vreg (routeFile d) (routeQueue d) c v) t) := by
  simp only [writeVec, h]

theorem length_zeroFalse (m : W256) (w : Nat) (l : List Nat) : (zeroFalse m w l).length = l.length := by
  simp [zeroFalse]

theorem getD_zeroFalse (m : W256) (w : Nat) {l : List Nat} {i : Nat} (h : i < l.length) :
    (zeroFalse m w l).getD i 0 = if governs m w i then l.getD i 0 else 0 := by
  simp [zeroFalse, List.getD, h]

/-- The lanes of a governed vector that holds `f i` in lane `i`. -/
theorem lanesAre_zeroFalse (ty : VType) (m : W256) (f : Nat → Nat) :
    lanesAre ty m f (zeroFalse m ty.w ((List.range ty.nl).map f)) := by
  refine ⟨by simp [length_zeroFalse], fun i hi => ?_⟩
  rw [getD_zeroFalse m ty.w (by simpa using hi)]
  simp [List.getD, hi]

/-! ## Lane predicates and lane numbers (R250, R251) -/

theorem formVPLog_ok {o : VPLog} {op : W256 → W256 → W256} {s : State} {u : Issue} (h : slotRuns o.g u s) :
    formVPLog o op s = slotDone u (land 1 (.vp (o.t % 8)
      (op (vpOf (curCtx s) o.a) (if o.n then ~~~vpOf (curCtx s) o.b else vpOf (curCtx s) o.b))) s) := slot_ok h rfl

theorem execVpset_ok {o : VPSet} {s : State} {u : Issue} (h : slotRuns o.g u s) :
    execVpset o s = slotDone u (land 1 (.vp (o.t % 8) (if o.v then BitVec.allOnes 256 else 0)) s) := slot_ok h rfl

/-- The number of a lane, as VIOTA lands it in the type (R251). -/
def iotaLane (ty : VType) (i : Nat) : Nat :=
  match ty.elem with
  | .int w _ => i % 2 ^ w
  | .flt f => roundTo f 0 false 0 (.fin false i 0)

theorem execViota_ok {o : VT} {s t : State} {u : Issue} {c : Nat} (h : slotRuns o.g u s) (hq : routeHeld o.t s = true)
    (hd : vdest o.t s = .ok (c, t)) :
    execViota o s = slotDone u (land 3 (.vreg (routeFile o.t) (routeQueue o.t) c (lanesVec (curVType s).w
      (zeroFalse (vpOf (curCtx s) o.l) (curVType s).w ((List.range (curVType s).nl).map (iotaLane (curVType s)))))) t) := by
  refine slot_ok h ?_
  simp only [hq, need, if_true, bind, Except.bind, writeVec_ok hd]
  rfl

theorem execVpcnt_ok {o : VPCnt} {s t : State} {u : Issue} {c : Option Nat} (h : slotRuns o.g u s)
    (hd : dest (o.t % 32) true s = .ok (c, t)) :
    execVpcnt o s = slotDone u (landReg 3 (o.t % 32) c
      (wd (if o.x = 0 then (trueLanes (curVType s) (vpOf (curCtx s) o.a)).length
        else (trueLanes (curVType s) (vpOf (curCtx s) o.a)).headD (curVType s).nl)) t) := slot_ok h (writeReg_ok hd)

/-! ## Where a vector result goes (R23, R226) -/

theorem elem_of_le_two {ty : VType} (h : ty.et ≤ 2) : ty.elem = .int ty.w ty.u ∧ ty.w ≤ 32 := by
  have he : ty.et = 0 ∨ ty.et = 1 ∨ ty.et = 2 := by omega
  rcases he with he | he | he <;> simp [VType.w, VType.elem, he, Elem.width]

theorem elem_of_three_le {ty : VType} (h : 3 ≤ ty.et) : ∃ f, ty.elem = .flt f := by
  unfold VType.elem
  split
  case h_1 | h_2 | h_3 => omega
  case h_4 => exact ⟨.bf16, rfl⟩
  case h_5 => exact ⟨.fp32, rfl⟩

theorem sext_bounds {w : Nat} (hw : w ≤ 32) (x : Nat) : -2 ^ 63 ≤ sext w x ∧ sext w x < 2 ^ 63 := by
  have hp : 2 ^ w ≤ 2 ^ 32 := Nat.pow_le_pow_right (by decide) hw
  have hx : x % 2 ^ w < 2 ^ w := Nat.mod_lt _ (Nat.two_pow_pos w)
  simp only [sext]
  split <;> omega

theorem scalarLane_signed {ty : VType} (h : ty.et ≤ 2) (hu : ty.u = false) (x : Nat) :
    (scalarLane ty false x).toInt = sext ty.w x := by
  obtain ⟨he, hw⟩ := elem_of_le_two h
  obtain ⟨hlo, hhi⟩ := sext_bounds hw x
  simp only [scalarLane, he, intOf, hu, Bool.false_eq_true, if_false]
  exact BitVec.toInt_ofInt_eq_self (by decide) hlo hhi

theorem scalarLane_unsigned {ty : VType} (h : ty.et ≤ 2) (hu : ty.u = true) (x : Nat) :
    (scalarLane ty false x).toNat = x % 2 ^ ty.w := by
  obtain ⟨he, hw⟩ := elem_of_le_two h
  have hp : 2 ^ ty.w ≤ 2 ^ 32 := Nat.pow_le_pow_right (by decide) hw
  have hx : x % 2 ^ ty.w < 2 ^ ty.w := Nat.mod_lt _ (Nat.two_pow_pos _)
  simp only [scalarLane, he, intOf, hu, Bool.false_eq_true, if_false, if_true, BitVec.ofInt_natCast, BitVec.toNat_ofNat]
  omega

theorem scalarLane_zext {ty : VType} {zx : Bool} (h : 3 ≤ ty.et ∨ zx = true) (x : Nat) : scalarLane ty zx x = wd x := by
  rcases h with h | rfl
  · obtain ⟨f, he⟩ := elem_of_three_le h
    simp only [scalarLane, he]
  · simp only [scalarLane]
    split <;> rfl

theorem routeLanes_scalar {L d w : Nat} {ty : VType} {zx : Bool} {l : List Nat} {c : Option Nat} {s t : State}
    (hr : dstScalar d = true) (hd : dest (d % 32) true s = .ok (c, t)) :
    routeLanes L d ty zx w l s = .ok (landReg L (d % 32) c (scalarLane ty zx (l.getD 0 0)) t) := by
  rw [routeLanes, if_pos hr, List.headD_eq_getD, writeReg_ok hd]

theorem routeLanes_queue {L d w c : Nat} {ty : VType} {zx : Bool} {l : List Nat} {s t : State}
    (hr : dstScalar d = false) (hd : vdest d s = .ok (c, t)) :
    routeLanes L d ty zx w l s = .ok (land L (.vreg (routeFile d) (routeQueue d) c (lanesVec w l)) t) := by
  rw [routeLanes, if_neg (by simp [hr]), writeVec_ok hd]

/-! ## Traps of a vector slot (R225, R230) -/

section traps
variable {L : Nat} {ok : VType → Bool} {draws : VType → Nat} {s : State} {u : Issue}

theorem formV2_trap_type {o : VAB} {op : VType → W256 → Nat → Nat → List Nat → List Nat} (h : slotRuns o.g u s)
    (hok : ok (curVType s) = false) : formV2 o L ok draws op s = .next (slotTrap 0x01 s) :=
  slot_trap h (by simp [need, hok, bind, Except.bind])

theorem formV2_trap_queue {o : VAB} {op : VType → W256 → Nat → Nat → List Nat → List Nat} (h : slotRuns o.g u s)
    (hok : ok (curVType s) = true) (hq : qHeld o.a s = false ∨ qHeld o.b s = false ∨ routeHeld o.t s = false) :
    formV2 o L ok draws op s = .next (slotTrap 0x09 s) := by
  refine slot_trap h ?_
  rcases hq with hq | hq | hq <;> simp [need, hok, hq, bind, Except.bind]

theorem formV1_trap_type {o : VA} {zx : Bool} {op : VType → W256 → Nat → List Nat → List Nat} (h : slotRuns o.g u s)
    (hok : ok (curVType s) = false) : formV1 o L ok draws zx op s = .next (slotTrap 0x01 s) :=
  slot_trap h (by simp [need, hok, bind, Except.bind])

theorem formVFun_trap_type {o : VA} {f : Val → Val} (h : slotRuns o.g u s) (hf : (curVType s).isFloat = false) :
    formVFun o f s = .next (slotTrap 0x01 s) := formV1_trap_type (ok := floatType) h hf

theorem execVqnt_trap_type {o : VAB} (h : slotRuns o.g u s) (hf : quantType (curVType s) = false) :
    execVqnt o s = .next (slotTrap 0x01 s) :=
  slot_trap h (by simp [need, hf, bind, Except.bind])

end traps

/-- Settles O25: each word is one slot whose body completes, or whose first check fails. -/
theorem vectorPredicatesAndRouting : Obligations.VectorPredicatesAndRouting := by
  refine ⟨⟨fun o s u h => ⟨formVPLog_ok h, formVPLog_ok h, formVPLog_ok h⟩, fun o s u h => ?_, fun o s t u c h hd => ?_,
    fun o s t u c h hq hd => ?_⟩, fun L d ty zx w l s => ⟨fun hr c t hd => ?_, fun hr c t hd => routeLanes_queue hr hd⟩,
    fun o s u h => ⟨fun hf => ?_, fun hq => ?_⟩, fun o s u h hf => ?_⟩
  · refine ⟨_, execVpset_ok h, fun i hi => ?_⟩
    cases o.v
    · exact BitVec.getLsbD_zero
    · simp only [if_true, BitVec.getLsbD_allOnes, hi, decide_true]
  · exact ⟨_, execVpcnt_ok h hd, rfl⟩
  · exact ⟨_, execViota_ok h hq hd, lanesAre_zeroFalse _ _ _⟩
  · refine ⟨_, routeLanes_scalar hr hd, fun he hz hu => ?_, fun he hz hu => ?_, fun he => ?_⟩
    · rw [hz, scalarLane_signed he hu]
    · rw [hz, scalarLane_unsigned he hu]
    · rw [scalarLane_zext he, wd, BitVec.toNat_ofNat]
  · have hk : quantType (curVType s) = false := by simp only [quantType, hf, Bool.false_and]
    simp only [slotTraps, exec_vqnt, exec_vdqnt]
    exact ⟨execVqnt_trap_type h hk, formV2_trap_type h hk⟩
  · simp only [slotTraps, exec_vadd, exec_vmul, exec_vperm]
    exact ⟨formV2_trap_queue h rfl hq, formV2_trap_queue h rfl hq, formV2_trap_queue h rfl hq⟩
  · simp only [slotTraps, exec_vexp2, exec_vlog2, exec_vrcp, exec_vrsq]
    exact ⟨formVFun_trap_type h hf, formVFun_trap_type h hf, formVFun_trap_type h hf, formVFun_trap_type h hf⟩

/-! ## BUNDLE_ISSUE (spec/06_fetch_and_issue.md R121) -/

theorem onlyContexts_trans {s t r : State} (h : onlyContexts s t) (h' : onlyContexts t r) : onlyContexts s r := by
  unfold onlyContexts at h h' ⊢
  rw [h', h]

theorem onlyContexts_countEvent (a : Agent) (e n : Nat) (s : State) : onlyContexts s (countEvent a e n s) := by
  simp only [countEvent]
  split <;> rfl

theorem onlyContexts_openBundle (a : Agent) (pc : Nat) (h : Header) (hw : Nat) (l : List SlotWord) (s : State) :
    onlyContexts s (openBundle a pc h hw l s) :=
  onlyContexts_trans (t := setCtx s a _) rfl (onlyContexts_trans (onlyContexts_countEvent a 0x01 1 _) rfl)

/-- Settles O40: BUNDLE_ISSUE makes its tests in the order of the clauses. -/
theorem bundleIssueResult : Obligations.BundleIssueResult := by
  intro a s pc at_
  simp only [exec_bundleIssue, execBundleIssue]
  refine ⟨fun hc => by simp only [hc, Bool.not_false, if_true], fun hc hn hd hb => ?_⟩
  simp only [hc, hn, hd, hb, Bool.not_true, Bool.false_eq_true, if_false]
  refine ⟨fun hr => if_pos hr, fun hr => ?_⟩
  simp only [hr, Bool.false_eq_true, if_false]
  refine ⟨fun sl w e he => ?_, fun h l hok => ⟨fun f hf => ?_, fun hf => ?_⟩⟩
  · rw [he]
  · rw [hok]
    simp only [hf]
  · rw [hok]
    simp only [hf]
    exact ⟨_, _, rfl, rfl, rfl, rfl, rfl, rfl, rfl, rfl, rfl, rfl, onlyContexts_openBundle _ _ _ _ _ _⟩

/-! ## The manual's words -/

/-- Settles O56: the decoder computes on each of the words. -/
theorem manualWords : Obligations.ManualWords := by
  unfold Obligations.ManualWords
  decide

end Sys2Proof.Proofs

/-!
PROOFS. Admission and trust: the registers, debug commands and memory requests of the host (O48), SPDM (O49), the requests of a
manager (O50), device interfaces (O53), the commands of the PF driver (O54), resets (O55) and the state that one leaves (O59).
-/

namespace Sys2Proof.Proofs
open Sys2Proof Sys2Proof.Machine Sys2Proof.Laws

/-! ## The checks that a request of the mailbox passes (spec/03_admission_and_trust.md R46, R50, R60, R381, R433) -/

section requests

variable {name : String} {s : State} {n : Nat} {x : Session} {k : State → State} {body : Session → State → State}

theorem configReq_ready (h : s.ready = true) : configReq name s k = .next (k s) := by simp only [configReq, h, if_true]

theorem loggedReq_room (h : s.ready = true) (hl : logFull s = false) : loggedReq name s k = .next (k s) := by
  simp only [loggedReq, configReq_ready h, hl, Bool.false_eq_true, if_false]

theorem versionReq_accepted (h : s.ready = true) {v : Nat} (hv : v = 0x13) : versionReq name v s k = .next (k s) := by
  simp only [versionReq, configReq_ready h, hv, spdmVersion, if_true]

theorem versionReq_refused (h : s.ready = true) {v : Nat} (hv : v ≠ 0x13) :
    versionReq name v s k = .next (emit s (.spdmError name "VersionMismatch")) := by
  simp only [versionReq, configReq_ready h, spdmVersion, hv, if_false, answerError]

theorem inSession_finished (hv : s.mailVersion = 0x13) (hx : sessionOf s n = some x) (hf : x.finished = true) :
    inSession name n body s = body x s := by
  simp only [inSession, spdmVersion, hv, hx, hf, if_true]

theorem inSession_refused (hv : s.mailVersion ≠ 0x13) :
    inSession name n body s = emit s (.spdmError name "VersionMismatch") := by
  simp only [inSession, spdmVersion, hv, if_false, answerError]

theorem tdispReq_accepted (h : s.ready = true) (hv : s.mailVersion = 0x13) (hx : sessionOf s n = some x)
    (hf : x.finished = true) {f : Nat} (hb : x.func = some 0 ∨ x.func = some f) (h0 : f ≠ 0) (he : enabledFunc s f = true) :
    tdispReq name n f s k = .next (k s) := by
  rw [tdispReq, configReq_ready h, inSession_finished hv hx hf]
  rcases hb with hb | hb <;> simp [hb, h0, he]

end requests

/-! ## Folds over the state -/

/-- What each step of a fold keeps, the fold keeps. -/
theorem foldl_keeps {σ α β : Type} (p : σ → β) {f : σ → α → σ} (hf : ∀ s a, p (f s a) = p s) (l : List α) (s : σ) :
    p (l.foldl f s) = p s := by
  induction l generalizing s with
  | nil => rfl
  | cons a l ih => exact (ih _).trans (hf s a)

/-! ## Sessions (R46, R50) -/

theorem sessionOf_id {s : State} {n : Nat} {x : Session} (h : sessionOf s n = some x) : x.id = n := by
  simpa using List.find?_some h

/-- A change that keeps the numbers of the sessions is read back of the session that it names. -/
theorem sessionOf_modSession (s : State) (n : Nat) {f : Session → Session} (hf : ∀ x, (f x).id = x.id) :
    sessionOf (modSession s n f) n = (sessionOf s n).map f := by
  simp only [sessionOf, modSession]
  induction s.sessions with
  | nil => rfl
  | cons y l ih =>
    by_cases hy : y.id = n <;> simp [hy, hf, ih]

/-! ## The state at device reset -/

/-- Settles O59: `State.reset` computes to each value; the tables are empty, and world 0 and world 1 differ from a bare world
in key and policy alone. -/
theorem resetState : Obligations.ResetState := by
  refine ⟨rfl, rfl, rfl, rfl, rfl, rfl, rfl, rfl, rfl, rfl, rfl, rfl, fun p => rfl, rfl, rfl, fun a => rfl,
    fun ch => ⟨rfl, rfl⟩, fun c => rfl, fun f => ⟨rfl, rfl, rfl⟩, fun w => ?_⟩
  match w with
  | 0 | 1 => exact ⟨rfl, rfl, rfl⟩
  | w + 2 => simp [worldOf, State.reset, tabGet, World.reset]

/-! ## Resets (spec/20_observation_and_bring_up.md R432-R434; R71) -/

/-- A hot reset takes new keys for the host's worlds, and where the package is ready a new log. -/
theorem hotState_frame (s : State) : (hotState s).gcyc = s.gcyc ∧ (hotState s).hbm = s.hbm ∧ (hotState s).ready = s.ready ∧
    (hotState s).ctxs = State.reset.ctxs ∧ (hotState s).sessions = [] := by
  simp only [hotState]
  split <;> exact ⟨rfl, rfl, rfl, rfl, rfl⟩

/-- Settles O55: each reset is a state written out field by field, and a bring-up ends in one of two. -/
theorem resetEvents : Obligations.ResetEvents := by
  intro s
  refine ⟨⟨_, _, rfl, rfl, rfl, rfl, rfl, rfl, rfl, rfl, rfl, rfl, rfl, Nat.le_add_right _ _⟩, ?_, fun n hb hn => ?_,
    fun n hb hn => ?_, fun d => ⟨fun h => ?_, fun h => ?_⟩⟩
  · obtain ⟨hg, hm, hr, hc, hs⟩ := hotState_frame s
    exact ⟨hotState s, rfl, rfl, hg, hm, hr, hc, hs, rfl⟩
  · simp only [exec_bringUpComplete, execBringUpComplete, hb, Option.elim_some, hn, decide_true, if_true]
    split
    next => exact ⟨_, rfl, rfl, .inl rfl⟩
    next hfail =>
      exact ⟨_, rfl, rfl, .inr ⟨rfl, fun h0 => hfail (Bool.or_eq_true_iff.2 (.inr (beq_iff_eq.2 h0)))⟩⟩
  · simp only [exec_bringUpComplete, execBringUpComplete, hb, Option.elim_some, Nat.not_le.2 hn, decide_false,
      Bool.false_eq_true, if_false]
  · simp only [exec_dieCutOff, execDieCutOff, h, if_true]
  · simp only [exec_dieCutOff, execDieCutOff, h, Bool.false_eq_true, if_false]
    exact ⟨_, rfl, rfl⟩

/-! ## The registers of the PF (spec/03_admission_and_trust.md R437; R109, R381) -/

/-- WINBASE holds the multiples of 4 GiB up to that of 111. -/
theorem winbase_form (v : Word) : (v.toNat = bits v 38 32 * 2 ^ 32 && decide (bits v 38 32 ≤ 111)) = true ↔
    v.toNat % 2 ^ 32 = 0 ∧ v.toNat ≤ 0x6F00000000 := by
  rw [Bool.and_eq_true, decide_eq_true_eq, decide_eq_true_eq, bits, bf]
  omega

theorem exec_winbaseWrite_eq (v : Word) (s : State) : exec (.winbaseWrite v) s =
    .next (if v.toNat % 2 ^ 32 = 0 ∧ v.toNat ≤ 0x6F00000000 then { s with winbase := v } else s) := by
  rw [exec_winbaseWrite, execWinbaseWrite]
  exact congrArg Host.Outcome.next (if_congr (winbase_form v) rfl rfl)

theorem exec_trootWrite_drops (v : Word) (s : State) : ∃ t, exec (.trootWrite v) s = .next t ∧ (worldOf t 1).troot = v.toNat ∧
    ∀ p ∈ t.trans, p.1 / 2 ^ 40 % 64 ≠ 1 := by
  refine ⟨_, rfl, ?_, fun p hp => bne_iff_ne.1 (List.mem_filter.1 hp).2⟩
  exact congrArg World.troot (worldOf_modWorld s 1 fun x => { x with troot := v.toNat })

theorem exec_logbaseWrite_sets {v : Word} {s : State} (ho : logOutstanding s = false) (hv : v.toNat % 4096 = 0) :
    exec (.logbaseWrite v) s = .next { s with log := { s.log with base := v.toNat } } := by
  rw [exec_logbaseWrite, execLogbaseWrite, if_neg (by simp [ho, hv])]

theorem exec_logsizeWrite_sets {v : Word} {s : State} (ho : logOutstanding s = false) (hlo : 2 ^ 12 ≤ v.toNat)
    (hhi : v.toNat ≤ 2 ^ 24) : exec (.logsizeWrite v) s = .next { s with log := { s.log with size := v.toNat } } := by
  have hsize : (logOutstanding s || decide (v.toNat < 2 ^ 12) || decide (2 ^ 24 < v.toNat)) = false := by
    rw [ho, decide_eq_false (Nat.not_lt.2 hlo), decide_eq_false (Nat.not_lt.2 hhi)]
    rfl
  rw [exec_logsizeWrite, execLogsizeWrite, if_neg (Bool.eq_false_iff.1 hsize)]

theorem exec_logWrites_outstanding {v : Word} {s : State} (ho : logOutstanding s = true) :
    exec (.logbaseWrite v) s = .next s ∧ exec (.logsizeWrite v) s = .next s := by
  rw [exec_logbaseWrite, execLogbaseWrite, exec_logsizeWrite, execLogsizeWrite, if_pos (by simp [ho]), if_pos (by simp [ho])]
  exact ⟨rfl, rfl⟩

/-! ## Debug commands (spec/20_observation_and_bring_up.md R427-R430) -/

/-- A command sets DENIED as its world's policy has it, and acts only where that allows it. -/
theorem debugCommand_eq (allowed : Bool) (k : State → State) (s : State) : debugCommand allowed k s =
    .next (if allowed then k { s with dbg := { s.dbg with stat := 0 } } else { s with dbg := { s.dbg with stat := 2 } }) := rfl

theorem exec_bkptpcWrite_eq (v : Word) (s : State) : exec (.bkptpcWrite v) s =
    debugCommand (policyStop s (debugWorld s)) (fun s => { s with dbg := { s.dbg with
      bkptpc := wd (v.toNat % 2 ^ 24 + v.toNat / 2 ^ 31 % 2 * 2 ^ 31) } }) s := by
  have hfields : bits v 23 0 + bits v 31 31 * 2 ^ 31 = v.toNat % 2 ^ 24 + v.toNat / 2 ^ 31 % 2 * 2 ^ 31 := by
    simp only [bits, bf]
    omega
  rw [exec_bkptpcWrite, execBkptpcWrite, hfields]

theorem exec_tracectlWrite_eq (v : Word) (s : State) : exec (.tracectlWrite v) s =
    debugCommand (policyTrace s (debugWorld s)) (fun s => { s with dbg := { s.dbg with
      tracectl := wd (v.toNat / 16 % 16 * 16 + v.toNat % 4) } }) s := by
  have hfields : bits v 7 4 * 16 + bits v 1 0 = v.toNat / 16 % 16 * 16 + v.toNat % 4 := by
    simp only [bits, bf]
    omega
  rw [exec_tracectlWrite, execTracectlWrite, hfields]

theorem exec_dbgStop_host {s : State} (hp : s.phase ≠ 1) :
    exec .dbgStop s = debugCommand (policyStop s (debugWorld s)) askStop s := by
  rw [exec_dbgStop, execDbgStop, if_neg hp]

/-! ## FREEZE (R431)

The log's entry is written and a head signed before the clocks stop; what is read out then goes to the host, or to the governor,
and changes no core and no memory. -/

/-- What writing the log to the host leaves: the parts that FREEZE reads afterwards. -/
def underLog (s : State) : Tab Ctx × Tab Core × Mem × Tab World × Nat × W256 :=
  (s.ctxs, s.cores, s.hbm, s.worlds, s.log.nextSeq, s.log.last)

theorem execLogEntryWrite_underLog {s t : State} (h : execLogEntryWrite s = .next t) : underLog t = underLog s := by
  simp only [execLogEntryWrite] at h
  split at h
  · cases h
    rfl
  · split at h
    · cases h
      split <;> rfl
    · cases h
      rfl

theorem flushLog_underLog (n : Nat) (s : State) : underLog (flushLog n s) = underLog s := by
  induction n generalizing s with
  | zero => rfl
  | succ n ih =>
    rw [flushLog]
    split
    next t ht => exact (ih t).trans (execLogEntryWrite_underLog ht)
    next => rfl

/-- The state of FREEZE when the clocks stop: the entry is in the log, what fits of the log is in the ring, a head is signed. -/
def frozenAt (s : State) : State :=
  let s1 := logEvent 0x03 0 (debugData s 0 (releasedWorlds s)) s
  let s2 := flushLog s1.log.held.length s1
  { (if s2.log.head = 0 then s2 else signHead (s2.log.head - 1) (lastWritten s2) s2) with frozenPkg := true }

theorem exec_freeze_eq (s : State) :
    exec .freeze s = .next (setDenied false ((List.range 33).foldl scanWorld (frozenAt s))) := rfl

theorem frozenAt_underLog (s : State) :
    underLog (frozenAt s) = underLog (logEvent 0x03 0 (debugData s 0 (releasedWorlds s)) s) := by
  refine Eq.trans ?_ (flushLog_underLog (logEvent 0x03 0 (debugData s 0 (releasedWorlds s)) s).log.held.length _)
  simp only [frozenAt]
  split <;> rfl

/-- The parts that a readout leaves, also where the governor holds it. -/
def stoppedOf (s : State) : Bool × Tab Core × Mem := (s.frozenPkg, s.cores, s.hbm)

theorem sendMsg_stopped (w : Nat) (m : FabMsg) (s : State) : stoppedOf (sendMsg w m s) = stoppedOf s := by
  simp only [sendMsg]
  split
  · split <;> rfl
  · rfl

theorem depart_stopped (g : Governed) (s : State) : stoppedOf (depart g s) = stoppedOf s := by
  simp only [depart]
  split
  · split
    · rfl
    · exact sendMsg_stopped _ _ _
  · exact sendMsg_stopped _ _ _
  · split <;> rfl
  · rfl

theorem departAll_stopped (l : List Governed) (s : State) : stoppedOf (departAll l s) = stoppedOf s := by
  induction l generalizing s with
  | nil => rfl
  | cons g l ih =>
    rw [departAll, ih]
    split
    · rfl
    · exact depart_stopped g s

theorem admitAll_stopped (l : List Governed) (s : State) : stoppedOf (admitAll l s).2 = stoppedOf s := by
  refine foldl_keeps (fun acc : List Governed × State => stoppedOf acc.2) (fun acc g => ?_) l ([], s)
  dsimp only
  split
  · split <;> rfl
  · split <;> rfl

theorem modEngine_stopped (e : Nat) (f : Engine → Engine) (s : State) : stoppedOf (modEngine s e f) = stoppedOf s := rfl

theorem offerAll_stopped (l : List Governed) (s : State) : stoppedOf (offerAll l s) = stoppedOf s := by
  simp only [offerAll]
  rw [departAll_stopped, foldl_keeps stoppedOf, admitAll_stopped]
  intro s g
  have hcount : stoppedOf ([0, 1, 2, 3, 4].foldl (fun s d => countDie d 0x13 g.lines s)
      (countEgress g.world g.region g.port 0 g.lines s)) = stoppedOf s := foldl_keeps stoppedOf (fun _ _ => by rfl) _ _
  split
  · exact (modEngine_stopped _ _ _).trans hcount
  · exact hcount

theorem scanWorld_stopped (s : State) (w : Nat) : stoppedOf (scanWorld s w) = stoppedOf s := by
  simp only [scanWorld]
  split
  · rfl
  · split
    · rfl
    · exact offerAll_stopped _ _

/-- A readout that does not wait takes free values and goes out. -/
theorem scanWorlds_sent (l : List Nat) (s : State) (hr : ∀ w, captureRegion s w = none) :
    ∃ (c : Nat) (o : List Output), l.foldl scanWorld s = { s with freeCtr := c, outbox := o } := by
  induction l generalizing s with
  | nil => exact ⟨_, _, rfl⟩
  | cons w l ih =>
    have hone : ∃ (c : Nat) (o : List Output), scanWorld s w = { s with freeCtr := c, outbox := o } := by
      simp only [scanWorld, hr]
      split <;> exact ⟨_, _, rfl⟩
    obtain ⟨c, o, h1⟩ := hone
    obtain ⟨c', o', h2⟩ := ih { s with freeCtr := c, outbox := o } hr
    exact ⟨c', o', by rw [List.foldl_cons, h1, h2]⟩

/-- R431, R382: DATA of the entry begins with KIND 0, and the mask of the released worlds follows in five bytes. -/
theorem freezeData_fields (s : State) :
    let d := BitVec.ofNat 112 (leNat ((debugData s 0 (releasedWorlds s)).take 14))
    d.toNat % 2 ^ 8 = 0 ∧ d.toNat / 2 ^ 8 % 2 ^ 40 = releasedWorlds s % 2 ^ 40 := by
  simp only [debugData, leBytes, leNat, List.cons_append, List.nil_append, List.take_succ_cons, List.take_nil,
    BitVec.toNat_ofNat]
  omega

/-- FREEZE where no readout has to wait: no context changes, and the log has its entry. -/
theorem underLog_of_sent {s : State} (hr : ∀ w : Nat, captureRegion s w = none) :
    underLog (setDenied false ((List.range 33).foldl scanWorld (frozenAt s))) =
      underLog (logEvent 0x03 0 (debugData s 0 (releasedWorlds s)) s) := by
  have hfr := frozenAt_underLog s
  have hworlds : (frozenAt s).worlds = s.worlds := by
    simp only [underLog, Prod.mk.injEq] at hfr
    obtain ⟨-, -, -, hw, -⟩ := hfr
    exact hw
  obtain ⟨c, o, hsent⟩ := scanWorlds_sent (List.range 33) (frozenAt s) fun w => by
    simpa only [captureRegion, worldOf, hworlds] using hr w
  rw [hsent]
  exact hfr

theorem exec_freeze_freezes (s : State) :
    ∃ t, exec .freeze s = .next t ∧ t.frozenPkg = true ∧ t.cores = s.cores ∧ t.hbm = s.hbm ∧
      ((∀ w : Nat, captureRegion s w = none) → t.ctxs = s.ctxs ∧ t.log.nextSeq = s.log.nextSeq + 1 ∧
        ∃ e : LogEntry, t.log.last = sha256W (toNats (logBytes e)) ∧ e.seq = s.log.nextSeq ∧ e.gcyc = s.gcyc ∧
          e.type = 3 ∧ e.world = 0 ∧ e.prev = s.log.last ∧ e.data.toNat % 2 ^ 8 = 0 ∧
          e.data.toNat / 2 ^ 8 % 2 ^ 40 = releasedWorlds s % 2 ^ 40) := by
  have hstop : stoppedOf (setDenied false ((List.range 33).foldl scanWorld (frozenAt s))) = stoppedOf (frozenAt s) :=
    foldl_keeps stoppedOf scanWorld_stopped _ _
  have hfr := frozenAt_underLog s
  simp only [stoppedOf, underLog, Prod.mk.injEq] at hstop hfr
  obtain ⟨hpkg, hcores, hhbm⟩ := hstop
  obtain ⟨-, gcores, ghbm, -⟩ := hfr
  refine ⟨_, exec_freeze_eq s, hpkg, hcores.trans gcores, hhbm.trans ghbm, fun hr => ?_⟩
  have hsent := underLog_of_sent hr
  simp only [underLog, Prod.mk.injEq] at hsent
  obtain ⟨hctxs, -, -, -, hseq, hlast⟩ := hsent
  exact ⟨hctxs, hseq, _, hlast, rfl, rfl, rfl, rfl, rfl, freezeData_fields s⟩

/-! ## Memory requests of the host (spec/03_admission_and_trust.md R63, R437; R114) -/

section rangeRequests

variable {o : HostReq} {s : State}

theorem exec_hostRange1Request_waits (ho : rangeOpen s o = true)
    (hw : (transLookup s 4 (worldOfFunc o.f) o.off).isSome = false ∨ (s.hostWaits.any (fun q => q.f == o.f)) = true) :
    exec (.hostRange1Request o) s = .next (addMisses
      (if (transLookup s 4 (worldOfFunc o.f) o.off).isSome then [] else [⟨4, worldOfFunc o.f, o.off / 65536⟩])
      { s with hostWaits := s.hostWaits ++ [o] }) := by
  rw [exec_hostRange1Request, execHostRange1Request]
  cases hc : transLookup s 4 (worldOfFunc o.f) o.off with
  | none => simp [ho]
  | some e =>
    have hq : s.hostWaits.any (fun q => q.f == o.f) = true := hw.resolve_left (by simp [hc])
    simp [ho, hq]

theorem exec_hostRange1Request_translated (ho : rangeOpen s o = true)
    (hc : (transLookup s 4 (worldOfFunc o.f) o.off).isSome = true) (hw : s.hostWaits.any (fun q => q.f == o.f) = false) :
    exec (.hostRange1Request o) s = .next (match translate s 4 (worldOfFunc o.f) o.off o.write with
      | (.error _, t) => emit t (.unsupported o.f)
      | (.ok pa, t) => if targetOf pa = 0 ∧ svcCheck t (worldOfFunc o.f) pa = 0 then queueRequest o (worldOfFunc o.f) pa t
          else emit t (.unsupported o.f)) := by
  rw [exec_hostRange1Request, execHostRange1Request]
  simp only [ho, hw, Option.isNone_eq_false_iff.2 hc, Bool.or_self, Bool.false_eq_true, if_true, if_false]
  split <;> simp [*]

theorem exec_pfWindowRequest_outside (hout : rangeBytes < o.off + o.len ∨ 4096 < o.off % 4096 + o.len) :
    exec (.pfWindowRequest o) s = .next (emit s (.unsupported o.f)) := by
  rw [exec_pfWindowRequest, execPfWindowRequest]
  refine congrArg Host.Outcome.next (if_neg ?_)
  simp only [Bool.and_eq_true, decide_eq_true_eq]
  omega

theorem exec_pfWindowRequest_inside (hr : o.off + o.len ≤ rangeBytes) (hp : o.off % 4096 + o.len ≤ 4096)
    (hc : svcCheck s 1 (s.winbase.toNat + o.off) = 0) :
    exec (.pfWindowRequest o) s = .next (queueRequest o 1 (s.winbase.toNat + o.off) s) := by
  rw [exec_pfWindowRequest, execPfWindowRequest]
  exact congrArg Host.Outcome.next (if_pos (by simp [hr, hp, hc]))

end rangeRequests

/-- Settles O48: a register write and a debug command each by their own equation, FREEZE by what its parts leave, and a memory
request by the checks that it passes. -/
theorem hostRequests : Obligations.HostRequests := by
  refine ⟨fun v s => ⟨fun hm hl => ?_, fun hbad => ?_, exec_trootWrite_drops v s, exec_logbaseWrite_sets,
      exec_logWrites_outstanding, exec_logsizeWrite_sets, rfl, rfl, rfl⟩,
    fun v s => ⟨(exec_bkptpcWrite_eq v s).trans (debugCommand_eq _ _ _),
      (exec_tracectlWrite_eq v s).trans (debugCommand_eq _ _ _),
      debugCommand_eq _ _ _, debugCommand_eq _ _ _, fun hp => (exec_dbgStop_host hp).trans (debugCommand_eq _ _ _),
      exec_freeze_freezes s⟩,
    fun o s => ⟨fun ho => ?_, ⟨exec_hostRange1Request_waits, fun ho hc hw => ⟨fun pa t ht => ?_, fun c t ht => ?_⟩⟩,
      exec_pfWindowRequest_outside, exec_pfWindowRequest_inside, fun src => rfl⟩⟩
  · rw [exec_winbaseWrite_eq, if_pos ⟨hm, hl⟩]
  · rw [exec_winbaseWrite_eq, if_neg (by omega)]
  · rw [exec_hostRange1Request, execHostRange1Request, if_neg (by simp [ho])]
  · rw [exec_hostRange1Request_translated ho hc hw, ht]
  · rw [exec_hostRange1Request_translated ho hc hw, ht]

/-! ## SPDM (spec/03_admission_and_trust.md R45-R47, R50) -/

/-- A signed response takes one free value, the device's nonce. -/
theorem signedResponse_eq (name : String) (nonce : W256) (l : List Byte) (s : State) : ∃ d : List Byte,
    signedResponse name nonce l s = emit { s with freeCtr := s.freeCtr + 1 } (.response name d) := ⟨_, rfl⟩

section ready

variable {s : State} (h : s.ready = true)
include h

theorem exec_fixedAnswers : exec .getVersion s = .next (emit s (.response "GET_VERSION" [0x13])) ∧
    exec .setCertificate s = .next (emit s (.spdmError "SET_CERTIFICATE" "UnsupportedRequest")) ∧
    exec .getCsr s = .next (emit s (.spdmError "GET_CSR" "UnsupportedRequest")) :=
  ⟨configReq_ready h, configReq_ready h, configReq_ready h⟩

theorem exec_getCertificate_accepted {o : CertReq} (hv : o.version = 0x13) : exec (.getCertificate o) s = .next
    (if o.slot ≤ 1 then emit s (.response "GET_CERTIFICATE" (((certChain o.slot).drop o.offset).take o.length))
      else emit s (.spdmError "GET_CERTIFICATE" "InvalidRequest")) := by
  rw [exec_getCertificate, execGetCertificate, versionReq_accepted h hv]
  rfl

theorem exec_challenge_accepted {o : ChallengeReq} (hv : o.version = 0x13) : exec (.challenge o) s = .next
    (if o.slot ≤ 1 then signedResponse "CHALLENGE" o.nonce (toBytes (sha256 (toNats (certChain o.slot)))) s
      else emit s (.spdmError "CHALLENGE" "InvalidRequest")) := by
  rw [exec_challenge, execChallenge, versionReq_accepted h hv]
  rfl

/-- KEY_EXCHANGE draws the number of its key share, and its answer a nonce. -/
theorem exec_keyExchange_opens {o : ChallengeReq} (hv : o.version = 0x13) (hn : s.sessions.length < 32) (hs : o.slot ≤ 1) :
    ∃ l, exec (.keyExchange o) s = .next (emit { s with
      freeCtr := s.freeCtr + 2, sessions := s.sessions ++ [⟨freeSession s, false, none⟩] } (.response "KEY_EXCHANGE" l)) := by
  rw [exec_keyExchange, execKeyExchange, versionReq_accepted h hv, if_neg (by omega), if_neg (by omega)]
  exact ⟨_, rfl⟩

theorem exec_keyExchange_full {o : ChallengeReq} (hv : o.version = 0x13) (hn : 32 ≤ s.sessions.length) :
    exec (.keyExchange o) s = .next (emit s (.spdmError "KEY_EXCHANGE" "Busy")) := by
  rw [exec_keyExchange, execKeyExchange, versionReq_accepted h hv, if_pos hn, answerError]

theorem exec_getMeasurements_count {o : MeasReq} (hv : o.version = 0x13) (hs : o.signed = false) (hi : o.index = 0) :
    exec (.getMeasurements o) s =
      .next (emit s (.response "GET_MEASUREMENTS" (leBytes 1 (blockIndices s).length))) := by
  simp only [exec_getMeasurements, execGetMeasurements, versionReq_accepted h hv, hs, hi, Bool.false_eq_true, if_false, if_true,
    respond]

theorem exec_getMeasurements_absent {o : MeasReq} (hv : o.version = 0x13) (h0 : o.index ≠ 0) (hall : o.index ≠ 0xFF)
    (hm : measureBlock s o.index = none) :
    exec (.getMeasurements o) s = .next (emit s (.spdmError "GET_MEASUREMENTS" "InvalidRequest")) := by
  simp only [exec_getMeasurements, execGetMeasurements, versionReq_accepted h hv, h0, hall, hm, Option.isSome_none,
    Bool.false_eq_true, if_false, answerError]

end ready

/-! ## The life of a session -/

section session

variable {s : State} {n : Nat} (h : s.ready = true) (hv : s.mailVersion = 0x13)
include h hv

theorem exec_finish_accepted : exec (.finish n) s = .next (if (sessionOf s n).elim false (fun x => !x.finished) then
    emit (modSession s n (fun x => { x with finished := true })) (.response "FINISH" [])
    else emit s (.spdmError "FINISH" "UnexpectedRequest")) := by
  rw [exec_finish, execFinish, versionReq_accepted h hv]
  rfl

theorem exec_heartbeat_accepted : exec (.heartbeat n) s = .next (if sessionOpen s n then emit s (.response "HEARTBEAT" [])
    else emit s (.spdmError "HEARTBEAT" "UnexpectedRequest")) := by
  rw [exec_heartbeat, execHeartbeat, versionReq_accepted h hv]
  rfl

theorem exec_endSession_accepted : exec (.endSession n) s = .next (if sessionOpen s n then
    emit { s with sessions := s.sessions.filter (fun x => x.id != n) } (.response "END_SESSION" [])
    else emit s (.spdmError "END_SESSION" "UnexpectedRequest")) := by
  rw [exec_endSession, execEndSession, versionReq_accepted h hv]
  rfl

end session

/-- Settles O49: each request passes the check of its version, and then its own. -/
theorem spdmRequests : Obligations.SpdmRequests := by
  intro s h
  obtain ⟨hver, hset, hcsr⟩ := exec_fixedAnswers h
  refine ⟨⟨hver, fun hv => ⟨⟨_, versionReq_accepted h hv⟩, ⟨_, versionReq_accepted h hv⟩⟩,
      fun hv => ⟨versionReq_refused h hv, versionReq_refused h hv⟩, hset, hcsr⟩,
    fun o hv => ⟨fun hs => ?_, fun hs => ?_⟩,
    fun o hv => ⟨fun hs => ?_, fun hs => ?_, exec_keyExchange_opens h hv, exec_keyExchange_full h hv⟩,
    fun o hv hs => ⟨exec_getMeasurements_count h hv hs, exec_getMeasurements_absent h hv⟩,
    fun n x hv hx => ⟨fun hf => ?_, fun hf => ?_⟩, fun n hv hx => ?_,
    fun n hv => ?_, fun o hv => ?_⟩
  · rw [exec_getCertificate_accepted h hv, if_pos hs]
  · rw [exec_getCertificate_accepted h hv, if_neg (Nat.not_le.2 hs)]
  · obtain ⟨d, hd⟩ := signedResponse_eq "CHALLENGE" o.nonce (toBytes (sha256 (toNats (certChain o.slot)))) s
    exact ⟨d, by rw [exec_challenge_accepted h hv, if_pos hs, hd]⟩
  · rw [exec_challenge_accepted h hv, if_neg (Nat.not_le.2 hs)]
  · have hx' := (sessionOf_modSession s n (f := fun x => { x with finished := true }) fun _ => rfl).trans
      (congrArg (Option.map _) hx)
    refine ⟨modSession s n (fun x => { x with finished := true }), ?_, fun y hy => ?_, ?_⟩
    · simp [exec_finish_accepted h hv, hx, hf]
    · rw [hx', Option.map_some, Option.some.injEq] at hy
      subst hy
      exact ⟨rfl, rfl⟩
    · rw [hx', Option.map_some, Option.isSome_some]
  · have ho : sessionOpen s n = true := by rw [sessionOpen, hx, Option.elim_some, hf]
    exact ⟨by rw [exec_heartbeat_accepted h hv, if_pos ho], by rw [exec_endSession_accepted h hv, if_pos ho]⟩
  · have ho : sessionOpen s n = false := by rw [sessionOpen, hx, Option.elim_none]
    refine ⟨?_, ?_, ?_⟩
    · simp [exec_heartbeat_accepted h hv, ho]
    · simp [exec_finish_accepted h hv, hx]
    · simp [exec_endSession_accepted h hv, ho]
  · simp only [exec_heartbeat, execHeartbeat, exec_finish, execFinish, exec_endSession, execEndSession, versionReq_refused h hv,
      and_self]
  · simp only [exec_challenge, execChallenge, exec_keyExchange, execKeyExchange, versionReq_refused h hv, and_self]

/-! ## The requests of a manager (spec/03_admission_and_trust.md R46, R50) -/

section manager

variable {s : State} {n : Nat} {x : Session}

theorem managerReq_refused (h : s.ready = true) (hv : s.mailVersion ≠ 0x13) {name : String} {body : Session → State → State} :
    configReq name s (inSession name n body) = .next (emit s (.spdmError name "VersionMismatch")) := by
  rw [configReq_ready h, inSession_refused hv]

variable (h : s.ready = true) (hv : s.mailVersion = 0x13) (hx : sessionOf s n = some x) (hf : x.finished = true)
include h hv hx hf

/-- A manager request of a finished session has the effect of its body. -/
theorem managerReq_accepted {name : String} {body : Session → State → State} :
    configReq name s (inSession name n body) = .next (body x s) := by
  rw [configReq_ready h, inSession_finished hv hx hf]

/-! ## BIND and key release (R50, R51, R53, R68) -/

theorem exec_bindSession_finished (f : Nat) : exec (.bindSession n f) s = .next (answer "BIND" (if bindOk s x f then 0 else 1)
    (modSession s n (fun y => { y with func := if bindOk s x f then some f else none }))) := by
  rw [exec_bindSession, execBindSession, managerReq_accepted h hv hx hf]

omit h hv hf in
theorem bindOk_iff (f : Nat) : bindOk s x f = true ↔ enabledFunc s f = true ∧ (x.func = none ∨ x.func = some f) ∧
    s.sessions.any (fun y => y.id != n && y.func == some f) = false := by
  rw [bindOk, sessionOf_id hx, Bool.and_eq_true, Bool.and_eq_true, Bool.or_eq_true, Option.isNone_iff_eq_none, beq_iff_eq,
    Bool.not_eq_true', and_assoc]

theorem exec_keyRelease_room {q : KeyReleaseReq} (hl : logFull s = false) (hq : q.resv = 0) : exec (.keyRelease n q) s =
    .next (answer "KEY_RELEASE" (keyRelease x q s).1 (logEvent 0x01 (if notBound s x q.function then 0 else q.function + 1)
      (leBytes 2 q.function ++ leBytes 1 q.kind ++ leBytes 1 (keyRelease x q s).1 ++ leBytes 4 q.keyid)
      (keyRelease x q s).2)) := by
  rw [exec_keyRelease, execKeyRelease, loggedReq_room h hl, inSession_finished hv hx hf, if_neg (by simp [releaseForm, hq])]
  rfl

theorem exec_worldResume_formed {q : KeyReleaseReq} (hr : q.resv = 0) (hk : q.kind = 0) (hi : q.keyid = 0) :
    exec (.worldResume n q) s = .next (if releaseCheck s x q true = 0 then answer "WORLD_RESUME" 0
      (reissueLaunches (q.function + 1) (modWorld s (q.function + 1) (fun y => { y with held := false })))
      else answer "WORLD_RESUME" (releaseCheck s x q true) s) := by
  rw [exec_worldResume, execWorldResume, managerReq_accepted h hv hx hf, if_neg (by simp [resumeForm, releaseForm, hr, hk, hi])]
  rfl

/-! ## Custody (R379) -/

section custody

variable {q : CustodyReq} (hb : x.func = some q.function) (he : enabledFunc s q.function = true) (h0 : q.function ≠ 0)
include hb he h0

theorem exec_custodySet_sets (hr : badRegion s (q.function + 1) q = false) : ∃ t,
    exec (.custodySet n q) s = .next (answer "CUSTODY_SET" 0 t) ∧
      t.pageCustody = spanSet s.pageCustody q.first q.count true ∧
      (worldOf t (q.function + 1)).regions = (worldOf s (q.function + 1)).regions ++
        [⟨q.region, q.first, q.count, q.rate, q.burst, q.burst⟩] := by
  rw [exec_custodySet, execCustodySet, managerReq_accepted h hv hx hf, if_neg (by simp [notBound, hb, he, h0]),
    if_neg (by simpa [worldOfFunc] using hr)]
  exact ⟨_, rfl, rfl, congrArg World.regions (worldOf_modWorld _ _ _)⟩

theorem exec_custodyClear_frees (hr : q.region ≤ 15) : exec (.custodyClear n q) s =
    .next (answer "CUSTODY_CLEAR" 0 (freeRegion (q.function + 1) q.region s)) := by
  rw [exec_custodyClear, execCustodyClear, managerReq_accepted h hv hx hf, if_neg (by simp [notBound, hb, he, h0]),
    if_neg (Nat.not_lt.2 hr)]
  rfl

end custody

/-! ## Control tasks (R73) -/

section start

variable {q : StartReq}

theorem exec_start_refused (hst : startCheck s x q.function ≠ 0) :
    exec (.controlStart n q) s = .next (answer "CONTROL_START" (startCheck s x q.function) s) ∧
      exec (.channelStart n q) s = .next (answer "CHANNEL_START" (startCheck s x q.function) s) := by
  have hne : (startCheck s x q.function != 0) = true := bne_iff_ne.2 hst
  constructor
  · rw [exec_controlStart, execControlStart, managerReq_accepted h hv hx hf]
    exact congrArg Host.Outcome.next (if_pos hne)
  · rw [exec_channelStart, execChannelStart, managerReq_accepted h hv hx hf]
    exact congrArg Host.Outcome.next (if_pos hne)

variable (hst : startCheck s x q.function = 0)
include hst

theorem exec_controlStart_reads (ho : holds s (.steward q.unit) = false) (hz : s.stewZero.any (fun p => p.1 == q.unit) = false)
    (hu : q.unit < 8) (hl : bm (funcOf s q.function).layout.stewards.toNat q.unit = true) :
    exec (.controlStart n q) s = .next (readControl q s) := by
  rw [exec_controlStart, execControlStart, managerReq_accepted h hv hx hf]
  simp only [hst, ho, hz, hl, Nat.not_le.2 hu, bne_self_eq_false, Bool.or_self, decide_false, Bool.not_true, Bool.false_eq_true,
    if_false]

/-! ## Channels (spec/13_memory_channels_and_segmented_banks.md R299, R304) -/

theorem exec_channelStart_checked : exec (.channelStart n q) s = .next
    (if (chanOf s q.unit).starting && (chanOf s q.unit).func == q.function then
      answer "CHANNEL_START" 0 (modChan s q.unit (fun c => { c with starting := false }))
    else if chanTaken (chanOf s q.unit) then answer "CHANNEL_START" 0x0C s
    else if !(decide (q.unit < 256) && bm (funcOf s q.function).layout.channels.toNat q.unit) ||
        s.cutDies.elem (q.unit / 64) then answer "CHANNEL_START" 0x0D s
    else match readProgram s (worldOfFunc q.function) q with
      | (some (_, img, _, code), s1) => { handOver (worldOfFunc q.function) q.unit img code s1 with
          inputs := (s.gcyc, .channelStart n q) :: (handOver (worldOfFunc q.function) q.unit img code s1).inputs }
      | (none, s1) => answer "CHANNEL_START" 0x0D s1) := by
  rw [exec_channelStart, execChannelStart, managerReq_accepted h hv hx hf]
  have hok : ¬ (startCheck s x q.function != 0) = true := by simp [hst]
  exact congrArg Host.Outcome.next (if_neg hok)

end start

section stop

variable {q : StopReq} (hb : x.func = some q.f) (he : enabledFunc s q.f = true)
include hb he

theorem exec_channelStop_bound : exec (.channelStop n q) s = .next
    (if (chanOf s q.unit).owner != 0 && (chanOf s q.unit).owner == worldOfFunc q.f then
      { (if (chanOf s q.unit).stopping then s else stopChannel q.unit (some (0, 0)) s) with
        inputs := (s.gcyc, .channelStop n q) ::
          (if (chanOf s q.unit).stopping then s else stopChannel q.unit (some (0, 0)) s).inputs }
    else if (chanOf s q.unit).faultRec.isSome && (chanOf s q.unit).func == q.f then
      stopAnswer (chanOf s q.unit).faultRec (modChan s q.unit (fun c => { c with faultRec := none, func := 0 }))
    else answer "CHANNEL_STOP" 0x0D s) := by
  rw [exec_channelStop, execChannelStop, managerReq_accepted h hv hx hf]
  exact congrArg Host.Outcome.next (if_neg (by simp [notBound, hb, he]))

theorem exec_channelStop_idle (ho : (chanOf s q.unit).owner = 0) (hr : (chanOf s q.unit).faultRec = none) :
    exec (.channelStop n q) s = .next (answer "CHANNEL_STOP" 0x0D s) := by
  rw [exec_channelStop_bound h hv hx hf hb he, if_neg (by simp [ho]), if_neg (by simp [hr])]

theorem exec_channelStop_fault {r : Nat × Nat} (ho : (chanOf s q.unit).owner = 0) (hr : (chanOf s q.unit).faultRec = some r)
    (hc : (chanOf s q.unit).func = q.f) : exec (.channelStop n q) s =
      .next (stopAnswer (some r) (modChan s q.unit (fun c => { c with faultRec := none, func := 0 }))) := by
  rw [exec_channelStop_bound h hv hx hf hb he, if_neg (by simp [ho]), if_pos (by simp [hr, hc]), hr]

theorem exec_channelStop_running (ho : (chanOf s q.unit).owner = q.f + 1) : ∃ t,
    exec (.channelStop n q) s = .next { t with inputs := (s.gcyc, .channelStop n q) :: t.inputs } ∧
      t = (if (chanOf s q.unit).stopping then s else stopChannel q.unit (some (0, 0)) s) := by
  rw [exec_channelStop_bound h hv hx hf hb he, if_pos (by simp [ho, worldOfFunc])]
  exact ⟨_, rfl, rfl⟩

end stop

theorem exec_debugPolicy_vf {f p : Nat} (hb : x.func = some f) (he : enabledFunc s f = true) (h0 : f ≠ 0) :
    exec (.debugPolicy n f p) s =
      .next (answer "DEBUG_POLICY" 0 (modWorld s (f + 1) (fun y => { y with policy := BitVec.ofNat 3 p }))) := by
  rw [exec_debugPolicy, execDebugPolicy, managerReq_accepted h hv hx hf, if_neg (by simp [notBound, hb, he]), if_neg h0]
  rfl

end manager

/-- Settles O50: a finished session's request has the effect of its body, which makes its checks in order. -/
theorem managerRequests : Obligations.ManagerRequests := by
  intro s n x h hv hx hf
  refine ⟨fun v hne q => ⟨managerReq_refused (s := { s with mailVersion := v }) h hne,
      fun f => managerReq_refused (s := { s with mailVersion := v }) h hne⟩,
    fun f => ⟨fun he hb ho => ?_, fun hno => ?_⟩, fun q => exec_keyRelease_room h hv hx hf,
    fun q hr hk hi => ⟨fun hst => ?_, fun hst => ?_⟩,
    fun q hb he h0 => ⟨exec_custodySet_sets h hv hx hf hb he h0, exec_custodyClear_frees h hv hx hf hb he h0⟩,
    fun q st hst hne => ?_, fun q hst ho hz hu hl => ?_,
    fun q hst => ⟨fun hs hc => ?_, fun hs ht => ?_, fun hs ht hu hl hd => ?_⟩,
    fun q hb he ho => ⟨exec_channelStop_idle h hv hx hf hb he ho, fun r => exec_channelStop_fault h hv hx hf hb he ho⟩,
    fun q => exec_channelStop_running h hv hx hf, fun f p => exec_debugPolicy_vf h hv hx hf⟩
  · simp only [exec_bindSession_finished h hv hx hf, (bindOk_iff hx f).2 ⟨he, hb, ho⟩, if_true]
  · have hbad : bindOk s x f = false := by
      refine Bool.eq_false_iff.2 fun hok => ?_
      obtain ⟨he, hb, ho⟩ := (bindOk_iff hx f).1 hok
      rcases hno with hno | ⟨hnone, hsome⟩ | hno
      · exact Bool.false_ne_true (hno.symm.trans he)
      · exact hb.elim hnone hsome
      · exact Bool.false_ne_true (ho.symm.trans hno)
    simp only [exec_bindSession_finished h hv hx hf, hbad, Bool.false_eq_true, if_false]
  · rw [exec_worldResume_formed h hv hx hf hr hk hi, if_pos hst]
  · rw [exec_worldResume_formed h hv hx hf hr hk hi, if_neg hst]
  · subst hst
    exact exec_start_refused h hv hx hf hne
  · intro t
    rw [exec_controlStart_reads h hv hx hf hst ho hz hu hl]
    have hrd : readControl q s = if walksFirst 4 s t then { awaitWalks 4 s t with control := some q } else t := rfl
    exact ⟨fun hw => by rw [hrd, if_neg (by simp [hw])], fun hw => by rw [hrd, if_pos hw]⟩
  · rw [exec_channelStart_checked h hv hx hf hst, if_pos (by simp [hs, hc])]
  · rw [exec_channelStart_checked h hv hx hf hst, if_neg (by simp [hs]), if_pos ht]
  · rw [exec_channelStart_checked h hv hx hf hst, if_neg (by simp [hs]), if_neg (by simp [ht])]
    exact congrArg Host.Outcome.next (if_neg (by simpa [hu, hl] using hd))

/-! ## Device interfaces (spec/03_admission_and_trust.md R60, R62, R65) -/

section interface

variable {s : State} {n f : Nat} {x : Session} (h : s.ready = true) (hv : s.mailVersion = 0x13) (hx : sessionOf s n = some x)
  (hf : x.finished = true) (hb : x.func = some 0 ∨ x.func = some f) (h0 : f ≠ 0) (he : enabledFunc s f = true)
include h hv hx hf hb h0 he

theorem exec_getDeviceInterfaceState_accepted : exec (.getDeviceInterfaceState n f) s =
    .next (emit s (.response "GET_DEVICE_INTERFACE_STATE" (leBytes 1 (tdiCode (funcOf s f).tdi)))) := by
  rw [exec_getDeviceInterfaceState, execGetDeviceInterfaceState, tdispReq_accepted h hv hx hf hb h0 he, respond]

theorem exec_getDeviceInterfaceReport_locked (hl : tdiLocked s f = true) : exec (.getDeviceInterfaceReport n f) s =
    .next (emit s (.response "GET_DEVICE_INTERFACE_REPORT" (interfaceReport s f))) := by
  rw [exec_getDeviceInterfaceReport, execGetDeviceInterfaceReport, tdispReq_accepted h hv hx hf hb h0 he, if_pos hl, respond]

/-- LOCK_INTERFACE answers with the free value that it keeps as the nonce. -/
theorem exec_lockInterface_locks {k : Nat} (hu : (funcOf s f).tdi = .unlocked) (hk : ideReady s k = true) : ∃ t,
    exec (.lockInterface n f k) s = .next (emit t (.response "LOCK_INTERFACE" (digestBytes (Config.freeKey s.freeCtr)))) ∧
    (funcOf t f).tdi = .locked ∧ (funcOf t f).nonce = Config.freeKey s.freeCtr ∧ (funcOf t f).ideStream = some k := by
  refine ⟨modFunc (freeRandom s).2 f (fun v => { v with
    tdi := .locked, nonce := Config.freeKey s.freeCtr, ideStream := some k }), ?_, by simp, by simp, by simp⟩
  rw [exec_lockInterface, execLockInterface, tdispReq_accepted h hv hx hf hb h0 he, if_neg (by simp [hu]),
    if_neg (by simp [hk])]
  rfl

theorem exec_startInterface_locked {v : BitVec 256} (hl : (funcOf s f).tdi = .locked) : exec (.startInterface n f v) s =
    .next (if (funcOf s f).nonce = v then emit (setTdi f .run s) (.response "START_INTERFACE" [])
      else emit s (.spdmError "START_INTERFACE" "InvalidNonce")) := by
  rw [exec_startInterface, execStartInterface, tdispReq_accepted h hv hx hf hb h0 he, if_neg (by simp [hl])]
  by_cases hn : (funcOf s f).nonce = v <;> simp [hn, respond, answerError]

theorem exec_stopInterface_room (hl : logFull s = false) : exec (.stopInterface n f) s =
    .next (if (worldOf (stopInterface f s) (worldOfFunc f)).tearing.isSome
      then { stopInterface f s with inputs := (s.gcyc, .stopInterface n f) :: (stopInterface f s).inputs }
      else emit (stopInterface f s) (.response "STOP_INTERFACE" [])) := by
  rw [exec_stopInterface, execStopInterface, tdispReq_accepted h hv hx hf hb h0 he, if_neg (by simp [hl])]
  rfl

end interface

/-! ## Link encryption (R64) -/

theorem exec_ideIntegrityFailure_enabled {s : State} {f : Nat} (h0 : f ≠ 0) (he : enabledFunc s f = true) :
    exec (.ideIntegrityFailure f) s = .next (if (funcOf s f).tdi = .error then s
      else tearDown (worldOfFunc f) 1 (setTdi f .error s)) := by
  rw [exec_ideIntegrityFailure, execIdeIntegrityFailure]
  by_cases ht : (funcOf s f).tdi = .error <;> simp [failsIntegrity, toError, h0, he, ht]

section ready

variable {s : State} (h : s.ready = true)
include h

theorem exec_keyProg_programs {o : KeyProg} (ho : o.stream < 32) : ∃ t,
    exec (.keyProg o) s = .next (emit t (.response "KEY_PROG" [])) ∧
      (o.keySet, o.sub, o.key) ∈ (tabGet Ide.reset t.ides o.stream).keys := by
  rw [exec_keyProg, execKeyProg, configReq_ready h, if_neg (Nat.not_le.2 ho)]
  exact ⟨_, rfl, by simp⟩

theorem exec_kSetGo_switches {st ks ss : Nat}
    (hk : (tabGet Ide.reset s.ides st).keys.any (fun k => k.1 == ks && k.2.1 == ss) = true) : ∃ t,
    exec (.kSetGo st ⟨ks, ss⟩) s = .next (emit t (.response "K_SET_GO" [])) ∧
      (tabGet Ide.reset t.ides st).keys = (tabGet Ide.reset s.ides st).keys ∧
      ∀ c : Nat × Nat, c ∈ (tabGet Ide.reset t.ides st).current ↔
        c = (ss, ks) ∨ c ∈ (tabGet Ide.reset s.ides st).current ∧ c.1 ≠ ss := by
  rw [exec_kSetGo, execKSetGo, configReq_ready h, if_pos hk]
  refine ⟨_, rfl, by simp, fun c => ?_⟩
  rw [tabGet_tabSet_same, List.mem_append, List.mem_filter, List.mem_singleton, bne_iff_ne, or_comm]

theorem exec_kSetGo_unknown {st ks ss : Nat}
    (hk : (tabGet Ide.reset s.ides st).keys.any (fun k => k.1 == ks && k.2.1 == ss) = false) :
    exec (.kSetGo st ⟨ks, ss⟩) s = .next (emit s (.spdmError "K_SET_GO" "InvalidRequest")) := by
  rw [exec_kSetGo, execKSetGo, configReq_ready h, if_neg (Bool.eq_false_iff.1 hk), answerError]

/-! ## Configuration space (R61, R70) -/

theorem exec_vfEnableSet_sets {k : Nat} (hc : s.vfEnable = false) : exec (.vfEnableSet k) s =
    .next ((List.range k).foldl (fun s i => enableVf s (i + 1)) (resetSched { s with vfEnable := true, numVfs := k })) := by
  simp only [exec_vfEnableSet, execVfEnableSet, configReq_ready h, hc, Bool.false_eq_true, if_false]

theorem exec_vfEnableClear_clears (hc : s.vfEnable = true) : ∃ t, exec .vfEnableClear s = .next t ∧ t.vfEnable = false := by
  rw [exec_vfEnableClear, execVfEnableClear, configReq_ready h, if_pos hc]
  exact ⟨_, rfl, rfl⟩

theorem exec_lockedItemWrite_ready (o : LockedWrite) : exec (.lockedItemWrite o) s =
    .next (if vfRetries s o then emit s (.retry "LOCKED_ITEM_WRITE")
      else if itemChanges s o then ((itemVfs s o).filter (fun f => f != 0)).foldl (fun s f => enterError f s) (putItem o s)
      else s) := by
  rw [exec_lockedItemWrite, execLockedItemWrite, configReq_ready h]

end ready

/-- Settles O53: what each request answers once its checks have passed. -/
theorem interfaceRequests : Obligations.InterfaceRequests := by
  intro s n f x h hv hx hf hb h0 he
  refine ⟨exec_getDeviceInterfaceState_accepted h hv hx hf hb h0 he, exec_getDeviceInterfaceReport_locked h hv hx hf hb h0 he,
    fun k => exec_lockInterface_locks h hv hx hf hb h0 he, fun v hl => ⟨fun hn => ?_, fun hn => ?_⟩,
    fun hl => ⟨fun ht => ?_, fun ht => ?_⟩, fun ht => ?_, fun ht => ?_, fun o => ⟨exec_keyProg_programs h, fun ho => ?_⟩,
    fun st ks ss => ⟨exec_kSetGo_switches h, exec_kSetGo_unknown h⟩, fun k => exec_vfEnableSet_sets h,
    exec_vfEnableClear_clears h, fun o => ⟨fun hr => ?_, fun hr hc => ?_, fun hr hc => ?_⟩⟩
  · rw [exec_startInterface_locked h hv hx hf hb h0 he hl, if_pos hn]
  · rw [exec_startInterface_locked h hv hx hf hb h0 he hl, if_neg hn]
  · rw [exec_stopInterface_room h hv hx hf hb h0 he hl, if_neg (by simp [ht])]
  · rw [exec_stopInterface_room h hv hx hf hb h0 he hl, if_pos (Option.isSome_iff_ne_none.2 ht)]
  · rw [exec_ideIntegrityFailure_enabled h0 he, if_neg ht]
  · rw [exec_ideIntegrityFailure_enabled h0 he, if_pos ht]
  · rw [exec_keyProg, execKeyProg, configReq_ready h, if_pos ho, answerError]
  · rw [exec_lockedItemWrite_ready h, if_pos hr]
  · rw [exec_lockedItemWrite_ready h, if_neg (by simp [hr]), if_neg (by simp [hc])]
  · rw [exec_lockedItemWrite_ready h, if_neg (by simp [hr]), if_pos hc]

/-! ## FW_ACTIVATE (spec/03_admission_and_trust.md R68)

Ending the sessions leaves every function as it is, and holding a world leaves the sessions, the firmware and the staged image. -/

/-- The sessions and admissions, the active firmware and the staged image. -/
def firmwareOf (s : State) : List Session × List Admission × Nat × W256 × Option (Nat × W256) :=
  (s.sessions, s.admissions, s.activeSvn, s.activeDigest, s.staged)

theorem endSessions_firmware (s : State) :
    firmwareOf (endSessions s) = firmwareOf { s with sessions := [], admissions := [] } := by
  simp only [endSessions]
  rw [foldl_keeps firmwareOf fun _ _ => by rfl, foldl_keeps firmwareOf fun _ _ => by rfl]

theorem endSessions_funcs (s : State) : (endSessions s).funcs = s.funcs := by
  simp only [endSessions]
  rw [foldl_keeps State.funcs fun _ _ => by rfl, foldl_keeps State.funcs fun _ _ => by rfl]

/-! ## A world that is held -/

theorem holdWorld_firmware (s : State) (f : Nat) : firmwareOf (holdWorld s f) = firmwareOf s := by
  simp only [holdWorld]
  split <;> rfl

/-- The function is unlocked and its world held, as FW_ACTIVATE leaves a locked one. -/
def UnlockedHeld (s : State) (f : Nat) : Prop := (funcOf s f).tdi = .unlocked ∧ (worldOf s (worldOfFunc f)).held = true

theorem holdWorld_locked {s : State} {f : Nat} (h : tdiLocked s f = true) : UnlockedHeld (holdWorld s f) f := by
  simp [UnlockedHeld, holdWorld, h]

theorem holdWorld_other {s : State} {f g : Nat} (h : g ≠ f) :
    funcOf (holdWorld s f) g = funcOf s g ∧ worldOf (holdWorld s f) (worldOfFunc g) = worldOf s (worldOfFunc g) := by
  simp only [holdWorld]
  split
  · exact ⟨(funcOf_modWorld _ _ _ _).trans (funcOf_modFunc_other _ _ _ _ h),
      worldOf_modWorld_other _ _ _ _ (by simpa [worldOfFunc] using h)⟩
  · exact ⟨rfl, rfl⟩

theorem holdWorld_keeps {s : State} {f g : Nat} (h : UnlockedHeld s g) : UnlockedHeld (holdWorld s f) g := by
  by_cases hg : g = f
  · subst hg
    have hl : tdiLocked s g = false := by simp [tdiLocked, h.1]
    rwa [holdWorld, hl, if_neg Bool.false_ne_true]
  · simpa only [UnlockedHeld, holdWorld_other hg] using h

theorem foldl_holdWorld_keeps {g : Nat} (l : List Nat) {s : State} (h : UnlockedHeld s g) :
    UnlockedHeld (l.foldl holdWorld s) g := by
  induction l generalizing s with
  | nil => exact h
  | cons f l ih => exact ih (holdWorld_keeps h)

/-- Every locked function of the list is unlocked when its turn comes, and stays so. -/
theorem foldl_holdWorld_locked {g : Nat} {l : List Nat} (hg : g ∈ l) {s : State} (h : tdiLocked s g = true) :
    UnlockedHeld (l.foldl holdWorld s) g := by
  induction l generalizing s with
  | nil => cases hg
  | cons f l ih =>
    by_cases hf : g = f
    · subst hf
      exact foldl_holdWorld_keeps l (holdWorld_locked h)
    · refine ih ((List.mem_cons.1 hg).resolve_left hf) ?_
      simpa only [tdiLocked, holdWorld_other hf] using h

section management

variable {s : State} (h : s.ready = true)
include h

theorem exec_fwActivate_staged {v : Nat} {d : W256} (hs : s.staged = some (v, d)) : exec .fwActivate s = .next
    (answer "FW_ACTIVATE" 0 (logEvent 0x04 0 (leBytes 1 v ++ leBytes 5 0 ++ leBytes 8 d.toNat) ((enabledVfs s).foldl holdWorld
      { endSessions s with activeSvn := v, activeDigest := d, staged := none }))) := by
  rw [exec_fwActivate, execFwActivate, configReq_ready h]
  simp only [hs]

theorem exec_fwActivate_state {v : Nat} {d : W256} (hs : s.staged = some (v, d)) :
    ∃ t, exec .fwActivate s = .next t ∧ t.sessions = [] ∧ t.admissions = [] ∧ t.activeSvn = v ∧ t.activeDigest = d ∧
      t.staged = none ∧ ∀ f ∈ enabledVfs s, tdiLocked s f = true →
        (funcOf t f).tdi = .unlocked ∧ (worldOf t (worldOfFunc f)).held = true := by
  have hend := endSessions_firmware s
  have hhold := foldl_keeps firmwareOf holdWorld_firmware (enabledVfs s)
    { endSessions s with activeSvn := v, activeDigest := d, staged := none }
  simp only [firmwareOf, Prod.mk.injEq] at hend hhold
  obtain ⟨hses, hadm, -, -, -⟩ := hend
  obtain ⟨gses, gadm, gsvn, gdig, gstg⟩ := hhold
  refine ⟨_, exec_fwActivate_staged h hs, gses.trans hses, gadm.trans hadm, gsvn, gdig, gstg, fun f hf hl => ?_⟩
  refine foldl_holdWorld_locked hf (s := { endSessions s with activeSvn := v, activeDigest := d, staged := none }) ?_
  simpa only [tdiLocked, funcOf, endSessions_funcs] using hl

theorem exec_fwStage_read {a l : Nat} (hl : l ≤ 0x4000000) :
    exec (.fwStage a l) s = .next (match imageSvn (memBytes s.host a l) with
      | none => answer "FW_STAGE" badImage s
      | some v => if v < s.svn then answer "FW_STAGE" svnLow s
        else answer "FW_STAGE" 0 { stageImage (memBytes s.host a l) s with
          staged := some (v, sha256W (toNats (memBytes s.host a l))) }) := by
  rw [exec_fwStage, execFwStage, configReq_ready h]
  exact congrArg Host.Outcome.next (if_neg (Nat.not_lt.2 hl))

theorem exec_pageAssign_passes {a c w : Nat} (hg : groupSpan a c = true) (h2 : 2 ≤ w) (h32 : w ≤ 32)
    (ho : ∀ o ∈ spanOwners s a c, o = 1) (hr : clrRoom s (a / 7) (c / 7) = true) :
    exec (.pageAssign a c w) s = .next (answer "PAGE_ASSIGN" 0 (passPages a c w s)) := by
  rw [exec_pageAssign, execPageAssign, configReq_ready h, if_neg (by simpa [hg] using ⟨h2, h32⟩), if_neg (by simpa using ho),
    if_neg (by simp [hr])]

theorem exec_pageReclaim_passes {a c : Nat} (hst : reclaimStatus s a c = 0) (hne : spanOwners s a c ≠ []) :
    let s1 := tearHeld (pageOwner s a) s
    exec (.pageReclaim a c) s = .next (if (worldOf s1 (pageOwner s a)).tearing = none
      then answer "PAGE_RECLAIM" 0 (passPages a c 1 s1)
      else { s1 with inputs := (s.gcyc, .pageReclaim a c) :: s1.inputs }) := by
  intro s1
  rw [exec_pageReclaim, execPageReclaim, configReq_ready h]
  cases ht : (worldOf s1 (pageOwner s a)).tearing <;> simp [hst, hne, s1, ht]

theorem exec_pageReclaim_refused {a c : Nat} (hst : reclaimStatus s a c ≠ 0) :
    exec (.pageReclaim a c) s = .next (answer "PAGE_RECLAIM" (reclaimStatus s a c) s) := by
  simp [exec_pageReclaim, execPageReclaim, configReq_ready h, hst]

theorem exec_schedSet_accepted {f w c p : Nat} (he : enabledFunc s f = true) (hw : 1 ≤ w) (hw' : w < 256) (hc : 1 ≤ c)
    (hc' : c ≤ 64) (hp : 1 ≤ p) (hp' : p < 65536) : exec (.schedSet f w c p) s =
      .next (answer "SCHED_SET" 0 (modFunc s f (fun v => { v with sched := some (w, c, p) }))) := by
  simp only [exec_schedSet, execSchedSet, configReq_ready h, he, hw, hw', hc, hc', hp, hp', decide_true, Bool.and_self, if_true]

theorem exec_fabricSet_accepted {k p : Nat} (hk : k ≤ 1023) (hj : ∀ q ∈ s.worlds, q.2.job = none) :
    exec (.fabricSet k p) s = .next (answer "FABRIC_SET" 0 { s with pkg := some k, ports := BitVec.ofNat 32 p }) := by
  have hno : s.worlds.any (fun q => q.2.job.isSome) = false := List.any_eq_false.2 fun q hq => by simp [hj q hq]
  simp only [exec_fabricSet, execFabricSet, configReq_ready h, Nat.not_lt.2 hk, hno, Bool.false_eq_true, if_false]

/-! ## NEAR_SET and PAGE_MOVE (R287, R319) -/

theorem exec_nearSet_taken {ch p : Nat} (hp : p < 16) (ht : chanTaken (chanOf s ch) = true) :
    exec (.nearSet ch p) s = .next (answer "NEAR_SET" busyStatus s) := by
  simp only [exec_nearSet, execNearSet, configReq_ready h, Nat.not_le.2 hp, ht, if_false, if_true]

theorem exec_nearSet_unturned {ch p : Nat} (hp : p < 16) (ht : chanTaken (chanOf s ch) = false)
    (hout : turned (chanOf s ch).pin.toNat p true = []) (hin : turned (chanOf s ch).pin.toNat p false = []) :
    ∃ t, exec (.nearSet ch p) s = .next (answer "NEAR_SET" 0 t) ∧ (chanOf t ch).pin.toNat = p := by
  refine ⟨modChan s ch (fun c => { c with
    pin := BitVec.ofNat 4 p, victims := movePointers (chanOf s ch).pin.toNat p c.victims }), ?_, ?_⟩
  · simp [exec_nearSet, execNearSet, configReq_ready h, Nat.not_le.2 hp, ht, hout, hin]
  · simpa using hp

variable {a b : Nat} (ha : groupSpan a 7 = true) (hb : groupSpan b 7 = true) (hao : 2 ≤ pageOwner s a) (hbo : pageOwner s b = 1)
  (hat : chanTaken (chanOf s (chanOfPage a)) = false) (hbt : chanTaken (chanOf s (chanOfPage b)) = false)
include ha hb hao hbo hat hbt

theorem exec_pageMove_cut (hc : groupCut s a = true ∨ groupCut s b = true) :
    exec (.pageMove a b) s = .next (emit s (.status "PAGE_MOVE" 6 (leBytes 4 0))) := by
  rw [exec_pageMove, execPageMove, configReq_ready h, if_neg (by simp [ha, hb]),
    if_neg (by simpa [hbo] using Nat.lt_of_succ_le hao), if_pos (by simpa [hat, hbt] using hc)]
  rfl

theorem exec_pageMove_moves (hca : groupCut s a = false) (hcb : groupCut s b = false) :
    exec (.pageMove a b) s = .next (emit (logEvent 0x08 (pageOwner s a)
      (leBytes 4 a ++ leBytes 4 b ++ leBytes 4 (movePages a b s).1) (movePages a b s).2)
      (.status "PAGE_MOVE" 0 (leBytes 4 (movePages a b s).1))) := by
  rw [exec_pageMove, execPageMove, configReq_ready h, if_neg (by simp [ha, hb]),
    if_neg (by simpa [hbo] using Nat.lt_of_succ_le hao), if_neg (by simp [hat, hbt, hca, hcb])]

end management

/-- Settles O54: each command passes its own checks in their order. -/
theorem managementRequests : Obligations.ManagementRequests := by
  intro s h
  refine ⟨fun f y r => ⟨fun hl => ?_, fun hl => ?_⟩, fun a c w => exec_pageAssign_passes h,
    fun a c => exec_pageReclaim_passes h, fun a c => exec_pageReclaim_refused h, fun a l hl => ?_,
    fun a l => exec_fwStage_read h, fun v d hs => ⟨fun hvf hsw hadm => ?_, exec_fwActivate_state h hs⟩, ?_,
    fun f w c p => exec_schedSet_accepted h, fun f a m he => ?_, fun k p => ⟨exec_fabricSet_accepted h, fun hk => ?_⟩,
    fun hl => ?_, fun ch p => ⟨fun hp => ?_, exec_nearSet_taken h, exec_nearSet_unturned h⟩,
    fun a b ha hb hao hbo hat hbt => ⟨exec_pageMove_cut h ha hb hao hbo hat hbt, exec_pageMove_moves h ha hb hao hbo hat hbt⟩⟩
  · simp only [exec_layoutSet, execLayoutSet, configReq_ready h, hl, Bool.false_eq_true, if_false]
  · simp only [exec_layoutSet, execLayoutSet, configReq_ready h, hl, if_true]
  · simp only [exec_fwStage, execFwStage, configReq_ready h, hl, if_true]
  · rw [exec_fwActivate_staged h hs, hvf, endSessions, hsw, hadm]
    rfl
  · rw [exec_fwCommit, execFwCommit, configReq_ready h]
  · simp only [exec_eventSet, execEventSet, configReq_ready h, he, if_true]
  · simp only [exec_fabricSet, execFabricSet, configReq_ready h, hk, if_true]
  · simp only [exec_logSign, execLogSign, configReq_ready h, hl, if_false]
  · simp only [exec_nearSet, execNearSet, configReq_ready h, hp, if_true]

end Sys2Proof.Proofs

/-!
PROOFS. Launch and scheduling: LAUNCH (O33), the events of tasks and of the scheduler (O44), and what is wrong with a landing in
a domain with two records (O45).
-/

namespace Sys2Proof.Proofs
open Sys2Proof Sys2Proof.Machine Sys2Proof.Laws

/-! ## Operands of a slot that waits (R128, R395) -/

theorem source_leaves {r : Nat} {pop : Bool} {s t : State} {v : Word} (h : source r pop s = .ok (v, t)) :
    curAgent t = curAgent s ∧ (curCtx t).task = (curCtx s).task ∧ ∀ w, worldOf t w = worldOf s w := by
  obtain ⟨q, rfl⟩ := source_ok h
  simp [curCtx]

theorem readsTwo_leaves {a b : Nat} {m n : Bool} {s t : State} {x y : Word} (h : readsTwo a m b n s x y t) :
    curAgent t = curAgent s ∧ (curCtx t).task = (curCtx s).task ∧ ∀ w, worldOf t w = worldOf s w := by
  obtain ⟨s1, h1, h2⟩ := h
  obtain ⟨ha, hx, hw⟩ := source_leaves h1
  obtain ⟨hb, hy, hv⟩ := source_leaves h2
  exact ⟨hb.trans ha, hy.trans hx, fun w => (hv w).trans (hw w)⟩

theorem waitOperands_fresh {a b : Nat} {m n : Bool} {s t : State} {x y : Word} (hk : (curCtx s).kept = none)
    (h : readsTwo a m b n s x y t) :
    waitOperands a m b n s = .ok (x, y, curUndo (popped a m x ++ popped b n y) none t, false, t) := by
  obtain ⟨s1, h1, h2⟩ := h
  simp [waitOperands, hk, bind, Except.bind, h1, h2]

theorem bits_63_56_eq_zero (x : Word) : bits x 63 56 = 0 ↔ x.toNat < 2 ^ 56 := by
  rw [bits, bf]
  omega

theorem need_address {c : Nat} {x : Word} (hx : x.toNat < 2 ^ 56) : need c (bits x 63 56 == 0) = .ok () :=
  if_pos (beq_iff_eq.2 ((bits_63_56_eq_zero x).2 hx))

theorem need_address_beyond {c : Nat} {x : Word} (hx : 2 ^ 56 ≤ x.toNat) : need c (bits x 63 56 == 0) = .error c :=
  if_neg fun hz => Nat.not_lt.2 hx ((bits_63_56_eq_zero x).1 (beq_iff_eq.1 hz))

theorem need_bits_5_0 (c : Nat) (x : Word) : need c (bits x 5 0 == 0) = if x.toNat % 64 = 0 then .ok () else .error c := by
  simp [need, bits, bf]

/-! ## LAUNCH (spec/04_launch_and_scheduling.md R83) -/

section launch

variable {o : Sys2Proof.Launch} {s t : State} {u : Issue} {x : Word} (h : slotRuns o.g u s) (hk : (curCtx s).kept = none)
  (hr : readsTwo o.a o.m 0 false s x 0 t)
include h hk hr

theorem exec_launch_held (hw : (worldOf s (curCtx s).task.world).held = true) : ∃ wt : Wait,
    exec (.launch o) s = slotDone u (beginWait u.ag .launchHold wt t) ∧ wt.what = .held := by
  obtain ⟨ha, htask, hworld⟩ := readsTwo_leaves hr
  refine ⟨⟨.held, curWord t, x, 0, curUndo (popped o.a o.m x ++ popped 0 false 0) none t, false, none⟩,
    (exec_launch o s).trans (slot_ok h ?_), rfl⟩
  simp [waitOperands_fresh hk hr, bind, Except.bind, htask, hworld, hw, ha, runs_agent h]

section notHeld

variable (hw : (worldOf s (curCtx s).task.world).held = false)
include hw

theorem exec_launch_beyond (hx : 2 ^ 56 ≤ x.toNat) : slotTraps (.launch o) s 0x08 := by
  obtain ⟨-, htask, hworld⟩ := readsTwo_leaves hr
  refine (exec_launch o s).trans (slot_trap h ?_)
  simp [waitOperands_fresh hk hr, bind, Except.bind, htask, hworld, hw, need_address_beyond hx]

variable (hx : x.toNat < 2 ^ 56)
include hx

theorem exec_launch_misaligned (hx64 : x.toNat % 64 ≠ 0) : slotTraps (.launch o) s 0x07 := by
  obtain ⟨-, htask, hworld⟩ := readsTwo_leaves hr
  refine (exec_launch o s).trans (slot_trap h ?_)
  simp [waitOperands_fresh hk hr, bind, Except.bind, htask, hworld, hw, need_address hx, need_bits_5_0, hx64]

variable (hx64 : x.toNat % 64 = 0) {r : Except Nat (Nat × LaunchRec × Option TaskImage)} {t1 : State}
  (hread : readLaunch t (curCtx s).task.world x.toNat = (r, t1))
include hx64 hread

theorem exec_launch_misses (hm : missesOf 4 t t1 ≠ []) : ∃ wt : Wait, exec (.launch o) s =
    slotDone u (beginWait u.ag .launchHold wt (addMisses (missesOf 4 t t1) t)) ∧
      wt.what = .xlate false 0 0 0 (missesOf 4 t t1) := by
  obtain ⟨ha, htask, hworld⟩ := readsTwo_leaves hr
  refine ⟨⟨.xlate false 0 0 0 (missesOf 4 t t1), curWord t, x, 0, curUndo (popped o.a o.m x ++ popped 0 false 0) none t,
    false, none⟩, (exec_launch o s).trans (slot_ok h ?_), rfl⟩
  simp [waitOperands_fresh hk hr, bind, Except.bind, htask, hworld, hw, ha, runs_agent h, need_address hx,
    need_bits_5_0, hx64, hread, hm]

variable (hm : missesOf 4 t t1 = [])
include hm

theorem exec_launch_unread {c : Nat} (he : r = .error c) : slotTraps (.launch o) s c := by
  obtain ⟨-, htask, hworld⟩ := readsTwo_leaves hr
  refine (exec_launch o s).trans (slot_trap h ?_)
  simp [waitOperands_fresh hk hr, bind, Except.bind, htask, hworld, hw, need_address hx, need_bits_5_0, hx64,
    hread, hm, he]

variable {c : Option Nat} {t2 : State} (hd : dest o.d o.q t1 = .ok (c, t2))
include hd

theorem exec_launch_accepted {q : LaunchRec} {f : TaskImage} (ho : r = .ok (0, q, some f)) : exec (.launch o) s =
    slotDone u (acceptLaunch (land 1 (.pair o.p true)
      (landReg 1 o.d c (wd (worldOf t1 (curCtx s).task.world).nextLaunch) t2)) (curCtx s).task.world q f (taskOps t1 u.ag)) := by
  obtain ⟨ha, htask, hworld⟩ := readsTwo_leaves hr
  refine (exec_launch o s).trans (slot_ok h ?_)
  simp [waitOperands_fresh hk hr, bind, Except.bind, htask, hworld, hw, ha, runs_agent h, need_address hx,
    need_bits_5_0, hx64, hread, hm, ho, writeReg_ok hd, writePair]

theorem exec_launch_refused {st : Nat} {q : LaunchRec} {f : Option TaskImage} (ho : r = .ok (st, q, f))
    (hst : st ≠ 0 ∨ f = none) :
    exec (.launch o) s = slotDone u (land 1 (.pair o.p false) (landReg 1 o.d c (wd st) t2)) := by
  obtain ⟨-, htask, hworld⟩ := readsTwo_leaves hr
  refine (exec_launch o s).trans (slot_ok h ?_)
  simp only [waitOperands_fresh hk hr, bind, Except.bind, htask, hworld, hw, need_address hx, need_bits_5_0, hx64, hread, hm, ho,
    writeReg_ok hd, writePair, if_true, Bool.false_eq_true, if_false, List.isEmpty_nil, Bool.not_true]
  split
  next => simp at hst
  next => rfl

end notHeld
end launch

/-- Settles O33: LAUNCH reads its operands, makes its checks in their order, and then has the outcome that its record gives. -/
theorem launchResult : Obligations.LaunchResult := by
  intro o s t u x h hk hr
  refine ⟨exec_launch_held h hk hr, exec_launch_beyond h hk hr, exec_launch_misaligned h hk hr, fun hw hx hx64 => ?_⟩
  refine ⟨exec_launch_misses h hk hr hw hx hx64 rfl, fun hm => ⟨fun c => exec_launch_unread h hk hr hw hx hx64 rfl hm,
    fun c t2 hd => ⟨fun q f => exec_launch_accepted h hk hr hw hx hx64 rfl hm hd,
      fun st q f => exec_launch_refused h hk hr hw hx hx64 rfl hm hd⟩⟩⟩

/-! ## Retirement and zeroing (spec/04_launch_and_scheduling.md R96, R106; R300) -/

section zeroing

variable {s : State}

theorem exec_zeroingComplete_core {c z : Nat} (hz : (coreOf s c).zeroUntil = some z) :
    ∃ t, exec (.zeroingComplete (.core c)) s = .next t ∧
      (z < s.gcyc → (coreOf t c).zeroUntil = none) ∧ (s.gcyc ≤ z → (coreOf t c).zeroUntil = some z) := by
  refine ⟨_, exec_zeroingComplete _ _, fun h => ?_, fun h => ?_⟩
  · simp [hz, h]
  · simp [hz, Nat.not_lt.2 h]

theorem exec_zeroingComplete_channel {n z : Nat} (hz : (chanOf s n).zeroUntil = some z) :
    exec (.zeroingComplete (.channel n)) s = .next (if z < s.gcyc then endZeroing n s else s) := by
  simp [exec_zeroingComplete, execZeroingComplete, hz]

/-- R300: the channel is of its program, which starts, or of the service program again. -/
theorem endZeroing_channel (n : Nat) (s : State) : (chanOf (endZeroing n s) n).zeroUntil = none ∧
    ((ctxOf s (.channel n)).live = false → (chanOf (endZeroing n s) n).owner = 0) ∧
    ((ctxOf s (.channel n)).live = true →
      (chanOf (endZeroing n s) n).owner = (ctxOf s (.channel n)).task.world ∧
        (ctxOf (endZeroing n s) (.channel n)).started = true ∧ (ctxOf (endZeroing n s) (.channel n)).clk = 0) := by
  cases hl : (ctxOf s (.channel n)).live <;> simp [endZeroing, hl]

theorem exec_zeroingComplete_pooled (cl b : Nat) (s : State) : ∃ t, exec (.zeroingComplete (.pooled cl b)) s = .next t ∧
    (clusterOf t cl).zeroing = (clusterOf s cl).zeroing.filter (fun p => !(p.1 == b && decide (p.2 < s.gcyc))) :=
  ⟨_, exec_zeroingComplete _ _, congrArg Cluster.zeroing (clusterOf_modCluster _ _ _)⟩

end zeroing

/-! ## Entry (R86, R400, R439) -/

section entry

/-- The state in which the fill time of a placed context has come. -/
def fillOver (s : State) (a : Agent) : State := modCtx s a (fun x => { x with fillUntil := none })

variable {a : Agent} {s : State} {z : Nat} (hl : (ctxOf s a).live = true) (hs : (ctxOf s a).started = false)
  (ha : agTile a = true) (hf : (ctxOf s a).fillUntil = some z) (hz : z ≤ s.gcyc)
include hl hs ha hf hz

theorem exec_taskEntry_saved {v : Saved} (hv : savedFor (fillOver s a) a = some v) : exec (.taskEntry a) s =
    .next (if logFull s = true then s else if walksFirst (dieOf a) s (restoreTask a v (fillOver s a)) = true then
      awaitWalks (dieOf a) s (restoreTask a v (fillOver s a)) else restoreTask a v (fillOver s a)) := by
  rw [fillOver] at hv ⊢
  simp only [exec_taskEntry, execTaskEntry, hl, hs, ha, hf, hz, hv, Option.elim_some, decide_true, Bool.not_false,
    Bool.and_self, if_true]

variable {l : Machine.Launch} {s2 : State} (hn : savedFor (fillOver s a) a = none)
  (hq : (worldOf (fillOver s a) (ctxOf s a).task.world).launches.find? (fun l => l.n = (ctxOf s a).task.launch) = some l)
include hn hq

theorem exec_taskEntry_walks {r : Except Nat Unit} (hr : fillTask a l (fillOver s a) = (r, s2))
    (hw : walksFirst (dieOf a) s s2 = true) : exec (.taskEntry a) s = .next (awaitWalks (dieOf a) s s2) := by
  rw [fillOver] at hn hq hr
  simp only [exec_taskEntry, execTaskEntry, hl, hs, ha, hf, hz, hn, hq, hr, hw, Option.elim_some, decide_true, Bool.not_false,
    Bool.and_self, if_true]

theorem exec_taskEntry_fails {c : Nat} (hr : fillTask a l (fillOver s a) = (.error c, s2))
    (hw : walksFirst (dieOf a) s s2 = false) : exec (.taskEntry a) s = .next (cutTask a c s2) := by
  rw [fillOver] at hn hq hr
  simp only [exec_taskEntry, execTaskEntry, hl, hs, ha, hf, hz, hn, hq, hr, hw, Option.elim_some, decide_true, Bool.not_false,
    Bool.and_self, if_true, Bool.false_eq_true, if_false]

theorem exec_taskEntry_filled (hr : fillTask a l (fillOver s a) = (.ok (), s2))
    (hw : walksFirst (dieOf a) s s2 = false) : exec (.taskEntry a) s = .next (if preempts s2 a = true then
      modCore s2 (agIdx a) (fun k => { k with victim := k.victim.map (fun _ => s2.gcyc) }) else startTask a s2) := by
  rw [fillOver] at hn hq hr
  simp only [exec_taskEntry, execTaskEntry, hl, hs, ha, hf, hz, hn, hq, hr, hw, Option.elim_some, decide_true, Bool.not_false,
    Bool.and_self, if_true, Bool.false_eq_true, if_false]

end entry

/-! ## Slice ends (R399, R400) -/

section save

variable {a : Agent} {s : State}

theorem exec_sliceSave_urgent (ha : agUrgent a = true) (hd : (ctxOf s a).saveDue ≠ 0) :
    exec (.sliceSave a) s = .next (forceDrain a s) := by
  simp [exec_sliceSave, execSliceSave, ha, hd]

theorem forceDrain_full (hl : logFull s = true) : (ctxOf (forceDrain a s) a).saveDue = 2 ∧ (forceDrain a s).log = s.log := by
  simp [forceDrain, hl]

theorem drain_drainCluster (f cl : Nat) (s : State) : (clusterOf (drainCluster f cl s) cl).drain.elem f = true := by
  simp only [drainCluster, clusterOf_modCluster]
  split
  next h => exact h
  next => simp

theorem forceDrain_room (hl : logFull s = false) : (ctxOf (forceDrain a s) a).saveDue = 0 ∧
    (clusterOf (forceDrain a s) (clusterOfCore (agIdx a))).drain.elem (funcOfWorld (ctxOf s a).task.world) = true ∧
    ∃ e : LogEntry, (forceDrain a s).log.held = s.log.held ++ [e] ∧ e.type = 5 ∧ e.world = (ctxOf s a).task.world ∧
      e.data.toNat = 2 * 2 ^ 8 := by
  simp only [forceDrain, hl, Bool.false_eq_true, if_false]
  have hdata : (BitVec.ofNat 112 (leNat (([0, 2] ++ leBytes 4 0 ++ leBytes 8 0).take 14))).toNat = 2 * 2 ^ 8 := by decide
  exact ⟨congrArg Ctx.saveDue (ctxOf_setCtx _ _ _), drain_drainCluster _ _ _, _, rfl, rfl, rfl, hdata⟩

theorem exec_sliceSave_stays (ha : agUrgent a = false) (h1 : 1 ≤ (ctxOf s a).saveDue) (h2 : (ctxOf s a).saveDue ≤ 2)
    (hu : (unitOf s a).all (saveStands s) = false) : exec (.sliceSave a) s = .next s := by
  simp only [exec_sliceSave, execSliceSave, Nat.one_le_iff_ne_zero.1 h1, ha, h2, hu, if_true, if_false, Bool.false_eq_true]

theorem exec_sliceSave_taken (ha : agUrgent a = false) (hd : 3 ≤ (ctxOf s a).saveDue) : exec (.sliceSave a) s =
    if (unitOf s a).all (localOpsDone s) && logSpace s (unitOf s a).length then
      .next (if walksFirst (dieOf a) s (saveUnit (unitOf s a) s) then awaitWalks (dieOf a) s (saveUnit (unitOf s a) s)
        else saveUnit (unitOf s a) s)
    else .next s := by
  have h0 : (ctxOf s a).saveDue ≠ 0 := by omega
  have h2 : ¬ (ctxOf s a).saveDue ≤ 2 := by omega
  simp only [exec_sliceSave, execSliceSave, h0, ha, h2, if_false, Bool.false_eq_true]

end save

/-! ## Urgent pre-emption (R395, R398) -/

section urgent

variable {s : State} {c : Nat}

theorem coreOf_uncharge (l : List Agent) (s : State) (c : Nat) : coreOf (uncharge l s) c = coreOf s c :=
  foldl_keeps (f := fun s b => modCtx s b (fun x => { x with charge := x.charge - 1 })) (fun s => coreOf s c)
    (fun _ _ => rfl) l s

theorem exec_victimTake_takes (h : urgentWaits s c = true) :
    ∃ t, exec (.victimTake c) s = .next t ∧ (coreOf t c).victim = some s.gcyc := by
  refine ⟨_, (exec_victimTake c s).trans (if_pos h), ?_⟩
  simp [coreOf_uncharge]

theorem exec_urgentEntry_gang {k : GangKey} (hg : (urgentMembers s k).all (fun a => (ctxOf s a).task.level == 0) = false)
    (hr : (urgentMembers s k).all (urgentReady s) = true) :
    exec (.urgentEntry k) s = .next ((urgentMembers s k).foldl (fun s a => startTask a s) s) := by
  simp only [exec_urgentEntry, execUrgentEntry, hg, hr, if_true, Bool.false_eq_true, if_false]

theorem exec_urgentEntry_alone {k : GangKey} (hg : (urgentMembers s k).all (fun a => (ctxOf s a).task.level == 0) = true) :
    exec (.urgentEntry k) s = .next (((urgentMembers s k).filter (urgentReady s)).foldl (fun s a => startTask a s) s) := by
  simp only [exec_urgentEntry, execUrgentEntry, hg, if_true]

theorem exec_victimResume_resumes {v : Nat} (hv : (coreOf s c).victim = some v)
    (hu : holds s (.urgent c) = false) (hz : zeroingOver s c = true) (ht : urgentTakes s c = false) :
    ∃ t, exec (.victimResume c) s = .next t ∧ (coreOf t c).victim = none ∧
      ((ctxOf s (.tile c)).saveDue < 3 → (ctxOf t (.tile c)).causes.elem .urgent = false) := by
  refine ⟨_, (exec_victimResume c s).trans (if_pos (by simp [hv, hu, hz, ht])), ?_, fun hd => ?_⟩
  · split <;> simp [dropCause]
  · simp [Nat.not_le.2 hd, dropCause]

end urgent

/-- Settles O44: each event is its equation, and the parts of the state that it names are read back. -/
theorem taskAndSchedulingEvents : Obligations.TaskAndSchedulingEvents := by
  refine ⟨fun s => ⟨fun a h => ?_, fun a h => ?_, fun c z => exec_zeroingComplete_core,
      fun n z hz => ⟨fun h => ?_, fun h => ?_⟩, fun n => ⟨_, exec_zeroingComplete _ _, rfl⟩,
      fun cl b => exec_zeroingComplete_pooled cl b s,
      fun a z hl hs ha hf hz => ⟨fun v hv => ?_, fun l hn hq => ⟨fun c s2 => exec_taskEntry_fails hl hs ha hf hz hn hq,
        fun r s2 => exec_taskEntry_walks hl hs ha hf hz hn hq, fun s2 hr hw => ?_⟩⟩⟩,
    fun s => ⟨exec_schedTick s, exec_placementOpportunity s, fun a h => ?_, fun a ha hd => ?_,
      fun a => exec_sliceSave_stays, fun a ha hd => ?_, fun c => exec_victimTake_takes, fun c h => ?_,
      fun k => exec_urgentEntry_gang, fun k => exec_urgentEntry_alone, fun c v => exec_victimResume_resumes⟩⟩
  · exact (exec_taskRetire a s).trans (congrArg Host.Outcome.next (if_pos h))
  · exact (exec_taskRetire a s).trans (congrArg Host.Outcome.next (if_neg (by simp [h])))
  · exact ⟨_, (exec_zeroingComplete_channel hz).trans (by rw [if_pos h]), endZeroing_channel n s⟩
  · rw [exec_zeroingComplete_channel hz, if_neg (Nat.not_lt.2 h)]
  · have he := exec_taskEntry_saved hl hs ha hf hz hv
    refine ⟨fun hg => ?_, fun hg hw => ?_, fun hg hw => ?_⟩
    · rw [he, if_pos hg]
    · rw [he, if_neg (Bool.eq_false_iff.1 hg)]
      exact congrArg Host.Outcome.next (if_neg (Bool.eq_false_iff.1 hw))
    · rw [he, if_neg (Bool.eq_false_iff.1 hg)]
      exact congrArg Host.Outcome.next (if_pos hw)
  · have he := exec_taskEntry_filled hl hs ha hf hz hn hq hr hw
    exact ⟨fun hp => by simp [he, hp], fun hp => by simp [he, hp]⟩
  · exact (exec_sliceSave a s).trans (if_pos h)
  · rw [exec_sliceSave_urgent ha hd]
    exact ⟨fun hl => ⟨_, rfl, forceDrain_full hl⟩, fun hl => ⟨_, rfl, forceDrain_room hl⟩⟩
  · rw [exec_sliceSave_taken ha hd]
    exact ⟨fun hno => if_neg (by rcases hno with h | h <;> simp [h]), fun hops hlog => if_pos (by simp [hops, hlog])⟩
  · exact (exec_victimTake c s).trans (if_neg (by simp [h]))

/-! ## Landings where a domain has two records (spec/15_async_and_synchronisation_instructions.md R356) -/

def twinKey : DomKey := ⟨1, 0, 0, false⟩

/-- A record under the shared key: four parties, no arrival yet, and what is to land. -/
def twinDom (due : List DomDue) : Dom := ⟨twinKey, 1, 4, 0, 0, [], due, [], false⟩

/-- At GCYC 0, with two records of one key: an arrival of the first lands now, one of the second in the next cycle. -/
def twinDomains : State := { State.reset with
  doms := [twinDom [⟨0, [], 3, .tile 0, false, false⟩], twinDom [⟨1, [], 3, .tile 1, false, false⟩]] }

/-- Both records take the first one's landing and what is left of its list: nothing. -/
theorem exec_barrierLanding_twins : exec (.barrierLanding twinKey) twinDomains = .next { twinDomains with
    doms := [{ twinDom [] with arrived := 1 }, { twinDom [] with arrived := 1 }] } := rfl

/-- Refutes O45, in its clause on what BARRIER_LANDING leaves to land. The statement has every record of the key keep what of
its own list is not ready; the step gives each of them the rest of the first one's list. The two differ where the key has two
records, which the statement does not exclude: in `twinDomains` the arrival of the second, due in the next cycle, is lost. -/
theorem not_waitsAndQueuedEffects : ¬ Obligations.WaitsAndQueuedEffects := by
  rintro ⟨-, -, h⟩
  obtain ⟨-, -, -, hland, -⟩ := h twinDomains
  have he := hland twinKey _ rfl rfl (by decide) (by decide)
  rw [exec_barrierLanding_twins] at he
  have hdue := congrArg (fun t => t.doms.map (fun d => d.due.length)) (Host.Outcome.next.inj he)
  exact absurd hdue (by decide)

end Sys2Proof.Proofs

/-!
PROOFS. Placement and translation: stored lines, the walk of a page table, and translation (O2).
-/

namespace Sys2Proof.Proofs
open Sys2Proof Sys2Proof.Machine Sys2Proof.Laws

/-! ## What a stored line leaves (spec/13_memory_channels_and_segmented_banks.md R290, R291, R292)

Of a row's metadata column a store changes one tag and one counter. The cleared bits, the nodes, and with them the key stream
and the pad of every line, stay. -/

section storeLine

variable (s : State) (r q : RowRef) (i major minor : Nat) (l : List Byte) (poison : Bool)

@[simp] theorem isCleared_storeLine (n : Nat) : isCleared (storeLine s r i major minor l poison) n = isCleared s n := rfl

@[simp] theorem nodeFails_storeLine (n : Nat) : nodeFails (storeLine s r i major minor l poison) n = nodeFails s n := rfl

@[simp] theorem eccMeta_storeLine : (storeLine s r i major minor l poison).eccMeta = s.eccMeta := rfl

@[simp] theorem lineStream_storeLine (k : LineKeys) (j mj mn : Nat) :
    lineStream k (storeLine s r i major minor l poison) q j mj mn = lineStream k s q j mj mn := rfl

@[simp] theorem lineTag_storeLine (k : LineKeys) (j mj mn : Nat) (ct : List Nat) :
    lineTag k (storeLine s r i major minor l poison) q j mj mn ct = lineTag k s q j mj mn ct := rfl

/-- The line as it is stored, under the key stream of its counters (R292). -/
def sealedLine (s : State) (r : RowRef) (i major minor : Nat) (l : List Byte) : List Nat :=
  xorBytes (toNats l) (lineStream (keysOfRow s r) s r i major minor)

/-- The tag that stands beside it: inverted where the line is poisoned (R311). -/
def storedTag (s : State) (r : RowRef) (i major minor : Nat) (l : List Byte) (poison : Bool) : Word :=
  let tag := wd (lineTag (keysOfRow s r) s r i major minor (sealedLine s r i major minor l))
  if poison then ~~~tag else tag

theorem hbm_storeLine : (storeLine s r i major minor l poison).hbm =
    memWrite s.hbm (rowLineAddr r.qm i) (toBytes (sealedLine s r i major minor l)) := rfl

theorem metaOf_storeLine_same (hq : q.qm = r.qm) : metaOf (storeLine s r i major minor l poison) q =
    { metaOf s q with
      macs := tabSet (metaOf s q).macs i (storedTag s r i major minor l poison)
      minors := tabSet (metaOf s q).minors i minor } := by
  simp only [metaOf, hq]
  exact tabGet_tabSet_same _ _ _ _

theorem metaOf_storeLine_other (hq : q.qm ≠ r.qm) : metaOf (storeLine s r i major minor l poison) q = metaOf s q :=
  tabGet_tabSet_other _ _ _ _ _ hq

/-- Only the tag and the counter of line `i` are other. -/
theorem metaOf_storeLine : ∃ (macs : Tab Word) (minors : Tab Nat),
    metaOf (storeLine s r i major minor l poison) q = { metaOf s q with macs := macs, minors := minors } ∧
    ∀ j : Nat, q.qm ≠ r.qm ∨ j ≠ i →
      tabGet 0 macs j = tabGet 0 (metaOf s q).macs j ∧ tabGet 0 minors j = tabGet 0 (metaOf s q).minors j := by
  by_cases hq : q.qm = r.qm
  · refine ⟨_, _, metaOf_storeLine_same s r q i major minor l poison hq, fun j hj => ?_⟩
    have hji := hj.resolve_left (not_not_intro hq)
    exact ⟨tabGet_tabSet_other _ _ _ _ _ hji, tabGet_tabSet_other _ _ _ _ _ hji⟩
  · exact ⟨_, _, metaOf_storeLine_other s r q i major minor l poison hq, fun _ _ => ⟨rfl, rfl⟩⟩

@[simp] theorem keysOfRow_storeLine : keysOfRow (storeLine s r i major minor l poison) q = keysOfRow s q := by
  obtain ⟨macs, minors, hmeta, -⟩ := metaOf_storeLine s r q i major minor l poison
  simp only [keysOfRow, hmeta]
  rfl

theorem sealedLine_isBytes (hl : l.length = 64) : IsBytes 64 (sealedLine s r i major minor l) :=
  xorBytes_isBytes (hl ▸ toNats_isBytes l) (lineStream_isBytes _ _ s r i major minor)

theorem length_toBytes_sealedLine (hl : l.length = 64) : (toBytes (sealedLine s r i major minor l)).length = 64 := by
  rw [toBytes, List.length_map, (sealedLine_isBytes s r i major minor l hl).1]

theorem toBytes_toNats : toBytes (toNats l) = l := by
  simp [toBytes, toNats, Function.comp_def]

/-- What the key stream covers it uncovers. -/
theorem toBytes_unsealed (hl : l.length = 64) : toBytes (xorBytes (sealedLine s r i major minor l)
    (lineStream (keysOfRow s r) s r i major minor)) = l := by
  have hstream := (lineStream_isBytes (worldOf s (rowOwner s r.ql)).key (metaOf s r).kg s r i major minor).1
  have hle : (toNats l).length ≤ (lineStream (keysOfRow s r) s r i major minor).length :=
    le_of_eq ((toNats_isBytes l).1.trans (hl.trans hstream.symm))
  rw [sealedLine, xorBytes_xorBytes hle, toBytes_toNats]

theorem lineTag_lt (k : LineKeys) (ct : List Nat) : lineTag k s r i major minor ct < 2 ^ 64 :=
  Nat.xor_lt_two_pow (Nat.mod_lt _ (by decide)) (Nat.mod_lt _ (by decide))

/-- The stored tag disagrees with the line's exactly where the line is poisoned. -/
theorem storedTag_bne : ((storedTag s r i major minor l poison).toNat !=
    lineTag (keysOfRow s r) s r i major minor (sealedLine s r i major minor l)) = poison := by
  have hlt := lineTag_lt s r i major minor (keysOfRow s r) (sealedLine s r i major minor l)
  have hwd : (wd (lineTag (keysOfRow s r) s r i major minor (sealedLine s r i major minor l))).toNat =
      lineTag (keysOfRow s r) s r i major minor (sealedLine s r i major minor l) :=
    Nat.mod_eq_of_lt hlt
  cases poison with
  | false => simp [storedTag, hwd]
  | true =>
    simp only [storedTag, if_true, BitVec.toNat_not, hwd, bne_iff_ne]
    omega

end storeLine

/-! ## Lines that are read (R293) -/

theorem rowLineAddr_line (q i : Nat) : rowLineAddr q i / 64 = q * 28 + i := by
  rw [rowLineAddr, rowBytes]
  omega

/-- A line that was stored reads back with its poison, where no check fails. -/
theorem readLine_storeLine_same {s : State} {r : RowRef} {moved : List Nat} {i major minor : Nat} {l : List Byte}
    {poison : Bool} (hwf : Memory.wf s.hbm = true) (hl : l.length = 64) (hclr : isCleared s r.ql = false)
    (hecc : s.eccMeta.elem r.qm = false) (hnode : nodeFails s (r.ql / 64) = false)
    (htag : r.qm = r.ql → (metaOf s r).tag = 0 ∧ (metaOf s r).top = false)
    (hmajor : major = if moved.elem i then (metaOf s r).major + 1 else (metaOf s r).major) :
    readLine (storeLine s r i major minor l poison) r moved i = (l, poison) := by
  have hlen := length_toBytes_sealedLine s r i major minor l hl
  have hcell : toNats (memBytes (storeLine s r i major minor l poison).hbm (rowLineAddr r.qm i) 64) =
      sealedLine s r i major minor l := by
    have hread := memBytes_memWrite_same (rowLineAddr r.qm i) (toBytes (sealedLine s r i major minor l)) hwf
    rw [hlen] at hread
    rw [hbm_storeLine, hread, toNats_toBytes (sealedLine_isBytes s r i major minor l hl).2]
  have hline : (storeLine s r i major minor l poison).eccLines.elem (rowLineAddr r.qm i / 64) = false := by
    simp [storeLine, modMeta]
  have hrow : (r.qm == r.ql && ((metaOf s r).tag != 0 || (metaOf s r).top)) = false := by
    by_cases hq : r.qm = r.ql
    · simp [htag hq]
    · simp [hq]
  have hcounters : lineCounters (storeLine s r i major minor l poison) r moved i = (major, minor) := by
    simp [lineCounters, metaOf_storeLine_same, hmajor]
  rw [readLine]
  simp only [isCleared_storeLine, hclr, Bool.false_eq_true, if_false, keysOfRow_storeLine, hcounters, hcell, hline,
    eccMeta_storeLine, hecc, metaOf_storeLine_same, tabGet_tabSet_same, lineTag_storeLine, storedTag_bne, hrow,
    nodeFails_storeLine, hnode, lineStream_storeLine, toBytes_unsealed s r i major minor l hl, Bool.false_or, Bool.or_false]

/-- Every other line reads as before. -/
theorem readLine_storeLine_other {s : State} {r q : RowRef} (moved : List Nat) {i j : Nat} (major minor : Nat)
    {l : List Byte} (poison : Bool) (hwf : Memory.wf s.hbm = true) (hi : i < 28) (hl : l.length = 64) (hj : j < 28)
    (hne : q.qm ≠ r.qm ∨ j ≠ i) :
    readLine (storeLine s r i major minor l poison) q moved j = readLine s q moved j := by
  have hcell : memBytes (storeLine s r i major minor l poison).hbm (rowLineAddr q.qm j) 64 =
      memBytes s.hbm (rowLineAddr q.qm j) 64 := by
    rw [hbm_storeLine]
    refine memBytes_memWrite_other _ _ _ _ hwf ?_
    rw [length_toBytes_sealedLine s r i major minor l hl, rowLineAddr, rowLineAddr, rowBytes]
    omega
  have hline : (storeLine s r i major minor l poison).eccLines.elem (rowLineAddr q.qm j / 64) =
      s.eccLines.elem (rowLineAddr q.qm j / 64) := by
    have hat : rowLineAddr q.qm j / 64 ≠ rowLineAddr r.qm i / 64 := by
      rw [rowLineAddr_line, rowLineAddr_line]
      omega
    simp [storeLine, modMeta, hat]
  obtain ⟨macs, minors, hmeta, hkept⟩ := metaOf_storeLine s r q i major minor l poison
  obtain ⟨hmac, hminor⟩ := hkept j hne
  simp only [readLine, isCleared_storeLine, keysOfRow_storeLine, lineCounters, hmeta, hmac, hminor, hcell, hline,
    eccMeta_storeLine, lineTag_storeLine, lineStream_storeLine, nodeFails_storeLine]

theorem readLine_cleared {s : State} {r : RowRef} (moved : List Nat) (i : Nat) (h : isCleared s r.ql = true) :
    readLine s r moved i = (List.replicate 64 0, false) := if_pos h

/-! ## One level of a walk (spec/05_placement_and_translation.md R110, R111, R112) -/

theorem leNat_lt (l : List Byte) : leNat l < 256 ^ l.length := by
  induction l with
  | nil => exact Nat.one_pos
  | cons b bs ih =>
    have hb := b.isLt
    rw [leNat, List.length_cons, Nat.pow_succ]
    omega

theorem leNat_svcRead_lt (s : State) (u n : Nat) : leNat (svcRead s u n).1 < 256 ^ n :=
  (leNat_lt _).trans_le (Nat.pow_le_pow_right (by decide) (List.length_take_le _ _))

theorem ownedTable_iff (s : State) (w t : Nat) : ownedTable s w t = true ↔
    targetOf t = 0 ∧ t % 2 ^ 52 < hbmBytes ∧ pageOwner s (pageOfAddr (t % 2 ^ 52)) = w := by
  simp [ownedTable, and_assoc]

/-- The address that an entry names: a frame, or the next table. -/
def entryAddr (pte : Nat) : Nat := bf pte 55 8 * 256

theorem entryAddr_lt (pte : Nat) : entryAddr pte < 2 ^ 56 := by
  rw [entryAddr, bf]
  omega

/-- The bits of an entry that must be 0 at its level, and the kinds of entry that a level does not take (R111). -/
def ReservedNonZero (pte lv : Nat) : Prop :=
  pte / 2 ^ 56 ≠ 0 ∨ pte / 2 ^ 3 % 2 ^ 5 ≠ 0 ∨ (lv = 0 ∧ pte / 4 % 2 = 1) ∨ (lv = 3 ∧ ¬ pte / 4 % 2 = 1) ∨
    (pte / 4 % 2 = 1 ∧ entryAddr pte % 2 ^ pageBits lv ≠ 0) ∨ (¬ pte / 4 % 2 = 1 ∧ lv ≤ 1 ∧ entryAddr pte % 2 ^ 12 ≠ 0)

theorem entryAddr_aligned {pte lv : Nat} (h : ¬ ReservedNonZero pte lv) (hleaf : pte / 4 % 2 = 1) :
    entryAddr pte % 2 ^ pageBits lv = 0 := by
  by_contra hne
  exact h (.inr (.inr (.inr (.inr (.inl ⟨hleaf, hne⟩)))))

/-- A frame is aligned to its page exactly where the entry's bits below it are 0, whichever the level. -/
theorem entryAddr_mod_page (pte lv : Nat) : entryAddr pte % 2 ^ pageBits lv ≠ 0 ↔
    bf pte 15 8 ≠ 0 ∨ (lv = 2 ∧ bf pte 20 16 ≠ 0) ∨ (lv = 1 ∧ bf pte 29 16 ≠ 0) := by
  rw [pageBits]
  split_ifs with h1 h2 <;> simp only [entryAddr, bf] <;> omega

theorem badEntry_iff {pte : Nat} (lv : Nat) (h : pte < 2 ^ 64) : badEntry pte lv = true ↔ ReservedNonZero pte lv := by
  have htop : bf pte 63 56 = pte / 2 ^ 56 := by
    rw [bf]
    omega
  have hnext : bf pte 11 8 ≠ 0 ↔ entryAddr pte % 2 ^ 12 ≠ 0 := by
    simp only [entryAddr, bf]
    omega
  have hleaf : bm pte 2 = decide (pte / 4 % 2 = 1) := rfl
  simp only [badEntry, ReservedNonZero, entryAddr_mod_page, htop, ← hnext, hleaf, Bool.or_eq_true, Bool.and_eq_true,
    bne_iff_ne, beq_iff_eq, Bool.not_eq_true', decide_eq_true_eq, decide_eq_false_iff_not, or_assoc, and_assoc]
  rfl

theorem entryValid_iff (pte : Nat) : bm pte 0 = true ↔ pte % 2 = 1 := by
  rw [bm_eq_iff, Nat.pow_zero, Nat.div_one]
  rfl

theorem entryLeaf_iff (pte : Nat) : bm pte 2 = true ↔ pte / 4 % 2 = 1 := bm_eq_iff pte 2 true

/-- The page of an aligned frame and the offset in it give the address back: the frame has 40 bits. -/
theorem leaf_frame {addr va : Nat} (lv : Nat) (haddr : addr < 2 ^ 56) (hal : addr % 2 ^ pageBits lv = 0) :
    (addr + va % 2 ^ pageBits lv) / 65536 % 2 ^ 40 * 65536 + va % 65536 = addr + va % 2 ^ pageBits lv := by
  revert hal
  rw [pageBits]
  split_ifs <;> intro hal <;> omega

section level

variable {s : State} {w va n lv t : Nat}

theorem walkFrom_unowned (h : ¬ ownedTable s w t = true) : walkFrom w va (n + 1) t s = (.error 0x09, s) := by
  simp [walkFrom, h]

variable (hlv : lv = 3 - n) (ho : ownedTable s w t = true) {u : Nat} (hu : u = (t + 8 * walkIndex va lv) % 2 ^ 52)
include hlv ho hu

theorem walkFrom_unreached (hc : svcCheck s w u ≠ 0) : walkFrom w va (n + 1) t s = (.error (svcCheck s w u), s) := by
  simp [walkFrom, ← hlv, ← hu, ho, hc, -Nat.reducePow]

variable (hc : svcCheck s w u = 0)
include hc

theorem walkFrom_poisoned (h : (svcRead s u 8).2 = true) : walkFrom w va (n + 1) t s = (.error 0x0B, noteSoft s u) := by
  simp [walkFrom, ← hlv, ← hu, ho, hc, h, -Nat.reducePow]

variable (hd : (svcRead s u 8).2 = false) {pte : Nat} (hp : pte = leNat (svcRead s u 8).1)
include hd hp

theorem walkFrom_unsound (h : pte % 2 = 0 ∨ ReservedNonZero pte lv) :
    walkFrom w va (n + 1) t s = (.error 0x08, noteSoft s u) := by
  have hbad : bm pte 0 = false ∨ badEntry pte lv = true := by
    refine h.imp (fun hv => Bool.eq_false_iff.2 fun hb => ?_) (badEntry_iff lv (hp ▸ leNat_svcRead_lt s u 8)).2
    exact Nat.zero_ne_one (hv.symm.trans ((entryValid_iff pte).1 hb))
  simp [walkFrom, ← hlv, ← hu, ← hp, ho, hc, hd, hbad, -Nat.reducePow]

variable (hv : pte % 2 = 1) (hr : ¬ ReservedNonZero pte lv)
include hv hr

/-- An entry that is valid and whose reserved bits are 0 is a leaf, or names the next table. -/
theorem walkFrom_sound : walkFrom w va (n + 1) t s =
    if pte / 4 % 2 = 1 then
      (.ok ⟨(entryAddr pte + va % 2 ^ pageBits lv) / 65536 % 2 ^ 40, bm pte 1⟩, noteSoft s u)
    else walkFrom w va n (entryAddr pte) (noteSoft s u) := by
  have hvalid : bm pte 0 = true := (entryValid_iff pte).2 hv
  have hbad : badEntry pte lv = false :=
    Bool.eq_false_iff.2 (mt (badEntry_iff lv (hp ▸ leNat_svcRead_lt s u 8)).1 hr)
  simp [walkFrom, ← hlv, ← hu, ← hp, ho, hc, hd, hvalid, hbad, entryLeaf_iff, entryAddr, -Nat.reducePow]

theorem walkFrom_leaf (h : pte / 4 % 2 = 1) : ∃ e : TransEnt,
    walkFrom w va (n + 1) t s = (.ok e, noteSoft s u) ∧ e.w = decide (pte / 2 % 2 = 1) ∧
      e.frame * 65536 + va % 65536 = entryAddr pte + va % 2 ^ pageBits lv :=
  ⟨_, (walkFrom_sound hlv ho hu hc hd hp hv hr).trans (if_pos h), rfl,
    leaf_frame lv (entryAddr_lt pte) (entryAddr_aligned hr h)⟩

theorem walkFrom_next (h : ¬ pte / 4 % 2 = 1) :
    walkFrom w va (n + 1) t s = walkFrom w va n (entryAddr pte) (noteSoft s u) :=
  (walkFrom_sound hlv ho hu hc hd hp hv hr).trans (if_neg h)

end level

/-! ## The check of a fill (R112) -/

/-- A world may have the frame at `pa`: its own page of HBM, host memory while its interface runs, or a peer of its job. -/
def FrameAllowed (s : State) (w pa : Nat) : Prop :=
  (targetOf pa = 0 ∧ pa < hbmBytes ∧ pageOwner s (pageOfAddr pa) = w) ∨
    (targetOf pa = 1 ∧ (w = 1 ∨ (funcOf s (funcOfWorld w)).tdi = .run)) ∨
    (targetOf pa = 2 ∧ 2 ≤ w ∧ ∃ j : Job, (worldOf s w).job = some j ∧ j.members.getLsbD (peerOf pa) = true)

theorem bm_toNat {n : Nat} (x : BitVec n) (k : Nat) : bm x.toNat k = x.getLsbD k := by
  rw [BitVec.getLsbD, Nat.testBit_eq_decide_div_mod_eq]
  rfl

section fillCheck

variable {s : State} {w : Nat} {e : TransEnt}

theorem fillCheck_noTarget (h : 2 < targetOf (e.frame * 65536)) : fillCheck s w e = .error 0x08 := by
  rw [fillCheck]
  split
  · omega
  · omega
  · omega
  · rfl

theorem fillCheck_allowed (h : FrameAllowed s w (e.frame * 65536)) : fillCheck s w e = .ok e := by
  rcases h with ⟨ht, hlt, how⟩ | ⟨ht, hw⟩ | ⟨ht, hw, j, hj, hm⟩
  · simp [fillCheck, ht, hlt, how]
  · simp [fillCheck, ht, hw]
  · simp [fillCheck, ht, hj, hw, bm_toNat, hm]

theorem fillCheck_refused (h : ¬ FrameAllowed s w (e.frame * 65536)) (ht : targetOf (e.frame * 65536) ≤ 2) :
    fillCheck s w e = .error 0x09 := by
  simp only [FrameAllowed, not_or, not_and, not_exists] at h
  obtain ⟨hhbm, hhost, hpeer⟩ := h
  obtain h0 | h1 | h2 : targetOf (e.frame * 65536) = 0 ∨ targetOf (e.frame * 65536) = 1 ∨
      targetOf (e.frame * 65536) = 2 := by omega
  · simpa [fillCheck, h0] using hhbm h0
  · simpa [fillCheck, h1] using hhost h1
  · cases hj : (worldOf s w).job with
    | none => simp [fillCheck, h2, hj]
    | some j => simpa [fillCheck, h2, hj, bm_toNat] using fun hw => hpeer h2 hw j hj

end fillCheck

/-! ## The walk from the root (R109, R112) -/

/-- A root that a walk takes: a table's address, aligned to 2^20. -/
def RootValid (root : Nat) : Prop := root ≠ 0 ∧ root % 2 ^ 20 = 0 ∧ root < 2 ^ 56

section walk

variable {s t : State} {w va : Nat}

theorem walk_noRoot (h : ¬ RootValid (worldOf s w).troot) : walk s w va = (.error 0x08, s) := by
  rw [walk]
  refine if_pos ?_
  simp only [RootValid] at h
  simp
  omega

variable (h : RootValid (worldOf s w).troot)
include h

theorem walk_error {c : Nat} (hw : walkFrom w va 4 (worldOf s w).troot s = (.error c, t)) :
    walk s w va = (.error c, t) := by
  obtain ⟨h0, hal, hlt⟩ := h
  simp [walk, h0, hal, Nat.not_le.2 hlt, hw, -Nat.reducePow]

theorem walk_ok {e : TransEnt} (hw : walkFrom w va 4 (worldOf s w).troot s = (.ok e, t)) :
    walk s w va = (fillCheck t w e, t) := by
  obtain ⟨h0, hal, hlt⟩ := h
  simp [walk, h0, hal, Nat.not_le.2 hlt, hw, -Nat.reducePow]

end walk

/-! ## A walk caches nothing (R112, R114) -/

theorem noteSoft_trans (s : State) (u : Nat) : (noteSoft s u).trans = s.trans := by
  rw [noteSoft, noteNode]
  split <;> rfl

theorem walkFrom_trans (w va n t : Nat) (s : State) : (walkFrom w va n t s).2.trans = s.trans := by
  induction n generalizing t s with
  | zero => rfl
  | succ n ih =>
    simp only [walkFrom]
    split_ifs
    · rfl
    · rfl
    · exact noteSoft_trans _ _
    · exact noteSoft_trans _ _
    · exact noteSoft_trans _ _
    · exact (ih _ _).trans (noteSoft_trans _ _)

theorem walk_trans (s : State) (w va : Nat) : (walk s w va).2.trans = s.trans := by
  have hfrom := walkFrom_trans w va 4 (worldOf s w).troot s
  rw [walk]
  split
  · rfl
  · split <;> simp_all

/-! ## Translation (R112, R114) -/

/-- What an entry gives an access: its frame with the page offset, or 0x08 where it may not be written. -/
def useEntry (e : TransEnt) (va : Nat) (write : Bool) : Except Nat Nat :=
  if write && !e.w then .error 0x08 else .ok (e.frame * 65536 + va % 65536)

theorem cacheTrans_room {s : State} {die : Nat} (w va : Nat) (e : TransEnt)
    (h : (s.trans.filter (fun p => p.1 / 2 ^ 46 = die)).length < 65536) :
    cacheTrans s die w va e = { s with trans := tabSet s.trans (transKey die w va) e } := if_neg (Nat.not_le.2 h)

section translate

variable {s : State} {die w va : Nat} (write : Bool)

theorem translate_beyond (h : 2 ^ 56 ≤ va) : translate s die w va write = (.error 0x08, s) := if_pos h

variable (hva : va < 2 ^ 56)
include hva

theorem translate_cached {e : TransEnt} (hl : transLookup s die w va = some e) :
    translate s die w va write = (useEntry e va write, s) := by
  simp only [Machine.translate, Nat.not_le.2 hva, if_false, hl]
  rfl

variable (hl : transLookup s die w va = none)
include hl

theorem translate_fault {c : Nat} {t : State} (hw : walk (countDie die 0x10 1 s) w va = (.error c, t)) :
    translate s die w va write = (.error c, t) := by
  simp only [Machine.translate, Nat.not_le.2 hva, if_false, hl, hw]

theorem translate_filled {e : TransEnt} {t : State} (hw : walk (countDie die 0x10 1 s) w va = (.ok e, t)) :
    translate s die w va write = (useEntry e va write, cacheTrans t die w va e) := by
  simp only [Machine.translate, Nat.not_le.2 hva, if_false, hl, hw]
  rfl

end translate

theorem trans_of_walk_countDie {s t : State} {die w va : Nat} {r : Except Nat TransEnt}
    (hw : walk (countDie die 0x10 1 s) w va = (r, t)) : t.trans = s.trans := by
  have hkeep := walk_trans (countDie die 0x10 1 s) w va
  rw [hw] at hkeep
  exact hkeep

/-- Settles O2: lines by what a store leaves of a row, the walk by the equations of its root, of its levels and of its last
check, and translation by what a walk leaves of the caches. -/
theorem hbmLinesAndWalk : Obligations.HbmLinesAndWalk := by
  refine ⟨fun s r moved i major minor l poison hwf hi hl => ⟨readLine_storeLine_same hwf hl,
      fun j hj hne => readLine_storeLine_other moved major minor poison hwf hi hl hj (.inr hne),
      fun q j hj hne => readLine_storeLine_other moved major minor poison hwf hi hl hj (.inl hne), memWrite_wf _ _ hwf⟩,
    fun s r moved i => readLine_cleared moved i,
    fun s w va => ⟨fun h => walk_noRoot ?_, fun c t h0 hal hlt => walk_error ⟨h0, hal, hlt⟩, fun e t h0 hal hlt hw => ?_,
      fun lv table hlv => ?_⟩,
    fun s die w va write => ⟨translate_beyond write, fun e hva => translate_cached write hva,
      fun c t hva hl hw => ⟨translate_fault write hva hl hw, trans_of_walk_countDie hw⟩, fun e t hva hl hw hroom => ?_⟩⟩
  · rintro ⟨h0, hal, hlt⟩
    omega
  · have hwalk := walk_ok ⟨h0, hal, hlt⟩ hw
    exact ⟨fun h => hwalk.trans (by rw [fillCheck_allowed h]), fun h ht => hwalk.trans (by rw [fillCheck_refused h ht]),
      fun ht => hwalk.trans (by rw [fillCheck_noTarget ht])⟩
  · intro at_ u size pte leaf addr reserved owned
    have hn : 4 - lv = 3 - lv + 1 := by omega
    have hlevel : lv = 3 - (3 - lv) := by omega
    have hu : u = (table + 8 * walkIndex va lv) % 2 ^ 52 := by
      obtain rfl | rfl | rfl | rfl : lv = 0 ∨ lv = 1 ∨ lv = 2 ∨ lv = 3 := by omega
      all_goals rfl
    have hsize : size = 2 ^ pageBits lv := by
      obtain rfl | rfl | rfl | rfl : lv = 0 ∨ lv = 1 ∨ lv = 2 ∨ lv = 3 := by omega
      all_goals rfl
    have howned : owned ↔ ownedTable s w table = true := (ownedTable_iff s w table).symm
    have hreserved : reserved ↔ ReservedNonZero pte lv := by
      rw [ReservedNonZero, ← hsize]
      rfl
    rw [hn, howned, hreserved, hsize]
    exact ⟨walkFrom_unowned, fun ho => walkFrom_unreached hlevel ho hu, fun ho hc => ⟨walkFrom_poisoned hlevel ho hu hc,
      fun hd => walkFrom_unsound hlevel ho hu hc hd rfl, fun hd hv hr => ⟨walkFrom_leaf hlevel ho hu hc hd rfl hv hr,
        walkFrom_next hlevel ho hu hc hd rfl hv hr⟩⟩⟩
  · have hkeep := trans_of_walk_countDie hw
    refine ⟨_, translate_filled write hva hl hw, ?_⟩
    rw [cacheTrans_room w va e (hkeep ▸ hroom), hkeep]

end Sys2Proof.Proofs

/-!
PROOFS. Fetch and issue: no step leaves a bundle open (O58).
-/

namespace Sys2Proof.Proofs
open Sys2Proof Sys2Proof.Machine Sys2Proof.Laws

/-! ## What leaves the open bundle as it is

Only opening a bundle, its slots and its end touch `State.cur`. Each operation that the end of a step, the order of steps and
the passing of time are made of leaves it. -/

/-- What each step of a fold leaves of the open bundle, the fold leaves. -/
theorem foldl_cur {α : Type} {f : State → α → State} (hf : ∀ s a, (f s a).cur = s.cur) (l : List α) (s : State) :
    (l.foldl f s).cur = s.cur := foldl_keeps State.cur hf l s

section keepsBundle
variable (s : State)

@[simp] theorem ite_cur (c : Prop) [Decidable c] (t : State) : (if c then t else s).cur = if c then t.cur else s.cur :=
  apply_ite State.cur c t s

@[simp] theorem countEvent_cur (a : Agent) (e n : Nat) : (countEvent a e n s).cur = s.cur := by
  rw [countEvent]
  split <;> rfl

/-! ### Memory (spec/13_memory_channels_and_segmented_banks.md R290-R297, R305) -/

@[simp] theorem noteNode_cur (q : Nat) : (noteNode s q).cur = s.cur := by
  rw [noteNode]
  split <;> rfl

@[simp] theorem noteSoft_cur (u : Nat) : (noteSoft s u).cur = s.cur := noteNode_cur s _

@[simp] theorem storeLine_cur (r : RowRef) (i mj mn : Nat) (l : List Byte) (p : Bool) :
    (storeLine s r i mj mn l p).cur = s.cur := rfl

@[simp] theorem writeLine_cur (r : RowRef) (mv : List Nat) (i : Nat) (l : List Byte) (p : Bool) :
    (writeLine s r mv i l p).1.cur = s.cur := by
  rw [writeLine]
  split <;> rfl

@[simp] theorem initRow_cur (r : RowRef) : (initRow s r).cur = s.cur := by
  rw [initRow, zeroRow]
  exact foldl_cur (fun t i => storeLine_cur t r i 0 0 _ false) allLines _

@[simp] theorem modMeta_cur (r : RowRef) (f : RowMeta → RowMeta) : (modMeta s r f).cur = s.cur := rfl

@[simp] theorem repad_cur (t : State) (r : RowRef) : (repad s t r).cur = t.cur := by
  simp [repad]

@[simp] theorem advanceEpoch_cur (r : RowRef) : (advanceEpoch s r).1.cur = s.cur := by
  simp only [advanceEpoch]
  split <;> simp [foldl_cur]

@[simp] theorem bumpPoison_cur (p : Nat) : (bumpPoison s p).cur = s.cur := rfl

@[simp] theorem rekeyRow_cur (r : RowRef) (mv : List Nat) : (rekeyRow s r mv).cur = s.cur := by
  have hbump := foldl_cur (fun t i => bumpPoison_cur t (pageOfAddr (rowLineAddr r.ql i))) allLines s
  simp [rekeyRow, poisonRow, foldl_cur, hbump]

@[simp] theorem closeRow_cur (r : RowRef) (mv : List Nat) (m : Bool) : (closeRow s r mv m).1.cur = s.cur := by
  simp only [closeRow]
  split <;> simp

@[simp] theorem noteWrite_cur (line : Nat) : (noteWrite line s).cur = s.cur := rfl

@[simp] theorem svcMergeLine_cur (u : Nat) (whole : Bool) (merge : List Byte → List Byte) (p : Bool) :
    (svcMergeLine s u whole merge p).cur = s.cur := by
  rw [svcMergeLine, noteWrite_cur, ite_cur, bumpPoison_cur, ite_self, closeRow_cur, writeLine_cur, ite_cur, initRow_cur,
    ite_self, noteSoft_cur]

@[simp] theorem svcWrite_cur (u : Nat) (l : List Byte) (p : Bool) : (svcWrite s u l p).cur = s.cur := by
  rw [svcWrite]
  refine foldl_cur (fun t q => ?_) _ s
  rw [svcWriteLine]
  exact svcMergeLine_cur t _ _ _ p

@[simp] theorem fabricWrite_cur (off : Nat) (l : List Byte) (p : Bool) : (fabricWrite s off l p).cur = s.cur := by
  rw [fabricWrite]
  split <;> simp

/-! ### Translation (spec/05_placement_and_translation.md R112, R114) -/

theorem walkFrom_cur (w va n t : Nat) : (walkFrom w va n t s).2.cur = s.cur := by
  induction n generalizing t s with
  | zero => rfl
  | succ n ih =>
    simp only [walkFrom]
    split_ifs
    · rfl
    · rfl
    · exact noteSoft_cur s _
    · exact noteSoft_cur s _
    · exact noteSoft_cur s _
    · exact (ih _ _).trans (noteSoft_cur s _)

@[simp] theorem countDie_cur (d e n : Nat) : (countDie d e n s).cur = s.cur := rfl

@[simp] theorem walk_cur (w va : Nat) : (walk s w va).2.cur = s.cur := by
  have hfrom := walkFrom_cur s w va 4 (worldOf s w).troot
  rw [walk]
  split
  · rfl
  · split <;> simp_all

@[simp] theorem cacheTrans_cur (die w va : Nat) (e : TransEnt) : (cacheTrans s die w va e).cur = s.cur := by
  rw [cacheTrans]
  split <;> rfl

@[simp] theorem translate_cur (die w va : Nat) (write : Bool) : (translate s die w va write).2.cur = s.cur := by
  have hwalk := walk_cur (countDie die 0x10 1 s) w va
  simp only [Machine.translate]
  split
  · rfl
  · split
    · rfl
    · split <;> simp_all

@[simp] theorem addMisses_cur (l : List Miss) : (addMisses l s).cur = s.cur := by
  simp [addMisses, foldl_cur, countDie]

@[simp] theorem awaitWalks_cur (die : Nat) (t : State) : (awaitWalks die s t).cur = s.cur := addMisses_cur s _

/-- A line of a record that hardware writes: whatever comes of it, the open bundle stays. -/
@[simp] theorem writeVirt_cur (die w va : Nat) (l : List Byte) : (writeVirt s die w va l).2.cur = s.cur := by
  rw [writeVirt]
  refine foldl_keeps (fun acc : Except Nat Unit × State => acc.2.cur) (fun acc p => ?_) _ (.ok (), s)
  have htrans := translate_cur acc.2 die w p.1 true
  dsimp only
  split
  · rfl
  · split
    · simp_all
    · split_ifs <;> simp_all [dmaWrite]

/-! ### How a task leaves its core (spec/04_launch_and_scheduling.md R84, R96, R97; spec/17 R398) -/

@[simp] theorem dropSlub_cur (u : Nat) (r : Slub) (l : List Slub) : (dropSlub u r l s).cur = s.cur := countEvent_cur _ _ _ _

@[simp] theorem pushSlub_cur (u : Nat) (r : Slub) : (pushSlub u r s).cur = s.cur := by
  rw [pushSlub]
  split
  · exact dropSlub_cur s u r _
  · rfl

@[simp] theorem endDeviation_cur (a : Agent) : (endDeviation a s).cur = s.cur := by
  rw [endDeviation]
  dsimp only
  split
  · rfl
  · split
    · rfl
    · split
      · rfl
      · exact pushSlub_cur _ _ _

@[simp] theorem dropBeatsTo_cur (c : Nat) (p : Agent → Bool) : (dropBeatsTo c p s).cur = s.cur := by
  rw [dropBeatsTo]
  exact foldl_cur (fun t j => modCore_cur t j _) _ s

@[simp] theorem zeroCore_cur (a : Agent) : (zeroCore a s).cur = s.cur := by
  simp [zeroCore]

@[simp] theorem freeBanksOf_cur (mine : Alloc → Bool) (cl : Nat) : (freeBanksOf mine cl s).cur = s.cur := by
  rw [freeBanksOf]
  exact foldl_cur (fun t b => modCluster_cur t cl _) _ _

@[simp] theorem freePooled_cur (saving : Bool) (a : Agent) : (freePooled saving a s).cur = s.cur := by
  simp [freePooled, foldl_cur]

@[simp] theorem releaseMonitor_cur (a : Agent) : (releaseMonitor a s).cur = s.cur := rfl

@[simp] theorem discardOps_cur (a : Agent) : (discardOps a s).cur = s.cur := rfl

@[simp] theorem freeContext_cur (how : Leaving) (a : Agent) : (freeContext how a s).cur = s.cur := by
  cases a <;> simp [freeContext]

@[simp] theorem freeLeft_cur (w n : Nat) : (freeLeft w n s).cur = s.cur := by
  simp [freeLeft, foldl_cur]

@[simp] theorem failLaunch_cur (w n : Nat) (e : Ended) : (failLaunch w n e s).cur = s.cur := by
  simp [failLaunch, modLaunch]

@[simp] theorem writeWhole_cur (w va : Nat) (l : List Byte) : (writeWhole w va l s).cur = s.cur := by
  have hwrite := writeVirt_cur s 4 w va l
  rw [writeWhole]
  split
  · simp_all
  · rfl

@[simp] theorem writeEnd_cur (w : Nat) (l : Machine.Launch) : (writeEnd w l s).cur = s.cur := by
  simp [writeEnd]

@[simp] theorem closeLaunch_cur (w n : Nat) : (closeLaunch w n s).cur = s.cur := by
  rw [closeLaunch]
  split
  · rfl
  · simp

@[simp] theorem landingDelay_cur (level : Nat) : (landingDelay s level).2.cur = s.cur := by
  unfold landingDelay
  split <;> rfl

@[simp] theorem domSend_cur (a : Agent) (t : Nat) (d w : Bool) : (domSend s a t d w).cur = s.cur := by
  simp [domSend, modDom]

@[simp] theorem domDrop_cur (a : Agent) : (domDrop s a).cur = s.cur := by
  simp [domDrop]

@[simp] theorem modLaunch_cur (w n : Nat) (f : Machine.Launch → Machine.Launch) : (modLaunch w n f s).cur = s.cur := rfl

@[simp] theorem endTask_cur (a : Agent) (cause : Nat) : (endTask a cause s).cur = s.cur := by
  cases a with
  | channel n => rfl
  | _ =>
    simp [endTask]

@[simp] theorem settleOne_cur (a : Agent) : (settleOne a s).cur = s.cur := by
  simp only [settleOne]
  split
  · simp
  · split
    · split <;> simp
    · rfl

@[simp] theorem settle_cur : (settle s).cur = s.cur := by
  simp [settle, foldl_cur]

/-! ### The order of steps and the passing of time (log entry 1; spec/06_fetch_and_issue.md R135, R138) -/

@[simp] theorem noteActivity_cur : (noteActivity s).cur = s.cur := by
  simp [noteActivity, foldl_cur]

@[simp] theorem holdCores_cur (n : Nat) : (holdCores n s).cur = s.cur := by
  simp [holdCores, foldl_cur]

@[simp] theorem closeDeviation_cur (a : Agent) (x : Ctx) : (closeDeviation a x s).cur = s.cur := by
  simp [closeDeviation]

@[simp] theorem runFenced_cur (a : Agent) (n : Nat) (l : List Nat) : (runFenced a n l s).cur = s.cur := rfl

@[simp] theorem advanceCtx_cur (s0 : State) (g : Nat) (a : Agent) : (advanceCtx s0 g a s).cur = s.cur := by
  simp [advanceCtx]

@[simp] theorem advance_cur (g : Nat) : (advance g s).cur = s.cur := by
  simp [advance, foldl_cur]

@[simp] theorem leftVectors_cur : (leftVectors s).2.cur = s.cur := rfl

@[simp] theorem enterPhase_cur (p : Nat) : (enterPhase p s).cur = s.cur := by
  simp only [enterPhase]
  split
  · rfl
  · split
    · simp
    · split <;> rfl

theorem refill_cur (n : Nat) : (refill n s).cur = s.cur := by
  induction n generalizing s with
  | zero => rfl
  | succ n ih =>
    rw [refill]
    split
    · rfl
    · split
      · exact (ih _).trans (enterPhase_cur s _)
      · split
        · rfl
        · exact (ih _).trans ((enterPhase_cur _ 0).trans (advance_cur s _))

@[simp] theorem redoCycle_cur (a : Agent) : (redoCycle a s).cur = s.cur := rfl

theorem trapFirst_cur : (trapFirst s).cur = s.cur := by
  unfold trapFirst
  split
  · split
    · rfl
    · split
      · simp
      · split
        · rfl
        · split <;> rfl
  · rfl

end keepsBundle

/-! ## What closes it -/

/-- The end of a bundle leaves none open. -/
theorem finishBundle_cur (s : State) : (finishBundle s).cur = none := by
  simp only [finishBundle]
  split
  · assumption
  · simp

/-- However many slots a bundle issues, its end follows. -/
theorem issueSlots_cur {n : Nat} {s t : State} (h : issueSlots n s = .next t) : t.cur = none := by
  induction n generalizing s with
  | zero =>
    obtain rfl : finishBundle s = t := by simpa [issueSlots] using h
    exact finishBundle_cur s
  | succ n ih =>
    rw [issueSlots] at h
    split at h
    · obtain rfl : finishBundle s = t := by simpa using h
      exact finishBundle_cur s
    · split at h
      · exact ih h
      · simp at h
      · simp at h

/-- A row that opens a bundle, or that finds one open, is followed by the bundle's slots and its end. -/
theorem afterExec_cur {o : Out} {t : State} (h : afterExec o = .next t) : t.cur = none := by
  cases o with
  | fault f => simp [afterExec] at h
  | refused r => simp [afterExec] at h
  | next s =>
    simp only [afterExec] at h
    split at h
    · obtain rfl : settle s = t := by simpa using h
      simpa
    · cases hi : issueSlots 8 s with
      | next s1 =>
        obtain rfl : settle s1 = t := by simpa [hi] using h
        simpa using issueSlots_cur hi
      | fault f => simp [hi] at h
      | refused r => simp [hi] at h

/-- Settles O58: where a row runs, its bundle ends within the step; where none is due, only time has passed. -/
theorem noOpenBundle : Obligations.NoOpenBundle := by
  intro s t hs h
  rw [step, runStep] at h
  split at h
  · simp at h
  · dsimp only at h
    split at h
    · obtain rfl : trapFirst (refill 24 s) = t := by simpa using h
      rw [trapFirst_cur, refill_cur, hs]
    · exact afterExec_cur h

end Sys2Proof.Proofs

/-!
PROOFS. Fetch and issue: a step and its row (O41).
-/

namespace Sys2Proof.Proofs
open Sys2Proof Sys2Proof.Machine Sys2Proof.Laws

/-! ## The slots of a bundle (spec/06_fetch_and_issue.md R128; spec/20_observation_and_bring_up.md R429, R430) -/

theorem payCapture_cur {w n : Nat} {s t : State} (h : payCapture w n s = some t) : t.cur = s.cur := by
  rw [payCapture] at h
  split at h
  · obtain rfl := Option.some.inj h
    rfl
  · split at h
    · simp at h
    · obtain rfl := Option.some.inj h
      rfl

theorem writeTrace_cur (w slot word pc : Nat) (s : State) : (writeTrace w slot word pc s).cur = s.cur := by
  simp only [writeTrace]
  split
  · rfl
  · rename_i s1 hpay
    split at hpay
    · simp at hpay
    · exact (payCapture_cur hpay).trans rfl

/-- A trace record leaves the open bundle. -/
theorem traceSlot_cur (s : State) : (traceSlot s).cur = s.cur := by
  rw [traceSlot]
  split
  · rfl
  · split
    · exact writeTrace_cur _ _ _ _ s
    · rfl

theorem breakHere_of_not_debugMode {s : State} {u : Issue} {g : Nat} (hu : s.cur = some u) (hd : debugMode s u.ag = false) :
    breakHere s g = false := by
  simp [breakHere, hu, hd]

/-- The open bundle with the word `w` as the slot being issued, and the words `l` still to come. -/
def slotOpened (s : State) (u : Issue) (w : SlotWord) (l : List SlotWord) : Issue :=
  { u with slot := w.slot, word := w.word, rest := l, before := doneBefore (ctxOf s u.ag) w.slot.num }

/-- The next word that is not done, of a context that no debugger holds, issues as its instruction. -/
theorem nextSlot_issues {s : State} {n : Nat} {u : Issue} {w : SlotWord} {l : List SlotWord} (hu : s.cur = some u)
    (hr : u.rest = w :: l) (hm : bm u.mask w.slot.num = false) (hd : debugMode s u.ag = false) :
    nextSlot (n + 1) s = some (w.instr,
      traceSlot (modCtx { s with cur := some (slotOpened s u w l) } u.ag (fun x => { x with bkSkip := false }))) := by
  have hb : breakHere { s with cur := some (slotOpened s u w l) } (guardField w.word) = false :=
    breakHere_of_not_debugMode rfl hd
  simp only [slotOpened] at hb ⊢
  simp [nextSlot, hu, hr, hm, hb]

theorem nextSlot_none {s : State} (n : Nat) (hs : s.cur = none) : nextSlot n s = none := by
  cases n with
  | zero => rfl
  | succ n => simp [nextSlot, hs]

theorem finishBundle_none {s : State} (hs : s.cur = none) : finishBundle s = s := by
  simp [finishBundle, hs]

/-! ## A step -/

/-- A step that is not that of a package which stands off runs the row that stands first. -/
theorem step_runs_first {s : State} {i : Instr} {rest : List Instr} (hon : s.poweredOff = false ∨ s.agenda ≠ [])
    (hi : (trapFirst (refill 24 s)).agenda = i :: rest) :
    step s = afterExec (exec i { trapFirst (refill 24 s) with agenda := rest }) := by
  have hgo : (s.poweredOff && s.agenda.isEmpty && !s.inputs.any (fun p => takeable s p.2)) = false := by
    rcases hon with h | h <;> simp [h]
  rw [step, runStep, hgo]
  simp [hi]

/-- Settles O41: the step by its agenda, the slots by what `nextSlot` answers. -/
theorem stepRunsRow : Obligations.StepRunsRow := by
  refine ⟨?_, fun t ht => ⟨?_, ?_⟩, fun s n u w l hu hr hm hd => ⟨_, slotOpened s u w l, nextSlot_issues hu hr hm hd, ?_,
    rfl, rfl, rfl, rfl, rfl, ?_⟩⟩
  · rintro s _ i rest hon rfl hi
    exact step_runs_first hon hi
  · simp [afterExec, ht]
  · rw [issueSlots, nextSlot_none 8 ht, finishBundle_none ht]
  · exact (traceSlot_cur _).trans rfl
  · rw [issueSlots]
    cases nextSlot 8 s with
    | none => rfl
    | some p => rfl

end Sys2Proof.Proofs

/-!
PROOFS. Fetch and issue: the Source and Dest steps (O37).
-/

namespace Sys2Proof.Proofs
open Sys2Proof Sys2Proof.Machine Sys2Proof.Laws

/-! ## A queue and a register of a context (spec/06_fetch_and_issue.md R127, R128) -/

/-- A context whose queue of register `r` is `q`. -/
def setSreg (x : Ctx) (r : Nat) (q : Machine.Ring Word) : Ctx := { x with sregs := tabSet x.sregs r q }

@[simp] theorem sregOf_setSreg_same (x : Ctx) (r : Nat) (q : Machine.Ring Word) : sregOf (setSreg x r q) r = q :=
  tabGet_tabSet_same _ _ _ _

theorem sregOf_setSreg_other {x : Ctx} {r k : Nat} {q : Machine.Ring Word} (h : k ≠ r) :
    sregOf (setSreg x r q) k = sregOf x k :=
  tabGet_tabSet_other _ _ _ _ _ h

theorem source_of_ring_error {r c : Nat} {pop : Bool} {s : State} (hr : r ≠ 0)
    (h : ringSource (sregOf (curCtx s) r) pop = .error c) : source r pop s = .error c := by
  simp [source, sourceIn, hr, h]

theorem source_of_ring_ok {r : Nat} {pop : Bool} {s : State} {v : Word} {q : Machine.Ring Word} (hr : r ≠ 0)
    (h : ringSource (sregOf (curCtx s) r) pop = .ok (v, q)) :
    source r pop s = .ok (v, setCtx s (curAgent s) (setSreg (curCtx s) r q)) := by
  simp [source, sourceIn, hr, h, setSreg]

theorem dest_of_ring_error {r c : Nat} {push : Bool} {s : State} (hr : r ≠ 0)
    (h : ringDest (sregOf (curCtx s) r) push = .error c) : dest r push s = .error c := by
  simp [dest, destIn, hr, h]

theorem dest_of_ring_ok {r c : Nat} {push : Bool} {s : State} {q : Machine.Ring Word} (hr : r ≠ 0)
    (h : ringDest (sregOf (curCtx s) r) push = .ok (c, q)) :
    dest r push s = .ok (some c, setCtx s (curAgent s) (setSreg (curCtx s) r q)) := by
  simp [dest, destIn, hr, h, setSreg]

theorem ringSource_empty {α : Type} {q : Machine.Ring α} (pop : Bool) (h : q.len = 0) : ringSource q pop = .error 0x03 := by
  simp [ringSource, h]

theorem ringSource_held {α : Type} {q : Machine.Ring α} (pop : Bool) (h : q.len ≠ 0) :
    ringSource q pop = .ok (ringCell q q.head,
      if pop then { q with head := (q.head + 1) % 4, len := q.len - 1, gone := q.gone + 1 } else q) := by
  cases pop <;> simp [ringSource, h]

theorem ringDest_full {α : Type} {q : Machine.Ring α} {push : Bool} (hp : push = true ∨ q.len = 0) (h : q.len = 4) :
    ringDest q push = .error 0x02 := by
  have hp : push = true := hp.resolve_right (by omega)
  simp [ringDest, hp, h]

theorem ringDest_room {α : Type} {q : Machine.Ring α} {push : Bool} (hp : push = true ∨ q.len = 0) (h : q.len ≠ 4) :
    ringDest q push = .ok ((q.head + q.len) % 4, { q with len := q.len + 1 }) := by
  have hp : (push || decide (q.len = 0)) = true := by simpa using hp
  simp [ringDest, hp, h]

theorem ringDest_again {α : Type} {q : Machine.Ring α} (h : q.len ≠ 0) :
    ringDest q false = .ok ((q.head + q.len + 3) % 4, q) := by
  simp [ringDest, h]

/-- A Source step that fails finds its queue empty. -/
theorem source_error {r c : Nat} {pop : Bool} {s : State} (h : source r pop s = .error c) : c = 0x03 := by
  by_cases hr : r = 0
  · rw [hr, source_zero] at h
    cases h
  · by_cases hl : (sregOf (curCtx s) r).len = 0
    · rw [source_of_ring_error hr (ringSource_empty pop hl)] at h
      cases h
      rfl
    · rw [source_of_ring_ok hr (ringSource_held pop hl)] at h
      cases h

/-- A Dest step that fails finds its queue full. -/
theorem dest_error {r c : Nat} {push : Bool} {s : State} (h : dest r push s = .error c) : c = 0x02 := by
  by_cases hr : r = 0
  · rw [hr, dest_zero] at h
    cases h
  · by_cases hp : push = true ∨ (sregOf (curCtx s) r).len = 0
    · by_cases hl : (sregOf (curCtx s) r).len = 4
      · rw [dest_of_ring_error hr (ringDest_full hp hl)] at h
        cases h
        rfl
      · rw [dest_of_ring_ok hr (ringDest_room hp hl)] at h
        cases h
    · obtain ⟨hpush, hl⟩ := not_or.1 hp
      obtain rfl : push = false := by simpa using hpush
      rw [dest_of_ring_ok hr (ringDest_again hl)] at h
      cases h

/-- What leaves the queue of register `r` as `q` changes no other part of its context. -/
theorem setSreg_frame (x : Ctx) (r : Nat) (q : Machine.Ring Word) :
    sregOf (setSreg x r q) r = q ∧ setSreg x r q = { x with sregs := (setSreg x r q).sregs } ∧
      ∀ k : Nat, k ≠ r → sregOf (setSreg x r q) k = sregOf x k :=
  ⟨sregOf_setSreg_same x r q, rfl, fun _ hk => sregOf_setSreg_other hk⟩

/-! ## The traps of an RR word -/

/-- One of the steps of an RR word fails with `c`. -/
def rrFails (o : RR) (s : State) (c : Nat) : Prop :=
  source o.a o.m s = .error c ∨ (∃ x s1, source o.a o.m s = .ok (x, s1) ∧ source o.b o.n s1 = .error c) ∨
    ∃ x y s2, readsTwo o.a o.m o.b o.n s x y s2 ∧ dest o.d o.q s2 = .error c

theorem rrFails_cause {o : RR} {s : State} {c : Nat} (h : rrFails o s c) : c = 0x02 ∨ c = 0x03 := by
  rcases h with h | ⟨_, _, _, h⟩ | ⟨_, _, _, _, h⟩
  · exact .inr (source_error h)
  · exact .inr (source_error h)
  · exact .inl (dest_error h)

/-- The slot traps from the state it began in: nothing that an earlier step had done stands. -/
theorem formRR_trap {o : RR} {L : Nat} {op : Word → Word → Word} {s : State} {u : Issue} {c : Nat}
    (hg : slotRuns o.g u s) (h : rrFails o s c) : formRR o L op s = .next (slotTrap c s) := by
  refine slot_trap hg ?_
  rcases h with h | ⟨x, s1, h1, h⟩ | ⟨x, y, s2, ⟨s1, h1, h2⟩, h⟩
  · simp [bind, Except.bind, h]
  · simp [bind, Except.bind, h1, h]
  · simp [bind, Except.bind, h1, h2, h, writeReg]

/-- Settles O37, from what the Source and Dest steps do to one queue. -/
theorem sourceAndDestSteps : Obligations.SourceAndDestSteps := by
  unfold Obligations.SourceAndDestSteps
  refine ⟨?_, ?_, ?_⟩
  · rintro r pop s a rfl
    refine ⟨?_, fun hr hl => source_of_ring_error hr (ringSource_empty pop hl), fun hr hl => ?_⟩
    · rintro rfl
      exact source_zero pop s
    · exact ⟨_, source_of_ring_ok hr (ringSource_held pop hl), setSreg_frame _ _ _⟩
  · rintro r push s a rfl
    refine ⟨?_, fun hr hp hl => dest_of_ring_error hr (ringDest_full hp hl), fun hr hp hl => ?_, fun hr hp hl => ?_⟩
    · rintro rfl
      exact dest_zero push s
    · exact ⟨_, dest_of_ring_ok hr (ringDest_room hp hl), setSreg_frame _ _ _⟩
    · subst hp
      exact ⟨_, dest_of_ring_ok hr (ringDest_again hl), setSreg_frame _ _ _⟩
  · intro o s s1 s2 u x y c hg h
    have hf : rrFails o s c := by
      rcases h with h | ⟨h1, h⟩ | ⟨h1, h⟩
      · exact .inl h
      · exact .inr (.inl ⟨x, s1, h1, h⟩)
      · exact .inr (.inr ⟨x, y, s2, h1, h⟩)
    exact ⟨rrFails_cause hf, (exec_add o s).trans (formRR_trap hg hf), (exec_sub o s).trans (formRR_trap hg hf),
      (exec_mul o s).trans (formRR_trap hg hf), (exec_div o s).trans (formRR_trap hg hf),
      (exec_and o s).trans (formRR_trap hg hf), (exec_shl o s).trans (formRR_trap hg hf)⟩

end Sys2Proof.Proofs

/-!
PROOFS. Fetch and issue: what falls due lands (O42).
-/

namespace Sys2Proof.Proofs
open Sys2Proof Sys2Proof.Machine Sys2Proof.Laws

/-! ## The stable order by a rank (spec/06_fetch_and_issue.md R125) -/

theorem insertBy_eq_orderedInsert {α : Type} (rank : α → Nat) (x : α) (l : List α) :
    insertBy rank x l = l.orderedInsert (fun a b => rank a ≤ rank b) x := by
  induction l with
  | nil => rfl
  | cons y ys ih => simp only [insertBy, List.orderedInsert_cons, ih]

theorem sortBy_eq_insertionSort {α : Type} (rank : α → Nat) (l : List α) :
    sortBy rank l = l.insertionSort (fun a b => rank a ≤ rank b) := by
  induction l with
  | nil => rfl
  | cons x xs ih => rw [sortBy, ih, insertBy_eq_orderedInsert, List.insertionSort_cons]

theorem sortBy_perm {α : Type} (rank : α → Nat) (l : List α) : (sortBy rank l).Perm l := by
  rw [sortBy_eq_insertionSort]
  exact List.perm_insertionSort _ l

theorem sortBy_pairwise {α : Type} (rank : α → Nat) (l : List α) :
    (sortBy rank l).Pairwise (fun x y => rank x ≤ rank y) := by
  rw [sortBy_eq_insertionSort]
  have : Std.Total (fun x y : α => rank x ≤ rank y) := ⟨fun x y => Nat.le_total _ _⟩
  have : IsTrans α (fun x y : α => rank x ≤ rank y) := ⟨fun _ _ _ => Nat.le_trans⟩
  exact List.pairwise_insertionSort _ l

/-- What has one rank keeps its order. -/
theorem filter_sortBy {α : Type} (rank : α → Nat) (q : α → Bool) (l : List α)
    (hq : ∀ x y, q x = true → q y = true → rank x = rank y) : (sortBy rank l).filter q = l.filter q := by
  have hone : (l.filter q).Pairwise (fun x y => rank x ≤ rank y) := by
    refine List.pairwise_of_forall_mem_list fun x hx y hy => ?_
    exact (hq x y (List.mem_filter.1 hx).2 (List.mem_filter.1 hy).2).le
  have hsub : (l.filter q).Sublist (sortBy rank l) := by
    rw [sortBy_eq_insertionSort]
    exact List.sublist_insertionSort hone List.filter_sublist
  have hsub := hsub.filter q
  simp only [List.filter_filter, Bool.and_self] at hsub
  exact (hsub.eq_of_length (((sortBy_perm rank l).filter q).length_eq).symm).symm

theorem pendRank_le_iff {p q : InFlight} (hp : p.slot < 8) (hq : q.slot < 8) :
    pendRank p ≤ pendRank q ↔ p.iss < q.iss ∨ p.iss = q.iss ∧ p.slot ≤ q.slot := by
  unfold pendRank
  omega

/-! ## What performs with the writes (R196, R209) -/

@[simp] theorem ctxOf_performStore (a b : Agent) (sp : Space) (l : List Host.Cell) (s : State) :
    ctxOf (performStore a sp l s) b = ctxOf s b := by
  unfold performStore
  split
  · rfl
  · split <;> rfl
  · rfl
  · rfl
  · rfl
  · rfl

/-- What a context has in flight performs at a write when it is all due. -/
theorem exec_resultLanding_write_single {a : Agent} {s : State} {p : InFlight} (hf : (ctxOf s a).frozen = false)
    (hp : (ctxOf s a).pend = [p]) (hd : p.due ≤ (ctxOf s a).clk) (hn : performsNow p.act = true) :
    exec (.resultLanding a .write) s = .next (performOne a p (setCtx s a { ctxOf s a with pend := [] })) := by
  simp [exec_resultLanding, execResultLanding, hf, hp, hd, hn, sortBy, insertBy]

/-! ## A word lands in its cell (R127) -/

theorem ringPut_frame {α : Type} (q : Machine.Ring α) (c : Nat) (v : α) :
    (ringPut q c v).len = q.len ∧ (ringPut q c v).head = q.head ∧ ringCell (ringPut q c v) c = v ∧
      ∀ i : Nat, i % 4 ≠ c % 4 → ringCell (ringPut q c v) i = ringCell q i := by
  have hc : c % 4 = 0 ∨ c % 4 = 1 ∨ c % 4 = 2 ∨ c % 4 = 3 := by omega
  refine ⟨?_, ?_, ?_, fun i hi => ?_⟩
  · rcases hc with hc | hc | hc | hc <;> simp [ringPut, hc]
  · rcases hc with hc | hc | hc | hc <;> simp [ringPut, hc]
  · rcases hc with hc | hc | hc | hc <;> simp [ringPut, ringCell, hc]
  · have hin : i % 4 = 0 ∨ i % 4 = 1 ∨ i % 4 = 2 ∨ i % 4 = 3 := by omega
    rcases hc with hc | hc | hc | hc <;> rcases hin with hin | hin | hin | hin <;> simp_all [ringPut, ringCell]

theorem landOne_sreg {a : Agent} {s : State} {due iss slot r c : Nat} {v : Word} (hr : r ≠ 0) :
    landOne a ⟨due, iss, slot, .sreg r c v⟩ s =
      setCtx s a (setSreg (ctxOf s a) r (ringPut (sregOf (ctxOf s a) r) c v)) := by
  simp [landOne, hr, modCtx, tabMod, setSreg, sregOf]

theorem onlyContexts_setCtx (s : State) (a : Agent) (x : Ctx) : onlyContexts s (setCtx s a x) := rfl

theorem otherContexts_setCtx (s : State) (a : Agent) (x : Ctx) : otherContexts a s (setCtx s a x) :=
  fun _ hk => tabGet_tabSet_other _ _ _ _ _ hk

/-- Settles O42, from the stable order of R125 and what each result changes. -/
theorem resultLanding : Obligations.ResultLanding := by
  unfold Obligations.ResultLanding
  refine ⟨?_, ?_, ?_, ?_, ?_⟩
  · intro a st s hf
    simp [exec_resultLanding, execResultLanding, hf]
  · intro a s hf
    simp [exec_resultLanding, execResultLanding, hf]
  · intro a s hs x due key
    refine ⟨sortBy pendRank due, rfl, sortBy_perm _ _, ?_, fun k => filter_sortBy _ _ _ fun p q hp hq => ?_⟩
    · refine (sortBy_pairwise pendRank due).imp_of_mem fun {p q} hp hq hle => ?_
      have hmem : ∀ r, r ∈ sortBy pendRank due → r.slot < 8 := fun r hr =>
        hs r (List.mem_filter.1 ((sortBy_perm _ _).mem_iff.1 hr)).1
      exact (pendRank_le_iff (hmem p hp) (hmem q hq)).1 hle
    · have hpq : key p = key q := by simp_all
      obtain ⟨hi, hsl⟩ := Prod.mk.inj hpq
      simp [pendRank, hi, hsl]
  · intro a s p hf hp hd
    refine ⟨fun sp l hact => ?_, ?_, fun addr op r c d b cmp ha hact => ?_⟩
    · rw [exec_resultLanding_write_single hf hp hd (by rw [hact]; rfl)]
      simp [performOne, hact]
    · simp [exec_resultLanding, execResultLanding, hf]
    · refine ⟨_, exec_resultLanding_write_single hf hp hd (by rw [hact]; rfl), ?_, ?_⟩
      · simp [performOne, hact, performStore_spool_tile ha, memNat]
      · simp [performOne, hact, memNat]
  · intro a s due iss slot r c v hr
    simp only [landOne_sreg hr, ctxOf_setCtx, sregOf_setSreg_same]
    obtain ⟨hlen, hhead, hcell, hother⟩ := ringPut_frame (sregOf (ctxOf s a) r) c v
    exact ⟨onlyContexts_setCtx _ _ _, otherContexts_setCtx _ _ _, hlen, hhead, hcell, hother,
      fun k hk => sregOf_setSreg_other hk⟩

end Sys2Proof.Proofs

/-!
PROOFS. Fetch and issue: the events of a running context (O43).
-/

namespace Sys2Proof.Proofs
open Sys2Proof Sys2Proof.Machine Sys2Proof.Laws

/-! ## Deferred traps (spec/06_fetch_and_issue.md R139) -/

/-- A deferred trap is recorded after those that wait already, and the running call stays. -/
theorem ctxOf_deferTrap (a : Agent) (cause slot word rank : Nat) (s : State) :
    ctxOf (deferTrap a cause slot word rank s) a =
      { ctxOf s a with deferred := (ctxOf s a).deferred ++ [⟨cause, slot, word, (ctxOf s a).clk, rank⟩] } := by
  simp [deferTrap]

/-- The end of a call ends nothing else of its context. -/
theorem ctxOf_endCall (a : Agent) (s : State) : ctxOf (endCall a s) a = { ctxOf s a with call := none } := by
  simp only [endCall, modCtx_eq, ctxOf_setCtx]
  rfl

/-- A call's step runs in the cycles of the call of a context that is not frozen (R279). -/
theorem exec_stepExecution_busy {a : Agent} {s : State} (hf : (ctxOf s a).frozen = false)
    (hb : callBusy (ctxOf s a) (ctxOf s a).clk = true) :
    exec (.stepExecution a .read) s = .next (countEvent a 0x06 1 (stepRead a s)) ∧
      exec (.stepExecution a .write) s = .next (stepWrite a s) := by
  constructor
  · simp [exec_stepExecution, execStepExecution, hf, hb]
  · simp [exec_stepExecution, execStepExecution, hf, hb]

theorem exec_callFault_of_fault {a : Agent} {s : State} {c : MatCall} {f : Nat} (hc : (ctxOf s a).call = some c)
    (hf : c.fault = some f) : exec (.callFault a) s = .next (deferTrap a 0x05 5 f 0 (endCall a s)) := by
  simp [exec_callFault, execCallFault, hc, hf]

theorem exec_streamFault_of_live {o : StreamLoss} {s : State} (hl : (ctxOf s o.agent).live = true) :
    exec (.streamFault o) s = .next (deferTrap o.agent (lossCause o.kind) 7 (lossWord o) (o.kind * 64 + o.source) s) := by
  simp [exec_streamFault, execStreamFault, hl]

/-- Settles O43, by the event's definition and what a deferred trap and the end of a call change. -/
theorem coreEvents : Obligations.CoreEvents := by
  unfold Obligations.CoreEvents
  intro a s x
  refine ⟨exec_stepExecution_busy, fun c f hc hf => ⟨_, exec_callFault_of_fault hc hf, ?_⟩, ?_, fun c => ⟨rfl, rfl⟩, ?_⟩
  · rw [ctxOf_deferTrap, ctxOf_endCall]
    exact ⟨rfl, _, rfl, rfl, rfl, rfl⟩
  · rintro o rfl hl
    refine ⟨_, exec_streamFault_of_live hl, ?_⟩
    rw [ctxOf_deferTrap]
    exact ⟨_, rfl, rfl, rfl⟩
  · intro hl hs hc ha
    constructor <;> intro hb
    · have hb : ¬ x.task.budget < x.charge := Nat.not_lt.2 hb
      simp [exec_deadlineFault, execDeadlineFault, x, hb]
    · simp [exec_deadlineFault, execDeadlineFault, x, hl, hs, hc, ha, hb]

end Sys2Proof.Proofs

/-!
PROOFS. Fetch and issue: the M words (O28).
-/

namespace Sys2Proof.Proofs
open Sys2Proof Sys2Proof.Machine Sys2Proof.Laws

/-! ## The checks of a slot's body -/

theorem bind_of_ok {α β : Type} {x : Except Nat α} {a : α} (h : x = .ok a) (f : α → Except Nat β) : (x >>= f) = f a := by
  rw [h]
  rfl

theorem bind_of_error {α β : Type} {x : Except Nat α} {c : Nat} (h : x = .error c) (f : α → Except Nat β) :
    (x >>= f) = .error c := by
  rw [h]
  rfl

theorem need_holds {c : Nat} {b : Bool} (h : b = true) : need c b = .ok () := if_pos h

theorem need_fails {c : Nat} {b : Bool} (h : b = false) : need c b = .error c := if_neg (by simp [h])

theorem notInHandler_ok {s : State} (h : (curCtx s).estatH = false) : notInHandler s = .ok () := by
  simp [notInHandler, inHandler, h]

theorem notInHandler_error {s : State} (h : (curCtx s).estatH = true) : notInHandler s = .error 0x0D := by
  simp [notInHandler, inHandler, h]

/-! ## M words (spec/12_matrix_engine_and_recipes.md R120, R131, R393) -/

/-- An M word may run its body: no handler runs, and no call does. -/
def matReady (u : Issue) (s : State) : Prop := (curCtx s).estatH = false ∧ callBusy (curCtx s) u.t = false

section matrixSlot
variable {g : Nat} {u : Issue} {s t : State} {body : State → Except Nat State} {c : Nat}

/-- Before its body an M word passes the two checks. -/
theorem matReady_checks (hg : slotRuns g u s) (hr : matReady u s) :
    notInHandler s = .ok () ∧ need 0x04 (!callBusy (curCtx s) (curT s)) = .ok () :=
  ⟨notInHandler_ok hr.1, need_holds (by rw [runs_time hg, hr.2]; rfl)⟩

theorem execM_ok (hg : slotRuns g u s) (hr : matReady u s) (hb : body s = .ok t) :
    execM g body s = slotDone u (advanceMpc t) := by
  obtain ⟨hh, hc⟩ := matReady_checks hg hr
  refine slot_ok hg ?_
  rw [bind_of_ok hh, bind_of_ok hc, bind_of_ok hb]

theorem execM_trap (hg : slotRuns g u s) (hr : matReady u s) (hb : body s = .error c) :
    execM g body s = .next (slotTrap c s) := by
  obtain ⟨hh, hc⟩ := matReady_checks hg hr
  refine slot_trap hg ?_
  rw [bind_of_ok hh, bind_of_ok hc, bind_of_error hb]

/-- What follows the two checks does not run in a handler, nor within a running call. -/
theorem matSlot_barred {next : State → Except Nat State} (hg : slotRuns g u s) :
    ((curCtx s).estatH = true → execSlot g (fun s => do
        notInHandler s
        need 0x04 (!callBusy (curCtx s) (curT s))
        next s) s = .next (slotTrap 0x0D s)) ∧
      ((curCtx s).estatH = false → callBusy (curCtx s) u.t = true → execSlot g (fun s => do
        notInHandler s
        need 0x04 (!callBusy (curCtx s) (curT s))
        next s) s = .next (slotTrap 0x04 s)) := by
  refine ⟨fun h => slot_trap hg ?_, fun h hb => slot_trap hg ?_⟩
  · rw [bind_of_error (notInHandler_error h)]
  · rw [bind_of_ok (notInHandler_ok h), bind_of_error (need_fails (by rw [runs_time hg, hb]; rfl))]

theorem execM_barred (hg : slotRuns g u s) :
    ((curCtx s).estatH = true → execM g body s = .next (slotTrap 0x0D s)) ∧
      ((curCtx s).estatH = false → callBusy (curCtx s) u.t = true → execM g body s = .next (slotTrap 0x04 s)) :=
  matSlot_barred (next := fun s => body s >>= fun s => .ok (advanceMpc s)) hg

end matrixSlot

theorem onlyContexts_modCur (s : State) (f : Ctx → Ctx) : onlyContexts s (modCur s f) := rfl

theorem curCtx_modCur (s : State) (f : Ctx → Ctx) : curCtx (modCur s f) = f (curCtx s) := by
  simp [curCtx, modCur]

/-! ## Steps and table entries that a word names (R281) -/

/-- The step or the table entry that a word names is the task's. -/
def mayUse (x : Ctx) (isTable : Bool) (i : Word) : Bool :=
  if isTable then entryHeld x.task i.toNat else stepHeld x.task i.toNat

theorem mayUse_of_task {x y : Ctx} (h : y.task = x.task) (b : Bool) (i : Word) : mayUse y b i = mayUse x b i := by
  simp only [mayUse, h]

section matrixWords
variable {u : Issue} {s : State}

theorem exec_mparm_ok {o : MParm} {x : Word} {t : State} (hg : slotRuns o.g u s) (hr : matReady u s)
    (hs : source o.a o.m s = .ok (x, t)) : exec (.mparm o) s = slotDone u (advanceMpc (land 1 (.mparm o.p x) t)) := by
  rw [exec_mparm]
  refine execM_ok hg hr ?_
  rw [bind_of_ok hs]

theorem exec_mstep_held {o : MStep} {x y : Word} {t : State} (hg : slotRuns o.g u s) (hr : matReady u s)
    (hs : readsTwo o.a o.m o.b o.n s x y t) (hm : mayUse (curCtx s) o.t x = true) :
    exec (.mstep o) s = slotDone u (advanceMpc (land 1 (.mstep o.t x.toNat y) t)) := by
  rw [exec_mstep]
  rw [← mayUse_of_task (readsTwo_leaves hs).2.1] at hm
  obtain ⟨s1, h1, h2⟩ := hs
  refine execM_ok hg hr ?_
  rw [bind_of_ok h1]
  simp only
  rw [bind_of_ok h2]
  exact bind_of_ok (need_holds hm) _

theorem exec_mstep_not_held {o : MStep} {x y : Word} {t : State} (hg : slotRuns o.g u s) (hr : matReady u s)
    (hs : readsTwo o.a o.m o.b o.n s x y t) (hm : mayUse (curCtx s) o.t x = false) : slotTraps (.mstep o) s 0x09 := by
  rw [slotTraps, exec_mstep]
  rw [← mayUse_of_task (readsTwo_leaves hs).2.1] at hm
  obtain ⟨s1, h1, h2⟩ := hs
  refine execM_trap hg hr ?_
  rw [bind_of_ok h1]
  simp only
  rw [bind_of_ok h2]
  exact bind_of_error (need_fails hm) _

theorem exec_msteprd_held {o : MStepRd} {x : Word} {c : Option Nat} {t : State} (hg : slotRuns o.g u s) (hr : matReady u s)
    (hs : readsOne o.a o.m o.d o.q s x c t) (hm : mayUse (curCtx s) o.t x = true) :
    exec (.msteprd o) s = slotDone u (advanceMpc (landReg 2 o.d c
      (if o.t then wd (tabGet 0 (coreOf s (agIdx u.ag)).table x.toNat).toNat
        else tabGet 0 (coreOf s (agIdx u.ag)).steps x.toNat) t)) := by
  rw [exec_msteprd]
  obtain ⟨s1, h1, h2⟩ := hs
  rw [← mayUse_of_task (source_leaves h1).2.1] at hm
  have hk : curCore s1 = coreOf s (agIdx u.ag) := by
    obtain ⟨q, rfl⟩ := source_ok h1
    simp [curCore, runs_agent hg]
  refine execM_ok hg hr ?_
  rw [bind_of_ok h1]
  refine (bind_of_ok (need_holds hm) _).trans ?_
  rw [hk]
  exact writeReg_ok h2

theorem exec_msteprd_not_held {o : MStepRd} {x : Word} {t : State} (hg : slotRuns o.g u s) (hr : matReady u s)
    (hs : source o.a o.m s = .ok (x, t)) (hm : mayUse (curCtx s) o.t x = false) : slotTraps (.msteprd o) s 0x09 := by
  rw [slotTraps, exec_msteprd]
  rw [← mayUse_of_task (source_leaves hs).2.1] at hm
  refine execM_trap hg hr ?_
  rw [bind_of_ok hs]
  exact bind_of_error (need_fails hm) _

/-- MMPC sets MPC to the bits of its source that the context's buffer has; the check of an urgent task's is on the others. -/
theorem exec_mmpc_ok {o : SA} {x : Word} {t : State} (hg : slotRuns o.g u s) (hr : matReady u s)
    (hs : source o.a o.m s = .ok (x, t)) (hu : (curCtx s).task.urgent = true → x.toNat / 2 ^ 12 % 16 = 0) :
    ∃ t1, exec (.mmpc o) s = slotDone u t1 ∧
      (curCtx t1).mpc = x.toNat % 2 ^ (if (curCtx s).task.urgent then 12 else 16) ∧ onlyContexts t t1 := by
  obtain ⟨hh, hc⟩ := matReady_checks hg hr
  have htask := (source_leaves hs).2.1
  refine ⟨modCur t (fun y => { y with mpc := if (curCtx s).task.urgent then bits x 11 0 else bits x 15 0 }),
    ?_, ?_, onlyContexts_modCur _ _⟩
  · rw [exec_mmpc]
    refine slot_ok hg ?_
    rw [bind_of_ok hh, bind_of_ok hc, bind_of_ok hs]
    simp only [htask]
    rw [bind_of_ok (need_holds ?_)]
    cases h : (curCtx s).task.urgent with
    | false => rfl
    | true => simpa [bits, bf] using hu h
  · rw [curCtx_modCur]
    cases (curCtx s).task.urgent <;> simp [bits, bf]

theorem exec_mmpc_beyond {o : SA} {x : Word} {t : State} (hg : slotRuns o.g u s) (hr : matReady u s)
    (hs : source o.a o.m s = .ok (x, t)) (hu : (curCtx s).task.urgent = true) (hx : x.toNat / 2 ^ 12 % 16 ≠ 0) :
    slotTraps (.mmpc o) s 0x09 := by
  obtain ⟨hh, hc⟩ := matReady_checks hg hr
  rw [slotTraps, exec_mmpc]
  refine slot_trap hg ?_
  rw [bind_of_ok hh, bind_of_ok hc, bind_of_ok hs]
  simp only [(source_leaves hs).2.1, hu]
  exact bind_of_error (need_fails (by simpa [bits, bf] using hx)) _

theorem exec_mmpc_barred {o : SA} (hg : slotRuns o.g u s) :
    ((curCtx s).estatH = true → slotTraps (.mmpc o) s 0x0D) ∧
      ((curCtx s).estatH = false → callBusy (curCtx s) u.t = true → slotTraps (.mmpc o) s 0x04) := by
  rw [slotTraps, slotTraps, exec_mmpc]
  exact matSlot_barred hg

theorem exec_mzero_eq (o : MZero) (s : State) : exec (.mzero o) s = execM o.g (fun s => do
    need 0x09 (bankHeld (curCtx s).task o.k)
    .ok (modCore (countEvent (curAgent s) 0x06 1 s) (agIdx (curAgent s)) (zeroBanks (· == o.k)))) s := rfl

theorem exec_mzero_held {o : MZero} (hg : slotRuns o.g u s) (hr : matReady u s) (hb : bankHeld (curCtx s).task o.k = true) :
    exec (.mzero o) s = slotDone u (advanceMpc (modCore (countEvent u.ag 0x06 1 s) (agIdx u.ag)
      (zeroBanks (fun b => b == o.k)))) := by
  rw [exec_mzero_eq, ← runs_agent hg]
  exact execM_ok hg hr (bind_of_ok (need_holds hb) _)

theorem exec_mzero_not_held {o : MZero} (hg : slotRuns o.g u s) (hr : matReady u s)
    (hb : bankHeld (curCtx s).task o.k = false) : slotTraps (.mzero o) s 0x09 := by
  refine (exec_mzero_eq o s).trans ?_
  exact execM_trap hg hr (bind_of_error (need_fails hb) _)

theorem exec_mzeroAll_eq (o : G) (s : State) : exec (.mzeroAll o) s = execM o.g (fun s =>
    .ok (modCore (countEvent (curAgent s) 0x06 1 s) (agIdx (curAgent s)) (zeroBanks (bankHeld (curCtx s).task)))) s := rfl

theorem exec_mzeroAll_ready {o : G} (hg : slotRuns o.g u s) (hr : matReady u s) :
    exec (.mzeroAll o) s = slotDone u (advanceMpc (modCore (countEvent u.ag 0x06 1 s) (agIdx u.ag)
      (zeroBanks (bankHeld (curCtx s).task)))) := by
  rw [exec_mzeroAll_eq, ← runs_agent hg]
  exact execM_ok hg hr rfl

/-! ## MCALL (R120, R274, R278) -/

/-- The table entry that MCALL names. -/
def mcallEntry (o : MCall) (s : State) : Nat := (tabGet 0 (coreOf s (agIdx (curAgent s))).table o.i).toNat

/-- What the walk of MCALL's recipe finds. -/
def mcallWalk (o : MCall) (s : State) : Except Nat WalkAt :=
  walkRecipe s (agIdx (curAgent s)) (curCtx s).task (latchParams (curCtx s)) (bf (mcallEntry o s) 10 0) (2 ^ 80)
    ⟨bf (mcallEntry o s) 10 0, 0, 0, [], [], []⟩

/-- The body of MCALL after its two checks. -/
def mcallBody (o : MCall) (s : State) : Except Nat State := do
  need 0x01 ((curCtx s).image.msid != 0 && decide ((curCtx s).mpc < (curCtx s).image.mwords))
  need 0x01 (bf (mstreamWord (curCtx s)) 11 0 == 0 && decide (bf (mstreamWord (curCtx s)) 15 12 ≤ 6))
  need 0x09 (entryHeld (curCtx s).task o.i)
  need 0x01 (bm (mcallEntry o s) 31 && bf (mcallEntry o s) 30 11 == 0)
  let k ← mcallWalk o s
  need 0x04 (k.c == o.b)
  .ok (modCur s (fun x =>
    { x with call := some ⟨curT s, k.c, mstreamWord (curCtx s), latchParams (curCtx s), k.plan.reverse, none⟩ }))

theorem exec_mcall_body (o : MCall) (s : State) : exec (.mcall o) s = execM o.g (mcallBody o) s := rfl

/-- The M-stream holds a word at MPC. -/
def mwordHeld (s : State) : Prop := (curCtx s).image.msid ≠ 0 ∧ (curCtx s).mpc < (curCtx s).image.mwords

/-- The word at MPC has no reserved bit set and a legal type. -/
def mwordLegal (s : State) : Prop := bf (mstreamWord (curCtx s)) 11 0 = 0 ∧ bf (mstreamWord (curCtx s)) 15 12 ≤ 6

/-- MCALL's table entry is valid and has no reserved bit set. -/
def entryLegal (o : MCall) (s : State) : Prop := bm (mcallEntry o s) 31 = true ∧ bf (mcallEntry o s) 30 11 = 0

/-- The word at MPC and the table entry of MCALL are held and legal. -/
structure McallLegal (o : MCall) (s : State) : Prop where
  wordHeld : mwordHeld s
  wordLegal : mwordLegal s
  entryHeld : entryHeld (curCtx s).task o.i = true
  entryLegal : entryLegal o s

theorem need_mwordHeld (h : mwordHeld s) :
    need 0x01 ((curCtx s).image.msid != 0 && decide ((curCtx s).mpc < (curCtx s).image.mwords)) = .ok () :=
  need_holds (by simpa [mwordHeld] using h)

theorem need_mwordLegal (h : mwordLegal s) :
    need 0x01 (bf (mstreamWord (curCtx s)) 11 0 == 0 && decide (bf (mstreamWord (curCtx s)) 15 12 ≤ 6)) = .ok () :=
  need_holds (by simpa [mwordLegal] using h)

theorem need_entryLegal {o : MCall} (h : entryLegal o s) :
    need 0x01 (bm (mcallEntry o s) 31 && bf (mcallEntry o s) 30 11 == 0) = .ok () :=
  need_holds (by simpa [entryLegal] using h)

/-- With a legal word and entry MCALL is what its walk finds. -/
theorem mcallBody_of_legal {o : MCall} (h : McallLegal o s) : mcallBody o s = (do
    let k ← mcallWalk o s
    need 0x04 (k.c == o.b)
    .ok (modCur s (fun x =>
      { x with call := some ⟨curT s, k.c, mstreamWord (curCtx s), latchParams (curCtx s), k.plan.reverse, none⟩ }))) := by
  rw [mcallBody, bind_of_ok (need_mwordHeld h.wordHeld), bind_of_ok (need_mwordLegal h.wordLegal),
    bind_of_ok (need_holds h.entryHeld), bind_of_ok (need_entryLegal h.entryLegal)]

theorem exec_mcall_no_word {o : MCall} (hg : slotRuns o.g u s) (hr : matReady u s)
    (h : (curCtx s).image.msid = 0 ∨ (curCtx s).image.mwords ≤ (curCtx s).mpc) : slotTraps (.mcall o) s 0x01 := by
  refine (exec_mcall_body o s).trans (execM_trap hg hr ?_)
  refine bind_of_error (need_fails ?_) _
  rcases h with h | h
  · simp [h]
  · simp [Nat.not_lt.2 h]

theorem exec_mcall_word_illegal {o : MCall} (hg : slotRuns o.g u s) (hr : matReady u s) (hm : mwordHeld s)
    (h : bf (mstreamWord (curCtx s)) 11 0 ≠ 0 ∨ 6 < bf (mstreamWord (curCtx s)) 15 12) : slotTraps (.mcall o) s 0x01 := by
  refine (exec_mcall_body o s).trans (execM_trap hg hr ?_)
  rw [mcallBody, bind_of_ok (need_mwordHeld hm)]
  refine bind_of_error (need_fails ?_) _
  rcases h with h | h
  · simp [h]
  · simp [Nat.not_le.2 h]

theorem exec_mcall_not_held {o : MCall} (hg : slotRuns o.g u s) (hr : matReady u s) (hm : mwordHeld s) (hl : mwordLegal s)
    (h : entryHeld (curCtx s).task o.i = false) : slotTraps (.mcall o) s 0x09 := by
  refine (exec_mcall_body o s).trans (execM_trap hg hr ?_)
  rw [mcallBody, bind_of_ok (need_mwordHeld hm), bind_of_ok (need_mwordLegal hl), bind_of_error (need_fails h)]

theorem exec_mcall_entry_illegal {o : MCall} (hg : slotRuns o.g u s) (hr : matReady u s) (hm : mwordHeld s)
    (hl : mwordLegal s) (h : entryHeld (curCtx s).task o.i = true)
    (he : bm (mcallEntry o s) 31 = false ∨ bf (mcallEntry o s) 30 11 ≠ 0) : slotTraps (.mcall o) s 0x01 := by
  refine (exec_mcall_body o s).trans (execM_trap hg hr ?_)
  rw [mcallBody, bind_of_ok (need_mwordHeld hm), bind_of_ok (need_mwordLegal hl), bind_of_ok (need_holds h)]
  refine bind_of_error (need_fails ?_) _
  rcases he with he | he
  · simp [he]
  · simp [he]

theorem exec_mcall_walk_error {o : MCall} {c : Nat} (hg : slotRuns o.g u s) (hr : matReady u s) (h : McallLegal o s)
    (hk : mcallWalk o s = .error c) : slotTraps (.mcall o) s c := by
  refine (exec_mcall_body o s).trans (execM_trap hg hr ?_)
  rw [mcallBody_of_legal h, bind_of_error hk]

theorem exec_mcall_other_count {o : MCall} {k : WalkAt} (hg : slotRuns o.g u s) (hr : matReady u s) (h : McallLegal o s)
    (hk : mcallWalk o s = .ok k) (hc : k.c ≠ o.b) : slotTraps (.mcall o) s 0x04 := by
  refine (exec_mcall_body o s).trans (execM_trap hg hr ?_)
  rw [mcallBody_of_legal h, bind_of_ok hk, bind_of_error (need_fails (by simpa using hc))]

theorem exec_mcall_latches {o : MCall} {k : WalkAt} (hg : slotRuns o.g u s) (hr : matReady u s) (h : McallLegal o s)
    (hk : mcallWalk o s = .ok k) (hc : k.c = o.b) : ∃ t, exec (.mcall o) s = slotDone u t ∧ onlyContexts s t ∧
      (curCtx t).call = some ⟨u.t, o.b, mstreamWord (curCtx s), latchParams (curCtx s), k.plan.reverse, none⟩ ∧
      (curCtx t).mpc = ((curCtx s).mpc + 1) % mpcSize (curCtx s).task := by
  refine ⟨advanceMpc (modCur s (fun x =>
    { x with call := some ⟨curT s, k.c, mstreamWord (curCtx s), latchParams (curCtx s), k.plan.reverse, none⟩ })),
    ?_, onlyContexts_trans (onlyContexts_modCur _ _) (onlyContexts_modCur _ _), ?_, ?_⟩
  · rw [exec_mcall_body]
    refine execM_ok hg hr ?_
    rw [mcallBody_of_legal h, bind_of_ok hk, bind_of_ok (need_holds (by simpa using hc))]
  · simp only [advanceMpc, curCtx_modCur, runs_time hg, hc]
  · simp only [advanceMpc, curCtx_modCur]

end matrixWords

/-! ## The walk of a recipe (R266-R274) -/

section recipeWalk
variable {s : State} {core i0 n : Nat} {t : Task} {p : List Word} {k : WalkAt}

theorem walkRecipe_error {c : Nat} (h : walkTurn s core t p i0 k = .error c) :
    walkRecipe s core t p i0 (n + 1) k = .error c := by
  simp only [walkRecipe, h]

theorem walkTurn_past (h : 2047 < k.i) : walkTurn s core t p i0 k = .error 0x01 := if_pos h

theorem walkTurn_not_held (hi : k.i ≤ 2047) (h : stepHeld t k.i = false) : walkTurn s core t p i0 k = .error 0x09 := by
  simp [walkTurn, Nat.not_lt.2 hi, h]

/-- A turn of the walk at a step that the task holds is decided by the step with its substitutions. -/
theorem walkTurn_range_error (hi : k.i ≤ 2047) (h : stepHeld t k.i = true)
    (hw : substStep (tabGet 0 (coreOf s core).steps k.i).toNat p = none) : walkTurn s core t p i0 k = .error 0x09 := by
  rw [walkTurn, if_neg (Nat.not_lt.2 hi), if_neg (by simp [h]), hw]

theorem walkTurn_illegal {w : Nat} (hi : k.i ≤ 2047) (h : stepHeld t k.i = true)
    (hw : substStep (tabGet 0 (coreOf s core).steps k.i).toNat p = some w) (hf : fieldsOk w = false) :
    walkTurn s core t p i0 k = .error 0x01 := by
  rw [walkTurn, if_neg (Nat.not_lt.2 hi), if_neg (by simp [h]), hw]
  exact if_pos (by simp [hf])

theorem walkTurn_out_of_range {w : Nat} (hi : k.i ≤ 2047) (h : stepHeld t k.i = true)
    (hw : substStep (tabGet 0 (coreOf s core).steps k.i).toNat p = some w) (hf : fieldsOk w = true) (hk : stKind w ≠ 6)
    (hr : rangesCause s core t p w (tabGet 0 k.execs k.i) ≠ 0) :
    walkTurn s core t p i0 k = .error (rangesCause s core t p w (tabGet 0 k.execs k.i)) := by
  rw [walkTurn, if_neg (Nat.not_lt.2 hi), if_neg (by simp [h]), hw]
  exact (if_neg (by simp [hf])).trans ((if_neg hk).trans (if_pos hr))

end recipeWalk

/-- Settles O28, word by word, and by the branches of the walk's turn. -/
theorem matrixResult : Obligations.MatrixResult := by
  unfold Obligations.MatrixResult
  refine ⟨fun s u => ?_, fun o s u hg he hb => ?_, fun s core t p i0 n k => ?_⟩
  · refine ⟨fun o x t hg hr hs => exec_mparm_ok hg hr hs, fun o x y t hg hr hs hm => exec_mstep_held hg hr hs hm,
      fun o x c t hg hr hs hm => exec_msteprd_held hg hr hs hm, fun o hg hr hb => exec_mzero_held hg hr hb,
      fun o hg hr => exec_mzeroAll_ready hg hr, fun o x t hg hr hs => ⟨fun hu => ?_, fun hu => ⟨fun hx => ?_, fun hx => ?_⟩⟩,
      fun o x y t hg hr hs hm => exec_mstep_not_held hg hr hs (Bool.eq_false_of_not_eq_true hm),
      fun o x t hg hr hs hm => exec_msteprd_not_held hg hr hs (Bool.eq_false_of_not_eq_true hm),
      fun o hg hr hb => exec_mzero_not_held hg hr hb, ?_⟩
    · simpa [hu] using exec_mmpc_ok hg hr hs (by simp [hu])
    · simpa [hu] using exec_mmpc_ok hg hr hs (fun _ => hx)
    · exact exec_mmpc_beyond hg hr hs hu hx
    · refine ⟨fun o hg => ?_, fun o hg => ?_, fun o hg => ?_, fun o hg => ?_, fun o hg => ?_, fun o hg => ?_,
        fun o hg => ?_⟩
      · rw [slotTraps, slotTraps, exec_mcall]
        unfold execMcall
        exact execM_barred hg
      · rw [slotTraps, slotTraps, exec_mparm]
        unfold execMparm
        exact execM_barred hg
      · rw [slotTraps, slotTraps, exec_mstep]
        unfold execMstep
        exact execM_barred hg
      · rw [slotTraps, slotTraps, exec_msteprd]
        unfold execMsteprd
        exact execM_barred hg
      · rw [slotTraps, slotTraps, exec_mzero]
        unfold execMzero
        exact execM_barred hg
      · rw [slotTraps, slotTraps, exec_mzeroAll]
        unfold execMzeroAll
        exact execM_barred hg
      · exact exec_mmpc_barred hg
  · have hr : matReady u s := ⟨he, hb⟩
    have hentry : (tabGet 0 (coreOf s (agIdx u.ag)).table o.i).toNat = mcallEntry o s := by
      rw [mcallEntry, runs_agent hg]
    rw [hentry, ← runs_agent hg]
    refine ⟨fun h => exec_mcall_no_word hg hr h, fun hm hw h => exec_mcall_word_illegal hg hr ⟨hm, hw⟩ h,
      fun hm hw hz ht => ⟨fun h => exec_mcall_not_held hg hr ⟨hm, hw⟩ ⟨hz, ht⟩ h,
        fun h hv => exec_mcall_entry_illegal hg hr ⟨hm, hw⟩ ⟨hz, ht⟩ h hv, fun h hv hz2 => ?_⟩⟩
    have hl : McallLegal o s := ⟨⟨hm, hw⟩, ⟨hz, ht⟩, h, ⟨hv, hz2⟩⟩
    exact ⟨fun c hc => exec_mcall_walk_error hg hr hl hc, fun k hk =>
      ⟨fun hc => exec_mcall_other_count hg hr hl hk hc, fun hc => exec_mcall_latches hg hr hl hk hc⟩⟩
  · refine ⟨fun h => walkRecipe_error (walkTurn_past h), fun hi h => walkRecipe_error (walkTurn_not_held hi h),
      fun hi h hw => walkRecipe_error (walkTurn_range_error hi h hw), fun w hi h hw =>
      ⟨fun hf => walkRecipe_error (walkTurn_illegal hi h hw hf), fun hf hk hc =>
        walkRecipe_error (walkTurn_out_of_range hi h hw hf hk hc)⟩⟩

end Sys2Proof.Proofs

/-!
PROOFS. Fetch and issue: the beats of a yarn (O39).
-/

namespace Sys2Proof.Proofs
open Sys2Proof Sys2Proof.Machine Sys2Proof.Laws

/-! ## What a beat reads (spec/09_spool_yarns_and_cluster_memory.md R214, R217) -/

theorem length_memWalk (n a : Nat) (m : Mem) : (memWalk n a m).length = n := by
  induction n generalizing a m with
  | zero => rfl
  | succ n ih =>
    cases m with
    | nil => simp [memWalk, ih]
    | cons c m =>
      rw [memWalk]
      split <;> simp [ih]

theorem length_memBytes (m : Mem) (a n : Nat) : (memBytes m a n).length = n := length_memWalk _ _ _

theorem length_beatData (s : State) (b : Beat) : (beatData s b).length = beatBytes b.desc := by
  unfold beatData
  split <;> simp [length_memBytes]

theorem scaledData_no_blocks {s : State} {b : Beat} (h : yqGeom b.desc = 0) (l : List Byte) : scaledData s b l = l := if_pos h

/-- A byte of a block whose scale is -128 is zero; any other stays. -/
theorem getD_scaledData {s : State} {b : Beat} {l : List Byte} {i : Nat} (h : yqGeom b.desc ≠ 0) (hi : i < l.length) :
    (scaledData s b l).getD i 0 = if beatScale s b i = -128 then 0 else l.getD i 0 := by
  rw [scaledData, if_neg h]
  simp [List.getD_eq_getElem?_getD, hi]

theorem length_beatTags (s : State) (b : Beat) : (beatTags s b).length = beatBytes b.desc / 16 := by
  simp [beatTags]

theorem getD_beatTags {s : State} {b : Beat} {g : Nat} (hg : g < beatBytes b.desc / 16) :
    ((beatTags s b).getD g 0).toNat =
      (yqFmt b.desc * 2 ^ 10 + yqGeom b.desc * 2 ^ 8 + (beatScale s b (16 * g) % 256).toNat) % 2 ^ 14 := by
  simp [beatTags, List.getD_eq_getElem?_getD, hg, BitVec.toNat_ofInt]

theorem beatScale_of_blocks {s : State} {b : Beat} (h : yqGeom b.desc ≠ 0) (i : Nat) :
    beatScale s b i = sext 8 (memGet (coreOf s b.src).spool
      (scaleAddr b.desc ((b.b * beatBytes b.desc + i) / streamBlock b.desc))).toNat := if_neg h

theorem beatScale_no_blocks {s : State} {b : Beat} (h : yqGeom b.desc = 0) (i : Nat) : beatScale s b i = 0 := if_pos h

/-- R214, R222: a source address is modulo 2^32. -/
theorem beatSrc_eq (q : W256) (x b : Nat) : (beatSrc q x b : Int) =
    ((yqSrcBase q : Int) + x + (b % yqIcnt q : Nat) * yqIstride q + (b / yqIcnt q : Nat) * yqOstride q) % 2 ^ 32 := by
  rw [beatSrc, Int.toNat_of_nonneg (Int.emod_nonneg _ (by norm_num))]
  push_cast
  rfl

/-! ## Where a beat travels (R193, R195, R215, R218) -/

section travel
variable (s : State) (o : OpenYarn) (n : Nat)

theorem makeBeat_own (h : isNetYarn o.desc = false) :
    (makeBeat s o n).src = agIdx o.ag ∧ (makeBeat s o n).dsts = [agIdx o.ag] ∧
      (makeBeat s o n).deliver = (makeBeat s o n).read + enterDelay o.desc +
        dirDist (yqAnti o.desc) (srcPosOf o.desc (makeBeat s o n).srcAddr) (dstPosOf o.desc (makeBeat s o n).dstAddr) +
        (if yqDk o.desc = 2 then 13 else 0) := by
  obtain ⟨hsk, hm⟩ : yqSk o.desc ≠ 2 ∧ yqMcast o.desc = 0 := by simpa [isNetYarn] using h
  simp [makeBeat, h, yarnSrcCore, yarnDstCores, hsk, hm]

theorem makeBeat_net (h : isNetYarn o.desc = true) :
    (makeBeat s o n).cross = (makeBeat s o n).read + enterDelay o.desc +
        dirDist (yqAnti o.desc) (srcPosOf o.desc (makeBeat s o n).srcAddr) (stationPos (10 + (makeBeat s o n).src % 4)) ∧
      (makeBeat s o n).deliver = (makeBeat s o n).cross + 6 +
        dirDist (yqAnti o.desc) (stationPos (10 + (makeBeat s o n).src % 4)) (dstPosOf o.desc (makeBeat s o n).dstAddr) := by
  simp [makeBeat, h]

theorem readBeat_data_no_blocks (h : yqGeom o.desc = 0) : (readBeat s o n).data = beatData s (makeBeat s o n) :=
  scaledData_no_blocks h _

theorem getD_readBeat_data {i : Nat} (h : yqGeom o.desc ≠ 0) (hi : i < beatBytes o.desc) :
    (readBeat s o n).data.getD i 0 =
      if beatScale s (makeBeat s o n) i = -128 then 0 else (beatData s (makeBeat s o n)).getD i 0 :=
  getD_scaledData (b := makeBeat s o n) h (hi.trans_eq (length_beatData s (makeBeat s o n)).symm)

theorem getD_readBeat_tags {g : Nat} (h : yqDk o.desc = 5 ∨ yqDk o.desc = 6) (hg : g < 32) :
    ((readBeat s o n).tags.getD g 0).toNat =
      (yqFmt o.desc * 2 ^ 10 + yqGeom o.desc * 2 ^ 8 + (beatScale s (makeBeat s o n) (16 * g) % 256).toNat) % 2 ^ 14 := by
  have hb : g < beatBytes o.desc / 16 := by
    rcases h with h | h <;> simpa [beatBytes, h] using hg
  have ht : (readBeat s o n).tags = beatTags s (makeBeat s o n) := if_pos (by simpa using h)
  rw [ht]
  exact getD_beatTags hb

end travel

/-! ## Beats on their way (R195, R196, R216) -/

theorem dropDsts_nil {b : Beat} (h : b.dsts ≠ []) : dropDsts [] b = some b := by
  simp [dropDsts, h]

theorem pushSteps_nil (s : State) : pushSteps [] s = s := rfl

/-- The open yarns of a core whose next beat is read in this cycle (R215). -/
def yarnsDue (s : State) (core : Nat) : List OpenYarn :=
  (coreOf s core).open_.filter (fun o => yarnRuns s o.ag o.y && decide (o.next ≤ o.last) &&
    beatRead o.desc o.t o.next == (ctxOf s o.ag).clk)

/-- The core with the beats that are read in this cycle, each yarn that reads moved on by one. -/
def withBeatsRead (s : State) (core : Nat) (k : Core) : Core := { k with
  beats := (coreOf s core).beats ++ (yarnsDue s core).map (fun o => readBeat s o o.next)
  open_ := k.open_.map (fun o => if (yarnsDue s core).elem o then { o with next := o.next + 1 } else o) }

/-- With no loss on the way the beats stay, and those due are read. -/
theorem yarnRead_no_losses {s : State} {core : Nat}
    (h : ∀ b ∈ (coreOf s core).beats, b.dsts ≠ [] ∧ beatLosses s b (ctxOf s b.ag).clk = []) :
    yarnRead core s = modCore s core (withBeatsRead s core) := by
  have hres : (coreOf s core).beats.map (fun b => if yarnRuns s b.ag b.y then (b, beatLosses s b (ctxOf s b.ag).clk)
      else (b, [])) = (coreOf s core).beats.map (fun b => (b, [])) := by
    refine List.map_congr_left fun b hb => ?_
    rw [(h b hb).2, ite_self]
  have hkept : ((coreOf s core).beats.map (fun b => (b, ([] : List (List Nat × StreamLoss))))).filterMap
      (fun p => dropDsts (p.2.flatMap (·.1)) p.1) = (coreOf s core).beats := by
    rw [List.filterMap_map]
    conv_rhs => rw [← List.filterMap_some (l := (coreOf s core).beats)]
    exact List.filterMap_congr fun b hb => dropDsts_nil (h b hb).1
  have hnone : ((coreOf s core).beats.map (fun b => (b, ([] : List (List Nat × StreamLoss))))).filter
      (fun p => !p.2.isEmpty) = [] := by
    simp
  have hloss : ((coreOf s core).beats.map (fun b => (b, ([] : List (List Nat × StreamLoss))))).flatMap (·.2) = [] := by
    simp
  simp only [yarnRead, hres]
  rw [hkept, hnone, hloss]
  rfl

/-! ## Beats that arrive (R137, R216) -/

theorem mem_arriving {s : State} {core : Nat} {f : Beat → Nat → Bool} {p : Nat × Beat} : p ∈ arriving s core f ↔
    p.1 ∈ clusterCores core ∧ p.2 ∈ (coreOf s p.1).beats ∧ core ∈ p.2.dsts ∧ yarnRuns s p.2.ag p.2.y = true ∧
      f p.2 (ctxOf s p.2.ag).clk = true := by
  obtain ⟨c, b⟩ := p
  simp [arriving, and_assoc]

theorem mem_storeBeats {s : State} {core : Nat} {p : Nat × Beat} : p ∈ storeBeats s core ↔
    p.1 ∈ clusterCores core ∧ p.2 ∈ (coreOf s p.1).beats ∧ core ∈ p.2.dsts ∧ yarnRuns s p.2.ag p.2.y = true ∧
      yqDk p.2.desc ≠ 4 ∧ yqDk p.2.desc ≠ 2 ∧ p.2.deliver = (ctxOf s p.2.ag).clk + 1 := by
  rw [storeBeats, (sortBy_perm _ _).mem_iff, mem_arriving]
  simp [and_assoc]

/-- A change of a beat in flight changes no store, file or queue of a core. -/
theorem coreOf_modBeat (s : State) (c i : Nat) (b : Beat) (f : Beat → Option Beat) :
    ∃ l, coreOf (modBeat s c b f) i = { coreOf s i with beats := l } := by
  by_cases h : i = c
  · subst h
    exact ⟨_, coreOf_modCore _ _ _⟩
  · exact ⟨(coreOf s i).beats, coreOf_modCore_other _ _ _ _ h⟩

/-- The halt of a run changes no store, file or queue of a core. -/
theorem coreOf_haltRun (s : State) (c i t : Nat) (b : Beat) :
    ∃ l, coreOf (haltRun c b t s) i = { coreOf s i with open_ := l } := by
  by_cases h : i = c
  · subst h
    exact ⟨_, coreOf_modCore _ _ _⟩
  · exact ⟨(coreOf s i).open_, coreOf_modCore_other _ _ _ _ h⟩

theorem beats_modCore {s : State} {c : Nat} {f : Core → Core} (hf : ∀ k, (f k).beats = k.beats) (i : Nat) :
    (coreOf (modCore s c f) i).beats = (coreOf s i).beats := by
  by_cases h : i = c
  · subst h
    rw [coreOf_modCore, hf]
  · rw [coreOf_modCore_other _ _ _ _ h]

/-- The tags of a range of granules are those written; the others stay. -/
theorem tabGet_writeTags (t : Tab (BitVec 14)) (g : Nat) (l : List (BitVec 14)) (k : Nat) :
    tabGet 0 (writeTags t g l) k = if g ≤ k ∧ k < g + l.length then l.getD (k - g) 0 else tabGet 0 t k := by
  induction l using List.reverseRecOn with
  | nil =>
    rw [if_neg (by simp)]
    rfl
  | append_singleton l v ih =>
    have hstep : writeTags t g (l ++ [v]) = tabSet (writeTags t g l) (g + l.length) v := by
      simp [writeTags, List.range_succ, List.zip_append]
    rw [hstep]
    by_cases hk : k = g + l.length
    · subst hk
      simp
    · rw [tabGet_tabSet_other _ _ _ _ _ hk, ih]
      by_cases hin : g ≤ k ∧ k < g + l.length
      · rw [if_pos hin, if_pos (by simp; omega)]
        simp [List.getD_eq_getElem?_getD, List.getElem?_append_left (show k - g < l.length by omega)]
      · rw [if_neg hin, if_neg (by simp; omega)]

theorem tabGet_writeTags_within (t : Tab (BitVec 14)) (p : Nat) {l : List (BitVec 14)} {g : Nat} (h : g < l.length) :
    tabGet 0 (writeTags t p l) (p + g) = l.getD g 0 := by
  rw [tabGet_writeTags, if_pos (by omega), Nat.add_sub_cancel_left]

theorem tabGet_writeTags_beyond (t : Tab (BitVec 14)) (p : Nat) {l : List (BitVec 14)} {g : Nat}
    (h : g < p ∨ p + l.length ≤ g) : tabGet 0 (writeTags t p l) g = tabGet 0 t g := by
  rw [tabGet_writeTags, if_neg (by omega)]

theorem vqOf_setVq (k : Core) (f : VFile) (q : Nat) (r : Machine.Ring Vec) : vqOf (setVq k f q r) f q = r :=
  tabGet_tabSet_same _ _ _ _

/-! ## A delivery to a store or a file, and one to a queue -/

section delivery
variable {s : State} {core c : Nat} {b : Beat}

/-- A delivery takes the core from the beat's destinations, and changes no other beat in flight. -/
theorem deliverStore_beats (i : Nat) :
    (coreOf (deliverStore core c b s) i).beats = (coreOf (modBeat s c b (dropDsts [core])) i).beats := by
  have hhalt : ∀ r : State, (coreOf (haltRun c b (ctxOf s b.ag).clk r) i).beats = (coreOf r i).beats := fun r =>
    beats_modCore (by intro k; rfl) i
  simp only [deliverStore]
  split
  · exact hhalt _
  · split
    · exact beats_modCore (by intro k; rfl) i
    · exact beats_modCore (by intro k; rfl) i
    · exact beats_modCore (by intro k; rfl) i
    · exact beats_modCore (by intro k; rfl) i
    · split
      · simp only [halfWrite, modCtx_eq, coreOf_setCtx]
        exact beats_modCore (by intro k; rfl) i
      · exact hhalt _

/-- A beat that a delivery leaves holds the granted lines of a beat that was there. -/
theorem granted_of_mem_modBeat {i : Nat} {ds : List Nat} {q : Beat} (h : q ∈ (coreOf (modBeat s c b (dropDsts ds)) i).beats) :
    ∃ o ∈ (coreOf s i).beats, q.granted = o.granted := by
  by_cases hi : i = c
  · subst hi
    simp only [modBeat, coreOf_modCore, List.mem_filterMap] at h
    obtain ⟨o, ho, hq⟩ := h
    refine ⟨o, ho, ?_⟩
    split at hq
    · simp only [dropDsts] at hq
      split at hq
      · cases hq
      · cases hq
        rfl
    · cases hq
      rfl
  · rw [modBeat, coreOf_modCore_other _ _ _ _ hi] at h
    exact ⟨q, h, rfl⟩

/-- With the writes of a cycle the one beat that arrives is delivered, where no pooled line has been granted. -/
theorem yarnWrite_store (h0 : s.phase ≠ 0) (h8 : s.phase ≠ 8) (hb : storeBeats s core = [(c, b)])
    (hn : nearWait s core b = false) (hg : ∀ i ∈ clusterCores core, ∀ q ∈ (coreOf s i).beats, q.granted = []) :
    yarnWrite core s = deliverStore core c b s := by
  have hpool : (clusterCores core).flatMap (fun i => ((coreOf (deliverStore core c b s) i).beats.filter
      (fun b => b.dsts.elem core && yqDk b.desc == 2 && !b.granted.isEmpty)).map (fun b => (i, b))) = [] := by
    simp only [List.flatMap_eq_nil_iff, List.map_eq_nil_iff, List.filter_eq_nil_iff]
    intro i hi q hq
    rw [deliverStore_beats] at hq
    obtain ⟨o, ho, hgr⟩ := granted_of_mem_modBeat hq
    simp [hgr, hg i hi o ho]
  simp only [yarnWrite, if_neg h0, if_neg h8, hb, List.filter_cons, hn, Bool.not_false, if_true, List.filter_nil,
    List.foldl_cons, List.foldl_nil, hpool, sortBy]

/-- With the start of a cycle the one beat that arrives takes its Dest step. -/
theorem yarnWrite_queue (h0 : s.phase = 0)
    (hb : arriving s core (fun b t => yqDk b.desc == 4 && b.deliver == t) = [(c, b)]) : ∃ f : OpenYarn → Bool,
    yarnWrite core s = modCore (deliverQueue core c b s) core (fun k => { k with open_ := k.open_.filter f }) := by
  simp only [yarnWrite, if_pos h0, hb, sortBy, insertBy, List.foldl_cons, List.foldl_nil]
  exact ⟨_, rfl⟩

theorem deliverStore_spool (hn : nearWait s core b = false) (hd : yqDk b.desc = 1) : deliverStore core c b s =
    spoolWrite core b.dstAddr b.data (modBeat s c b (dropDsts [core])) := by
  simp [deliverStore, meetsWait, hn, hd]

theorem deliverStore_spill (hn : nearWait s core b = false) (hd : yqDk b.desc = 3) : deliverStore core c b s =
    spillWrite core (spillBase (ctxOf s b.ag).task + b.dstAddr) b.data (modBeat s c b (dropDsts [core])) := by
  simp [deliverStore, meetsWait, hn, hd]

theorem deliverStore_afile (hn : nearWait s core b = false) (hd : yqDk b.desc = 5) : deliverStore core c b s =
    modCore (modBeat s c b (dropDsts [core])) core (fun k => { k with
      afile := memWrite k.afile b.dstAddr b.data, atags := writeTags k.atags (b.dstAddr / 16) b.tags }) := by
  simp [deliverStore, meetsWait, hn, hd]

theorem deliverStore_bfile (hn : nearWait s core b = false) (hd : yqDk b.desc = 6) : deliverStore core c b s =
    modCore (modBeat s c b (dropDsts [core])) core (fun k => { k with
      bfile := memWrite k.bfile b.dstAddr b.data, btags := writeTags k.btags (b.dstAddr / 16) b.tags }) := by
  simp [deliverStore, meetsWait, hn, hd]

theorem deliverStore_idleHalf (hn : nearWait s core b = false) (hd : yqDk b.desc = 7)
    (hi : idleHalf (ctxOf s (.tile core)) = halfOf b.dstAddr) : deliverStore core c b s =
    halfWrite core b.dstAddr b.data (modBeat s c b (dropDsts [core])) := by
  simp [deliverStore, meetsWait, hn, hd, hi]

theorem deliverStore_activeHalf (hn : nearWait s core b = false) (hd : yqDk b.desc = 7)
    (hi : idleHalf (ctxOf s (.tile core)) ≠ halfOf b.dstAddr) : deliverStore core c b s =
    pushSteps (faultSteps [⟨b.ag, 5, false, b.y⟩])
      (haltRun c b (ctxOf s b.ag).clk (modBeat s c b (dropDsts [core]))) := by
  simp [deliverStore, meetsWait, hn, hd, hi]

theorem deliverQueue_room {cell : Nat} {r : Machine.Ring Vec} (h : ringDest (vqOf (coreOf s core)
      (routeFile (yqDstBase b.desc % 256)) (routeQueue (yqDstBase b.desc % 256))) (routePush (yqDstBase b.desc % 256)) =
      .ok (cell, r)) :
    deliverQueue core c b s = modCore (modBeat s c b (dropDsts [core])) core (fun k =>
      setVq k (routeFile (yqDstBase b.desc % 256)) (routeQueue (yqDstBase b.desc % 256))
        (ringPut r cell (vecOfBytes b.data))) := by
  simp only [deliverQueue, h]

theorem deliverQueue_full {e : Nat} (h : ringDest (vqOf (coreOf s core) (routeFile (yqDstBase b.desc % 256))
      (routeQueue (yqDstBase b.desc % 256))) (routePush (yqDstBase b.desc % 256)) = .error e) :
    deliverQueue core c b s = pushSteps (faultSteps [⟨b.ag, 4, false, b.y⟩])
      (haltRun c b (ctxOf s b.ag).clk (modBeat s c b (dropDsts [core]))) := by
  simp only [deliverQueue, h]

end delivery

/-- Settles O39, from what a beat reads, the distances it travels, and what one delivery changes. -/
theorem yarnBeatResult : Obligations.YarnBeatResult := by
  unfold Obligations.YarnBeatResult
  refine ⟨?_, ?_, ?_, ?_⟩
  · intro s o n q b size way from_ till enters raw block scale
    have hscale : yqGeom q ≠ 0 → ∀ i, beatScale s (makeBeat s o n) i = scale i := fun hq i => beatScale_of_blocks hq i
    refine ⟨rfl, beatSrc_eq _ _ _, rfl, rfl, fun h => ?_, fun h => ⟨rfl, ?_⟩, fun h => ?_, fun h i hi => ?_, rfl,
      fun h g hg => ?_⟩
    · exact makeBeat_own s o n h
    · exact makeBeat_net s o n h
    · exact readBeat_data_no_blocks s o n h
    · rw [← hscale h]
      exact getD_readBeat_data s o n h hi
    · rw [getD_readBeat_tags s o n h hg]
      by_cases hq : yqGeom q = 0
      · rw [if_pos hq, beatScale_no_blocks hq]
        rfl
      · rw [if_neg hq, hscale hq]
  · intro s core k due h
    have hdue : yarnsDue s core = due := by
      simp [due, k, yarnsDue, beatRead, beq_eq_decide]
    have hcore : coreOf (modCore s core (withBeatsRead s core)) core = withBeatsRead s core k := coreOf_modCore _ _ _
    refine ⟨modCore s core (withBeatsRead s core), congrArg Host.Outcome.next (yarnRead_no_losses h), rfl, ?_, ?_, ?_, ?_⟩
    · rw [hcore, withBeatsRead, hdue]
    · rw [hcore, withBeatsRead, hdue]
    · rw [hcore, withBeatsRead]
    · intro c hc
      exact coreOf_modCore_other _ _ _ _ hc
  · refine fun s core => ⟨fun p => mem_storeBeats, fun c b h0 h8 hb hn hg => ⟨deliverStore core c b s,
      congrArg Host.Outcome.next (yarnWrite_store h0 h8 hb hn hg), ?_⟩⟩
    obtain ⟨l, hl⟩ := coreOf_modBeat s c core b (dropDsts [core])
    refine ⟨fun hd => ?_, fun hd => ?_, fun hd => ?_, fun hd => ?_, fun hd => ⟨fun hi => ?_, fun hi => ?_⟩⟩
    · rw [deliverStore_spool hn hd]
      simp [spoolWrite, markBlocks, hl]
    · rw [deliverStore_spill hn hd]
      simp [spillWrite, hl]
    · simp only [deliverStore_afile hn hd, coreOf_modCore, hl]
      exact ⟨trivial, fun g => tabGet_writeTags_within _ _, fun g => tabGet_writeTags_beyond _ _⟩
    · simp only [deliverStore_bfile hn hd, coreOf_modCore, hl]
      exact ⟨trivial, fun g => tabGet_writeTags_within _ _, fun g => tabGet_writeTags_beyond _ _⟩
    · rw [deliverStore_idleHalf hn hd hi]
      simp [halfWrite, hl]
    · rw [deliverStore_activeHalf hn hd hi]
      obtain ⟨r, hr⟩ := coreOf_haltRun (modBeat s c b (dropDsts [core])) c core (ctxOf s b.ag).clk b
      refine ⟨?_, rfl⟩
      change (coreOf (haltRun c b (ctxOf s b.ag).clk (modBeat s c b (dropDsts [core]))) core).imem = _
      rw [hr, hl]
  · intro s core c b h0 hb code r
    obtain ⟨f, hf⟩ := yarnWrite_queue h0 hb
    refine ⟨fun cell r1 hr => ⟨_, congrArg Host.Outcome.next hf, ?_, ?_⟩,
      fun e hr => ⟨_, congrArg Host.Outcome.next hf, ?_, ?_⟩⟩
    · rw [deliverQueue_room hr, coreOf_modCore, coreOf_modCore]
      exact vqOf_setVq _ _ _ _
    · rw [deliverQueue_room hr]
      rfl
    · rw [deliverQueue_full hr, coreOf_modCore]
      obtain ⟨l, hl⟩ := coreOf_modBeat s c core b (dropDsts [core])
      obtain ⟨m, hm⟩ := coreOf_haltRun (modBeat s c b (dropDsts [core])) c core (ctxOf s b.ag).clk b
      change vqOf { coreOf (haltRun c b (ctxOf s b.ag).clk (modBeat s c b (dropDsts [core]))) core with open_ := _ } _ _ = _
      rw [hm, hl]
      rfl
    · rw [deliverQueue_full hr]
      rfl

end Sys2Proof.Proofs

/-!
PROOFS. Fetch and issue: what the scalar and vector words keep (O10).
-/

namespace Sys2Proof.Proofs
open Sys2Proof Sys2Proof.Machine Sys2Proof.Laws

/-! ## The frame of a slot's body, part by part (spec/06_fetch_and_issue.md R128) -/

/-- What a body answers from `s`, the bundle `u` being open, keeps the rest of what the names `n` name. -/
def keepsBody (n : Named) (u : Issue) (s : State) (r : Except Nat State) : Prop :=
  s.cur = some u → ∀ t, r = .ok t → keepsRest n u s t

/-- A slot word with the names `n` takes its trap or keeps the rest. -/
def framed (n : Named) (u : Issue) (s : State) (o : Out) : Prop :=
  s.cur = some u → ∀ t, o = .next t → (∃ c : Nat, t = slotTrap c s) ∨ keepsRest n u s t

section bodyFrame
variable {n : Named} {u : Issue} {s t : State}

theorem framed_slot {g : Nat} {body : State → Except Nat State} (h : keepsBody n u s (body s)) :
    framed n u s (execSlot g body s) := fun hu _ ht => keeps_slot hu ht (h hu)

theorem curAgent_of_cur (h : s.cur = some u) : curAgent s = u.ag := by simp [curAgent, h]

theorem keepsBody_ok : keepsBody n u s (.ok s) := fun _ t ht => by
  cases ht
  exact keeps_refl n u s

theorem keepsBody_error (c : Nat) : keepsBody n u s (.error c) := fun _ t ht => by cases ht

/-- What follows a part that keeps the rest need only keep it from there. -/
theorem keepsBody_after {r : Except Nat State} (k : curAgent s = u.ag → keepsRest n u s t) (h : keepsBody n u t r) :
    keepsBody n u s r := fun hu t' ht' =>
  have hk := k (curAgent_of_cur hu)
  keeps_trans hk (h (hk.2.1.trans hu) t' ht')

/-- A check changes nothing. -/
theorem keepsBody_check {α : Type} {x : Except Nat α} {f : α → Except Nat State} (h : ∀ a, keepsBody n u s (f a)) :
    keepsBody n u s (x >>= f) := by
  cases x with
  | error c => exact keepsBody_error c
  | ok a => exact h a

/-- A part that is a body of its own, then the rest. -/
theorem keepsBody_bind {r : Except Nat State} {f : State → Except Nat State} (h : keepsBody n u s r)
    (hf : ∀ t, keepsBody n u t (f t)) : keepsBody n u s (r >>= f) := fun hu => by
  cases hr : r with
  | error c => exact keepsBody_error c hu
  | ok t => exact keepsBody_after (fun _ => h hu t hr) (hf t) hu

theorem keepsBody_source {r : Nat} {pop : Bool} {f : Word × State → Except Nat State} (hn : pop = true → r ∈ n.regs)
    (h : ∀ v t, keepsBody n u t (f (v, t))) : keepsBody n u s (source r pop s >>= f) := by
  cases hs : source r pop s with
  | error c => exact keepsBody_error c
  | ok p =>
    obtain ⟨v, t⟩ := p
    exact keepsBody_after (fun ha => keeps_source ha hs hn) (h v t)

theorem vsource_cur {f : VFile} {q : Nat} {pop : Bool} {v : Vec} (h : vsource f q pop s = .ok (v, t)) : t.cur = s.cur := by
  simp only [vsource] at h
  split at h
  · cases h
  · split at h
    · cases h
    · cases h
      rfl

theorem keepsBody_vsource {file : VFile} {q : Nat} {pop : Bool} {f : Vec × State → Except Nat State}
    (hn : pop = true → fileNo file * 16 + q ∈ n.queues) (h : ∀ v t, t.cur = s.cur → keepsBody n u t (f (v, t))) :
    keepsBody n u s (vsource file q pop s >>= f) := by
  cases hs : vsource file q pop s with
  | error c => exact keepsBody_error c
  | ok p =>
    obtain ⟨v, t⟩ := p
    exact keepsBody_after (fun ha => keeps_vsource ha hs hn) (h v t (vsource_cur hs))

theorem keepsBody_writeReg {L r : Nat} {push : Bool} {v : Word} (hn : r ∈ n.regs) :
    keepsBody n u s (writeReg L r push v s) := fun hu _ ht => keeps_writeReg (curAgent_of_cur hu) ht hn

theorem keepsBody_writeVec {L d : Nat} {v : Vec} (hn : fileNo (routeFile d) * 16 + routeQueue d ∈ n.queues) :
    keepsBody n u s (writeVec L d v s) := fun hu _ ht => keeps_writeVec (curAgent_of_cur hu) ht hn

theorem keepsBody_land {L : Nat} {act : Pend} (hn : inFlightOf n act = true) : keepsBody n u s (.ok (land L act s)) :=
  keepsBody_after (fun ha => keeps_land ha hn) keepsBody_ok

theorem keepsBody_landAt {due : Nat} {act : Pend} (hn : inFlightOf n act = true) :
    keepsBody n u s (.ok (landAt due act s)) :=
  keepsBody_after (fun ha => keeps_landAt ha hn) keepsBody_ok

theorem keepsBody_draws {mode k : Nat} {r : Except Nat State} (h : keepsBody n u (takeDraws mode k s).2 r) :
    keepsBody n u s r := keepsBody_after (fun ha => keeps_draws ha) h

/-- R226: a result of lanes goes to the register or to the queue that its routing code names. -/
theorem keepsBody_routeLanes {L d w : Nat} {ty : VType} {zx : Bool} {l : List Nat} (hr : routeRegs d ⊆ n.regs)
    (hq : routeQueues d ⊆ n.queues) : keepsBody n u s (routeLanes L d ty zx w l s) := by
  unfold routeLanes
  by_cases hd : dstScalar d = true
  · rw [if_pos hd]
    exact keepsBody_writeReg (hr (by simp [routeRegs, hd]))
  · rw [if_neg hd]
    exact keepsBody_writeVec (hq (by simp [routeQueues, routeCell, hd]))

end bodyFrame

/-! ## Scalar words -/

section scalarForms
variable {u : Issue} {s : State}

theorem formRR_framed {o : RR} {L : Nat} {op : Word → Word → Word} :
    framed ⟨o.d :: poppedRegs o.a o.m ++ poppedRegs o.b o.n, [], false⟩ u s (formRR o L op s) :=
  framed_slot <|
    keepsBody_source (fun h => by simp [poppedRegs, h]) fun _ _ =>
    keepsBody_source (fun h => by simp [poppedRegs, h]) fun _ _ =>
    keepsBody_writeReg (by simp)

theorem formRRD_framed {o : RR} {L : Nat} {op : Word → Word → Word → Word} :
    framed ⟨o.d :: poppedRegs o.a o.m ++ poppedRegs o.b o.n, [], false⟩ u s (formRRD o L op s) :=
  framed_slot <|
    keepsBody_source (fun h => by simp [poppedRegs, h]) fun _ _ =>
    keepsBody_source (fun h => by simp [poppedRegs, h]) fun _ _ =>
    keepsBody_source (fun h => by simp) fun _ _ =>
    keepsBody_writeReg (by simp)

theorem formRU_framed {o : RU} {L : Nat} {op : Word → Word} :
    framed ⟨o.d :: poppedRegs o.a o.m, [], false⟩ u s (formRU o L op s) :=
  framed_slot <|
    keepsBody_source (fun h => by simp [poppedRegs, h]) fun _ _ =>
    keepsBody_writeReg (by simp)

theorem formRI_framed {o : RI} {L : Nat} {op : Word → Nat → Word} :
    framed ⟨o.d :: poppedRegs o.a o.m, [], false⟩ u s (formRI o L op s) :=
  framed_slot <|
    keepsBody_source (fun h => by simp [poppedRegs, h]) fun _ _ =>
    keepsBody_writeReg (by simp)

theorem formFP_framed {o : RR} {op : Bool → Val → Val → Val} :
    framed ⟨o.d :: poppedRegs o.a o.m ++ poppedRegs o.b o.n, [], false⟩ u s (formFP o op s) :=
  framed_slot <|
    keepsBody_source (fun h => by simp [poppedRegs, h]) fun _ _ =>
    keepsBody_source (fun h => by simp [poppedRegs, h]) fun _ _ =>
    keepsBody_draws <| keepsBody_writeReg (by simp)

theorem formFPExact_framed {o : RR} {op : Val → Val → Val} :
    framed ⟨o.d :: poppedRegs o.a o.m ++ poppedRegs o.b o.n, [], false⟩ u s (formFPExact o op s) :=
  framed_slot <|
    keepsBody_source (fun h => by simp [poppedRegs, h]) fun _ _ =>
    keepsBody_source (fun h => by simp [poppedRegs, h]) fun _ _ =>
    keepsBody_writeReg (by simp)

theorem formCmp_framed {o : CmpRR} {cond : Nat → Word → Word → Bool} :
    framed ⟨poppedRegs o.a o.m ++ poppedRegs o.b o.n, [], false⟩ u s (formCmp o cond s) :=
  framed_slot <|
    keepsBody_source (fun h => by simp [poppedRegs, h]) fun _ _ =>
    keepsBody_source (fun h => by simp [poppedRegs, h]) fun _ _ =>
    keepsBody_land rfl

theorem formPLog_framed {o : PLog} {op : Bool → Bool → Bool} : framed ⟨[], [], false⟩ u s (formPLog o op s) :=
  framed_slot <| keepsBody_land rfl

theorem formLoad_framed {o : RI} {k : Nat} {signed : Bool} :
    framed ⟨o.d :: poppedRegs o.a o.m, [], false⟩ u s (formLoad o k signed s) := by
  refine framed_slot <| keepsBody_check fun _ => keepsBody_source (fun h => by simp [poppedRegs, h]) fun _ t => ?_
  dsimp only
  split
  · exact keepsBody_check fun _ => keepsBody_writeReg (by simp)
  · exact keepsBody_check fun _ => keepsBody_writeReg (by simp)

theorem formStore_framed {o : RI} {k : Nat} :
    framed ⟨poppedRegs o.d o.q ++ poppedRegs o.a o.m, [], true⟩ u s (formStore o k s) :=
  framed_slot <|
    keepsBody_check fun _ =>
    keepsBody_source (fun h => by simp [poppedRegs, h]) fun _ _ =>
    keepsBody_source (fun h => by simp [poppedRegs, h]) fun _ _ =>
    keepsBody_check fun _ =>
    keepsBody_landAt rfl

/-- Each scalar word, and each scalar load and store, takes its trap or keeps what it does not name. -/
theorem scalar_framed {i : Instr} {n : Named} (h : scalarNamed i = some n) : framed n u s (exec i s) := by
  cases i <;> cases h
  case add | sub | and | or | xor | andn | min | max | mins | maxs | shl | shr | sra | mul | mulh | mulhs | div | divs | rem |
    rems =>
    simp only [exec_add, exec_sub, exec_and, exec_or, exec_xor, exec_andn, exec_min, exec_max, exec_mins,
      exec_maxs, exec_shl, exec_shr, exec_sra, exec_mul, exec_mulh, exec_mulhs, exec_div, exec_divs, exec_rem,
      exec_rems]
    exact formRR_framed
  case fsl | fsr =>
    simp only [exec_fsl, exec_fsr]
    exact formRRD_framed
  case mov | clz | ctz | popc | brev =>
    simp only [exec_mov, exec_clz, exec_ctz, exec_popc, exec_brev]
    exact formRU_framed
  case addi | andi | ori | xori | shli | shri | srai =>
    simp only [exec_addi, exec_andi, exec_ori, exec_xori, exec_shli, exec_shri, exec_srai]
    exact formRI_framed
  case fadd | fsub | fmul =>
    simp only [exec_fadd, exec_fsub, exec_fmul]
    exact formFP_framed
  case fmin | fmax =>
    simp only [exec_fmin, exec_fmax]
    exact formFPExact_framed
  case cmp | fcmp =>
    simp only [exec_cmp, exec_fcmp]
    exact formCmp_framed
  case pand | por | pxor | pandn =>
    simp only [exec_pand, exec_por, exec_pxor, exec_pandn]
    exact formPLog_framed
  case pset =>
    rw [exec_pset]
    exact framed_slot <| keepsBody_land rfl
  case ldb | ldbu | ldh | ldhu | ldw | ldwu | ldd =>
    simp only [exec_ldb, exec_ldbu, exec_ldh, exec_ldhu, exec_ldw, exec_ldwu, exec_ldd]
    exact formLoad_framed
  case stb | sth | stw | std =>
    simp only [exec_stb, exec_sth, exec_stw, exec_std]
    exact formStore_framed
  case sel | adds =>
    simp only [exec_sel, exec_adds]
    exact framed_slot <|
      keepsBody_source (fun h => by simp [poppedRegs, h]) fun _ _ =>
      keepsBody_source (fun h => by simp [poppedRegs, h]) fun _ _ =>
      keepsBody_writeReg (by simp)
  case ffma =>
    rw [exec_ffma]
    exact framed_slot <|
      keepsBody_source (fun h => by simp [poppedRegs, h]) fun _ _ =>
      keepsBody_source (fun h => by simp [poppedRegs, h]) fun _ _ =>
      keepsBody_source (fun h => by simp) fun _ _ =>
      keepsBody_draws <| keepsBody_writeReg (by simp)
  case fcvt =>
    rw [exec_fcvt]
    exact framed_slot <|
      keepsBody_source (fun h => by simp [poppedRegs, h]) fun _ _ =>
      keepsBody_draws <| keepsBody_writeReg (by simp)
  case cmpi =>
    rw [exec_cmpi]
    exact framed_slot <| keepsBody_source (fun h => by simp [poppedRegs, h]) fun _ _ => keepsBody_land rfl
  case lim | qlen =>
    simp only [exec_lim, exec_qlen]
    exact framed_slot <| keepsBody_writeReg (by simp)
  case lih =>
    rw [exec_lih]
    exact framed_slot <| keepsBody_source (fun h => by simp) fun _ _ => keepsBody_writeReg (by simp)
  case lds =>
    rw [exec_lds]
    exact framed_slot <| keepsBody_check fun _ => keepsBody_writeReg (by simp)
  case sts =>
    rw [exec_sts]
    exact framed_slot <|
      keepsBody_source (fun h => by simp [poppedRegs, h]) fun _ _ =>
      keepsBody_check fun _ =>
      keepsBody_landAt rfl
  case ldk =>
    rw [exec_ldk]
    exact framed_slot <|
      keepsBody_source (fun h => by simp [poppedRegs, h]) fun _ _ =>
      keepsBody_check fun _ => keepsBody_check fun _ => keepsBody_writeReg (by simp)
  case csrrd o =>
    rw [exec_csrrd]
    refine framed_slot ?_
    by_cases ha : csrAccess (curAgent s) o.c = .none
    · rw [if_pos ha]
      exact keepsBody_error _
    · rw [if_neg ha]
      exact keepsBody_writeReg (by simp)

end scalarForms

/-! ## Vector words (spec/10_vector_instructions.md R225, R226) -/

section vectorForms
variable {u : Issue} {s : State}

theorem fileA_of_cur {t : State} (h : t.cur = s.cur) : fileA t = fileA s := by
  unfold fileA curUnit curSlot
  rw [h]

theorem fileB_of_cur {t : State} (h : t.cur = s.cur) : fileB t = fileB s := by
  unfold fileB curUnit curSlot
  rw [h]

theorem formV2_framed {o : VAB} {L : Nat} {ok : VType → Bool} {draws : VType → Nat}
    {op : VType → W256 → Nat → Nat → List Nat → List Nat} :
    framed ⟨routeRegs o.t, poppedV (fileA s) o.a o.m ++ poppedV (fileB s) o.b o.n ++ routeQueues o.t, false⟩ u s
      (formV2 o L ok draws op s) :=
  framed_slot <|
    keepsBody_check fun _ => keepsBody_check fun _ =>
    keepsBody_vsource (fun h => by simp [poppedV, h]) fun _ _ ht =>
    keepsBody_vsource (fun h => by simp [poppedV, h, fileB_of_cur ht]) fun _ _ _ =>
    keepsBody_draws <| keepsBody_routeLanes (List.Subset.refl _) (by simp)

theorem formV1_framed {o : VA} {L : Nat} {ok : VType → Bool} {draws : VType → Nat} {zx : Bool}
    {op : VType → W256 → Nat → List Nat → List Nat} :
    framed ⟨routeRegs o.t, poppedV (fileA s) o.a o.m ++ routeQueues o.t, false⟩ u s (formV1 o L ok draws zx op s) :=
  framed_slot <|
    keepsBody_check fun _ => keepsBody_check fun _ =>
    keepsBody_vsource (fun h => by simp [poppedV, h]) fun _ _ _ =>
    keepsBody_draws <| keepsBody_routeLanes (List.Subset.refl _) (by simp)

theorem formVFun_framed {o : VA} {f : Val → Val} :
    framed ⟨routeRegs o.t, poppedV (fileA s) o.a o.m ++ routeQueues o.t, false⟩ u s (formVFun o f s) := by
  unfold formVFun
  exact formV1_framed

theorem formFma_framed {o : VAB} {neg : Bool} :
    framed ⟨[], poppedV (fileA s) o.a o.m ++ poppedV (fileB s) o.b o.n, false⟩ u s (formFma o neg s) :=
  framed_slot <|
    keepsBody_check fun _ =>
    keepsBody_vsource (fun h => by simp [poppedV, h]) fun _ _ ht =>
    keepsBody_vsource (fun h => by simp [poppedV, h, fileB_of_cur ht]) fun _ _ _ =>
    keepsBody_draws <| keepsBody_land rfl

theorem formVImm_framed {g t qa qb l L : Nat} {m k imm : Bool} {op : VType → W256 → Nat → Option Nat → Nat → List Nat} :
    framed ⟨routeRegs t, poppedV (fileA s) qa m ++ poppedV (fileB s) qb k ++ routeQueues t, false⟩ u s
      (formVImm g t m qa k qb l imm L op s) := by
  refine framed_slot <| keepsBody_check fun _ => keepsBody_vsource (fun h => by simp [poppedV, h]) fun _ t1 ht => ?_
  cases imm with
  | true => exact keepsBody_routeLanes (List.Subset.refl _) (by simp)
  | false =>
    cases hv : vsource (fileB t1) qb k t1 with
    | error c =>
      simp only [hv]
      exact keepsBody_error c
    | ok p =>
      obtain ⟨v, t2⟩ := p
      simp only [hv]
      exact keepsBody_after (fun ha => keeps_vsource ha hv fun h => by simp [poppedV, h, fileB_of_cur ht]) <|
        keepsBody_routeLanes (List.Subset.refl _) (by simp)

theorem formVShift_framed {o : VABI} {k : Nat} :
    framed ⟨routeRegs o.t, poppedV (fileA s) o.a o.m ++ poppedV (fileB s) o.b o.n ++ routeQueues o.t, false⟩ u s
      (formVShift o k s) := by
  unfold formVShift
  exact formVImm_framed

theorem formVPLog_framed {o : VPLog} {op : W256 → W256 → W256} : framed ⟨[], [], false⟩ u s (formVPLog o op s) :=
  framed_slot <| keepsBody_land rfl

theorem vaccr_framed {o : VAccR} : framed ⟨[], routeCell o.t, false⟩ u s (execVaccr o s) := by
  refine framed_slot <| keepsBody_check fun _ => keepsBody_bind ?_ fun t => ?_
  · by_cases hd : dstAcc o.t = true
    · rw [if_pos hd]
      exact keepsBody_ok
    · rw [if_neg hd]
      exact keepsBody_writeVec (by simp [routeCell])
  · by_cases hz : o.z = true
    · rw [if_pos hz]
      exact keepsBody_land rfl
    · rw [if_neg hz]
      exact keepsBody_ok

/-- Each vector word of the V slots and of the L slot takes its trap or keeps what it does not name. -/
theorem vector_framed {i : Instr} {n : Named} (h : vectorNamed s i = some n) : framed n u s (exec i s) := by
  cases i <;> cases h
  case vadd | vsub | vmul | vmin | vmax | vand | vor | vxor | vandn | vfsl | vfsr | vsel | vdqnt | vperm =>
    simp only [exec_vadd, exec_vsub, exec_vmul, exec_vmin, exec_vmax, exec_vand, exec_vor, exec_vxor, exec_vandn,
      exec_vfsl, exec_vfsr, exec_vsel, exec_vdqnt, exec_vperm]
    exact formV2_framed
  case vabs | vneg | vclz | vpopc | vrmax | vrmin | vramax | vradd | vscan | vunpk =>
    simp only [exec_vabs, exec_vneg, exec_vclz, exec_vpopc, exec_vrmax, exec_vrmin, exec_vramax, exec_vradd, exec_vscan,
      exec_vunpk]
    exact formV1_framed
  case vexp2 | vlog2 | vrcp | vrsq =>
    simp only [exec_vexp2, exec_vlog2, exec_vrcp, exec_vrsq]
    exact formVFun_framed
  case vfma | vfms =>
    simp only [exec_vfma, exec_vfms]
    exact formFma_framed
  case vshl | vshr | vsra =>
    simp only [exec_vshl, exec_vshr, exec_vsra]
    exact formVShift_framed
  case vbcast | vextr | vrot =>
    simp only [exec_vbcast, exec_vextr, exec_vrot]
    exact formVImm_framed
  case vpand | vpor | vpxor =>
    simp only [exec_vpand, exec_vpor, exec_vpxor]
    exact formVPLog_framed
  case vpset =>
    rw [exec_vpset]
    exact framed_slot <| keepsBody_land rfl
  case vaccr =>
    rw [exec_vaccr]
    exact vaccr_framed
  case vcmp =>
    rw [exec_vcmp]
    exact framed_slot <|
      keepsBody_check fun _ =>
      keepsBody_vsource (fun h => by simp [poppedV, h]) fun _ _ ht =>
      keepsBody_vsource (fun h => by simp [poppedV, h, fileB_of_cur ht]) fun _ _ _ =>
      keepsBody_after (fun ha => keeps_land ha rfl) <| keepsBody_land rfl
  case vqnt =>
    rw [exec_vqnt]
    exact framed_slot <|
      keepsBody_check fun _ => keepsBody_check fun _ =>
      keepsBody_vsource (fun h => by simp [poppedV, h]) fun _ _ ht =>
      keepsBody_vsource (fun h => by simp [poppedV, h, fileB_of_cur ht]) fun _ _ _ =>
      keepsBody_draws <| keepsBody_writeVec (by simp [routeCell])
  case vcvt =>
    rw [exec_vcvt]
    exact framed_slot <|
      keepsBody_check fun _ =>
      keepsBody_vsource (fun h => by simp [poppedV, h]) fun _ _ _ =>
      keepsBody_draws <| keepsBody_writeVec (by simp [routeCell])
  case vpack =>
    rw [exec_vpack]
    exact framed_slot <|
      keepsBody_check fun _ =>
      keepsBody_vsource (fun h => by simp [poppedV, h]) fun _ _ _ =>
      keepsBody_writeVec (by simp [routeCell])
  case viota =>
    rw [exec_viota]
    exact framed_slot <| keepsBody_check fun _ => keepsBody_writeVec (by simp [routeCell])
  case vpcnt =>
    rw [exec_vpcnt]
    exact framed_slot <| keepsBody_writeReg (by simp)
  case vld =>
    rw [exec_vld]
    exact framed_slot <|
      keepsBody_check fun _ =>
      keepsBody_source (fun h => by simp [poppedRegs, h]) fun _ _ =>
      keepsBody_check fun _ =>
      keepsBody_writeVec (by simp [routeCell])
  case vst | vstm =>
    simp only [exec_vst, exec_vstm]
    exact framed_slot <|
      keepsBody_check fun _ =>
      keepsBody_vsource (fun h => by simp [poppedV, h]) fun _ _ _ =>
      keepsBody_source (fun h => by simp [poppedRegs, h]) fun _ _ =>
      keepsBody_check fun _ =>
      keepsBody_land rfl
  case vlds =>
    rw [exec_vlds]
    exact framed_slot <| keepsBody_check fun _ => keepsBody_writeVec (by simp [routeCell])
  case vsts =>
    rw [exec_vsts]
    exact framed_slot <|
      keepsBody_vsource (fun h => by simp [poppedV, h]) fun _ _ _ =>
      keepsBody_check fun _ =>
      keepsBody_landAt rfl

end vectorForms

/-! ## CSRWR and its write (spec/07_scalar_and_control_instructions.md R159, R161, R424) -/

/-- What CSRWR to the register `c`, popping of `regs`, keeps from `s` to `t`. -/
def csrwrKeeps (regs : List Nat) (c : Nat) (u : Issue) (s t : State) : Prop :=
  onlyContexts s t ∧ t.cur = s.cur ∧ otherContexts u.ag s t ∧
  (let x := ctxOf s u.ag
   let y := ctxOf t u.ag
   y = { x with sregs := y.sregs, pend := y.pend, evcnt := y.evcnt } ∧
   (∀ r : Nat, r ∉ regs → sregOf y r = sregOf x r) ∧
   ∃ p : List InFlight, y.pend = x.pend ++ p ∧ ∀ q ∈ p, ∃ v : Word, q.act = .csr c v)

/-- R425: a counted event changes at most the counters of its context. -/
theorem countEvent_cases (a : Agent) (e k : Nat) (s : State) :
    countEvent a e k s = s ∨ ∃ l, countEvent a e k s = setCtx s a { ctxOf s a with evcnt := l } := by
  simp only [countEvent]
  split
  · exact .inl rfl
  · right
    simp only [countIn]
    split
    · exact ⟨_, rfl⟩
    · exact ⟨(ctxOf s a).evcnt, rfl⟩

theorem csrwrKeeps_setCtx {regs : List Nat} {c : Nat} {u : Issue} {s : State} {x : Ctx}
    (hx : x = { ctxOf s u.ag with sregs := x.sregs, pend := x.pend, evcnt := x.evcnt })
    (hr : ∀ r : Nat, r ∉ regs → sregOf x r = sregOf (ctxOf s u.ag) r)
    (hp : ∃ p : List InFlight, x.pend = (ctxOf s u.ag).pend ++ p ∧ ∀ q ∈ p, ∃ v : Word, q.act = .csr c v) :
    csrwrKeeps regs c u s (setCtx s u.ag x) :=
  ⟨onlyContexts_setCtx _ _ _, rfl, otherContexts_setCtx _ _ _, by simpa using hx, by simpa using hr, by simpa using hp⟩

theorem csrwrKeeps_refl (regs : List Nat) (c : Nat) (u : Issue) (s : State) : csrwrKeeps regs c u s s :=
  ⟨rfl, rfl, fun _ _ => rfl, rfl, fun _ _ => rfl, [], by simp, by simp⟩

theorem csrwrKeeps_trans {regs : List Nat} {c : Nat} {u : Issue} {s t r : State} (h : csrwrKeeps regs c u s t)
    (h' : csrwrKeeps regs c u t r) : csrwrKeeps regs c u s r := by
  obtain ⟨h1, h2, h3, h4, h5, p, h6, h7⟩ := h
  obtain ⟨g1, g2, g3, g4, g5, q, g6, g7⟩ := h'
  refine ⟨onlyContexts_trans h1 g1, g2.trans h2, fun k hk => (g3 k hk).trans (h3 k hk), ?_,
    fun k hk => (g5 k hk).trans (h5 k hk), p ++ q, ?_, ?_⟩
  · rw [g4, h4]
  · rw [g6, h6, List.append_assoc]
  · intro x hx
    rcases List.mem_append.1 hx with hx | hx
    exacts [h7 x hx, g7 x hx]

theorem csrwrKeeps_source {c r : Nat} {pop : Bool} {u : Issue} {s t : State} {v : Word} (ha : curAgent s = u.ag)
    (h : source r pop s = .ok (v, t)) : csrwrKeeps (poppedRegs r pop) c u s t := by
  obtain ⟨_, _, _, _, _, hregs, _⟩ :=
    keeps_source (n := ⟨poppedRegs r pop, [], false⟩) ha h (fun hp => by simp [poppedRegs, hp])
  obtain ⟨q, rfl⟩ := source_ok h
  rw [ha] at hregs ⊢
  simp only [ctxOf_setCtx] at hregs
  exact csrwrKeeps_setCtx (by simp [curCtx, ha]) hregs ⟨[], by simp [curCtx, ha], by simp⟩

theorem csrwrKeeps_count (regs : List Nat) (c e k : Nat) (u : Issue) (s : State) :
    csrwrKeeps regs c u s (countEvent u.ag e k s) := by
  rcases countEvent_cases u.ag e k s with h | ⟨l, h⟩
  · rw [h]
    exact csrwrKeeps_refl _ _ _ _
  · rw [h]
    exact csrwrKeeps_setCtx rfl (fun _ _ => rfl) ⟨[], by simp, by simp⟩

theorem csrwrKeeps_land (regs : List Nat) (c L : Nat) (u : Issue) (s : State) (v : Word) (ha : curAgent s = u.ag) :
    csrwrKeeps regs c u s (land L (.csr c v) s) := by
  simp only [land, landAt, modCur, modCtx_eq, ha]
  exact csrwrKeeps_setCtx rfl (fun _ _ => rfl) ⟨_, rfl, by simp⟩

/-- The body of CSRWR, where R424 denies the write or not. -/
def csrwrBody (o : CsrWr) (denied : Bool) (s : State) : Except Nat State := do
  let (v, s) ← source o.a o.m s
  need 0x0D (csrAccess (curAgent s) o.c == .rw && !denied)
  .ok (land 1 (.csr o.c v) s)

/-- R424 denies the write of CSRWR. -/
def csrwrDenied (o : CsrWr) (s : State) : Bool :=
  guardTrue o.g s && csrAccess (curAgent s) o.c == .rw &&
    (match source o.a o.m s with
      | .ok (v, _) => evselDenied s o.c v
      | .error _ => false)

theorem exec_csrwr_body (o : CsrWr) (s : State) : exec (.csrwr o) s =
    execSlot o.g (csrwrBody o (csrwrDenied o s)) (if csrwrDenied o s then noteEvDeny s else s) := rfl

theorem csrwrBody_denied (o : CsrWr) (s : State) : ∃ c, csrwrBody o true s = .error c := by
  cases hs : source o.a o.m s with
  | error c => exact ⟨c, bind_of_error hs _⟩
  | ok p => exact ⟨0x0D, (bind_of_ok hs _).trans (bind_of_error (need_fails (by simp)) _)⟩

theorem csrwrBody_keeps {o : CsrWr} {d : Bool} {u : Issue} {s t : State} (ha : curAgent s = u.ag)
    (h : csrwrBody o d s = .ok t) : csrwrKeeps (poppedRegs o.a o.m) o.c u s t := by
  cases hs : source o.a o.m s with
  | error c =>
    rw [csrwrBody, bind_of_error hs] at h
    cases h
  | ok p =>
    obtain ⟨v, t1⟩ := p
    rw [csrwrBody, bind_of_ok hs] at h
    simp only at h
    cases hn : need 0x0D (csrAccess (curAgent t1) o.c == .rw && !d) with
    | error c =>
      rw [bind_of_error hn] at h
      cases h
    | ok x =>
      rw [bind_of_ok hn] at h
      cases h
      exact csrwrKeeps_trans (csrwrKeeps_source ha hs) (csrwrKeeps_land _ _ _ _ _ _ ((source_keeps hs).1.trans ha))

/-- CSRWR traps, with EVDENY counted where R424 denies the write, or keeps what it does not name. -/
theorem csrwr_framed {o : CsrWr} {s t : State} {u : Issue} (hu : s.cur = some u) (h : exec (.csrwr o) s = .next t) :
    (∃ c : Nat, t = slotTrap c s ∨ t = slotTrap c (noteEvDeny s)) ∨ csrwrKeeps (poppedRegs o.a o.m) o.c u s t := by
  rw [exec_csrwr_body] at h
  cases hd : csrwrDenied o s with
  | true =>
    rw [hd, if_pos rfl] at h
    have hg : guardTrue o.g s = true := by
      simp only [csrwrDenied, Bool.and_eq_true] at hd
      obtain ⟨⟨hguard, _⟩, _⟩ := hd
      exact hguard
    obtain ⟨c, hc⟩ := csrwrBody_denied o (noteEvDeny s)
    rw [slot_trap (s := noteEvDeny s) ⟨hu, hg⟩ hc] at h
    exact .inl ⟨c, .inr (Host.Outcome.next.inj h).symm⟩
  | false =>
    rw [hd, if_neg (by simp)] at h
    cases hg : guardTrue o.g s with
    | false =>
      rw [slot_off hg] at h
      cases h
      exact .inr (csrwrKeeps_refl _ _ _ _)
    | true =>
      cases hb : csrwrBody o false s with
      | error c =>
        rw [slot_trap ⟨hu, hg⟩ hb] at h
        exact .inl ⟨c, .inl (Host.Outcome.next.inj h).symm⟩
      | ok t1 =>
        rw [slot_ok ⟨hu, hg⟩ hb] at h
        obtain rfl : countEvent u.ag 0x02 1 t1 = t := Host.Outcome.next.inj h
        exact .inr (csrwrKeeps_trans (csrwrBody_keeps (curAgent_of_cur hu) hb) (csrwrKeeps_count _ _ _ _ _ _))

/-- What the write of a register holds of a context: only the fields of the register `n` are other. -/
def csrFieldsOnly (n : Nat) (x y : Ctx) : Prop :=
  (n = 0x019 → y = { x with preds := y.preds }) ∧ (n = 0x01A → y = { x with rmode := y.rmode }) ∧
  (n = 0x01B → y = { x with seed := y.seed, lfsr := y.lfsr }) ∧ (n = 0x01C → y = { x with vtype0 := y.vtype0 }) ∧
  (n = 0x01D → y = { x with vtype1 := y.vtype1 }) ∧ (n = 0x025 → y = { x with tvec := y.tvec }) ∧
  (0x034 ≤ n → n ≤ 0x037 → y = { x with evsel := y.evsel }) ∧ (n = 0x043 → y = { x with vicsel := y.vicsel })

theorem csrFieldsOnly_refl (n : Nat) (x : Ctx) : csrFieldsOnly n x x := by simp [csrFieldsOnly]

/-- A write to a register of the context changes what that register holds; one to no register changes nothing. -/
theorem applyCsr_context {a : Agent} {n : Nat} {v : Word} {s : State} (h : n < 0x030 ∨ 0x033 < n) :
    applyCsr a n v s = s ∨ ∃ y, applyCsr a n v s = setCtx s a y ∧ csrFieldsOnly n (ctxOf s a) y := by
  simp only [applyCsr]
  split
  · exact .inr ⟨_, rfl, by simp [csrFieldsOnly]⟩
  · exact .inr ⟨_, rfl, by simp [csrFieldsOnly]⟩
  · exact .inr ⟨_, rfl, by simp [csrFieldsOnly]⟩
  · exact .inr ⟨_, rfl, by simp [csrFieldsOnly]⟩
  · exact .inr ⟨_, rfl, by simp [csrFieldsOnly]⟩
  · exact .inr ⟨_, rfl, by simp [csrFieldsOnly]⟩
  · omega
  · omega
  · omega
  · omega
  · exact .inr ⟨_, rfl, by simp [csrFieldsOnly]⟩
  · exact .inr ⟨_, rfl, by simp [csrFieldsOnly]⟩
  · exact .inr ⟨_, rfl, by simp [csrFieldsOnly]⟩
  · exact .inr ⟨_, rfl, by simp [csrFieldsOnly]⟩
  · exact .inr ⟨_, rfl, by simp [csrFieldsOnly]⟩
  · exact .inl rfl

theorem worldOf_dropWorldTrans (s : State) (w k : Nat) : worldOf (dropWorldTrans s w) k = worldOf s k := rfl

/-- What the write of a world's base registers holds: its world alone, and the translations at a new root. -/
theorem applyCsr_world {a : Agent} {n : Nat} {v : Word} {s : State} (hlo : 0x030 ≤ n) (hhi : n ≤ 0x033) :
    let t := applyCsr a n v s
    let w := (ctxOf s a).task.world
    t = { s with worlds := t.worlds, trans := t.trans } ∧ (n ≠ 0x030 → t.trans = s.trans) ∧
      (∀ k : Nat, k ≠ w → worldOf t k = worldOf s k) ∧
      worldOf t w = { worldOf s w with troot := (worldOf t w).troot, saveBase := (worldOf t w).saveBase
                                       cmplBase := (worldOf t w).cmplBase, slubBase := (worldOf t w).slubBase } := by
  have hw : ∀ f : World → World, ∀ k, k ≠ (ctxOf s a).task.world →
      worldOf (modWorld s (ctxOf s a).task.world f) k = worldOf s k := fun f k hk => worldOf_modWorld_other _ _ _ _ hk
  have hn : n = 0x030 ∨ n = 0x031 ∨ n = 0x032 ∨ n = 0x033 := by omega
  rcases hn with rfl | rfl | rfl | rfl
  · have ht : applyCsr a 0x030 v s =
        dropWorldTrans (modWorld s (ctxOf s a).task.world (fun x => { x with troot := v.toNat })) (ctxOf s a).task.world := rfl
    refine ⟨rfl, fun h => absurd rfl h, fun k hk => ?_, ?_⟩
    · rw [ht, worldOf_dropWorldTrans, hw _ k hk]
    · rw [ht, worldOf_dropWorldTrans, worldOf_modWorld]
  · refine ⟨rfl, fun _ => rfl, fun k hk => hw _ k hk, ?_⟩
    simp [applyCsr]
  · refine ⟨rfl, fun _ => rfl, fun k hk => hw _ k hk, ?_⟩
    simp [applyCsr]
  · refine ⟨rfl, fun _ => rfl, fun k hk => hw _ k hk, ?_⟩
    simp [applyCsr]

/-- Settles O10: slot by slot through the frame of its parts, and register by register. -/
theorem slotFrame : Obligations.SlotFrame := by
  unfold Obligations.SlotFrame
  refine ⟨fun i n s t u hn hu ht => ?_, fun o s t u hu ht => csrwr_framed hu ht,
    fun a n v s => ⟨fun h => ?_, fun hlo hhi => applyCsr_world hlo hhi⟩⟩
  · rcases hn with hn | hn
    · exact scalar_framed hn hu t ht
    · exact vector_framed hn hu t ht
  · rcases applyCsr_context (a := a) (v := v) (s := s) h with ht | ⟨y, ht, hy⟩
    · rw [ht]
      exact ⟨rfl, rfl, fun _ _ => rfl, csrFieldsOnly_refl n _⟩
    · rw [ht, ctxOf_setCtx]
      exact ⟨onlyContexts_setCtx _ _ _, rfl, otherContexts_setCtx _ _ _, hy⟩

end Sys2Proof.Proofs

/-!
PROOFS. Fetch and issue: what the control, pooled, M and Y words keep (O15).
-/

namespace Sys2Proof.Proofs
open Sys2Proof Sys2Proof.Machine Sys2Proof.Laws

/-! ## The parts of a context that no such word changes -/

/-- The task, the image and its tables, the vector state, the matrix parameters, the type, mode and event selections, and the
trap vector of a context. -/
def fixedPart (x : Ctx) :=
  (x.task, x.vps, x.vaccs, x.mps, x.vtype0, x.vtype1, x.rmode, x.seed, x.lfsr, x.tvec, x.evsel, x.image, x.ktab, x.mstream)

theorem fixedPart_countIn (s : State) (x : Ctx) (e n : Nat) : fixedPart (countIn s x e n) = fixedPart x := by
  simp only [countIn]
  split <;> rfl

theorem fixedPart_countFrozen (s : State) (x : Ctx) (n : Nat) : fixedPart (countFrozen s x n) = fixedPart x := by
  simp only [countFrozen]
  split
  · rfl
  · exact fixedPart_countIn _ _ _ _

/-! ## Lockstep siblings freeze (spec/06_fetch_and_issue.md R136, R392) -/

/-- A table without position `k` is the same, whatever is put there. -/
theorem filter_tabSet {α : Type} {q : Nat × α → Bool} {k : Nat} (hq : ∀ x, q (k, x) = false) (t : Tab α) (v : α) :
    (tabSet t k v).filter q = t.filter q := by
  induction t with
  | nil => simp [tabSet, hq]
  | cons p t ih =>
    obtain ⟨i, x⟩ := p
    simp only [tabSet]
    by_cases hi : i = k
    · subst hi
      simp [hq]
    · rw [if_neg hi]
      split
      · simp [hq]
      · simp only [List.filter_cons, ih]

theorem siblings_setCtx {s : State} {a : Agent} {x : Ctx} (h : x.task = (ctxOf s a).task) :
    siblings (setCtx s a x) a = siblings s a := by
  simp only [siblings, ctxOf_setCtx, h]
  congr 2
  exact filter_tabSet (by simp) _ _

theorem agentId_agentOf (i : Nat) : agentId (agentOf i) = i := by
  simp only [agentOf]
  split
  · rfl
  · split
    · simp only [agentId]
      omega
    · split
      · simp only [agentId]
        omega
      · simp only [agentId]
        omega

theorem agentId_of_mem_siblings {s : State} {a b : Agent} (h : b ∈ siblings s a) : agentId b ≠ agentId a := by
  simp only [siblings] at h
  split at h
  · simp at h
  · simp only [List.mem_map, List.mem_filter, Bool.and_eq_true, bne_iff_ne] at h
    obtain ⟨p, ⟨_, ⟨⟨⟨⟨hne, _⟩, _⟩, _⟩, _⟩, _⟩, rfl⟩ := h
    rw [agentId_agentOf]
    exact hne

/-- `y` is the context `x` with its cycle in progress frozen. -/
def cycleFrozen (x y : Ctx) : Prop :=
  y = { x with clk := x.clk - 1, lastAt := 0, frozen := true, dev := y.dev, evcnt := y.evcnt }

theorem countFrozen_eq (s : State) (x : Ctx) (n : Nat) : ∃ l, countFrozen s x n = { x with evcnt := l } := by
  simp only [countFrozen, countIn]
  split
  · exact ⟨x.evcnt, rfl⟩
  · split
    · exact ⟨_, rfl⟩
    · exact ⟨x.evcnt, rfl⟩

/-- One sibling freezes, if its cycle can still be undone. -/
def freezeSibling (s : State) (b : Agent) : State := if undoable s (ctxOf s b) then undoCycle b .sibling 7 s else s

theorem freezeSiblings_eq (a : Agent) (s : State) : freezeSiblings a s = (siblings s a).foldl freezeSibling s := rfl

theorem freezeSibling_cases (s : State) (b : Agent) : freezeSibling s b = s ∨
    ∃ y, freezeSibling s b = setCtx s b y ∧ (ctxOf s b).frozen = false ∧ cycleFrozen (ctxOf s b) y := by
  unfold freezeSibling
  by_cases h : undoable s (ctxOf s b) = true
  · right
    rw [if_pos h]
    have hf : (ctxOf s b).frozen = false := by
      simp only [undoable, Bool.and_eq_true, Bool.not_eq_true'] at h
      obtain ⟨⟨⟨⟨_, hnot⟩, _⟩, _⟩, _⟩ := h
      exact hnot
    obtain ⟨l, hl⟩ := countFrozen_eq s (ctxOf s b) 1
    exact ⟨_, rfl, hf, by simp only [cycleFrozen, hl]⟩
  · rw [if_neg h]
    exact .inl rfl

/-- What freezes of a list of siblings: of each context at most one cycle. -/
theorem foldl_freezeSibling (l : List Agent) (s : State) : onlyContexts s (l.foldl freezeSibling s) ∧ ∀ k : Nat,
    let x := tabGet Ctx.reset s.ctxs k
    let y := tabGet Ctx.reset (l.foldl freezeSibling s).ctxs k
    y = x ∨ ((∃ b ∈ l, k = agentId b) ∧ x.frozen = false ∧ cycleFrozen x y) := by
  induction l generalizing s with
  | nil => exact ⟨rfl, fun k => .inl rfl⟩
  | cons b l ih =>
    obtain ⟨hc, hk⟩ := ih (freezeSibling s b)
    rw [List.foldl_cons]
    rcases freezeSibling_cases s b with h | ⟨z, h, hf, hz⟩
    · rw [h] at hc hk ⊢
      refine ⟨hc, fun k => (hk k).imp_right ?_⟩
      rintro ⟨⟨d, hd, hkd⟩, hrest⟩
      exact ⟨⟨d, List.mem_cons_of_mem b hd, hkd⟩, hrest⟩
    · rw [h] at hc hk ⊢
      refine ⟨onlyContexts_trans (onlyContexts_setCtx _ _ _) hc, fun k => ?_⟩
      by_cases hkb : k = agentId b
      · have hget : tabGet Ctx.reset (setCtx s b z).ctxs k = z := by
          rw [hkb]
          exact ctxOf_setCtx _ _ _
        have hx : tabGet Ctx.reset s.ctxs k = ctxOf s b := by rw [hkb, ctxOf]
        have hzf : z.frozen = true := by rw [hz]
        have hk := hk k
        simp only [hget, hzf] at hk
        simp only [Bool.true_eq_false, false_and, and_false, or_false] at hk
        refine .inr ⟨⟨b, List.mem_cons_self, hkb⟩, ?_, ?_⟩
        · rw [hx, hf]
        · rw [hx, hk]
          exact hz
      · have hget : tabGet Ctx.reset (setCtx s b z).ctxs k = tabGet Ctx.reset s.ctxs k := otherContexts_setCtx _ _ _ k hkb
        have hk := hk k
        simp only [hget] at hk
        refine hk.imp_right ?_
        rintro ⟨⟨d, hd, hkd⟩, hrest⟩
        exact ⟨⟨d, List.mem_cons_of_mem b hd, hkd⟩, hrest⟩

/-- The lockstep siblings of a context freeze, and the context itself stays. -/
theorem freezeSiblings_frame (a : Agent) (s : State) :
    onlyContexts s (freezeSiblings a s) ∧ otherButSiblings a s (freezeSiblings a s) ∧
      ctxOf (freezeSiblings a s) a = ctxOf s a := by
  obtain ⟨hc, hk⟩ := foldl_freezeSibling (siblings s a) s
  rw [← freezeSiblings_eq] at hc hk
  refine ⟨hc, fun k _ => (hk k).imp_right fun ⟨hmem, _, hy⟩ => ⟨hmem, hy⟩, (hk (agentId a)).resolve_right ?_⟩
  rintro ⟨⟨b, hb, hab⟩, _⟩
  exact agentId_of_mem_siblings hb hab.symm

/-! ## What a trap changes (spec/17_interruption_and_preemption.md R390, R392) -/

/-- A trap entry sets its context, and freezes the lockstep siblings where a handler is entered. -/
theorem trapEntry_cases (a : Agent) (cause pc slot word done : Nat) (late : Bool) (cont : Option (Nat × Nat)) (s : State) :
    ∃ x, fixedPart x = fixedPart (ctxOf s a) ∧ (trapEntry a cause pc slot word done late cont s = setCtx s a x ∨
      trapEntry a cause pc slot word done late cont s = freezeSiblings a (setCtx s a x)) := by
  simp only [trapEntry]
  split
  · refine ⟨_, ?_, .inl rfl⟩
    exact fixedPart_countFrozen _ _ _
  · simp only [addCause, modCtx_eq, ctxOf_setCtx, setCtx_setCtx]
    refine ⟨_, ?_, .inr rfl⟩
    split
    · exact fixedPart_countFrozen _ _ _
    · exact fixedPart_countFrozen _ _ _

/-- What a word of this family may change: its own context but for the fixed part, and the cycle of lockstep siblings. -/
def ownFrame (a : Agent) (s t : State) : Prop :=
  onlyContexts s t ∧ otherButSiblings a s t ∧ fixedPart (ctxOf t a) = fixedPart (ctxOf s a)

/-- What the parts of such a word change: its own context, but for the fixed part. -/
def ownKeeps (a : Agent) (s t : State) : Prop :=
  onlyContexts s t ∧ otherContexts a s t ∧ fixedPart (ctxOf t a) = fixedPart (ctxOf s a) ∧ curAgent t = curAgent s

section ownContext
variable {a : Agent} {s t r : State}

theorem ownKeeps_refl (a : Agent) (s : State) : ownKeeps a s s := ⟨rfl, fun _ _ => rfl, rfl, rfl⟩

theorem ownKeeps_trans (h : ownKeeps a s t) (h' : ownKeeps a t r) : ownKeeps a s r := by
  obtain ⟨h1, h2, h3, h4⟩ := h
  obtain ⟨g1, g2, g3, g4⟩ := h'
  exact ⟨onlyContexts_trans h1 g1, fun k hk => (g2 k hk).trans (h2 k hk), g3.trans h3, g4.trans h4⟩

theorem ownKeeps_setCtx {x : Ctx} (h : fixedPart x = fixedPart (ctxOf s a)) : ownKeeps a s (setCtx s a x) :=
  ⟨onlyContexts_setCtx _ _ _, otherContexts_setCtx _ _ _, by rw [ctxOf_setCtx, h], rfl⟩

theorem ownFrame_of_ownKeeps (h : ownKeeps a s t) : ownFrame a s t :=
  ⟨h.1, fun k hk => .inl (h.2.1 k hk), h.2.2.1⟩

/-- The frame does not see the open bundle. -/
theorem ownFrame_cur (h : ownFrame a s t) (c : Option Issue) : ownFrame a s { t with cur := c } := by
  obtain ⟨h1, h2, h3⟩ := h
  refine ⟨?_, h2, h3⟩
  unfold onlyContexts at h1 ⊢
  rw [h1]

/-- What comes after a change of the own context that keeps the fixed part. -/
theorem ownFrame_of_setCtx {x : Ctx} (h : fixedPart x = fixedPart (ctxOf s a)) (ht : ownFrame a (setCtx s a x) t) :
    ownFrame a s t := by
  obtain ⟨h1, h2, h3⟩ := ht
  refine ⟨onlyContexts_trans (onlyContexts_setCtx _ _ _) h1, fun k hk => ?_, by rw [h3, ctxOf_setCtx, h]⟩
  have hsib : siblings (setCtx s a x) a = siblings s a := siblings_setCtx (congrArg Prod.fst h)
  have hk' := h2 k hk
  rw [hsib, otherContexts_setCtx s a x k hk] at hk'
  exact hk'

theorem ownFrame_freezeSiblings {x : Ctx} (h : fixedPart x = fixedPart (ctxOf s a)) :
    ownFrame a s (freezeSiblings a (setCtx s a x)) := by
  obtain ⟨h1, h2, h3⟩ := freezeSiblings_frame a (setCtx s a x)
  exact ownFrame_of_setCtx h ⟨h1, h2, by rw [h3]⟩

theorem ownFrame_trapEntry (cause pc slot word done : Nat) (late : Bool) (cont : Option (Nat × Nat)) :
    ownFrame a s (trapEntry a cause pc slot word done late cont s) := by
  obtain ⟨y, hy, ht | ht⟩ := trapEntry_cases a cause pc slot word done late cont s
  · rw [ht]
    exact ownFrame_of_ownKeeps (ownKeeps_setCtx hy)
  · rw [ht]
    exact ownFrame_freezeSiblings hy

/-- A slot trap changes its context but for the fixed part, and freezes the cycle of lockstep siblings. -/
theorem ownFrame_slotTrapWith (self cause : Nat) {u : Issue} (hu : s.cur = some u) :
    ownFrame u.ag s (slotTrapWith self cause s) := by
  simp only [slotTrapWith, hu]
  refine ownFrame_cur ?_ _
  split
  · rcases countEvent_cases u.ag 0x02 1 s with h | ⟨l, h⟩
    · rw [h]
      exact ownFrame_trapEntry _ _ _ _ _ _ _
    · rw [h]
      exact ownFrame_of_setCtx (x := { ctxOf s u.ag with evcnt := l }) rfl (ownFrame_trapEntry _ _ _ _ _ _ _)
  · exact ownFrame_of_setCtx (x := { ctxOf s u.ag with evcnt := u.ev }) rfl (ownFrame_trapEntry _ _ _ _ _ _ _)

end ownContext

/-! ## The frame of a slot's body, part by part -/

/-- What a body answers from `s` changes its own context only, but for the fixed part. -/
def ownBody (a : Agent) (s : State) (r : Except Nat State) : Prop :=
  curAgent s = a → ∀ t, r = .ok t → ownKeeps a s t

/-- A word changes its own context only, but for the fixed part, its traps included; they freeze lockstep siblings. -/
def ownFramed (s : State) (o : Out) : Prop := ∀ u t, s.cur = some u → o = .next t → ownFrame u.ag s t

section ownParts
variable {a : Agent} {s t : State}

theorem ownKeeps_countEvent (e k : Nat) : ownKeeps a s (countEvent a e k s) := by
  rcases countEvent_cases a e k s with h | ⟨l, h⟩
  · rw [h]
    exact ownKeeps_refl a s
  · rw [h]
    exact ownKeeps_setCtx rfl

theorem ownFramed_slot {g : Nat} {body : State → Except Nat State} (h : ∀ a, ownBody a s (body s)) :
    ownFramed s (execSlot g body s) := fun u t hu ht => by
  cases hg : guardTrue g s with
  | false =>
    rw [slot_off hg] at ht
    cases ht
    exact ownFrame_of_ownKeeps (ownKeeps_refl _ _)
  | true =>
    cases hb : body s with
    | error c =>
      rw [slot_trap ⟨hu, hg⟩ hb] at ht
      cases ht
      exact ownFrame_slotTrapWith 0 c hu
    | ok t1 =>
      rw [slot_ok ⟨hu, hg⟩ hb] at ht
      obtain rfl : countEvent u.ag 0x02 1 t1 = t := Host.Outcome.next.inj ht
      exact ownFrame_of_ownKeeps (ownKeeps_trans (h u.ag (curAgent_of_cur hu) t1 hb) (ownKeeps_countEvent _ _))

theorem ownBody_ok (k : curAgent s = a → ownKeeps a s t) : ownBody a s (.ok t) := fun ha t' ht => by
  cases ht
  exact k ha

theorem ownBody_error (c : Nat) : ownBody a s (.error c) := fun _ t ht => by cases ht

theorem ownBody_after {r : Except Nat State} (k : curAgent s = a → ownKeeps a s t) (h : ownBody a t r) : ownBody a s r :=
  fun ha t' ht' =>
    have hk := k ha
    ownKeeps_trans hk (h (hk.2.2.2.trans ha) t' ht')

theorem ownBody_check {α : Type} {x : Except Nat α} {f : α → Except Nat State} (h : ∀ y, ownBody a s (f y)) :
    ownBody a s (x >>= f) := by
  cases x with
  | error c => exact ownBody_error c
  | ok y => exact h y

/-- A part that is a body of its own, then the rest. -/
theorem ownBody_bind {r : Except Nat State} {f : State → Except Nat State} (h : ownBody a s r) (hf : ∀ t, ownBody a t (f t)) :
    ownBody a s (r >>= f) := fun ha => by
  cases hr : r with
  | error c => exact ownBody_error c ha
  | ok t => exact ownBody_after (fun _ => h ha t hr) (hf t) ha

theorem ownKeeps_modCur {f : Ctx → Ctx} (ha : curAgent s = a) (hf : ∀ x, fixedPart (f x) = fixedPart x) :
    ownKeeps a s (modCur s f) := by
  simp only [modCur, modCtx_eq, ha]
  exact ownKeeps_setCtx (hf _)

theorem ownKeeps_landAt (due : Nat) (act : Pend) (ha : curAgent s = a) : ownKeeps a s (landAt due act s) := by
  unfold landAt
  exact ownKeeps_modCur ha fun _ => rfl

theorem ownKeeps_land (L : Nat) (act : Pend) (ha : curAgent s = a) : ownKeeps a s (land L act s) :=
  ownKeeps_landAt _ act ha

theorem ownKeeps_landReg (L r : Nat) (c : Option Nat) (v : Word) (ha : curAgent s = a) : ownKeeps a s (landReg L r c v s) := by
  cases c with
  | none => exact ownKeeps_refl a s
  | some c => exact ownKeeps_land L (.sreg r c v) ha

/-- A change of the scalar queues. -/
theorem ownKeeps_sregs (q : Tab (Machine.Ring Word)) (ha : curAgent s = a) :
    ownKeeps a s (setCtx s (curAgent s) { curCtx s with sregs := q }) := by
  rw [curCtx, ha]
  exact ownKeeps_setCtx rfl

theorem ownKeeps_source {r : Nat} {pop : Bool} {v : Word} (h : source r pop s = .ok (v, t)) (ha : curAgent s = a) :
    ownKeeps a s t := by
  obtain ⟨q, rfl⟩ := source_ok h
  exact ownKeeps_sregs q ha

theorem ownKeeps_dest {r : Nat} {push : Bool} {c : Option Nat} (h : dest r push s = .ok (c, t)) (ha : curAgent s = a) :
    ownKeeps a s t := by
  obtain ⟨q, rfl⟩ := dest_ok h
  exact ownKeeps_sregs q ha

/-- A part that answers a value and a state, then the rest. -/
theorem ownBody_part {α : Type} {x : Except Nat (α × State)} {f : α × State → Except Nat State}
    (hx : ∀ v t, x = .ok (v, t) → curAgent s = a → ownKeeps a s t) (h : ∀ v t, ownBody a t (f (v, t))) :
    ownBody a s (x >>= f) := by
  cases x with
  | error c => exact ownBody_error c
  | ok p => exact ownBody_after (hx p.1 p.2 rfl) (h p.1 p.2)

theorem ownBody_source {r : Nat} {pop : Bool} {f : Word × State → Except Nat State} (h : ∀ v t, ownBody a t (f (v, t))) :
    ownBody a s (source r pop s >>= f) := ownBody_part (fun _ _ hs => ownKeeps_source hs) h

theorem ownBody_dest {r : Nat} {push : Bool} {f : Option Nat × State → Except Nat State}
    (h : ∀ c t, ownBody a t (f (c, t))) : ownBody a s (dest r push s >>= f) :=
  ownBody_part (fun _ _ hs => ownKeeps_dest hs) h

theorem ownBody_writeReg (L r : Nat) (push : Bool) (v : Word) : ownBody a s (writeReg L r push v s) := by
  cases hs : dest r push s with
  | error c =>
    simp only [writeReg, hs]
    exact ownBody_error c
  | ok p =>
    obtain ⟨c, t⟩ := p
    rw [writeReg_ok hs]
    exact ownBody_after (ownKeeps_dest hs) (ownBody_ok (ownKeeps_landReg L r c v))

theorem ownKeeps_takeBranch (target : Nat) (swap eret : Bool) (ha : curAgent s = a) :
    ownKeeps a s (takeBranch target swap eret s) := by
  obtain ⟨_, h2, h3, _⟩ := ownKeeps_modCur (s := s) ha (f := fun x =>
    { x with branch := some ⟨target, curT s + 3, swap, eret⟩ }) fun _ => rfl
  refine ⟨rfl, h2, h3, ?_⟩
  cases hc : s.cur <;> simp [takeBranch, modIssue, modCur, curAgent, hc]

theorem ownKeeps_beginWait (c : Freeze) (w : Wait) (ha : curAgent s = a) :
    ownKeeps a s (beginWait (curAgent s) c w s) := by
  rw [ha]
  simp only [beginWait, addCause, modCtx_eq, ctxOf_setCtx, setCtx_setCtx]
  refine ownKeeps_setCtx ?_
  split <;> rfl

theorem ownKeeps_latchIdle (ha : curAgent s = a) : ownKeeps a s (latchIdle (curAgent s) s) := by
  rw [ha]
  simp only [latchIdle]
  refine ownKeeps_setCtx ?_
  split <;> rfl

theorem ownKeeps_advanceMpc (ha : curAgent s = a) : ownKeeps a s (advanceMpc s) := ownKeeps_modCur ha fun _ => rfl

/-- An M word whose body changes its own context only. -/
theorem ownFramed_execM {g : Nat} {body : State → Except Nat State} (h : ∀ a, ownBody a s (body s)) :
    ownFramed s (execM g body s) :=
  ownFramed_slot fun a => ownBody_check fun _ => ownBody_check fun _ =>
    ownBody_bind (h a) fun _ => ownBody_ok ownKeeps_advanceMpc

end ownParts

/-! ## The words (R148, R162, R390) -/

section ownWords
variable {s : State}

theorem loopOpen_own {a : Agent} (k st : Nat) : ownBody a s (loopOpen k st s) :=
  ownBody_check fun _ => ownBody_after (ownKeeps_land _ _) <| ownBody_ok (ownKeeps_land _ _)

theorem trap_own (o : Code) : ownFramed s (execTrap o s) := fun u t hu ht => by
  simp only [execTrap] at ht
  split at ht
  · cases ht
    exact ownFrame_slotTrapWith 1 0x0E hu
  · cases ht
    exact ownFrame_of_ownKeeps (ownKeeps_refl _ _)

theorem ifence_own (o : G) : ownFramed s (execIfence o s) := by
  refine ownFramed_slot fun a => ?_
  split
  · exact ownBody_ok fun _ => ownKeeps_refl _ _
  · refine ownBody_check fun _ => ?_
    dsimp only
    split
    · exact ownBody_ok ownKeeps_latchIdle
    · exact ownBody_ok (ownKeeps_beginWait _ _)

theorem iverify_own (o : IVer) : ownFramed s (execIverify o s) := by
  refine ownFramed_slot fun a => ownBody_source fun _ _ => ownBody_source fun _ t => ?_
  dsimp only
  split
  · exact ownBody_ok (ownKeeps_land _ _)
  · refine ownBody_check fun _ => ownBody_check fun _ => ?_
    split
    · exact ownBody_ok (ownKeeps_beginWait _ _)
    · exact ownBody_ok (ownKeeps_land _ _)

theorem qclr_own (o : QReg) : ownFramed s (execQclr o s) := by
  refine ownFramed_slot fun a => ?_
  split
  · exact ownBody_ok fun _ => ownKeeps_refl _ _
  · exact ownBody_ok fun ha => ownKeeps_modCur ha fun _ => rfl

theorem fence_own (o : Fence) : ownFramed s (execFence o s) := by
  refine ownFramed_slot fun a => ?_
  dsimp only
  split
  · exact ownBody_ok fun _ => ownKeeps_refl _ _
  · exact ownBody_ok (ownKeeps_beginWait _ _)

theorem mcall_own (o : MCall) : ownFramed s (execMcall o s) :=
  ownFramed_execM fun _ => ownBody_check fun _ => ownBody_check fun _ => ownBody_check fun _ => ownBody_check fun _ =>
    ownBody_check fun _ => ownBody_check fun _ => ownBody_ok fun ha => ownKeeps_modCur ha fun _ => rfl

theorem latom_own (o : Latom) : ownFramed s (execLatom o s) := by
  refine ownFramed_slot fun a => ownBody_check fun _ => ownBody_source fun _ _ => ownBody_source fun _ t =>
    ownBody_part (fun v t' hx ha => ?_) fun _ _ => ?_
  · split at hx
    · exact ownKeeps_source hx ha
    · cases hx
      exact ownKeeps_refl a t
  · dsimp only
    split
    · exact ownBody_check fun _ => ownBody_dest fun _ _ => ownBody_ok (ownKeeps_landAt _ _)
    · exact ownBody_check fun _ => ownBody_dest fun _ _ => ownBody_ok (ownKeeps_land _ _)

/-- Each word of the family changes its own context only, its traps included. -/
theorem ownContextOnly_framed {i : Instr} (h : ownContextOnly i = true) : ownFramed s (exec i s) := by
  cases i <;> cases h
  case br =>
    rw [exec_br]
    exact ownFramed_slot fun _ => ownBody_ok (ownKeeps_takeBranch _ _ _)
  case brl =>
    rw [exec_brl]
    exact ownFramed_slot fun _ => ownBody_bind (ownBody_writeReg _ _ _ _) fun _ => ownBody_ok (ownKeeps_takeBranch _ _ _)
  case bri =>
    rw [exec_bri]
    exact ownFramed_slot fun _ => ownBody_source fun _ _ => ownBody_check fun _ => ownBody_ok (ownKeeps_takeBranch _ _ _)
  case loop =>
    rw [exec_loop]
    exact ownFramed_slot fun _ => ownBody_source fun _ _ => loopOpen_own _ _
  case loopi =>
    rw [exec_loopi]
    exact ownFramed_slot fun _ => loopOpen_own _ _
  case loopiK =>
    rw [exec_loopiK]
    exact ownFramed_slot fun _ => ownBody_after (ownKeeps_land _ _) <| ownBody_ok (ownKeeps_land _ _)
  case eret =>
    rw [exec_eret]
    exact ownFramed_slot fun _ => ownBody_check fun _ => ownBody_ok (ownKeeps_takeBranch _ _ _)
  case trap o =>
    rw [exec_trap]
    exact trap_own o
  case ifence o =>
    rw [exec_ifence]
    exact ifence_own o
  case iverify o =>
    rw [exec_iverify]
    exact iverify_own o
  case bswap =>
    rw [exec_bswap]
    exact ownFramed_slot fun _ => ownBody_check fun _ => ownBody_check fun _ => ownBody_check fun _ =>
      ownBody_ok (ownKeeps_takeBranch _ _ _)
  case qclr o =>
    rw [exec_qclr]
    exact qclr_own o
  case fence o =>
    rw [exec_fence]
    exact fence_own o
  case mcall o =>
    rw [exec_mcall]
    exact mcall_own o
  case mparm =>
    rw [exec_mparm]
    exact ownFramed_execM fun _ => ownBody_source fun _ _ => ownBody_ok (ownKeeps_land _ _)
  case mstep =>
    rw [exec_mstep]
    exact ownFramed_execM fun _ => ownBody_source fun _ _ => ownBody_source fun _ _ => ownBody_check fun _ =>
      ownBody_ok (ownKeeps_land _ _)
  case msteprd =>
    rw [exec_msteprd]
    exact ownFramed_execM fun _ => ownBody_source fun _ _ => ownBody_check fun _ => ownBody_writeReg _ _ _ _
  case mmpc =>
    rw [exec_mmpc]
    exact ownFramed_slot fun _ => ownBody_check fun _ => ownBody_check fun _ => ownBody_source fun _ _ =>
      ownBody_check fun _ => ownBody_ok fun ha => ownKeeps_modCur ha fun _ => rfl
  case yset =>
    rw [exec_yset]
    exact ownFramed_slot fun _ => ownBody_check fun _ => ownBody_source fun _ _ => ownBody_source fun _ _ =>
      ownBody_ok (ownKeeps_land _ _)
  case yget =>
    rw [exec_yget]
    exact ownFramed_slot fun _ => ownBody_check fun _ => ownBody_writeReg _ _ _ _
  case ldc =>
    rw [exec_ldc]
    exact ownFramed_slot fun _ => ownBody_source fun _ _ => ownBody_check fun _ => ownBody_check fun _ =>
      ownBody_dest fun _ _ => ownBody_ok (ownKeeps_landAt _ _)
  case stc =>
    rw [exec_stc]
    exact ownFramed_slot fun _ => ownBody_source fun _ _ => ownBody_source fun _ _ => ownBody_check fun _ =>
      ownBody_ok (ownKeeps_landAt _ _)
  case latom o =>
    rw [exec_latom]
    exact latom_own o
  case tlpoll =>
    rw [exec_tlpoll]
    exact ownFramed_slot fun _ => ownBody_source fun _ _ => ownBody_check fun _ => ownBody_ok (ownKeeps_land _ _)

end ownWords

/-- Settles O15, word by word through the frame of its parts, and the frame of a trap. -/
theorem contextFrame : Obligations.ContextFrame := by
  unfold Obligations.ContextFrame
  intro i s t u hi hu ht
  obtain ⟨h1, h2, h3⟩ := ownContextOnly_framed hi u t hu ht
  refine ⟨h1, h2, ?_⟩
  simpa [fixedPart] using h3

end Sys2Proof.Proofs

/-!
PROOFS. Scalar instructions: arithmetic, multiplication and division (O1).
-/

namespace Sys2Proof.Proofs
open Sys2Proof Sys2Proof.Machine Sys2Proof.Laws

/-! ## Words as numbers -/

theorem toNat_wd (n : Nat) : (wd n).toNat = n % 2 ^ 64 := BitVec.toNat_ofNat n 64

theorem toNat_wd_of_lt {n : Nat} (h : n < 2 ^ 64) : (wd n).toNat = n := by rw [toNat_wd, Nat.mod_eq_of_lt h]

theorem toInt_ofInt_of_bounds {z : Int} (hlo : -2 ^ 63 ≤ z) (hhi : z < 2 ^ 63) : (BitVec.ofInt 64 z).toInt = z :=
  BitVec.toInt_ofInt_eq_self (by decide) hlo hhi

theorem toInt_bounds (x : Word) : -2 ^ 63 ≤ x.toInt ∧ x.toInt < 2 ^ 63 := ⟨BitVec.le_toInt x, BitVec.toInt_lt⟩

/-! ## The operations of the ALU (spec/07_scalar_and_control_instructions.md R143) -/

theorem toNat_sub_eq_emod (x y : Word) : ((x - y).toNat : Int) = ((x.toNat : Int) - y.toNat) % (2 ^ 64 : Nat) := by
  rw [BitVec.toNat_sub]
  have := x.isLt
  have := y.isLt
  omega

theorem getLsbD_andn (x y : Word) {i : Nat} (h : i < 64) : (x &&& ~~~y).getLsbD i = (x.getLsbD i && !y.getLsbD i) := by
  simp [h]

theorem ite_ult (x y a b : Word) : (if y.ult x then a else b) = if x.toNat ≤ y.toNat then b else a := by
  simp only [BitVec.ult, decide_eq_true_eq, ← not_le, ite_not]

theorem ite_slt (x y a b : Word) : (if y.slt x then a else b) = if x.toInt ≤ y.toInt then b else a := by
  simp only [BitVec.slt, decide_eq_true_eq, ← not_le, ite_not]

theorem toNat_shl (x : Word) (n : Nat) : (x <<< n).toNat = x.toNat * 2 ^ n % 2 ^ 64 := by
  rw [BitVec.toNat_shiftLeft, Nat.shiftLeft_eq]

theorem toNat_shr (x : Word) (n : Nat) : (x >>> n).toNat = x.toNat / 2 ^ n := by
  rw [BitVec.toNat_ushiftRight, Nat.shiftRight_eq_div_pow]

theorem toInt_sra (x : Word) (n : Nat) : (x.sshiftRight n).toInt = x.toInt / (2 ^ n : Nat) := by
  rw [BitVec.toInt_sshiftRight, Int.shiftRight_eq_div_pow]

/-! ## Multiplication, division and remainder (R145) -/

theorem toNat_mulh (x y : Word) : (wd (x.toNat * y.toNat / 2 ^ 64)).toNat = x.toNat * y.toNat / 2 ^ 64 := by
  refine toNat_wd_of_lt (Nat.div_lt_of_lt_mul ?_)
  exact Nat.mul_lt_mul'' x.isLt y.isLt

theorem toInt_mulhs (x y : Word) :
    (BitVec.ofInt 64 (x.toInt * y.toInt / (2 ^ 64 : Nat))).toInt = x.toInt * y.toInt / (2 ^ 64 : Nat) := by
  obtain ⟨hx, hx'⟩ := toInt_bounds x
  obtain ⟨hy, hy'⟩ := toInt_bounds y
  have hlo : -2 ^ 126 ≤ x.toInt * y.toInt := by nlinarith
  have hhi : x.toInt * y.toInt ≤ 2 ^ 126 := by nlinarith
  exact toInt_ofInt_of_bounds (by omega) (by omega)

theorem toNat_eq_zero_iff (y : Word) : y.toNat = 0 ↔ y = 0 := by
  rw [← BitVec.toNat_inj]
  rfl

theorem toInt_eq_zero_iff (y : Word) : y.toInt = 0 ↔ y = 0 := by
  rw [← BitVec.toInt_inj]
  rfl

theorem toNat_divU (x y : Word) : (divU x y).toNat = if y.toNat = 0 then 2 ^ 64 - 1 else x.toNat / y.toNat := by
  simp only [divU, toNat_eq_zero_iff]
  split
  · rfl
  · exact toNat_wd_of_lt (lt_of_le_of_lt (Nat.div_le_self _ _) x.isLt)

theorem toNat_remU (x y : Word) :
    (if y = 0 then x else wd (x.toNat % y.toNat)).toNat = if y.toNat = 0 then x.toNat else x.toNat % y.toNat := by
  simp only [toNat_eq_zero_iff]
  split
  · rfl
  · exact toNat_wd_of_lt (lt_of_le_of_lt (Nat.mod_le _ _) x.isLt)

/-- The quotient of two words is one, but for that of the least number by -1. -/
theorem tdiv_bounds {a b : Int} (ha : -2 ^ 63 ≤ a) (ha' : a < 2 ^ 63) (hab : ¬ (a = -(2 ^ 63 : Nat) ∧ b = -1)) :
    -2 ^ 63 ≤ a.tdiv b ∧ a.tdiv b < 2 ^ 63 := by
  by_cases h1 : b = 1
  · rw [h1, Int.tdiv_one]
    exact ⟨ha, ha'⟩
  by_cases hm : b = -1
  · rw [hm, Int.tdiv_neg, Int.tdiv_one]
    omega
  have h : (a.tdiv b).natAbs = a.natAbs / b.natAbs := Int.natAbs_tdiv a b
  have hle : a.natAbs / b.natAbs ≤ 2 ^ 62 := by
    rcases Nat.eq_zero_or_pos b.natAbs with hz | hp
    · simp [hz]
    · calc a.natAbs / b.natAbs ≤ a.natAbs / 2 := Nat.div_le_div_left (by omega) (by decide)
        _ ≤ 2 ^ 62 := by omega
  rw [← h] at hle
  omega

theorem toInt_divS (x y : Word) :
    if y.toInt = 0 then (divS x y).toInt = -1
    else if x.toInt = -(2 ^ 63 : Nat) ∧ y.toInt = -1 then (divS x y).toInt = -(2 ^ 63 : Nat)
    else (divS x y).toInt = x.toInt.tdiv y.toInt := by
  obtain ⟨hx, hx'⟩ := toInt_bounds x
  simp only [divS, toInt_eq_zero_iff]
  split
  · rfl
  · split
    · rename_i h
      rw [h.1, h.2]
      rfl
    · rename_i h
      obtain ⟨hlo, hhi⟩ := tdiv_bounds hx hx' h
      exact toInt_ofInt_of_bounds hlo hhi

/-- REMS computes the truncated remainder modulo 2^64. -/
theorem sub_mul_divS (x : Word) {y : Word} (hy : y ≠ 0) : x - y * divS x y = BitVec.ofInt 64 (x.toInt.tmod y.toInt) := by
  rw [divS, if_neg hy, Int.tmod_def, Int.sub_eq_add_neg, BitVec.ofInt_add, BitVec.ofInt_neg, BitVec.ofInt_mul,
    BitVec.sub_eq_add_neg, BitVec.ofInt_toInt, BitVec.ofInt_toInt]

theorem tmod_bounds (a : Int) {b : Int} (hb : b ≠ 0) (hlo : -2 ^ 63 ≤ b) (hhi : b < 2 ^ 63) :
    -2 ^ 63 ≤ a.tmod b ∧ a.tmod b < 2 ^ 63 := by
  have h : (a.tmod b).natAbs < b.natAbs := by
    rw [Int.natAbs_tmod]
    exact Nat.mod_lt _ (by omega)
  omega

theorem toInt_remS (x y : Word) :
    (x - y * divS x y).toInt = if y.toInt = 0 then x.toInt else x.toInt.tmod y.toInt := by
  by_cases hy : y = 0
  · simp [hy]
  · have hz : y.toInt ≠ 0 := fun h => hy ((toInt_eq_zero_iff y).1 h)
    obtain ⟨hlo, hhi⟩ := toInt_bounds y
    obtain ⟨hlo, hhi⟩ := tmod_bounds x.toInt hz hlo hhi
    rw [if_neg hz, sub_mul_divS x hy, toInt_ofInt_of_bounds hlo hhi]

/-! ## A form's result is that of its operation (R140, R141) -/

section forms
variable {i : Instr} {s t : State} {u : Issue} {x y z : Word} {c : Option Nat} {L : Nat} {P : Word → Prop}

theorem formRR_lands {o : RR} {op : Word → Word → Word} (hi : exec i s = formRR o L op s) (hg : slotRuns o.g u s)
    (hr : readsRR o s x y c t) (hP : P (op x y)) : landsWord i s u L o.d c t P := ⟨_, hi.trans (formRR_ok hg hr), hP⟩

theorem formRRD_lands {o : RR} {op : Word → Word → Word → Word} (hi : exec i s = formRRD o L op s) (hg : slotRuns o.g u s)
    (hr : readsRRD o s x y z c t) (hP : P (op x y z)) : landsWord i s u L o.d c t P := ⟨_, hi.trans (formRRD_ok hg hr), hP⟩

end forms

/-- Settles O1: each word is its form applied to its operation, and the operation is the one of the table. -/
theorem aluAndMulDivResult : Obligations.AluAndMulDivResult := by
  unfold Obligations.AluAndMulDivResult
  refine ⟨fun o s t u x y c hg hr => ?_, fun o s t u x y z c hg hr => ?_, fun o s t u x y c hg hr => ?_⟩
  · exact ⟨formRR_lands (exec_add o s) hg hr (BitVec.toNat_add x y),
      formRR_lands (exec_sub o s) hg hr (toNat_sub_eq_emod x y),
      formRR_lands (exec_and o s) hg hr fun _ => BitVec.getLsbD_and,
      formRR_lands (exec_or o s) hg hr fun _ => BitVec.getLsbD_or,
      formRR_lands (exec_xor o s) hg hr fun _ => BitVec.getLsbD_xor,
      formRR_lands (exec_andn o s) hg hr fun _ => getLsbD_andn x y,
      formRR_lands (exec_min o s) hg hr (ite_ult x y y x),
      formRR_lands (exec_max o s) hg hr (ite_ult y x y x),
      formRR_lands (exec_mins o s) hg hr (ite_slt x y y x),
      formRR_lands (exec_maxs o s) hg hr (ite_slt y x y x),
      formRR_lands (exec_shl o s) hg hr (toNat_shl x _),
      formRR_lands (exec_shr o s) hg hr (toNat_shr x _),
      formRR_lands (exec_sra o s) hg hr (toInt_sra x _)⟩
  · exact ⟨formRRD_lands (exec_fsl o s) hg hr (toNat_wd _), formRRD_lands (exec_fsr o s) hg hr (toNat_wd _)⟩
  · exact ⟨formRR_lands (exec_mul o s) hg hr (BitVec.toNat_mul x y),
      formRR_lands (exec_mulh o s) hg hr (toNat_mulh x y),
      formRR_lands (exec_mulhs o s) hg hr (toInt_mulhs x y),
      formRR_lands (exec_div o s) hg hr (toNat_divU x y),
      formRR_lands (exec_divs o s) hg hr (toInt_divS x y),
      formRR_lands (exec_rem o s) hg hr (toNat_remU x y),
      formRR_lands (exec_rems o s) hg hr (toInt_remS x y)⟩

end Sys2Proof.Proofs

/-!
PROOFS. Scalar instructions: unary and immediate words (O3).
-/

namespace Sys2Proof.Proofs
open Sys2Proof Sys2Proof.Machine Sys2Proof.Laws

/-! ## Counts of bits (R146) -/

theorem bm_top_iff {a n : Nat} (h : a < 2 ^ (n + 1)) : bm a n = true ↔ 2 ^ n ≤ a := by
  rw [bm_eq_iff, Nat.mod_eq_of_lt (Nat.div_lt_of_lt_mul (by rwa [← pow_succ])), ← one_mul (2 ^ n),
    ← Nat.le_div_iff_mul_le (Nat.two_pow_pos n)]
  have hdiv : a / 2 ^ n < 2 := Nat.div_lt_of_lt_mul (by rwa [← pow_succ])
  simp only [Bool.toNat_true, one_mul]
  generalize a / 2 ^ n = q at hdiv ⊢
  omega

/-- The leading zeros among `n` bits stand above a one bit, and are all of the bits of 0. -/
theorem clzFrom_spec {a n : Nat} (h : a < 2 ^ n) : if a = 0 then clzFrom a n = n
    else clzFrom a n < n ∧ 2 ^ (n - 1 - clzFrom a n) ≤ a ∧ a < 2 ^ (n - clzFrom a n) := by
  induction n with
  | zero =>
    obtain rfl : a = 0 := by omega
    rfl
  | succ n ih =>
    by_cases hb : 2 ^ n ≤ a
    · have := Nat.two_pow_pos n
      simp only [clzFrom, if_pos ((bm_top_iff h).2 hb)]
      rw [if_neg (by omega)]
      exact ⟨by omega, by simpa using hb, by simpa using h⟩
    · have ih := ih (by omega)
      simp only [clzFrom, if_neg (mt (bm_top_iff h).1 hb)]
      split
      · rw [if_pos ‹_›] at ih
        omega
      · rw [if_neg ‹_›] at ih
        obtain ⟨h1, h2, h3⟩ := ih
        exact ⟨by omega, by rwa [show n + 1 - 1 - (clzFrom a n + 1) = n - 1 - clzFrom a n by omega],
          by rwa [show n + 1 - (clzFrom a n + 1) = n - clzFrom a n by omega]⟩

/-- The trailing zeros of the `n` bits from bit `i` on stand below a one bit, and are all of them where each is 0. -/
theorem ctzFrom_spec (a i n : Nat) : if a / 2 ^ i % 2 ^ n = 0 then ctzFrom a i n = n
    else ctzFrom a i n < n ∧ a / 2 ^ i % 2 ^ ctzFrom a i n = 0 ∧ a / 2 ^ i / 2 ^ ctzFrom a i n % 2 = 1 := by
  induction n generalizing i with
  | zero => simp [ctzFrom, Nat.mod_one]
  | succ n ih =>
    have hsplit : ∀ k, a / 2 ^ i % 2 ^ (k + 1) = a / 2 ^ i % 2 + 2 * (a / 2 ^ (i + 1) % 2 ^ k) := fun k => by
      rw [pow_succ', Nat.mod_mul, Nat.div_div_eq_div_mul, ← pow_succ]
    cases hb : bm a i with
    | true =>
      rw [ctzFrom, hb, if_pos rfl, hsplit]
      rw [bm_eq_iff, Bool.toNat_true] at hb
      rw [if_neg (by omega)]
      simpa [Nat.mod_one] using hb
    | false =>
      rw [ctzFrom, hb, if_neg Bool.false_ne_true, hsplit]
      rw [bm_eq_iff, Bool.toNat_false] at hb
      have ih := ih (i + 1)
      split
      · rw [if_pos (by omega)] at ih
        rw [ih]
      · rw [if_neg (by omega)] at ih
        obtain ⟨h1, h2, h3⟩ := ih
        refine ⟨by omega, by rw [hsplit, hb, h2], ?_⟩
        rwa [Nat.div_div_eq_div_mul, pow_succ', ← mul_assoc, ← pow_succ, ← Nat.div_div_eq_div_mul]

theorem popCount_eq_length_filter (a n : Nat) : popCount a n = ((List.range n).filter (fun i => bm a i)).length := by
  induction n with
  | zero => rfl
  | succ n ih =>
    rw [popCount, ih, List.range_succ, List.filter_append, List.length_append]
    cases hb : bm a n <;> simp [hb]

theorem popCount_le (a n : Nat) : popCount a n ≤ n := by
  rw [popCount_eq_length_filter]
  exact (List.length_filter_le _ _).trans (by simp)

theorem bm_eq_testBit (a k : Nat) : bm a k = a.testBit k := by
  rw [Nat.testBit_eq_decide_div_mod_eq]
  rfl

/-- The low `n` bits of `a`, reversed at the top of `w` bits. -/
theorem bitRev_spec (a : Nat) {n w : Nat} (h : n ≤ w) : ∃ q, bitRev a w n = 2 ^ (w - n) * q ∧
    ∀ j < n, q.testBit j = a.testBit (n - 1 - j) := by
  induction n with
  | zero => exact ⟨0, by simp [bitRev], by simp⟩
  | succ n ih =>
    obtain ⟨q, hq, hbits⟩ := ih (by omega)
    refine ⟨Nat.bit (bm a n) q, ?_, fun j hj => ?_⟩
    · rw [bitRev, hq, show w - n = w - (n + 1) + 1 by omega, show w - 1 - n = w - (n + 1) by omega, Nat.bit_val]
      ring
    · cases j with
      | zero =>
        rw [Nat.testBit_bit_zero]
        exact bm_eq_testBit a n
      | succ j => rw [Nat.testBit_bit_succ, hbits j (by omega), show n + 1 - 1 - (j + 1) = n - 1 - j by omega]

theorem toNat_clz (x : Word) : if x.toNat = 0 then (wd (clzFrom x.toNat 64)).toNat = 64
    else (wd (clzFrom x.toNat 64)).toNat < 64 ∧ 2 ^ (63 - (wd (clzFrom x.toNat 64)).toNat) ≤ x.toNat ∧
      x.toNat < 2 ^ (64 - (wd (clzFrom x.toNat 64)).toNat) := by
  have h := clzFrom_spec x.isLt
  have hle : clzFrom x.toNat 64 ≤ 64 := by
    split at h
    · exact h.le
    · exact h.1.le
  rwa [toNat_wd_of_lt (by omega)]

theorem toNat_ctz (x : Word) : if x.toNat = 0 then (wd (ctzFrom x.toNat 0 64)).toNat = 64
    else (wd (ctzFrom x.toNat 0 64)).toNat < 64 ∧ x.toNat % 2 ^ (wd (ctzFrom x.toNat 0 64)).toNat = 0 ∧
      x.toNat / 2 ^ (wd (ctzFrom x.toNat 0 64)).toNat % 2 = 1 := by
  have h := ctzFrom_spec x.toNat 0 64
  rw [pow_zero, Nat.div_one, Nat.mod_eq_of_lt x.isLt] at h
  have hle : ctzFrom x.toNat 0 64 ≤ 64 := by
    split at h
    · exact h.le
    · exact h.1.le
  rwa [toNat_wd_of_lt (by omega)]

theorem toNat_popc (x : Word) :
    (wd (popCount x.toNat 64)).toNat = ((List.range 64).filter (fun i => x.getLsbD i)).length := by
  have hle := popCount_le x.toNat 64
  rw [toNat_wd_of_lt (by omega), popCount_eq_length_filter]
  simp only [bm_toNat]

theorem getLsbD_brev (x : Word) {i : Nat} (h : i < 64) : (wd (bitRev x.toNat 64 64)).getLsbD i = x.getLsbD (63 - i) := by
  obtain ⟨q, hq, hbits⟩ := bitRev_spec x.toNat (le_refl 64)
  rw [hq, Nat.sub_self, pow_zero, one_mul, wd, BitVec.getLsbD_ofNat, decide_eq_true h, Bool.true_and, hbits i h]
  rfl

/-! ## Immediates (R141, R147) -/

theorem toNat_add_imm10 (x : Word) (i : Nat) : ((x + imm10 i).toNat : Int) = (x.toNat + sext 10 i) % (2 ^ 64 : Nat) := by
  rw [BitVec.toNat_add, imm10, BitVec.toNat_ofInt]
  omega

/-- LIH's shifted word and its immediate share no bit. -/
theorem toNat_lih (x : Word) {i : Nat} (h : i < 65536) : ((x <<< 16) ||| wd i).toNat = (x.toNat * 65536 + i) % 2 ^ 64 := by
  have hshl : x.toNat * 2 ^ 16 % 2 ^ 64 = 2 ^ 16 * (x.toNat % 2 ^ 48) := by omega
  rw [BitVec.toNat_or, toNat_shl, toNat_wd_of_lt (by omega), hshl, ← Nat.two_pow_add_eq_or_of_lt h]
  omega

section forms
variable {i : Instr} {s t : State} {u : Issue} {x : Word} {c : Option Nat} {L : Nat} {P : Word → Prop}

theorem formRU_lands {o : RU} {op : Word → Word} (hi : exec i s = formRU o L op s) (hg : slotRuns o.g u s)
    (hr : readsOne o.a o.m o.d o.q s x c t) (hP : P (op x)) : landsWord i s u L o.d c t P :=
  ⟨_, hi.trans (formRU_ok hg hr), hP⟩

theorem formRI_lands {o : RI} {op : Word → Nat → Word} (hi : exec i s = formRI o L op s) (hg : slotRuns o.g u s)
    (hr : readsOne o.a o.m o.d o.q s x c t) (hP : P (op x o.i)) : landsWord i s u L o.d c t P :=
  ⟨_, hi.trans (formRI_ok hg hr), hP⟩

end forms

theorem lim_lands {o : RL} {s t : State} {u : Issue} {c : Option Nat} (hg : slotRuns o.g u s)
    (hd : dest o.d o.q s = .ok (c, t)) : landsWord (.lim o) s u 1 o.d c t (fun v => v.toInt = sext 16 o.i) := by
  obtain ⟨hlo, hhi⟩ := sext_bounds (by decide : 16 ≤ 32) o.i
  exact ⟨_, (exec_lim o s).trans (slot_ok hg (writeReg_ok hd)), toInt_ofInt_of_bounds hlo hhi⟩

theorem lih_lands {o : RL} {s t : State} {u : Issue} {x : Word} {c : Option Nat} (hg : slotRuns o.g u s) (hi : o.i < 65536)
    (hr : readsOne o.d false o.d o.q s x c t) :
    landsWord (.lih o) s u 1 o.d c t (fun v => v.toNat = (x.toNat * 65536 + o.i) % 2 ^ 64) := by
  obtain ⟨s1, hs, hd⟩ := hr
  exact ⟨_, (exec_lih o s).trans (slot_ok hg ((bind_of_ok hs _).trans (writeReg_ok hd))), toNat_lih x hi⟩

/-- Settles O3: each word is its form applied to its operation, and the operation is the one of the table. -/
theorem unaryAndImmediateResult : Obligations.UnaryAndImmediateResult := by
  unfold Obligations.UnaryAndImmediateResult
  refine ⟨fun o s t u x c hg hr => ?_, fun o s t u x c hg hr => ?_, fun o s t u c hg hi => ?_⟩
  · exact ⟨formRU_lands (exec_mov o s) hg hr rfl,
      formRU_lands (exec_clz o s) hg hr (toNat_clz x),
      formRU_lands (exec_ctz o s) hg hr (toNat_ctz x),
      formRU_lands (exec_popc o s) hg hr (toNat_popc x),
      formRU_lands (exec_brev o s) hg hr fun _ => getLsbD_brev x⟩
  · exact ⟨formRI_lands (exec_addi o s) hg hr (toNat_add_imm10 x o.i),
      formRI_lands (exec_andi o s) hg hr rfl,
      formRI_lands (exec_ori o s) hg hr rfl,
      formRI_lands (exec_xori o s) hg hr rfl,
      formRI_lands (exec_shli o s) hg hr (toNat_shl x o.i),
      formRI_lands (exec_shri o s) hg hr (toNat_shr x o.i),
      formRI_lands (exec_srai o s) hg hr (toInt_sra x o.i)⟩
  · exact ⟨lim_lands hg, fun x => lih_lands hg hi⟩

end Sys2Proof.Proofs

/-!
PROOFS. Scalar instructions: ADDS and SEL (O4), compares (O5), PSET (O6) and predicate logic (O7).
-/

namespace Sys2Proof.Proofs
open Sys2Proof Sys2Proof.Machine Sys2Proof.Laws

/-! ## What a word reads before its result (R128, R141) -/

section reads
variable {s t : State} {u : Issue} {a b : Nat} {m n : Bool} {x y : Word}

/-- Two Source steps change the scalar queues of the issuing context only. -/
theorem readsTwo_keeps (h : readsTwo a m b n s x y t) :
    curAgent t = curAgent s ∧ t.cur = s.cur ∧ curCtx t = { curCtx s with sregs := (curCtx t).sregs } := by
  obtain ⟨s1, h1, h2⟩ := h
  obtain ⟨ha, hu, hc⟩ := source_keeps h1
  obtain ⟨hb, hv, hd⟩ := source_keeps h2
  refine ⟨hb.trans ha, hv.trans hu, ?_⟩
  rw [hd, hc]

end reads

/-! ## ADDS and SEL (R144, R152) -/

theorem toNat_add_shl (x y : Word) (k : Nat) : (x + (y <<< k)).toNat = (x.toNat + y.toNat * 2 ^ k) % 2 ^ 64 := by
  rw [BitVec.toNat_add, toNat_shl, Nat.add_mod_mod]

theorem adds_lands {o : RRK} {s t : State} {u : Issue} {x y : Word} {c : Option Nat} (hg : slotRuns o.g u s)
    (hr : readsRR ⟨o.g, o.d, o.q, o.a, o.m, o.b, o.n⟩ s x y c t) :
    landsWord (.adds o) s u 1 o.d c t (fun v => v.toNat = (x.toNat + y.toNat * 2 ^ o.k) % 2 ^ 64) := by
  obtain ⟨s2, ⟨s1, h1, h2⟩, hd⟩ := hr
  refine ⟨x + (y <<< o.k), (exec_adds o s).trans (slot_ok hg ?_), toNat_add_shl x y o.k⟩
  exact (bind_of_ok h1 _).trans ((bind_of_ok h2 _).trans (writeReg_ok hd))

theorem predOf_of_preds {x y : Ctx} (h : y.preds = x.preds) (p : Nat) : predOf y p = predOf x p := by
  simp only [predOf, h]

theorem sel_lands {o : RRP} {s t : State} {u : Issue} {x y : Word} {c : Option Nat} (hg : slotRuns o.g u s)
    (hr : readsRR ⟨o.g, o.d, o.q, o.a, o.m, o.b, o.n⟩ s x y c t) :
    landsWord (.sel o) s u 1 o.d c t (fun v => v = if predOf (curCtx s) o.p then x else y) := by
  obtain ⟨s2, h, hd⟩ := hr
  obtain ⟨_, _, hc⟩ := readsTwo_keeps h
  obtain ⟨s1, h1, h2⟩ := h
  have hp : predOf (curCtx s2) o.p = predOf (curCtx s) o.p := predOf_of_preds (by rw [hc]) o.p
  refine ⟨if predOf (curCtx s2) o.p then x else y, (exec_sel o s).trans (slot_ok hg ?_), by rw [hp]⟩
  exact (bind_of_ok h1 _).trans ((bind_of_ok h2 _).trans (writeReg_ok hd))

/-- Settles O4: the layouts read back, and each word is its two sources, its operation and its destination. -/
theorem addsAndSelResult : Obligations.AddsAndSelResult := by
  unfold Obligations.AddsAndSelResult
  refine ⟨fun o hf => ?_, fun o hf => ?_⟩
  · obtain ⟨_, hmj, ho⟩ := encRRK_reads (w := encodeWord (.adds o)) (mj := 0x04) rfl hf
    have hk : o.k ≤ 15 := by
      rw [← ho]
      exact Nat.le_of_lt_succ (Nat.mod_lt _ (by decide))
    exact ⟨⟨hmj, congrArg RRK.d ho, congrArg RRK.q ho, congrArg RRK.a ho, congrArg RRK.m ho, congrArg RRK.b ho,
      congrArg RRK.n ho, congrArg RRK.k ho, hk⟩, fun s t u x y c => adds_lands⟩
  · obtain ⟨_, hmj, ho⟩ := encRRP_reads (w := encodeWord (.sel o)) (mj := 0x03) rfl hf
    have hp : o.p ≤ 15 := by
      rw [← ho]
      exact Nat.le_of_lt_succ (Nat.mod_lt _ (by decide))
    exact ⟨hmj, hp, fun s t u x y c => sel_lands⟩

/-! ## Compares (R149, R157) -/

theorem intCond_iff (x y : Word) {cc : Nat} (h : cc < 8) : intCond cc x y = true ↔
    (cc = 0 ∧ x = y) ∨ (cc = 1 ∧ x ≠ y) ∨ (cc = 2 ∧ x.toInt < y.toInt) ∨ (cc = 3 ∧ y.toInt ≤ x.toInt) ∨
      (cc = 4 ∧ x.toNat < y.toNat) ∨ (cc = 5 ∧ y.toNat ≤ x.toNat) ∨ (cc = 6 ∧ x &&& y ≠ 0) ∨
      (cc = 7 ∧ x &&& y = 0) := by
  interval_cases cc <;> simp [intCond, BitVec.slt, BitVec.ult]

theorem toInt_imm10 (i : Nat) : (imm10 i).toInt = sext 10 i := by
  obtain ⟨hlo, hhi⟩ := sext_bounds (by decide : 10 ≤ 32) i
  exact toInt_ofInt_of_bounds hlo hhi

theorem cmpi_lands {o : CmpRI} {s t : State} {u : Issue} {x y : Word} {P : Bool → Prop} (hg : slotRuns o.g u s)
    (hs : source o.a o.m s = .ok (x, t)) (hy : y.toInt = sext 10 o.i) (hP : P (intCond o.c x y)) :
    landsPair (.cmpi o) s u o.p t P := by
  obtain rfl : y = imm10 o.i := BitVec.eq_of_toInt_eq (hy.trans (toInt_imm10 o.i).symm)
  exact ⟨_, (exec_cmpi o s).trans (slot_ok hg (bind_of_ok hs _)), hP⟩

/-- FCMP on a NaN: `ne` and `un` alone are true. -/
theorem floatCond_unordered {c : Nat} (hc : c < 8) {a b : Val} (h : (isNaN a || isNaN b) = true) :
    floatCond c a b = true ↔ c = 1 ∨ c = 6 := by
  interval_cases c <;> simp [floatCond, h]

/-- FCMP on numbers: the condition of the code. -/
theorem floatCond_ordered {a b : Val} (h : (isNaN a || isNaN b) = false) :
    floatCond 0 a b = eqV a b ∧ floatCond 1 a b = (!eqV a b) ∧ floatCond 2 a b = ltV a b ∧ floatCond 3 a b = (!ltV a b) ∧
      floatCond 4 a b = (!ltV b a) ∧ floatCond 5 a b = ltV b a ∧ floatCond 6 a b = false ∧ floatCond 7 a b = true := by
  simp [floatCond, h]

/-- Settles O5: each word lands its condition of the two words read. -/
theorem compareResult : Obligations.CompareResult := by
  unfold Obligations.CompareResult
  refine ⟨fun s t u x y cc v hcc hv => ?_, fun o s t u x y hc hg hr => ?_⟩
  · have hcond : intCond cc x y = v := Bool.eq_iff_iff.2 ((intCond_iff x y hcc).trans hv.symm)
    refine ⟨fun o ho hg hr => ⟨_, (exec_cmp o s).trans (formCmp_ok hg hr), ?_⟩, fun o ho hg hs hy => ?_⟩
    · rw [ho, hcond]
    · exact cmpi_lands hg hs hy (by rw [ho, hcond])
  · refine ⟨_, (exec_fcmp o s).trans (formCmp_ok hg hr), floatCond_unordered hc, fun h => ?_⟩
    obtain ⟨h0, h1, h2, h3, h4, h5, h6, h7⟩ := floatCond_ordered h
    exact ⟨fun e => e ▸ h0, fun e => e ▸ h1, fun e => e ▸ h2, fun e => e ▸ h3, fun e => e ▸ h4, fun e => e ▸ h5,
      fun e => e ▸ h6, fun e => e ▸ h7⟩

/-! ## Predicates (R148, R150, R151) -/

/-- Settles O6: the layout reads back, and the word lands its pair. -/
theorem psetResult : Obligations.PsetResult := by
  unfold Obligations.PsetResult
  intro o hf
  obtain ⟨hfits, hp⟩ := Bool.and_eq_true_iff.1 hf
  obtain ⟨_, hmj, ho⟩ := encPSet_reads (w := encodeWord (.pset o)) (mj := 0x12) rfl hfits
  have hlt : o.p ≤ 3 := by
    rw [← ho]
    exact Nat.le_of_lt_succ (Nat.mod_lt _ (by decide))
  exact ⟨hmj, of_decide_eq_true hp, hlt, fun s u hg => ⟨_, (exec_pset o s).trans (slot_ok hg rfl), rfl⟩⟩

theorem setBits_bit (w p : Nat) (v : Bool) :
    setBits w p p v.toNat = 2 ^ p * Nat.bit v (w / 2 ^ p / 2) + w % 2 ^ p := by
  have hw : 2 ^ p * (2 * (w / 2 ^ p / 2) + w / 2 ^ p % 2) + w % 2 ^ p = w := by rw [Nat.div_add_mod, Nat.div_add_mod]
  have hv : v.toNat % 2 = v.toNat := Nat.mod_eq_of_lt v.toNat_lt
  rw [setBits, bf, show p + 1 - p = 1 by omega, pow_one, hv, Nat.bit_val]
  have hsub : w - w / 2 ^ p % 2 * 2 ^ p = 2 ^ p * (2 * (w / 2 ^ p / 2)) + w % 2 ^ p :=
    Nat.sub_eq_of_eq_add (hw.symm.trans (by ring))
  rw [hsub]
  ring

/-- A number with one bit set to `v` reads `v` there, and every other bit as before. -/
theorem bm_setBits_bit (w p q : Nat) (v : Bool) : bm (setBits w p p v.toNat) q = if q = p then v else bm w q := by
  rw [bm_eq_testBit, bm_eq_testBit, setBits_bit, Nat.testBit_two_pow_mul_add _ (Nat.mod_lt _ (Nat.two_pow_pos p))]
  rcases Nat.lt_trichotomy q p with h | h | h
  · rw [if_pos h, if_neg h.ne, Nat.testBit_mod_two_pow, decide_eq_true h, Bool.true_and]
  · subst h
    rw [if_neg (lt_irrefl _), if_pos rfl, Nat.sub_self, Nat.testBit_bit_zero]
  · rw [if_neg (by omega), if_neg h.ne', show q - p = q - p - 1 + 1 by omega, Nat.testBit_bit_succ, Nat.div_div_eq_div_mul,
      ← pow_succ, Nat.testBit_div_two_pow, show q - p - 1 + (p + 1) = q by omega]

theorem bm_setPred (b : BitVec 16) (p : Nat) (v : Bool) {q : Nat} (hq : q < 16) :
    bm (setPred b p v).toNat q = if q = p then v else bm b.toNat q := by
  rw [← bm_setBits_bit, setPred, BitVec.toNat_ofNat, bm_eq_testBit, Nat.testBit_mod_two_pow, bm_eq_testBit, decide_eq_true hq,
    Bool.true_and]

/-- The pair `k` is set to `v` and its complement; the other predicates are as they were. -/
theorem bm_setPair (b : BitVec 16) (k : Nat) (v : Bool) {q : Nat} (hq : q < 16) :
    bm (setPred (setPred b (2 * k) v) (2 * k + 1) (!v)).toNat q =
      if q = 2 * k + 1 then !v else if q = 2 * k then v else bm b.toNat q := by
  rw [bm_setPred _ _ _ hq, bm_setPred _ _ _ hq]

theorem landOne_pair (a : Agent) (due iss slot k : Nat) (v : Bool) (s : State) :
    ctxOf (landOne a ⟨due, iss, slot, .pair k v⟩ s) a =
      { ctxOf s a with preds := setPred (setPred (ctxOf s a).preds (2 * k) v) (2 * k + 1) (!v) } := by
  simp [landOne]

theorem predOf_of_two_le (x : Ctx) {p : Nat} (h : 2 ≤ p) : predOf x p = bm x.preds.toNat p := by
  rw [predOf, if_neg (by omega), if_neg (by omega)]

/-- A pair that lands, predicate by predicate. -/
theorem predOf_landOne_pair (a : Agent) (due iss slot : Nat) {k p : Nat} (v : Bool) (s : State) (hk : 1 ≤ k) (hp : p < 16) :
    predOf (ctxOf (landOne a ⟨due, iss, slot, .pair k v⟩ s) a) p =
      if p = 2 * k + 1 then !v else if p = 2 * k then v else predOf (ctxOf s a) p := by
  rw [landOne_pair]
  rcases Nat.lt_or_ge p 2 with h | h
  · rw [if_neg (by omega), if_neg (by omega)]
    interval_cases p <;> rfl
  · rw [predOf_of_two_le _ h, predOf_of_two_le _ h, bm_setPair _ _ _ hp]

/-- Settles O7: each word lands the pair of its operation, and a pair that lands sets its two predicates. -/
theorem predicateResult : Obligations.PredicateResult := by
  unfold Obligations.PredicateResult
  refine ⟨fun o s u hg => ?_, fun x => ⟨rfl, rfl⟩, fun a s due iss slot k v hlo hhi => ?_⟩
  · exact ⟨⟨_, (exec_pand o s).trans (formPLog_ok hg), rfl⟩, ⟨_, (exec_por o s).trans (formPLog_ok hg), rfl⟩,
      ⟨_, (exec_pxor o s).trans (formPLog_ok hg), rfl⟩, ⟨_, (exec_pandn o s).trans (formPLog_ok hg), rfl⟩⟩
  · refine ⟨?_, ?_, fun p hp hne hne' => ?_⟩
    · rw [predOf_landOne_pair _ _ _ _ _ _ hlo (by omega), if_neg (by omega), if_pos rfl]
    · rw [predOf_landOne_pair _ _ _ _ _ _ hlo (by omega), if_pos rfl]
    · rw [predOf_landOne_pair _ _ _ _ _ _ hlo hp, if_neg hne', if_neg hne]

end Sys2Proof.Proofs

/-!
PROOFS. Scalar instructions: floating point (O8), queue control and the control and status registers (O9).
-/

namespace Sys2Proof.Proofs
open Sys2Proof Sys2Proof.Machine Sys2Proof.Laws

/-! ## The draw of a rounding (spec/08_number_formats.md R184, R185) -/

section rounding
variable {s : State}

theorem takeRmode_in_sr (h : (curCtx s).rmode = 4) :
    (takeRmode s).2 = ((lfsrSteps 32 (curCtx s).lfsr).toNat % 2 ^ 32,
      modCur s (fun x => { x with lfsr := lfsrSteps 32 (curCtx s).lfsr })) := by
  simp only [takeRmode, takeDraws, drawsFor, h, if_true, lfsrDraws, lfsrDraw, List.headD_cons]

theorem takeRmode_not_in_sr (h : (curCtx s).rmode ≠ 4) :
    (takeRmode s).2 = (0, modCur s (fun x => { x with lfsr := (curCtx s).lfsr })) := by
  simp only [takeRmode, takeDraws, drawsFor, h, if_false, List.headD_nil]

theorem lfsrStep_eq (l : Word) : lfsrStep l = if l.getLsbD 0 then (l >>> 1) ^^^ 0xD800000000000000#64 else l >>> 1 := by
  rw [lfsrStep, bm_toNat]

end rounding

/-! ## The floating-point words (R153-R156) -/

section floatWords
variable {s s2 t : State} {u : Issue} {x y : Word} {c : Option Nat}

theorem takeRmode_mode {a b : Nat} {m n : Bool} (h : readsTwo a m b n s x y s2) : (takeRmode s2).1 = (curCtx s).rmode := by
  obtain ⟨_, _, hc⟩ := readsTwo_keeps h
  change (curCtx s2).rmode = _
  rw [hc]

theorem formFP_lands {i : Instr} {o : RR} {op : Bool → Val → Val → Val} (hi : exec i s = formFP o op s)
    (hg : slotRuns o.g u s) (hr : readsTwo o.a o.m o.b o.n s x y s2) (hd : dest o.d o.q (takeRmode s2).2.2 = .ok (c, t)) :
    landsWord i s u 4 o.d c t (fun v => v = wd (roundTo .fp32 (curCtx s).rmode false (takeRmode s2).2.1
      (op ((curCtx s).rmode == 3) (fpArg x) (fpArg y)))) :=
  ⟨_, hi.trans (formFP_ok hg hr hd), by rw [takeRmode_mode hr]⟩

theorem formFPExact_lands {i : Instr} {o : RR} {op : Val → Val → Val} (hi : exec i s = formFPExact o op s)
    (hg : slotRuns o.g u s) (hr : readsTwo o.a o.m o.b o.n s x y s2) (hd : dest o.d o.q s2 = .ok (c, t)) :
    landsWord i s u 4 o.d c t (fun v => v = wd (roundTo .fp32 1 false 0 (op (fpArg x) (fpArg y)))) :=
  ⟨_, hi.trans (formFPExact_ok hg hr hd), rfl⟩

theorem ffma_lands {o : RRF} {s3 : State} {z : Word} (hg : slotRuns o.g u s) (hr : readsTwo o.a o.m o.b o.n s x y s2)
    (hz : source o.d false s2 = .ok (z, s3)) (hd : dest o.d o.q (takeRmode s3).2.2 = .ok (c, t)) :
    landsWord (.ffma o) s u 4 o.d c t (fun v => v = wd (roundTo .fp32 (curCtx s).rmode false (takeRmode s3).2.1
      (addV ((curCtx s).rmode == 3) (if o.v then negV (mulV (fpArg x) (fpArg y)) else mulV (fpArg x) (fpArg y))
        (if o.u then negV (fpArg z) else fpArg z)))) := by
  have hm : (takeRmode s3).1 = (curCtx s).rmode := by
    obtain ⟨_, _, hc⟩ := source_keeps hz
    rw [← takeRmode_mode hr]
    change (curCtx s3).rmode = _
    rw [hc]
    rfl
  obtain ⟨s1, h1, h2⟩ := hr
  refine ⟨_, (exec_ffma o s).trans (slot_ok hg ?_), by rw [← hm]⟩
  exact (bind_of_ok h1 _).trans ((bind_of_ok h2 _).trans ((bind_of_ok hz _).trans (writeReg_ok hd)))

theorem fcvt_lands {o : RUF} {s1 : State} (hg : slotRuns o.g u s) (hs : source o.a o.m s = .ok (x, s1))
    (hd : dest o.d o.q (takeRmode s1).2.2 = .ok (c, t)) :
    landsWord (.fcvt o) s u 4 o.d c t (fun v => v = fcvtOp o.f (curCtx s).rmode (takeRmode s1).2.1 x) := by
  have hm : (takeRmode s1).1 = (curCtx s).rmode := by
    obtain ⟨_, _, hc⟩ := source_keeps hs
    change (curCtx s1).rmode = _
    rw [hc]
  refine ⟨_, (exec_fcvt o s).trans (slot_ok hg ?_), by rw [← hm]⟩
  exact (bind_of_ok hs _).trans (writeReg_ok hd)

theorem landsWord_imp {i : Instr} {L d : Nat} {P Q : Word → Prop} (h : landsWord i s u L d c t P) (hPQ : ∀ v, P v → Q v) :
    landsWord i s u L d c t Q := by
  obtain ⟨v, hv, hP⟩ := h
  exact ⟨v, hv, hPQ v hP⟩

end floatWords

/-- Settles O8: the words through their form, and the draw by whether the mode is SR. -/
theorem floatResult : Obligations.FloatResult := by
  unfold Obligations.FloatResult
  refine ⟨fun o s s2 t u x y c hg hr => ⟨fun hd => ?_, fun hd => ?_⟩,
    ⟨fun o s s2 s3 t u x y z c hg hr hz hd => ffma_lands hg hr hz hd, fun o s s1 t u x c hg hs hd => ?_⟩,
    fun s => ?_, lfsrStep_eq⟩
  · exact ⟨formFP_lands (exec_fadd o s) hg hr hd, formFP_lands (exec_fsub o s) hg hr hd,
      formFP_lands (exec_fmul o s) hg hr hd⟩
  · exact ⟨formFPExact_lands (exec_fmin o s) hg hr hd, formFPExact_lands (exec_fmax o s) hg hr hd⟩
  · refine landsWord_imp (fcvt_lands hg hs hd) fun v hv => ?_
    refine ⟨?_, ?_, ?_, ?_, ?_, ?_, ?_⟩ <;> (intro hf; rw [hv, hf]; rfl)
  · intro l r
    by_cases h : (curCtx s).rmode = 4
    · have hr : r.2 = _ := takeRmode_in_sr h
      rw [hr, curCtx_modCur]
      exact ⟨rfl, rfl, otherContexts_setCtx _ _ _, fun _ => ⟨rfl, rfl⟩, fun hn => absurd h hn⟩
    · have hr : r.2 = _ := takeRmode_not_in_sr h
      rw [hr, curCtx_modCur]
      exact ⟨rfl, rfl, otherContexts_setCtx _ _ _, fun he => absurd he h, fun _ => ⟨rfl, rfl⟩⟩

/-! ## Queue control (R158) -/

theorem qlen_lands {o : QLen} {s t : State} {u : Issue} {c : Option Nat} (hg : slotRuns o.g u s)
    (hd : dest o.d o.q s = .ok (c, t)) : landsWord (.qlen o) s u 1 o.d c t
      (fun v => v.toNat = (if o.a = 0 then 0 else (sregOf (curCtx s) o.a).len) % 2 ^ 64) :=
  ⟨_, (exec_qlen o s).trans (slot_ok hg (writeReg_ok hd)), toNat_wd _⟩

theorem exec_qclr_zero {o : QReg} {s : State} {u : Issue} (hg : slotRuns o.g u s) (h : o.a = 0) :
    exec (.qclr o) s = slotDone u s := (exec_qclr o s).trans (slot_ok hg (if_pos h))

/-- A queue that QCLR has emptied: its head and its cells stay. -/
def emptied (q : Machine.Ring Word) : Machine.Ring Word := { q with len := 0, gone := q.gone + q.len }

theorem exec_qclr_empties {o : QReg} {s : State} {u : Issue} (hg : slotRuns o.g u s) (h : o.a ≠ 0) :
    exec (.qclr o) s = slotDone u (modCur s (fun x => setSreg x o.a (emptied (sregOf x o.a)))) :=
  (exec_qclr o s).trans (slot_ok hg (if_neg h))

/-! ## CSRRD and CSRWR (R159, R160, R424) -/

section csr
variable {s t : State} {u : Issue}

theorem exec_csrrd_barred {o : CsrRd} (hg : slotRuns o.g u s) (h : csrAccess u.ag o.c = .none) : slotTraps (.csrrd o) s 0x0D :=
  (exec_csrrd o s).trans (slot_trap hg (if_pos (by rw [runs_agent hg, h])))

theorem csrrd_lands {o : CsrRd} {c : Option Nat} (hg : slotRuns o.g u s) (h : csrAccess u.ag o.c ≠ .none)
    (hd : dest o.d o.q s = .ok (c, t)) : landsWord (.csrrd o) s u 1 o.d c t (fun v => v = csrValue s u.ag o.c) := by
  rw [← runs_agent hg] at h ⊢
  exact ⟨_, (exec_csrrd o s).trans (slot_ok hg ((if_neg h).trans (writeReg_ok hd))), rfl⟩

theorem csrwrBody_of_source {o : CsrWr} {x : Word} (hs : source o.a o.m s = .ok (x, t)) (hg : slotRuns o.g u s) (d : Bool) :
    csrwrBody o d s = (need 0x0D (csrAccess u.ag o.c == .rw && !d) >>= fun _ => .ok (land 1 (.csr o.c x) t)) := by
  rw [csrwrBody, bind_of_ok hs, ← runs_agent hg, ← (source_keeps hs).1]

theorem exec_csrwr_barred {o : CsrWr} {x : Word} (hg : slotRuns o.g u s) (hs : source o.a o.m s = .ok (x, t))
    (h : csrAccess u.ag o.c ≠ .rw) : slotTraps (.csrwr o) s 0x0D := by
  have hf : (csrAccess u.ag o.c == .rw) = false := beq_eq_false_iff_ne.2 h
  have hd : csrwrDenied o s = false := by rw [csrwrDenied, runs_agent hg, hf, Bool.and_false, Bool.false_and]
  unfold slotTraps
  rw [exec_csrwr_body, hd, if_neg Bool.false_ne_true]
  refine slot_trap hg ?_
  rw [csrwrBody_of_source hs hg, hf]
  rfl

theorem exec_csrwr_lands {o : CsrWr} {x : Word} (hg : slotRuns o.g u s) (hs : source o.a o.m s = .ok (x, t))
    (h : csrAccess u.ag o.c = .rw) (he : evselDenied s o.c x = false) :
    exec (.csrwr o) s = slotDone u (land 1 (.csr o.c x) t) := by
  have hd : csrwrDenied o s = false := by simp only [csrwrDenied, hs, he, Bool.and_false]
  rw [exec_csrwr_body, hd, if_neg Bool.false_ne_true]
  refine slot_ok hg ?_
  rw [csrwrBody_of_source hs hg, h]
  rfl

end csr

/-! ## What a register reads as after a write (R153, R161, R302, R387) -/

section applied
variable (a : Agent) (v : Word) (s : State)

theorem applyCsr_pred : applyCsr a 0x019 v s = setCtx s a { ctxOf s a with preds := predStore (ctxOf s a).preds v.toNat } := rfl

theorem csrValue_tvec : csrValue (applyCsr a 0x025 v s) a 0x025 = wd (v.toNat % 2 ^ 21 / 4 * 4) := by
  simp [applyCsr, csrValue]

theorem csrValue_rmode : csrValue (applyCsr a 0x01A v s) a 0x01A = if v.toNat % 8 ≤ 4 then wd (v.toNat % 8) else 0 := by
  have h : csrValue (applyCsr a 0x01A v s) a 0x01A = wd (rmodeStore v.toNat) := by simp [applyCsr, csrValue]
  rw [h, rmodeStore]
  split
  · rw [if_neg (by omega)]
    rfl
  · rw [if_pos (by omega)]

theorem csrValue_seed : csrValue (applyCsr a 0x01B v s) a 0x01B = v := by simp [applyCsr, csrValue]

theorem csrValue_vicsel : csrValue (applyCsr a 0x043 v s) a 0x043 = wd (v.toNat % 2 ^ 11) := by
  simp [applyCsr, csrValue, csrChannelValue]

/-- A write of PRED, predicate by predicate: the pairs 1 to 3 are set from their even bits. -/
theorem bm_predStore (b : BitVec 16) (n : Nat) {q : Nat} (hq : q < 16) : bm (predStore b n).toNat q =
    if 2 ≤ q ∧ q ≤ 7 then (if q % 2 = 0 then bm n q else !bm n (q - 1)) else bm b.toNat q := by
  simp only [predStore, List.foldl_cons, List.foldl_nil, bm_setPred _ _ _ hq]
  interval_cases q <;> rfl

end applied

/-- Settles O9: queue control and the accesses word by word, and the registers one by one. -/
theorem queueAndCsrResult : Obligations.QueueAndCsrResult := by
  unfold Obligations.QueueAndCsrResult
  refine ⟨⟨fun o s t u c hg hd => qlen_lands hg hd, fun o s u hg => ?_⟩,
    ⟨fun o s u hg => ?_, fun o s t u x hg hs => ?_⟩, fun a v s => ?_⟩
  · by_cases h : o.a = 0
    · exact ⟨s, exec_qclr_zero hg h, fun _ => rfl, fun hn => absurd h hn⟩
    · refine ⟨_, exec_qclr_empties hg h, fun he => absurd he h, fun _ => ?_⟩
      rw [curCtx_modCur]
      exact ⟨sregOf_setSreg_same _ _ _, fun r hr => sregOf_setSreg_other hr⟩
  · exact ⟨exec_csrrd_barred hg, fun h c t hd => csrrd_lands hg h hd⟩
  · exact ⟨exec_csrwr_barred hg hs, exec_csrwr_lands hg hs⟩
  · refine ⟨csrValue_tvec a v s, csrValue_rmode a v s, csrValue_seed a v s, csrValue_vicsel a v s, fun k hk => ?_,
      fun k hlo hhi => ?_⟩
    · rw [applyCsr_pred, ctxOf_setCtx, predOf_of_two_le _ (by omega), predOf_of_two_le _ (by omega), ← bm_toNat,
        bm_predStore _ _ (by omega), bm_predStore _ _ (by omega)]
      rcases hk with rfl | rfl | rfl <;> exact ⟨rfl, rfl⟩
    · rw [applyCsr_pred, ctxOf_setCtx, predOf_of_two_le _ (by omega), predOf_of_two_le _ (by omega), bm_predStore _ _ hhi,
        if_neg (by omega)]

end Sys2Proof.Proofs

/-!
PROOFS. Control instructions: branches (O11).
-/

namespace Sys2Proof.Proofs
open Sys2Proof Sys2Proof.Machine Sys2Proof.Laws

/-! ## The bundle that a slot stands in (spec/06_fetch_and_issue.md R121, R122) -/

section bundle
variable {s t : State} {u : Issue}

theorem curPc_of_cur (h : s.cur = some u) : curPc s = u.pc := by rw [curPc, h, Option.elim_some]

theorem curSucc_of_cur (h : s.cur = some u) : curSucc s = u.succ := by rw [curSucc, h, Option.elim_some]

theorem curIdle_of_cur (h : s.cur = some u) : curIdle s = u.hdr.idle := by rw [curIdle, h, Option.elim_some]

theorem curShadow_of_cur (h : s.cur = some u) : curShadow s = u.shadow := by rw [curShadow, h, Option.elim_some]

theorem curT_of_cur (h : s.cur = some u) : curT s = u.t := by rw [curT, h]

theorem landReg_cur (L r : Nat) (c : Option Nat) (v : Word) (s : State) : (landReg L r c v s).cur = s.cur := by
  cases c with
  | none => rfl
  | some c => exact (land_keeps L (.sreg r c v) s).1

end bundle

/-! ## Branches (spec/07_scalar_and_control_instructions.md R163-R165) -/

section branches
variable {s t : State} {u : Issue}

theorem relTarget_spec (pc k o : Nat) : relTarget pc k o < 2 ^ 21 ∧
    (relTarget pc k o : Int) % (2 ^ 21 : Nat) = ((pc : Int) + 4 * sext k o) % (2 ^ 21 : Nat) := by
  rw [relTarget]
  omega

theorem exec_br_taken {o : Br} (hg : slotRuns o.g u s) :
    exec (.br o) s = slotDone u (takeBranch (relTarget u.pc 22 o.o) false false s) := by
  rw [← curPc_of_cur hg.1]
  exact (exec_br o s).trans (slot_ok hg rfl)

theorem afterShadow_due {a : Agent} {t n pc at_ : Nat} (h : t + 3 ≤ at_) : afterShadow s a t n pc at_ = pc := by
  cases n with
  | zero => rfl
  | succ n => exact if_pos h

theorem afterShadow_unfetched {a : Agent} {t n pc at_ : Nat} (h : peekHeader s a pc = none) :
    afterShadow s a t n pc at_ = pc := by
  cases n with
  | zero => rfl
  | succ n => simp only [afterShadow, h, ite_self]

/-- A bundle that issues before the branch's target is passed over. -/
theorem afterShadow_issues {a : Agent} {t n pc at_ : Nat} {h : Nat × Nat} (ht : at_ < t + 3) (hp : peekHeader s a pc = some h) :
    afterShadow s a t (n + 1) pc at_ = afterShadow s a t n (pcMask (pc + h.1)) (at_ + 1 + h.2) := by
  simp only [afterShadow, hp, if_neg (Nat.not_le.2 ht)]

/-- The return address of BRL. -/
def returnAddr (u : Issue) (s : State) : Nat := afterShadow s u.ag u.t 3 u.succ (u.t + 1 + u.hdr.idle)

theorem exec_brl_taken {o : Brl} {c : Option Nat} (hg : slotRuns o.g u s) (hd : dest 31 o.l s = .ok (c, t)) :
    exec (.brl o) s =
      slotDone u (takeBranch (relTarget u.pc 21 o.o) false false (landReg 1 31 c (wd (returnAddr u s)) t)) := by
  have hra : afterShadow s (curAgent s) (curT s) 3 (curSucc s) (curT s + 1 + curIdle s) = returnAddr u s := by
    rw [runs_agent hg, runs_time hg, curSucc_of_cur hg.1, curIdle_of_cur hg.1]
    rfl
  have hcur : (landReg 1 31 c (wd (returnAddr u s)) t).cur = some u := by
    rw [landReg_cur, (dest_keeps hd).2.1]
    exact hg.1
  rw [← curPc_of_cur hcur, ← hra]
  exact (exec_brl o s).trans (slot_ok hg (bind_of_ok (writeReg_ok hd) _))

/-- The return address by the number of bundles that still issue (R122, R164). -/
theorem returnAddr_spec (u : Issue) (s : State) :
    (2 ≤ u.hdr.idle ∨ peekHeader s u.ag u.succ = none → returnAddr u s = u.succ) ∧
    (u.hdr.idle ≤ 1 → ∀ h : Nat × Nat, peekHeader s u.ag u.succ = some h →
      (u.hdr.idle = 1 ∨ 1 ≤ h.2 ∨ peekHeader s u.ag (pcMask (u.succ + h.1)) = none →
        returnAddr u s = pcMask (u.succ + h.1)) ∧
      (u.hdr.idle = 0 → h.2 = 0 → ∀ k : Nat × Nat, peekHeader s u.ag (pcMask (u.succ + h.1)) = some k →
        returnAddr u s = pcMask (pcMask (u.succ + h.1) + k.1))) := by
  refine ⟨fun h => ?_, fun hi h hp => ?_⟩
  · rcases h with h | h
    · exact afterShadow_due (by omega)
    · exact afterShadow_unfetched h
  · rw [returnAddr, afterShadow_issues (by omega) hp]
    refine ⟨fun h' => ?_, fun hi' h2 k hk => ?_⟩
    · rcases h' with h' | h' | h'
      · exact afterShadow_due (by omega)
      · exact afterShadow_due (by omega)
      · exact afterShadow_unfetched h'
    · rw [afterShadow_issues (by omega) hk, afterShadow_due (by omega)]

theorem exec_bri_eq {o : SA} {x : Word} (hg : slotRuns o.g u s) (hs : source o.a o.m s = .ok (x, t)) :
    (x.toNat < 2 ^ 21 ∧ x.toNat % 4 = 0 → exec (.bri o) s = slotDone u (takeBranch x.toNat false false t)) ∧
    (2 ^ 21 ≤ x.toNat ∨ x.toNat % 4 ≠ 0 → slotTraps (.bri o) s 0x07) := by
  refine ⟨fun h => (exec_bri o s).trans (slot_ok hg ?_), fun h => (exec_bri o s).trans (slot_trap hg ?_)⟩
  · exact (bind_of_ok hs _).trans (bind_of_ok (need_holds (by simpa using h)) _)
  · refine (bind_of_ok hs _).trans (bind_of_error (need_fails ?_) _)
    simp only [Bool.and_eq_false_iff, decide_eq_false_iff_not, beq_eq_false_iff_ne, not_lt]
    exact h

theorem takeBranch_frame (a : Nat) (w e : Bool) (h : s.cur = some u) :
    (curCtx (takeBranch a w e s)).branch = some ⟨a, u.t + 3, w, e⟩ ∧
      (takeBranch a w e s).cur = some { u with taken := true } := by
  simp [takeBranch, modIssue, curCtx, curAgent, curT, h, ctxOf, setCtx]

end branches

/-- Settles O11: branch by branch, the return address bundle by bundle. -/
theorem branchResult : Obligations.BranchResult := by
  unfold Obligations.BranchResult
  intro s u
  refine ⟨fun o hg => ⟨_, exec_br_taken hg, relTarget_spec u.pc 22 o.o⟩, fun o hg c t hd => ?_,
    fun o hg x t hs => exec_bri_eq hg hs, fun a w e h => takeBranch_frame a w e h⟩
  obtain ⟨hlt, hmod⟩ := relTarget_spec u.pc 21 o.o
  exact ⟨_, returnAddr u s, exec_brl_taken hg hd, hlt, hmod, returnAddr_spec u s⟩

end Sys2Proof.Proofs

/-!
PROOFS. Control instructions: loops (O12), the change of code (O13), and TRAP, BKPT, ERET and TEXIT (O14).
-/

namespace Sys2Proof.Proofs
open Sys2Proof Sys2Proof.Machine Sys2Proof.Laws

/-! ## The loop control word (spec/07_scalar_and_control_instructions.md R167) -/

theorem lcWord_fields {stages start remain : Nat} (hst : stages < 8) (hs : start < 2 ^ 21) (hr : remain < 2 ^ 32) :
    lcOpen (lcWord stages start remain) = true ∧ lcStages (lcWord stages start remain) = stages ∧
      lcStart (lcWord stages start remain) = start ∧ lcRemain (lcWord stages start remain) = remain := by
  have hw : (lcWord stages start remain).toNat = 2 ^ 63 + stages * 2 ^ 56 + start * 2 ^ 32 + remain :=
    toNat_wd_of_lt (by omega)
  simp only [lcOpen, lcStages, lcStart, lcRemain, bits, bf, bm_eq_iff, hw, Bool.toNat_true]
  omega

/-! ## Opening and closing a loop (R166, R168) -/

section loops
variable {s t : State} {u : Issue}

/-- Nothing bars a loop from being opened: none is open, and the bundle is no shadow bundle. -/
def loopFree (u : Issue) (s : State) : Prop := lcOpen (curCtx s).lc = false ∧ u.shadow = false

theorem loopOpen_free {n st : Nat} (hu : s.cur = some u) (h : loopFree u s) : loopOpen n st s =
    .ok (land 1 (.stage (if n = 0 then 0 else 1)) (land 1 (.lc (lcWord st u.succ (n - 1))) s)) := by
  obtain ⟨hlc, hsh⟩ := h
  have hn : need 0x04 (!lcOpen (curCtx s).lc && !curShadow s) = .ok () := need_holds (by rw [curShadow_of_cur hu, hlc, hsh]; rfl)
  rw [← curSucc_of_cur hu]
  exact bind_of_ok hn _

theorem loopOpen_barred {n st : Nat} (hu : s.cur = some u) (h : ¬ loopFree u s) : loopOpen n st s = .error 0x04 := by
  refine bind_of_error (need_fails ?_) _
  rw [curShadow_of_cur hu]
  simpa [loopFree, Classical.not_and_iff_not_or_not, or_iff_not_imp_left] using h

/-- A source changes nothing of what bars a loop. -/
theorem loopFree_source {r : Nat} {pop : Bool} {x : Word} (hs : source r pop s = .ok (x, t)) : loopFree u t ↔ loopFree u s := by
  obtain ⟨_, _, hc⟩ := source_keeps hs
  rw [loopFree, loopFree, hc]

/-- What LOOP and LOOPI land. -/
theorem loopWord_fields {n st : Nat} (hu : u.succ < 2 ^ 21) (hst : st < 8) (hn : n < 2 ^ 32) :
    lcOpen (lcWord st u.succ (n - 1)) = true ∧ lcStages (lcWord st u.succ (n - 1)) = st ∧
      lcStart (lcWord st u.succ (n - 1)) = u.succ ∧ lcRemain (lcWord st u.succ (n - 1)) = n - 1 :=
  lcWord_fields hst hu (by omega)

theorem exec_loop_opens {o : Sys2Proof.Loop} {x : Word} (hg : slotRuns o.g u s) (hs : source o.a o.m s = .ok (x, t))
    (h : loopFree u s) : exec (.loop o) s = slotDone u (land 1 (.stage (if x.toNat % 2 ^ 32 = 0 then 0 else 1))
      (land 1 (.lc (lcWord o.s u.succ (x.toNat % 2 ^ 32 - 1))) t)) := by
  have hn : bits x 31 0 = x.toNat % 2 ^ 32 := by simp [bits, bf]
  have hu : t.cur = some u := (source_keeps hs).2.1.trans hg.1
  rw [← hn]
  exact (exec_loop o s).trans (slot_ok hg ((bind_of_ok hs _).trans (loopOpen_free hu ((loopFree_source hs).2 h))))

theorem exec_loop_barred {o : Sys2Proof.Loop} {x : Word} (hg : slotRuns o.g u s) (hs : source o.a o.m s = .ok (x, t))
    (h : ¬ loopFree u s) : slotTraps (.loop o) s 0x04 :=
  (exec_loop o s).trans (slot_trap hg ((bind_of_ok hs _).trans
    (loopOpen_barred ((source_keeps hs).2.1.trans hg.1) (mt (loopFree_source hs).1 h))))

end loops

/-! ## The step at a loop's end (R168) -/

theorem loopEnd_eq {stages start remain : Nat} (stage : Nat) (hst : stages < 8) (hs : start < 2 ^ 21) (hr : remain < 2 ^ 32) :
    loopEnd (lcWord stages start remain) stage =
      if (stage * 2 % 256 + (if 0 < remain then 1 else 0)) % 2 ^ (stages + 1) = 0 then (0, 0, false)
      else (stage * 2 % 256 + (if 0 < remain then 1 else 0), lcWord stages start (remain - 1), true) := by
  obtain ⟨_, h1, h2, h3⟩ := lcWord_fields hst hs hr
  have hg : (if 0 < remain then stage * 2 % 256 + 1 else stage * 2 % 256) = stage * 2 % 256 + (if 0 < remain then 1 else 0) := by
    split <;> rfl
  simp only [loopEnd, h1, h2, h3, hg, ne_eq, ite_not]

/-- Settles O12: the loop control word read back field by field. -/
theorem loopResult : Obligations.LoopResult := by
  unfold Obligations.LoopResult
  refine ⟨fun s u hu => ⟨fun o hst hg x t hs => ?_, fun o hst hc hg => ?_, fun o hg => ?_⟩,
    fun stages start remain stage hst hs hr hstage => ?_⟩
  · exact ⟨fun h => ⟨_, exec_loop_opens hg hs h, loopWord_fields hu hst (Nat.mod_lt _ (by decide))⟩,
      exec_loop_barred hg hs⟩
  · exact ⟨fun h => ⟨_, (exec_loopi o s).trans (slot_ok hg (loopOpen_free hg.1 h)), loopWord_fields hu hst (by omega)⟩,
      fun h => (exec_loopi o s).trans (slot_trap hg (loopOpen_barred hg.1 h))⟩
  · exact (exec_loopiK o s).trans (slot_ok hg rfl)
  · intro r g
    have hr' : r = _ := loopEnd_eq stage hst hs hr
    split
    · rw [hr']
      exact if_pos ‹_›
    · rw [hr', if_neg ‹_›]
      obtain ⟨h1, h2, h3, h4⟩ := lcWord_fields (remain := remain - 1) hst hs (by omega)
      exact ⟨rfl, rfl, h1, h2, h3, h4⟩

/-! ## The change of code (R171-R173) -/

section code
variable {s t : State} {u : Issue}

theorem kindOf_of_tile {a : Agent} (h : agTile a = true) : kindOf a = .tile := by
  cases a with
  | tile c => rfl
  | urgent c => rfl
  | channel n => cases h
  | steward n => cases h

theorem notUrgent_ok (hg : s.cur = some u) (h : agUrgent u.ag = false) : notUrgent s = .ok () :=
  need_holds (by rw [curAgent_of_cur hg, h]; rfl)

theorem exec_ifence_steward {o : G} {n : Nat} (hg : slotRuns o.g u s) (ha : u.ag = .steward n) :
    exec (.ifence o) s = slotDone u s :=
  (exec_ifence o s).trans (slot_ok hg (if_pos (by rw [runs_agent hg, ha]; rfl)))

/-- The body of IFENCE on a tile core. -/
theorem exec_ifence_tile {o : G} (hg : slotRuns o.g u s) (ht : agTile u.ag = true) (hu : agUrgent u.ag = false) :
    exec (.ifence o) s = slotDone u (if (idleCopies s).isEmpty && (idleYarns s).isEmpty then latchIdle u.ag s
      else beginWait u.ag .fence
        ⟨.ifence (idleCopies s) (idleYarns s), curWord s, 0, 0, curUndo [] none s, false, none⟩ s) := by
  have hk : kindOf (curAgent s) ≠ .steward := by rw [runs_agent hg, kindOf_of_tile ht]; decide
  refine (exec_ifence o s).trans (slot_ok hg ((if_neg hk).trans ((bind_of_ok (notUrgent_ok hg.1 hu) _).trans ?_)))
  rw [runs_agent hg]
  exact (apply_ite Except.ok _ _ _).symm

/-- What IVERIFY of the granules `x` to `x + y - 1` needs on a tile core, and does within its descriptor's granules. -/
def iverifyTile (o : IVer) (x y : Word) (s : State) : Except Nat State := do
  need 0x04 (curCtx s).fence
  if decide (1 ≤ y.toNat) && decide (x.toNat + y.toNat ≤ (halfDesc (curCtx s) (idleHalf (curCtx s))).ngran) then
    .ok (beginWait (curAgent s) .fence ⟨.iverify o.p (verifyGranules s (curAgent s) x.toNat y.toNat), curWord s, 0, 0,
      curUndo [] none s, false, some (s.gcyc + 16 * y.toNat)⟩ s)
  else .ok (writePair o.p false s)

/-- The body of IVERIFY. -/
def iverifyBody (o : IVer) (s : State) : Except Nat State := do
  let (x, s) ← source o.a o.m s
  let (y, s) ← source o.b o.n s
  if kindOf (curAgent s) = .steward then .ok (writePair o.p false s)
  else do
    notUrgent s
    iverifyTile o x y s

theorem exec_iverify_body (o : IVer) (s : State) : exec (.iverify o) s = execSlot o.g (iverifyBody o) s := rfl

section iverify
variable {o : IVer} {x y : Word}

theorem iverifyBody_steward {n : Nat} (hu : s.cur = some u) (hr : readsTwo o.a o.m o.b o.n s x y t) (ha : u.ag = .steward n) :
    iverifyBody o s = .ok (writePair o.p false t) := by
  have hk : kindOf (curAgent t) = .steward := by rw [(readsTwo_keeps hr).1, curAgent_of_cur hu, ha]; rfl
  obtain ⟨s1, h1, h2⟩ := hr
  exact (bind_of_ok h1 _).trans ((bind_of_ok h2 _).trans (if_pos hk))

theorem iverifyBody_tile (hu : s.cur = some u) (hr : readsTwo o.a o.m o.b o.n s x y t) (ha : agTile u.ag = true)
    (hn : agUrgent u.ag = false) : iverifyBody o s = iverifyTile o x y t := by
  obtain ⟨hag, hcur, _⟩ := readsTwo_keeps hr
  have hk : kindOf (curAgent t) ≠ .steward := by
    rw [hag, curAgent_of_cur hu, kindOf_of_tile ha]
    decide
  obtain ⟨s1, h1, h2⟩ := hr
  exact (bind_of_ok h1 _).trans ((bind_of_ok h2 _).trans ((if_neg hk).trans (bind_of_ok (notUrgent_ok (hcur.trans hu) hn) _)))

theorem iverifyTile_no_fence (h : (curCtx s).fence = false) : iverifyTile o x y s = .error 0x04 :=
  bind_of_error (need_fails h) _

theorem iverifyTile_outside (h : (curCtx s).fence = true)
    (hy : y.toNat = 0 ∨ (halfDesc (curCtx s) (idleHalf (curCtx s))).ngran < x.toNat + y.toNat) :
    iverifyTile o x y s = .ok (writePair o.p false s) := by
  refine (bind_of_ok (need_holds h) _).trans (if_neg ?_)
  rw [Bool.and_eq_true, decide_eq_true_eq, decide_eq_true_eq]
  omega

theorem iverifyTile_within (hu : s.cur = some u) (h : (curCtx s).fence = true) (hy : 0 < y.toNat)
    (hn : x.toNat + y.toNat ≤ (halfDesc (curCtx s) (idleHalf (curCtx s))).ngran) :
    iverifyTile o x y s = .ok (beginWait u.ag .fence ⟨.iverify o.p (verifyGranules s u.ag x.toNat y.toNat),
      curWord s, 0, 0, curUndo [] none s, false, some (s.gcyc + 16 * y.toNat)⟩ s) := by
  rw [← curAgent_of_cur hu]
  refine (bind_of_ok (need_holds h) _).trans (if_pos ?_)
  rw [Bool.and_eq_true, decide_eq_true_eq, decide_eq_true_eq]
  exact ⟨hy, hn⟩

end iverify

/-- BSWAP, after its checks that no handler runs and that the context is not urgent. -/
theorem exec_bswap_eq {o : Bswap} (hg : slotRuns o.g u s) (hh : (curCtx s).estatH = false) (hu : agUrgent u.ag = false) :
    ((curCtx s).fence = true →
      exec (.bswap o) s = slotDone u (takeBranch (idleHalf (curCtx s) * halfBytes + 4 * o.o) true false s)) ∧
    ((curCtx s).fence = false → slotTraps (.bswap o) s 0x04) := by
  have hb : ∀ k : Unit → Except Nat State, (notInHandler s >>= fun _ => notUrgent s >>= k) = k () := fun k => by
    rw [bind_of_ok (notInHandler_ok hh), bind_of_ok (notUrgent_ok hg.1 hu)]
  exact ⟨fun h => (exec_bswap o s).trans (slot_ok hg ((hb _).trans (bind_of_ok (need_holds h) _))),
    fun h => (exec_bswap o s).trans (slot_trap hg ((hb _).trans (bind_of_error (need_fails h) _)))⟩

end code

/-- Settles O13: word by word, each check in its order. -/
theorem codeChangeResult : Obligations.CodeChangeResult := by
  unfold Obligations.CodeChangeResult
  refine fun s u => ⟨fun o hg ht hu => ?_, fun o n hg ha => exec_ifence_steward hg ha,
    fun o x y t hg hr => ⟨fun n ha => ?_, fun ht hu => ?_⟩, fun o hg hh hu => exec_bswap_eq hg hh hu⟩
  · rw [exec_ifence_tile hg ht hu]
    refine ⟨fun hc hy => by rw [hc, hy]; rfl, fun h => ?_⟩
    rw [if_neg (by simpa only [Bool.and_eq_true, List.isEmpty_iff] using h)]
  · exact ⟨false, (exec_iverify_body o s).trans (slot_ok hg (iverifyBody_steward hg.1 hr ha)), rfl⟩
  · obtain ⟨_, hcur, hc⟩ := readsTwo_keeps hr
    have hfence : (curCtx t).fence = (curCtx s).fence := by rw [hc]
    have hb := iverifyBody_tile hg.1 hr ht hu
    refine ⟨fun hf => ?_, fun hf => ⟨fun hy => ⟨false, ?_, rfl⟩, fun hy hn => ?_⟩⟩
    · exact (exec_iverify_body o s).trans (slot_trap hg (hb.trans (iverifyTile_no_fence (hfence.trans hf))))
    · exact (exec_iverify_body o s).trans (slot_ok hg (hb.trans (iverifyTile_outside (hfence.trans hf) hy)))
    · exact (exec_iverify_body o s).trans
        (slot_ok hg (hb.trans (iverifyTile_within (hcur.trans hg.1) (hfence.trans hf) hy hn)))

/-! ## TRAP, BKPT and ERET (R174; spec/17_interruption_and_preemption.md R394) -/

section leaving
variable {s : State} {u : Issue}

theorem exec_trap_runs {o : Code} (h : guardTrue o.g s = true) : exec (.trap o) s = .next (slotTrapWith 1 0x0E s) :=
  (exec_trap o s).trans (if_pos h)

theorem exec_bkpt_runs {o : Code} (hu : s.cur = some u) (h : guardTrue o.g s = true) : exec (.bkpt o) s =
    if debugMode s u.ag then .next (stopInBundle false 1 s) else .next (slotTrapWith 1 0x0E s) := by
  rw [← curAgent_of_cur hu]
  exact (exec_bkpt o s).trans (if_pos h)

theorem exec_eret_handler {o : G} (hg : slotRuns o.g u s) (h : (curCtx s).estatH = true) :
    exec (.eret o) s = slotDone u (takeBranch (curCtx s).faultPc false true s) :=
  (exec_eret o s).trans (slot_ok hg (bind_of_ok (need_holds h) _))

theorem exec_eret_barred {o : G} (hg : slotRuns o.g u s) (h : (curCtx s).estatH = false) : slotTraps (.eret o) s 0x0D :=
  (exec_eret o s).trans (slot_trap hg (bind_of_error (need_fails h) _))

end leaving

/-! ## TEXIT (R96, R393) -/

/-- TEXIT's context issues no more, and a suspended state of a handler is gone, with its yarns. -/
def issueEnded (a : Agent) (s : State) : State :=
  let s1 := modCtx s a (fun x => { x with texit := true, issuing := false, susp := none })
  if (ctxOf s a).susp.isSome then
    modCore (dropCause a .handler s1) (agIdx a) (fun k => { k with
      open_ := k.open_.filter (fun y => y.ag != a), beats := k.beats.filter (fun b => b.ag != a) })
  else s1

theorem exec_texit_eq {o : G} {s : State} {u : Issue} (hg : slotRuns o.g u s) :
    exec (.texit o) s = slotDone u (haltAll u.ag u.t (domDrop (issueEnded u.ag s) u.ag)) := by
  rw [← runs_agent hg, ← runs_time hg]
  exact (exec_texit o s).trans (slot_ok hg rfl)

theorem ctxOf_issueEnded (a : Agent) (s : State) : ∃ l, ctxOf (issueEnded a s) a =
    { ctxOf s a with texit := true, issuing := false, susp := none, causes := l } := by
  rw [issueEnded]
  dsimp only
  split
  · exact ⟨(ctxOf s a).causes.filter (· != .handler), by simp [dropCause]⟩
  · exact ⟨(ctxOf s a).causes, by simp⟩

theorem ctxOf_haltYarn (s : State) (c y t : Nat) (b : Agent) : ctxOf (haltYarn c y t s) b = ctxOf s b := rfl

theorem ctxOf_haltAll (a b : Agent) (t : Nat) (s : State) : ctxOf (haltAll a t s) b = ctxOf s b := by
  unfold haltAll
  refine foldl_keeps (fun s => ctxOf s b) ?_ _ s
  exact fun s o => ctxOf_haltYarn s (agIdx a) o.y t b

theorem ctxOf_landingDelay (s : State) (level : Nat) (a : Agent) : ctxOf (landingDelay s level).2 a = ctxOf s a := by
  unfold landingDelay
  split <;> rfl

theorem ctxOf_domSend (s : State) (a b : Agent) (t : Nat) (d w : Bool) : ctxOf (domSend s a t d w) b = ctxOf s b :=
  ctxOf_landingDelay s _ b

/-- R355: after the drop the task counts as dropped where it belongs to a domain. -/
theorem ctxOf_domDrop (s : State) (a : Agent) :
    ctxOf (domDrop s a) a = { ctxOf s a with dropped := (ctxOf s a).task.level != 0 || (ctxOf s a).dropped } := by
  simp only [domDrop]
  split
  · rename_i h
    have hd : ((ctxOf s a).task.level != 0 || (ctxOf s a).dropped) = (ctxOf s a).dropped := by
      rcases Bool.or_eq_true_iff.1 h with h | h
      · simp [of_decide_eq_true h]
      · simp [h]
    rw [hd]
  · rename_i h
    have hd : ((ctxOf s a).task.level != 0 || (ctxOf s a).dropped) = true := by
      rw [Bool.or_eq_true, decide_eq_true_eq, not_or] at h
      rw [bne_iff_ne.2 h.1, Bool.true_or]
    rw [hd, modCtx_eq, ctxOf_setCtx, ctxOf_domSend]

/-- Settles O14: each word by its guard and by the mode of its context; TEXIT through the parts of its end. -/
theorem trapAndExitResult : Obligations.TrapAndExitResult := by
  unfold Obligations.TrapAndExitResult
  refine ⟨fun s u hu => ⟨fun o h => ⟨exec_trap_runs h, fun hd => ?_, fun hd => ?_⟩,
    fun o h => ⟨exec_eret_handler ⟨hu, h⟩, exec_eret_barred ⟨hu, h⟩⟩, fun o h => ⟨?_, ?_⟩, fun o h => ?_⟩,
    fun o s u hg => ?_⟩
  · rw [exec_bkpt_runs hu h, hd, if_neg Bool.false_ne_true]
  · rw [exec_bkpt_runs hu h, if_pos hd]
  · exact (exec_trap o s).trans (if_neg (by rw [h]; exact Bool.false_ne_true))
  · exact (exec_bkpt o s).trans (if_neg (by rw [h]; exact Bool.false_ne_true))
  · exact (exec_eret o s).trans (slot_off h)
  · obtain ⟨l, hl⟩ := ctxOf_issueEnded u.ag s
    refine ⟨_, exec_texit_eq hg, ?_⟩
    rw [ctxOf_haltAll, ctxOf_domDrop, hl]
    exact ⟨rfl, rfl, rfl, rfl, rfl, fun h => by simp [h]⟩

end Sys2Proof.Proofs

/-!
PROOFS. Lane arithmetic: integer lanes, funnel shifts and the canonical NaN (O26).
-/

namespace Sys2Proof.Proofs
open Sys2Proof Sys2Proof.Machine Sys2Proof.Laws

/-! ## Integer lanes (spec/10_vector_instructions.md R232, R234) -/

theorem intCode_eq_emod (w : Nat) (z : Int) : (intCode w z : Int) = z % (2 ^ w : Nat) := by
  rw [intCode, BitVec.toNat_ofInt, Int.toNat_of_nonneg (Int.emod_nonneg _ (by positivity))]

theorem clampInt_of_lt {lo hi z : Int} (h : z < lo) : clampInt lo hi z = lo := if_pos h

theorem clampInt_of_gt {lo hi z : Int} (hle : lo ≤ hi) (h : hi < z) : clampInt lo hi z = hi :=
  (if_neg (by omega)).trans (if_pos h)

theorem clampInt_of_mem {lo hi z : Int} (hlo : lo ≤ z) (hhi : z ≤ hi) : clampInt lo hi z = z :=
  (if_neg (by omega)).trans (if_neg (by omega))

theorem intMin_le_intMax (w : Nat) (u : Bool) : intMin w u ≤ intMax w u := by
  have := Nat.two_pow_pos w
  have := Nat.two_pow_pos (w - 1)
  rw [intMin, intMax]
  split <;> omega

section integerLanes
variable {ty : VType} {a b d : Nat} {f : Int → Int → Int} {g : Bool → Val → Val → Val}

theorem arithLane_int (h : ty.et ≤ 2) :
    arithLane ty f g a b d = intLane ty.w ty.u ty.sat (f (intOf ty.w ty.u a) (intOf ty.w ty.u b)) := by
  simp only [arithLane, (elem_of_le_two h).1]

theorem minMaxLane_int (h : ty.et ≤ 2) : minMaxLane ty false a b = (if intOf ty.w ty.u b < intOf ty.w ty.u a then b else a) ∧
    minMaxLane ty true a b = if intOf ty.w ty.u a < intOf ty.w ty.u b then b else a := by
  simp only [minMaxLane, (elem_of_le_two h).1, if_true, Bool.false_eq_true, if_false, and_self]

theorem arithLane_wraps (h : ty.et ≤ 2) (hs : ty.sat = false) :
    (arithLane ty f g a b d : Int) = f (intOf ty.w ty.u a) (intOf ty.w ty.u b) % (2 ^ ty.w : Nat) := by
  rw [arithLane_int h, hs, intLane, if_neg Bool.false_ne_true, intCode_eq_emod]

theorem arithLane_saturates (h : ty.et ≤ 2) (hs : ty.sat = true) : (arithLane ty f g a b d : Int) =
    clampInt (intMin ty.w ty.u) (intMax ty.w ty.u) (f (intOf ty.w ty.u a) (intOf ty.w ty.u b)) % (2 ^ ty.w : Nat) := by
  rw [arithLane_int h, hs, intLane, if_pos rfl, intCode_eq_emod]

end integerLanes

/-! ## The canonical NaN (spec/07_scalar_and_control_instructions.md R155) -/

section canonical
variable {mode draw : Nat} {down : Bool}

theorem roundTo_canonNaN : roundTo .fp32 mode false draw (.nan canonNaN) = 0x7FC00000 := rfl

theorem addV_nan {x y : Val} (h : (isNaN x || isNaN y) = true) : addV down x y = .nan canonNaN := by
  cases x with
  | nan i => rfl
  | inf s | fin s m e =>
    cases y with
    | nan i => rfl
    | inf t | fin t n d => cases h

theorem mulV_nan {x y : Val} (h : (isNaN x || isNaN y) = true) : mulV x y = .nan canonNaN := by
  cases x with
  | nan i => rfl
  | inf s | fin s m e =>
    cases y with
    | nan i => rfl
    | inf t | fin t n d => cases h

theorem addV_opposite_infinities (b : Bool) : addV down (.inf b) (.inf (!b)) = .nan canonNaN := by cases b <;> rfl

theorem mulV_zero_infinity (a b : Bool) (e : Int) :
    mulV (.fin a 0 e) (.inf b) = .nan canonNaN ∧ mulV (.inf b) (.fin a 0 e) = .nan canonNaN := ⟨rfl, rfl⟩

end canonical

/-! ## Words of two vectors (spec/10_vector_instructions.md R225, R229) -/

section vectors
variable {s s1 t t1 : State} {u : Issue} {x y : Vec}

/-- A vector source changes the queues of its core only. -/
theorem vsource_keeps {f : VFile} {q : Nat} {pop : Bool} {v : Vec} (h : vsource f q pop s = .ok (v, t)) :
    curCtx t = curCtx s := by
  simp only [vsource] at h
  split at h
  · cases h
  · split at h
    · cases h
    · cases h
      rfl

theorem readsV2_curCtx {a b dst : Nat} {m n : Bool} (h : readsV2 a m b n dst s x y t) : curCtx t = curCtx s := by
  obtain ⟨_, s1, ⟨_, _, h1⟩, h2⟩ := h
  exact (vsource_keeps h2).trans (vsource_keeps h1)

theorem vpOf_takeDraws (mode n k : Nat) (s : State) : vpOf (curCtx (takeDraws mode n s).2) k = vpOf (curCtx s) k := by
  rw [takeDraws, curCtx_modCur]
  rfl

/-- A word of two vectors completes with the lanes of its operation, wherever they are routed. -/
theorem formV2_lands {i : Instr} {o : VAB} {L : Nat} {ok : VType → Bool} {draws : VType → Nat}
    {op : VType → W256 → Nat → Nat → List Nat → List Nat} {P : List Nat → Prop}
    (hi : exec i s = formV2 o L ok draws op s) (hg : slotRuns o.g u s) (hok : ok (curVType s) = true) (hr : readsV2 o.a o.m o.b o.n o.t s x y t)
    (hP : P (op (curVType s) (vpOf (curCtx s) o.l) x.toNat y.toNat
      (takeDraws (curVType s).mode (draws (curVType s)) t).1)) :
    landsLanes i s u L o.t (curVType s) false (curVType s).w
      (takeDraws (curVType s).mode (draws (curVType s)) t).2 P := by
  refine ⟨_, hP, fun t1 ht1 => hi.trans (slot_ok hg ?_)⟩
  rw [← readsV2_curCtx hr, ← vpOf_takeDraws] at ht1
  obtain ⟨hb, s1, ⟨ha, hroute, h1⟩, h2⟩ := hr
  have hq : (qHeld o.a s && qHeld o.b s && routeHeld o.t s) = true := by rw [ha, hb, hroute]; rfl
  exact (bind_of_ok (need_holds hok) _).trans ((bind_of_ok (need_holds hq) _).trans
    ((bind_of_ok h1 _).trans ((bind_of_ok h2 _).trans ht1)))

/-- Lane by lane, governed. -/
theorem lanesAre_zipLanes {ty : VType} {m : W256} {a b : Nat} {ds : List Nat} {f : Nat → Nat → Nat → Nat} {g : Nat → Nat}
    (h : ∀ i, f (elem ty.w a i) (elem ty.w b i) (drawAt ds i) = g i) : lanesAre ty m g (zipLanes ty m a b ds f) := by
  have hz : zipLanes ty m a b ds f = zeroFalse m ty.w ((List.range ty.nl).map g) := by simp only [zipLanes, h]
  rw [hz]
  exact lanesAre_zeroFalse ty m g

/-- A word of two vectors that takes no draw, its operation made of each pair of lanes. -/
theorem formV2_lands_zip {i : Instr} {o : VAB} {L : Nat} {f : VType → Nat → Nat → Nat} {g : Nat → Nat}
    (hi : exec i s = formV2 o L anyType noDraws (fun t m a b ds => zipLanes t m a b ds (fun x y _ => f t x y)) s)
    (hg : slotRuns o.g u s) (hr : readsV2 o.a o.m o.b o.n o.t s x y t)
    (h : ∀ i, f (curVType s) (elem (curVType s).w x.toNat i) (elem (curVType s).w y.toNat i) = g i) :
    landsLanes i s u L o.t (curVType s) false (curVType s).w (takeDraws (curVType s).mode 0 t).2
      (lanesAre (curVType s) (vpOf (curCtx s) o.l) g) :=
  formV2_lands (ok := anyType) (draws := noDraws) hi hg rfl hr
    (lanesAre_zipLanes (f := fun x y _ => f (curVType s) x y) h)

end vectors

/-! ## Funnel shifts by none and by all of the lane (R240) -/

theorem elem_lt (w v i : Nat) : elem w v i < 2 ^ w := Nat.mod_lt _ (Nat.two_pow_pos w)

theorem funnel_left_none {x y w : Nat} (hx : x < 2 ^ w) (hy : y < 2 ^ w) : (x * 2 ^ w + y) * 2 ^ 0 / 2 ^ w % 2 ^ w = x := by
  rw [pow_zero, mul_one, mul_comm, Nat.mul_add_div (Nat.two_pow_pos w), Nat.div_eq_of_lt hy, Nat.add_zero, Nat.mod_eq_of_lt hx]

theorem funnel_left_all {x y w : Nat} (hy : y < 2 ^ w) : (x * 2 ^ w + y) * 2 ^ w / 2 ^ w % 2 ^ w = y := by
  rw [Nat.mul_div_cancel _ (Nat.two_pow_pos w), Nat.mul_add_mod_of_lt hy]

theorem funnel_right_none {x y w : Nat} (hy : y < 2 ^ w) : (x * 2 ^ w + y) / 2 ^ 0 % 2 ^ w = y := by
  rw [pow_zero, Nat.div_one, Nat.mul_add_mod_of_lt hy]

theorem funnel_right_all {x y w : Nat} (hx : x < 2 ^ w) (hy : y < 2 ^ w) : (x * 2 ^ w + y) / 2 ^ w % 2 ^ w = x := by
  rw [mul_comm, Nat.mul_add_div (Nat.two_pow_pos w), Nat.div_eq_of_lt hy, Nat.add_zero, Nat.mod_eq_of_lt hx]

theorem shift_all {ty : VType} (h : ty.w ≤ ty.shamt) : ty.shift = ty.w := by
  rw [VType.shift]
  split <;> omega

theorem shift_none {ty : VType} (h : ty.shamt = 0) : ty.shift = 0 := by
  rw [VType.shift]
  split <;> omega

/-- Settles O26: integer lanes through their narrowing, the NaN through the exact values, the funnel shifts lane by lane. -/
theorem laneArithmetic : Obligations.LaneArithmetic := by
  unfold Obligations.LaneArithmetic
  refine ⟨fun ty a b d h ha hb => ?_, fun mode draw down x y => ⟨fun h => ?_, fun b => ?_, fun a b e => ?_⟩,
    fun o s t u x y hg hr => ?_⟩
  · intro p q lo hi f g
    obtain ⟨hmin, hmax⟩ := minMaxLane_int (a := a) (b := b) h
    refine ⟨arithLane_wraps h, fun hs hlo hhi => ?_, fun hs hlo => ?_, fun hs hhi => ?_, hmin, hmax⟩
    · exact (arithLane_saturates h hs).trans (congrArg (· % ((2 ^ ty.w : Nat) : Int)) (clampInt_of_mem hlo hhi))
    · exact (arithLane_saturates h hs).trans (congrArg (· % ((2 ^ ty.w : Nat) : Int)) (clampInt_of_lt hlo))
    · exact (arithLane_saturates h hs).trans
        (congrArg (· % ((2 ^ ty.w : Nat) : Int)) (clampInt_of_gt (intMin_le_intMax _ _) hhi))
  · rw [addV_nan h, mulV_nan h]
    exact ⟨rfl, rfl⟩
  · rw [addV_opposite_infinities, roundTo_canonNaN]
  · exact ⟨rfl, rfl⟩
  · have hl := fun i => elem_lt (curVType s).w x.toNat i
    have hr' := fun i => elem_lt (curVType s).w y.toNat i
    refine ⟨fun h => ⟨?_, ?_⟩, fun h => ⟨?_, ?_⟩⟩
    · exact formV2_lands_zip (exec_vfsl o s) hg hr fun i => by rw [shift_all h, funnel_left_all (hr' i)]
    · exact formV2_lands_zip (exec_vfsr o s) hg hr fun i => by rw [shift_all h, funnel_right_all (hl i) (hr' i)]
    · exact formV2_lands_zip (exec_vfsl o s) hg hr fun i => by rw [shift_none h, funnel_left_none (hl i) (hr' i)]
    · exact formV2_lands_zip (exec_vfsr o s) hg hr fun i => by rw [shift_none h, funnel_right_none (hr' i)]

end Sys2Proof.Proofs

/-!
PROOFS. Vectors: reductions, the scan and conversions (O22, O23).
-/

namespace Sys2Proof.Proofs
open Sys2Proof Sys2Proof.Machine Sys2Proof.Laws

/-! ## Words of one vector (spec/10_vector_instructions.md R225, R229) -/

section oneVector
variable {s t : State} {u : Issue} {x : Vec}

theorem readsV1_curCtx {a dst : Nat} {m : Bool} (h : readsV1 a m dst s x t) : curCtx t = curCtx s := by
  obtain ⟨_, _, hv⟩ := h
  exact vsource_keeps hv

/-- A word of one vector completes with the lanes of its operation, wherever they are routed. -/
theorem formV1_lands {i : Instr} {o : VA} {L : Nat} {ok : VType → Bool} {draws : VType → Nat} {zx : Bool}
    {op : VType → W256 → Nat → List Nat → List Nat} {P : List Nat → Prop} (hi : exec i s = formV1 o L ok draws zx op s)
    (hg : slotRuns o.g u s) (hok : ok (curVType s) = true) (hr : readsV1 o.a o.m o.t s x t)
    (hP : P (op (curVType s) (vpOf (curCtx s) o.l) x.toNat
      (takeDraws (curVType s).mode (draws (curVType s)) t).1)) :
    landsLanes i s u L o.t (curVType s) zx (curVType s).w
      (takeDraws (curVType s).mode (draws (curVType s)) t).2 P := by
  refine ⟨_, hP, fun t1 ht1 => hi.trans (slot_ok hg ?_)⟩
  rw [← readsV1_curCtx hr, ← vpOf_takeDraws] at ht1
  obtain ⟨ha, hroute, hv⟩ := hr
  have hq : (qHeld o.a s && routeHeld o.t s) = true := by rw [ha, hroute]; rfl
  exact (bind_of_ok (need_holds hok) _).trans ((bind_of_ok (need_holds hq) _).trans ((bind_of_ok hv _).trans ht1))

end oneVector

/-- Settles O22: each word is its form applied to its operation on the groups. -/
theorem vectorGroups : Obligations.VectorGroups := by
  unfold Obligations.VectorGroups
  intro o s t u x hg hr ty m lands groups
  refine ⟨?_, ?_, ?_, ?_, ?_⟩
  · exact formV1_lands (draws := noDraws) (exec_vrmax o s) hg rfl hr rfl
  · exact formV1_lands (draws := noDraws) (exec_vrmin o s) hg rfl hr rfl
  · exact formV1_lands (draws := noDraws) (exec_vramax o s) hg rfl hr rfl
  · exact formV1_lands (draws := treeDraws) (exec_vradd o s) hg rfl hr rfl
  · exact formV1_lands (draws := scanDraws) (exec_vscan o s) hg rfl hr rfl

/-! ## Conversions (R243, R244) -/

section conversions
variable {s t : State} {u : Issue} {x y : Vec}

/-- A result that no scalar register takes is written as a vector. -/
theorem routeLanes_vector {L d w : Nat} {ty : VType} {zx : Bool} {l : List Nat} (h : dstScalar d = false) (s : State) :
    routeLanes L d ty zx w l s = writeVec L d (lanesVec w l) s := if_neg (by simp [h])

theorem getD_map_range {α : Type} (f : Nat → α) (d : α) {n i : Nat} (h : i < n) : ((List.range n).map f).getD i d = f i := by
  simp [List.getD_eq_getElem?_getD, h]

theorem vcvt_lands {o : VAR} {src dst : Elem} (hsrc : src = if o.r then (curVType s).conv else (curVType s).elem)
    (hdst : dst = if o.r then (curVType s).elem else (curVType s).conv) (hg : slotRuns o.g u s) (hd : dstScalar o.t = false)
    (hr : readsV1 o.a o.m o.t s x t) {P : List Nat → Prop}
    (hP : P (cvtElems (curVType s) (vpOf (curCtx s) o.l) x.toNat src dst
      (takeDraws (curVType s).mode (2048 / max src.width dst.width) t).1)) :
    landsLanes (.vcvt o) s u 4 o.t (curVType s) false dst.width
      (takeDraws (curVType s).mode (2048 / max src.width dst.width) t).2 P := by
  subst hsrc hdst
  refine ⟨_, hP, fun t1 ht1 => (exec_vcvt o s).trans (slot_ok hg ?_)⟩
  rw [routeLanes_vector hd, ← readsV1_curCtx hr, ← vpOf_takeDraws] at ht1
  obtain ⟨ha, hroute, hv⟩ := hr
  have hq : (qHeld o.a s && routeHeld o.t s) = true := by rw [ha, hroute]; rfl
  exact (bind_of_ok (need_holds hq) _).trans ((bind_of_ok hv _).trans ht1)

/-- R244: lane `i` of VQNT. -/
def qntLane (ty : VType) (m : W256) (a b : Nat) (ds : List Nat) (i : Nat) : Nat :=
  if !governs m ty.w i || blockScale b i == -128 then 0
  else ty.conv.round ty.mode ty.sat (drawAt ds i) (scaleV (-(blockScale b i)) (ty.elem.val (elem ty.w a i)))

theorem qntLane_eq (ty : VType) (m : W256) (a b : Nat) (ds : List Nat) (i : Nat) : qntLane ty m a b ds i =
    if governs m ty.w i ∧ blockScale b i ≠ -128 then
      ty.conv.round ty.mode ty.sat (drawAt ds i) (scaleV (-(blockScale b i)) (ty.elem.val (elem ty.w a i)))
    else 0 := by
  by_cases hm : governs m ty.w i = true
  · by_cases hs : blockScale b i = -128 <;> simp [qntLane, hm, hs]
  · simp [qntLane, hm]

theorem vqnt_lands {o : VAB} (hg : slotRuns o.g u s) (hok : quantType (curVType s) = true) (hd : dstScalar o.t = false)
    (hr : readsV2 o.a o.m o.b o.n o.t s x y t) {P : List Nat → Prop}
    (hP : P ((List.range (curVType s).nl).map (qntLane (curVType s) (vpOf (curCtx s) o.l) x.toNat y.toNat
      (takeDraws (curVType s).mode (curVType s).nl t).1))) :
    landsLanes (.vqnt o) s u 6 o.t (curVType s) false (curVType s).conv.width
      (takeDraws (curVType s).mode (curVType s).nl t).2 P := by
  refine ⟨_, hP, fun t1 ht1 => (exec_vqnt o s).trans (slot_ok hg ?_)⟩
  rw [routeLanes_vector hd, ← readsV2_curCtx hr, ← vpOf_takeDraws] at ht1
  obtain ⟨hb, s1, ⟨ha, hroute, h1⟩, h2⟩ := hr
  have hq : (qHeld o.a s && qHeld o.b s && routeHeld o.t s) = true := by rw [ha, hb, hroute]; rfl
  exact (bind_of_ok (need_holds hok) _).trans ((bind_of_ok (need_holds hq) _).trans
    ((bind_of_ok h1 _).trans ((bind_of_ok h2 _).trans ht1)))

end conversions

/-- Settles O23: each conversion is its body, lane by lane. -/
theorem vectorConvert : Obligations.VectorConvert := by
  unfold Obligations.VectorConvert
  refine ⟨fun o s t u x hg hr hd => ?_, fun o s t u x y hg hr => ?_⟩
  · exact vcvt_lands rfl rfl hg hd hr ⟨by simp [cvtElems], fun i hi => getD_map_range _ 0 hi⟩
  · intro ty d gov hf hlo hhi
    have hok : quantType ty = true := by simp [quantType, hf, hlo, hhi]
    refine ⟨fun hd => vqnt_lands hg hok hd hr ⟨by simp [ty], fun i hi => ?_⟩, formV2_lands (exec_vdqnt o s) hg hok hr ?_⟩
    · exact (getD_map_range _ 0 hi).trans (qntLane_eq _ _ _ _ _ _)
    · simp only [beq_iff_eq]
      exact lanesAre_zeroFalse _ _ _

end Sys2Proof.Proofs

/-!
PROOFS. The matrix engine: accumulator banks as lists of elements (for O27).
-/

namespace Sys2Proof.Proofs
open Sys2Proof Sys2Proof.Machine Sys2Proof.Laws

/-! ## Accumulator banks (spec/12_matrix_engine_and_recipes.md R256, R262) -/

theorem length_denseFrom (n p : Nat) (t : Tab W32) : (denseFrom n p t).length = n := by
  induction n generalizing p t with
  | zero => rfl
  | succ n ih =>
    cases t with
    | nil => simp [denseFrom, ih]
    | cons e t =>
      rw [denseFrom]
      split <;> simp [ih]

theorem length_bankList (k : Core) (b : Nat) : (bankList k b).length = 24576 := length_denseFrom _ _ _

theorem denseFrom_unlisted {p : Nat} {t : Tab W32} (n : Nat) (h : ∀ e ∈ t.head?, p < e.1) :
    denseFrom (n + 1) p t = 0 :: denseFrom n (p + 1) t := by
  cases t with
  | nil => rfl
  | cons e t => exact if_neg (Nat.ne_of_gt (h e rfl))

theorem denseFrom_beyond {n p : Nat} {t : Tab W32} (h : ∀ e ∈ t.head?, p + n ≤ e.1) :
    denseFrom n p t = List.replicate n 0 := by
  induction n generalizing p with
  | zero => rfl
  | succ n ih =>
    rw [denseFrom_unlisted n fun e he => by have := h e he; omega, ih fun e he => by have := h e he; omega,
      List.replicate_succ]

/-- What is listed beyond the positions read does not matter. -/
theorem denseFrom_append {n p : Nat} (t : Tab W32) {r : Tab W32} (h : ∀ e ∈ r, p + n ≤ e.1) :
    denseFrom n p (t ++ r) = denseFrom n p t := by
  induction n generalizing p t with
  | zero => rfl
  | succ n ih =>
    have hr : ∀ e ∈ r, p + 1 + n ≤ e.1 := fun e he => by have := h e he; omega
    cases t with
    | nil => rw [List.nil_append, denseFrom_beyond fun e he => h e (List.mem_of_mem_head? he), denseFrom_beyond (by simp)]
    | cons e t =>
      rw [List.cons_append, denseFrom, denseFrom, ih _ hr, ← List.cons_append, ih _ hr]

theorem mem_numbered {p : Nat} {l : List Nat} {e : Nat × W32} (h : e ∈ numbered p l) : p ≤ e.1 ∧ e.1 < p + l.length := by
  induction l generalizing p with
  | nil => cases h
  | cons v l ih =>
    rw [numbered, List.mem_cons] at h
    rw [List.length_cons]
    rcases h with rfl | h
    · exact ⟨Nat.le_refl p, by simp⟩
    · have := ih h
      omega

theorem denseFrom_numbered (p : Nat) (l : List Nat) :
    denseFrom l.length p ((numbered p l).filter (fun e => e.2 != 0)) = l.map (· % 2 ^ 32) := by
  induction l generalizing p with
  | nil => rfl
  | cons v l ih =>
    rw [numbered, List.length_cons, List.map_cons]
    by_cases hv : BitVec.ofNat 32 v = 0
    · have hz : v % 2 ^ 32 = 0 := congrArg BitVec.toNat hv
      rw [List.filter_cons_of_neg (by simp [hv]), hz, denseFrom_unlisted, ih]
      intro e he
      exact (mem_numbered (List.mem_of_mem_filter (List.mem_of_mem_head? he))).1
    · rw [List.filter_cons_of_pos (by simpa using hv), denseFrom, if_pos rfl, ih, BitVec.toNat_ofNat]

/-- Entries of which none is dropped end what `dropWhile` drops. -/
theorem dropWhile_append_kept {α : Type} {q : α → Bool} {r : List α} (t : List α) (h : ∀ e ∈ r, q e = false) :
    (t ++ r).dropWhile q = t.dropWhile q ++ r := by
  have hr : r.dropWhile q = r := by
    cases r with
    | nil => rfl
    | cons e r => exact List.dropWhile_cons_of_neg (by simp [h e List.mem_cons_self])
  rw [List.dropWhile_append, hr]
  split <;> simp_all

theorem le_of_head_dropWhile {p : Nat} {t : Tab W32} {e : Nat × W32}
    (h : e ∈ (t.dropWhile (fun e => decide (e.1 < p))).head?) : p ≤ e.1 := by
  have := List.head?_dropWhile_not (fun e : Nat × W32 => decide (e.1 < p)) t
  rw [Option.mem_def.1 h] at this
  simpa using this

theorem bankAt_succ (b : Nat) : bankAt (b + 1) = bankAt b + 24576 := Nat.succ_mul b 24576

theorem bankAt_le {b c : Nat} (h : b ≤ c) : bankAt b ≤ bankAt c := Nat.mul_le_mul_right _ h

theorem beyond_bank {n b : Nat} (hn : bankAt b ≤ n) (hb : n / 24576 ≠ b) : bankAt b + 24576 ≤ n := by
  have hlt : b < n / 24576 := lt_of_le_of_ne ((Nat.le_div_iff_mul_le (by decide)).2 hn) hb.symm
  exact (bankAt_succ b).symm.trans_le ((Nat.le_div_iff_mul_le (by decide)).1 hlt)

theorem bankList_zeroBanks (k : Core) (b : Nat) : bankList (zeroBanks (· == b) k) b = List.replicate 24576 0 := by
  refine denseFrom_beyond fun e he => beyond_bank (le_of_head_dropWhile he) ?_
  simpa using (List.mem_filter.1 ((List.dropWhile_suffix _).mem (List.mem_of_mem_head? he))).2

/-- A bank is read from its own entries, whatever stands before them and after them. -/
theorem bankList_of_parts {k : Core} {b : Nat} {lo own hi : Tab W32} (h : k.accs = lo ++ (own ++ hi))
    (hlo : ∀ e ∈ lo, e.1 < bankAt b) (hown : ∀ e ∈ own, bankAt b ≤ e.1) (hhi : ∀ e ∈ hi, bankAt b + 24576 ≤ e.1) :
    bankList k b = denseFrom 24576 (bankAt b) own := by
  have hkept : ∀ e ∈ own ++ hi, decide (e.1 < bankAt b) = false := by
    intro e he
    rw [decide_eq_false_iff_not, not_lt]
    rcases List.mem_append.1 he with he | he
    · exact hown e he
    · exact (Nat.le_add_right _ _).trans (hhi e he)
  have hdrop := dropWhile_append_kept [] hkept
  rw [List.dropWhile_nil, List.nil_append] at hdrop
  rw [bankList, h, List.dropWhile_append_of_pos (by simpa using hlo), hdrop, denseFrom_append _ hhi]

/-- The entries below a position. -/
def accsBelow (t : Tab W32) (p : Nat) : Tab W32 := t.filter (fun e => decide (e.1 < p))
/-- The entries from a position on. -/
def accsFrom (t : Tab W32) (p : Nat) : Tab W32 := t.filter (fun e => decide (p ≤ e.1))

theorem lt_of_mem_accsBelow {t : Tab W32} {p : Nat} : ∀ e ∈ accsBelow t p, e.1 < p :=
  fun _ he => of_decide_eq_true (List.mem_filter.1 he).2

theorem le_of_mem_accsFrom {t : Tab W32} {p : Nat} : ∀ e ∈ accsFrom t p, p ≤ e.1 :=
  fun _ he => of_decide_eq_true (List.mem_filter.1 he).2

/-- The positions of a table rise. -/
def risingAccs (t : Tab W32) : Prop := (t.map (·.1)).Pairwise (· < ·)

theorem risingAccs_filter {t : Tab W32} (h : risingAccs t) (q : Nat × W32 → Bool) : risingAccs (t.filter q) :=
  h.sublist (List.filter_sublist.map _)

/-- In order of position, what lies below a position comes first. -/
theorem accsBelow_append_accsFrom {t : Tab W32} (h : risingAccs t) (p : Nat) : accsBelow t p ++ accsFrom t p = t := by
  induction t with
  | nil => rfl
  | cons e t ih =>
    obtain ⟨he, ht⟩ := List.pairwise_cons.1 h
    have ih := ih ht
    by_cases hp : e.1 < p
    · rw [accsBelow, accsFrom, List.filter_cons_of_pos (by simpa using hp), List.filter_cons_of_neg (by simpa using hp)]
      exact congrArg (e :: ·) ih
    · have hnone : accsBelow t p = [] := List.filter_eq_nil_iff.2 fun d hd => by
        rw [decide_eq_true_eq, not_lt]
        exact (not_lt.1 hp).trans (he d.1 (List.mem_map_of_mem hd)).le
      rw [hnone, List.nil_append] at ih
      rw [accsBelow, accsFrom, List.filter_cons_of_neg (by simpa using hp), List.filter_cons_of_pos (by simpa using hp)]
      exact congrArg₂ (fun x y => x ++ e :: y) hnone ih

/-- The entries that a bank's new elements list. -/
def newAccs (b : Nat) (l : List Nat) : Tab W32 := (numbered (bankAt b) l).filter (fun e => e.2 != 0)

theorem mem_newAccs {b : Nat} {l : List Nat} (hl : l.length = 24576) :
    ∀ e ∈ newAccs b l, bankAt b ≤ e.1 ∧ e.1 < bankAt (b + 1) := by
  intro e he
  rw [bankAt_succ, ← hl]
  exact mem_numbered (List.mem_of_mem_filter he)

theorem accs_setBank (k : Core) (b : Nat) (l : List Nat) :
    (setBank k b l).accs = accsBelow k.accs (bankAt b) ++ (newAccs b l ++ accsFrom k.accs (bankAt (b + 1))) :=
  List.append_assoc _ _ _

theorem bankList_setBank (k : Core) (b : Nat) {l : List Nat} (hl : l.length = 24576) :
    bankList (setBank k b l) b = l.map (· % 2 ^ 32) := by
  rw [bankList_of_parts (accs_setBank k b l) lt_of_mem_accsBelow (fun e he => (mem_newAccs hl e he).1)
    (fun e he => (bankAt_succ b).symm.trans_le (le_of_mem_accsFrom e he)), ← hl, newAccs, denseFrom_numbered]

theorem bankList_setBank_below {k : Core} {b c : Nat} {l : List Nat} (hk : risingAccs k.accs) (hl : l.length = 24576)
    (hc : c < b) : bankList (setBank k b l) c = bankList k c := by
  have hle : bankAt c + 24576 ≤ bankAt b := (bankAt_succ c).symm.trans_le (bankAt_le hc)
  have hlow : accsBelow k.accs (bankAt b) = accsBelow (accsBelow k.accs (bankAt b)) (bankAt c) ++
      accsFrom (accsBelow k.accs (bankAt b)) (bankAt c) := (accsBelow_append_accsFrom (risingAccs_filter hk _) _).symm
  have hset := accs_setBank k b l
  have hold := (accsBelow_append_accsFrom hk (bankAt b)).symm
  rw [hlow, List.append_assoc] at hset hold
  rw [bankList_of_parts hset lt_of_mem_accsBelow le_of_mem_accsFrom, bankList_of_parts hold lt_of_mem_accsBelow le_of_mem_accsFrom]
  · exact fun e he => hle.trans (le_of_mem_accsFrom e he)
  · intro e he
    rcases List.mem_append.1 he with he | he
    · exact hle.trans (mem_newAccs hl e he).1
    · exact hle.trans ((bankAt_le (Nat.le_succ b)).trans (le_of_mem_accsFrom e he))

theorem bankList_setBank_above {k : Core} {b c : Nat} {l : List Nat} (hk : risingAccs k.accs) (hl : l.length = 24576)
    (hc : b < c) : bankList (setBank k b l) c = bankList k c := by
  have hle : bankAt (b + 1) ≤ bankAt c := bankAt_le hc
  have hhigh : accsFrom k.accs (bankAt (b + 1)) = accsBelow (accsFrom k.accs (bankAt (b + 1))) (bankAt c) ++
      (accsFrom (accsFrom k.accs (bankAt (b + 1))) (bankAt c) ++ []) := by
    rw [List.append_nil]
    exact (accsBelow_append_accsFrom (risingAccs_filter hk _) _).symm
  have hset := accs_setBank k b l
  have hold := (accsBelow_append_accsFrom hk (bankAt (b + 1))).symm
  rw [hhigh] at hset hold
  rw [← List.append_assoc] at hold
  rw [← List.append_assoc, ← List.append_assoc] at hset
  rw [bankList_of_parts hset _ le_of_mem_accsFrom (by simp), bankList_of_parts hold _ le_of_mem_accsFrom (by simp)]
  · intro e he
    rcases List.mem_append.1 he with he | he
    · exact (lt_of_mem_accsBelow e he).trans_le hle
    · exact lt_of_mem_accsBelow e he
  · intro e he
    rcases List.mem_append.1 he with he | he
    · rcases List.mem_append.1 he with he | he
      · exact (lt_of_mem_accsBelow e he).trans_le ((bankAt_le (Nat.le_succ b)).trans hle)
      · exact (mem_newAccs hl e he).2.trans_le hle
    · exact lt_of_mem_accsBelow e he

theorem bankList_setBank_other {k : Core} {b c : Nat} {l : List Nat} (hk : risingAccs k.accs) (hl : l.length = 24576)
    (hc : c ≠ b) : bankList (setBank k b l) c = bankList k c := by
  rcases Nat.lt_or_gt_of_ne hc with h | h
  · exact bankList_setBank_below hk hl h
  · exact bankList_setBank_above hk hl h

end Sys2Proof.Proofs

/-!
PROOFS. The matrix engine: the fold of a K-block, and what a drain writes (for O27).
-/

namespace Sys2Proof.Proofs
open Sys2Proof Sys2Proof.Machine Sys2Proof.Laws

/-! ## Half segments and their products (R192, R258, R263, R276) -/

section products
variable {m : Mem} {tags : Tab (BitVec 14)} {base f o h psel : Nat} {g : Bool}

theorem denseHalf_vals : (denseHalf m tags base f g o h).vals = (List.range 16).map (fun i =>
    (i, ((fmtOf f).getD .fp32).decode (elem ((fmtOf f).getD .fp32).width
      (segBits m (segAddr base f g o h) (if g then segBytes f / 2 else segBytes f)) (if g then i else 16 * h + i)))) := by
  cases g
  · rfl
  · simp [denseHalf]

/-- The data of a 2:4 half segment is a whole number of bytes. -/
theorem sparse_data_bits (w : Nat) : 8 * ((if g then 16 else 32) / 2 * w / 8) = (if g then 16 else 32) / 2 * w := by
  split <;> omega

theorem sparseHalf_vals : (sparseHalf m tags base f g o h psel).vals =
    let v := segBits m (segAddr base f g o h) (if g then segBytes f / 2 else segBytes f)
    let fm := (fmtOf f).getD .fp32
    (List.range 4).flatMap (fun i =>
      let e := (if g then 0 else 4 * h) + i
      let nibble := v / 2 ^ ((if g then 16 else 32) / 2 * fm.width) / 2 ^ (4 * e) % 16
      let i0 := if psel = 0 then nibble % 4 else (pselPair psel).1
      let i1 := if psel = 0 then nibble / 4 else (pselPair psel).2
      if i0 = i1 then [(4 * i + i0, fm.decode (elem fm.width v (2 * e)))]
      else [(4 * i + i0, fm.decode (elem fm.width v (2 * e))), (4 * i + i1, fm.decode (elem fm.width v (2 * e + 1)))]) := by
  by_cases hp : psel = 0
  · simp only [sparseHalf, sparse_data_bits, elem, hp, if_true]
    rfl
  · simp only [sparseHalf, sparse_data_bits, elem, hp, if_false]

theorem pselPair_lt (p : Nat) : (pselPair p).1 < 4 ∧ (pselPair p).2 < 4 := by
  unfold pselPair
  split <;> decide

theorem denseHalf_position {p : Nat × Val} (hp : p ∈ (denseHalf m tags base f g o h).vals) : p.1 < 16 := by
  rw [denseHalf_vals] at hp
  obtain ⟨i, hi, rfl⟩ := List.mem_map.1 hp
  exact List.mem_range.1 hi

theorem mem_one_or_two {α : Type} {P : Prop} [Decidable P] {x a b : α} (h : x ∈ if P then [a] else [a, b]) : x = a ∨ x = b := by
  split at h
  · exact .inl (List.mem_singleton.1 h)
  · exact List.mem_pair.1 h

theorem sparseHalf_position {p : Nat × Val} (hp : p ∈ (sparseHalf m tags base f g o h psel).vals) : p.1 < 16 := by
  rw [sparseHalf_vals] at hp
  obtain ⟨i, hi, hp⟩ := List.mem_flatMap.1 hp
  have hi := List.mem_range.1 hi
  obtain ⟨hlo, hhi⟩ := pselPair_lt psel
  rcases mem_one_or_two hp with rfl | rfl
  · simp only
    split <;> omega
  · simp only
    split <;> omega

/-- The products of a half with a dense half: each value by that of its K position, under the sum of the scales. -/
theorem halfProducts_dense {a : HalfSeg} (ha : ∀ p ∈ a.vals, p.1 < 16) :
    halfProducts a (denseHalf m tags base f g o h) =
      if a.scale = -128 ∨ segScale tags (segAddr base f g o h) = -128 then []
      else a.vals.map (fun p => scaleV (a.scale + segScale tags (segAddr base f g o h))
        (mulV p.2 (((fmtOf f).getD .fp32).decode (elem ((fmtOf f).getD .fp32).width
          (segBits m (segAddr base f g o h) (if g then segBytes f / 2 else segBytes f)) (if g then p.1 else 16 * h + p.1))))) := by
  have hs : (denseHalf m tags base f g o h).scale = segScale tags (segAddr base f g o h) := rfl
  simp only [halfProducts, hs, Bool.or_eq_true, beq_iff_eq]
  congr 1
  refine List.map_congr_left fun p hp => ?_
  rw [denseHalf_vals, getD_map_range _ _ (ha p hp)]

end products

/-! ## The fold of a K-block (R262, R267, R279) -/

section fold
variable (k : Core) (mw : Nat) (it : PlanItem) (j : Nat)

/-- R267: the first byte of K-block `j` of an execution in the A operand file. -/
def blockBaseA (w n j : Nat) : Nat := stAbase w * 64 + (stAinc w * n * (stKb w + 1) + j) * blockA (stFa w)
/-- R267: its first byte in the B operand file. -/
def blockBaseB (w n j : Nat) : Nat := stBbase w * 64 + (stBinc w * n * (stKb w + 1) + j) * blockB (stFb w)

theorem macBase_add (w n j : Nat) : (macBase w n).1 + j * blockA (stFa w) = blockBaseA w n j ∧
    (macBase w n).2 + j * blockB (stFb w) = blockBaseB w n j := by
  simp only [macBase, blockBaseA, blockBaseB, Nat.add_mul, Nat.add_assoc, and_self]

/-- R263, R276: half `h` of row `r`. -/
def rowHalf (w a0 r h : Nat) : HalfSeg :=
  if stKind w = 2 then sparseHalf k.afile k.atags a0 (stFa w) (stGa w) r h (bf mw 15 12)
  else denseHalf k.afile k.atags a0 (stFa w) (stGa w) r h
/-- R263: half `h` of column `c`. -/
def colHalf (w b0 c h : Nat) : HalfSeg := denseHalf k.bfile k.btags b0 (stFb w) (stGb w) c h

/-- The products of the cell of row `r` and column `c`. -/
def cellProducts (w a0 b0 r c : Nat) : List Val :=
  [0, 1].flatMap (fun h => halfProducts (rowHalf k mw w a0 r h) (colHalf k w b0 c h))

/-- The elements of a step's bank with a K-block folded in. -/
def foldedBank (w a0 b0 : Nat) : List Nat :=
  (List.zip (bankList k (stBank w)) ((List.range 96).flatMap (fun r => (List.range 256).map (cellProducts k mw w a0 b0 r)))).map
    (fun p => foldCell p.1 p.2)

/-- R262: the keep mask keeps K-block `j`. -/
def blockKept : Bool := bm mw (16 + (it.nb + j) % 16)
/-- R279: its granules of the A operand file fit. -/
def blockFitsA : Bool := tagsFit k.atags (stFa it.step) (stGa it.step) (blockBaseA it.step it.n j) (blockA (stFa it.step))
/-- R279: its granules of the B operand file fit. -/
def blockFitsB : Bool := tagsFit k.btags (stFb it.step) (stGb it.step) (blockBaseB it.step it.n j) (blockB (stFb it.step))

variable {k mw it j}

theorem foldBlock_dropped (h : blockKept mw it j = false) : foldBlock k mw it j = .ok k := if_pos (by simpa [blockKept] using h)

theorem foldBlock_misfitA (h : blockKept mw it j = true) (ha : blockFitsA k it j = false) :
    foldBlock k mw it j = .error (0x11 * 2 ^ 24 + it.idx * 2 ^ 13 + (it.nb + j) % 8192) := by
  obtain ⟨hA, hB⟩ := macBase_add it.step it.n j
  rw [blockKept] at h
  rw [blockFitsA] at ha
  simp only [foldBlock, hA, hB, h, ha, Bool.not_true, Bool.not_false, Bool.false_eq_true, if_true, if_false]

theorem foldBlock_misfitB (h : blockKept mw it j = true) (ha : blockFitsA k it j = true) (hb : blockFitsB k it j = false) :
    foldBlock k mw it j = .error (0x12 * 2 ^ 24 + it.idx * 2 ^ 13 + (it.nb + j) % 8192) := by
  obtain ⟨hA, hB⟩ := macBase_add it.step it.n j
  rw [blockKept] at h
  rw [blockFitsA] at ha
  rw [blockFitsB] at hb
  simp only [foldBlock, hA, hB, h, ha, hb, Bool.not_true, Bool.not_false, Bool.false_eq_true, if_true, if_false]

theorem foldBlock_folds (h : blockKept mw it j = true) (ha : blockFitsA k it j = true) (hb : blockFitsB k it j = true) :
    foldBlock k mw it j = .ok (setBank k (stBank it.step)
      (foldedBank k mw it.step (blockBaseA it.step it.n j) (blockBaseB it.step it.n j))) := by
  obtain ⟨hA, hB⟩ := macBase_add it.step it.n j
  rw [blockKept] at h
  rw [blockFitsA] at ha
  rw [blockFitsB] at hb
  simp only [foldBlock, hA, hB, h, ha, hb, Bool.not_true, Bool.false_eq_true, if_false, List.flatMap_map, List.map_map]
  rfl

end fold

/-! ## Lists of rows, and zipped lists -/

theorem length_flatMap_rows {α : Type} (f : Nat → Nat → α) (n m : Nat) :
    ((List.range n).flatMap (fun r => (List.range m).map (f r))).length = m * n := by
  simp [List.length_flatMap, Nat.mul_comm]

theorem getD_flatMap_rows {α : Type} (f : Nat → Nat → α) (d : α) {n m r c : Nat} (hr : r < n) (hc : c < m) :
    ((List.range n).flatMap (fun r => (List.range m).map (f r))).getD (m * r + c) d = f r c := by
  induction n with
  | zero => exact absurd hr (Nat.not_lt_zero r)
  | succ n ih =>
    have hlen := length_flatMap_rows f n m
    rw [List.range_succ, List.flatMap_append, List.flatMap_singleton]
    rcases Nat.lt_succ_iff_lt_or_eq.1 hr with h | rfl
    · have hin : m * r + c < m * n := (Nat.add_lt_add_left hc _).trans_le (Nat.mul_le_mul_left m h)
      rw [List.getD_append _ _ _ _ (hlen.symm ▸ hin), ih h]
    · rw [List.getD_append_right _ _ _ _ (hlen.trans_le (Nat.le_add_right _ _)), hlen, Nat.add_sub_cancel_left, getD_map_range _ _ hc]

theorem getD_map_zip {α β γ : Type} (f : α × β → γ) {l : List α} {m : List β} {i : Nat} (a : α) (b : β) (d : γ)
    (hl : i < l.length) (hm : i < m.length) : ((List.zip l m).map f).getD i d = f (l.getD i a, m.getD i b) := by
  simp [List.getD_eq_getElem?_getD, hl, hm]

theorem length_foldedBank (k : Core) (mw w a0 b0 : Nat) : (foldedBank k mw w a0 b0).length = 24576 := by
  rw [foldedBank, List.length_map, List.length_zip, length_bankList, length_flatMap_rows]
  rfl

theorem getD_foldedBank (k : Core) (mw w a0 b0 : Nat) {r c : Nat} (hr : r < 96) (hc : c < 256) :
    (foldedBank k mw w a0 b0).getD (256 * r + c) 0 =
      foldCell ((bankList k (stBank w)).getD (256 * r + c) 0) (cellProducts k mw w a0 b0 r c) := by
  have hl : 256 * r + c < (bankList k (stBank w)).length := by
    rw [length_bankList]
    omega
  have hm : 256 * r + c < ((List.range 96).flatMap (fun r => (List.range 256).map (cellProducts k mw w a0 b0 r))).length := by
    rw [length_flatMap_rows]
    omega
  rw [foldedBank, getD_map_zip _ 0 [] 0 hl hm, getD_flatMap_rows _ _ hr hc]

/-! ## Drains (R271, R272) -/

theorem kind_of_drain {w : Nat} (h : stIsDrain w = true) : stKind w = 4 ∨ stKind w = 5 := by simpa [stIsDrain] using h

theorem stepCycles_drain {w : Nat} (h : stIsDrain w = true) : stepCycles w = if stKind w = 4 then 48 else 64 := by
  rcases kind_of_drain h with h | h <;> simp [stepCycles, h]

theorem joinElems_lt (w : Nat) (l : List Nat) : joinElems w l < 2 ^ (w * l.length) := by
  induction l with
  | nil => simp [joinElems]
  | cons e l ih =>
    calc joinElems w (e :: l) = e % 2 ^ w + 2 ^ w * joinElems w l := rfl
      _ < 2 ^ w + 2 ^ w * joinElems w l := Nat.add_lt_add_right (Nat.mod_lt _ (Nat.two_pow_pos w)) _
      _ = 2 ^ w * (joinElems w l + 1) := by ring
      _ ≤ 2 ^ w * 2 ^ (w * l.length) := Nat.mul_le_mul_left _ ih
      _ = 2 ^ (w * (e :: l).length) := by rw [← pow_add, List.length_cons, Nat.mul_succ, Nat.add_comm]

theorem elem_joinElems (w : Nat) (l : List Nat) (i : Nat) : elem w (joinElems w l) i = l.getD i 0 % 2 ^ w := by
  induction l generalizing i with
  | nil => simp [joinElems, elem]
  | cons e l ih =>
    cases i with
    | zero => simp [elem, joinElems]
    | succ i =>
      have hdiv : joinElems w (e :: l) / 2 ^ w = joinElems w l := by
        rw [joinElems, Nat.add_mul_div_left _ _ (Nat.two_pow_pos w), Nat.div_eq_of_lt (Nat.mod_lt _ (Nat.two_pow_pos w)), Nat.zero_add]
      rw [List.getD_cons_succ, ← ih, elem, elem, ← hdiv, Nat.div_div_eq_div_mul, ← pow_add, Nat.mul_succ, Nat.add_comm w]

theorem tileBytes_eq (f : Nat) : tileBytes f = 24576 * ((fmtOf f).getD .fp32).width / 8 := by
  unfold tileBytes
  cases fmtOf f <;> rfl

/-- A tile of elements of `w` bits is a whole number of bytes. -/
theorem tile_bits (w : Nat) : 256 ^ (24576 * w / 8) = 2 ^ (w * 24576) := by
  rw [show (256 : Nat) = 2 ^ 8 from rfl, ← pow_mul]
  congr 1
  omega

/-- The elements of a bank in the order of a drain. -/
def drainOrder (w : Nat) (l : List Nat) : List Nat := if stKind w = 5 then byColumn l else l

theorem length_drainOrder (w : Nat) {l : List Nat} (hl : l.length = 24576) : (drainOrder w l).length = 24576 := by
  unfold drainOrder
  split
  · exact length_flatMap_rows _ 256 96
  · exact hl

theorem getD_drainOrder {w : Nat} (hw : stIsDrain w = true) (l : List Nat) {r c : Nat} (hr : r < 96) (hc : c < 256) :
    (drainOrder w l).getD (if stKind w = 4 then 256 * r + c else 96 * c + r) 0 = l.getD (256 * r + c) 0 := by
  rcases kind_of_drain hw with h | h
  · simp [drainOrder, h]
  · rw [drainOrder, if_pos h, if_neg (by omega), byColumn, getD_flatMap_rows _ 0 hc hr, Nat.mul_comm r 256]

/-- The codes of a drain, in its order. -/
def drainCodes (w : Nat) (l ds : List Nat) : List Nat :=
  (List.zip (List.range (drainOrder w l).length) (drainOrder w l)).map (fun p =>
    roundTo ((fmtOf (stFmt w)).getD .fp32) (stMode w) (stSat w) (drawAt ds p.1) (scaleV (-(stDsc w)) (Fmt.fp32.decode p.2)))

theorem drainBytes_eq (w : Nat) (l ds : List Nat) : drainBytes w l ds =
    leBytes (tileBytes (stFmt w)) (joinElems ((fmtOf (stFmt w)).getD .fp32).width (drainCodes w l ds)) := rfl

theorem length_drainBytes (w : Nat) (l ds : List Nat) :
    (drainBytes w l ds).length = 24576 * ((fmtOf (stFmt w)).getD .fp32).width / 8 :=
  (length_leBytes _ _).trans (tileBytes_eq _)

theorem length_drainCodes (w : Nat) {l : List Nat} (ds : List Nat) (hl : l.length = 24576) : (drainCodes w l ds).length = 24576 := by
  simp [drainCodes, length_drainOrder w hl]

theorem leNat_drainBytes (w : Nat) {l : List Nat} (ds : List Nat) (hl : l.length = 24576) :
    leNat (drainBytes w l ds) = joinElems ((fmtOf (stFmt w)).getD .fp32).width (drainCodes w l ds) := by
  have hlt := joinElems_lt ((fmtOf (stFmt w)).getD .fp32).width (drainCodes w l ds)
  rw [length_drainCodes w ds hl] at hlt
  rw [drainBytes_eq, leNat_leBytes, tileBytes_eq, tile_bits, Nat.mod_eq_of_lt hlt]

theorem elem_drainBytes {w : Nat} (hw : stIsDrain w = true) {l : List Nat} (ds : List Nat) (hl : l.length = 24576)
    {r c n : Nat} (hr : r < 96) (hc : c < 256) (hn : n = if stKind w = 4 then 256 * r + c else 96 * c + r) :
    elem ((fmtOf (stFmt w)).getD .fp32).width (leNat (drainBytes w l ds)) n =
      roundTo ((fmtOf (stFmt w)).getD .fp32) (stMode w) (stSat w) (ds.getD n 0)
        (scaleV (-(stDsc w)) (Fmt.fp32.decode (l.getD (256 * r + c) 0))) % 2 ^ ((fmtOf (stFmt w)).getD .fp32).width := by
  have hlt : n < (drainOrder w l).length := by
    rw [length_drainOrder w hl, hn]
    split <;> omega
  have hrange : (List.range (drainOrder w l).length).getD n 0 = n := by
    simp [List.getD_eq_getElem?_getD, hlt]
  rw [leNat_drainBytes w ds hl, elem_joinElems, drainCodes, getD_map_zip _ 0 0 0 (by simpa using hlt) hlt, hrange]
  simp only [hn, getD_drainOrder hw l hr hc, drawAt]

/-! ## The greatest magnitude of a bank (R272) -/

/-- The bit pattern of an element with bit 31 cleared; of any NaN, the canonical one. -/
def magnitude (e : Nat) : Nat := if 0x7F800000 < e % 2 ^ 31 then 0x7FC00000 else e % 2 ^ 31

theorem absMax_eq (l : List Nat) : absMax l = l.foldl (fun m e => max m (magnitude e)) 0 := rfl

theorem le_foldl_max (f : Nat → Nat) (l : List Nat) (m : Nat) :
    m ≤ l.foldl (fun m e => max m (f e)) m ∧ ∀ e ∈ l, f e ≤ l.foldl (fun m e => max m (f e)) m := by
  induction l generalizing m with
  | nil => simp
  | cons x l ih =>
    obtain ⟨h0, h⟩ := ih (max m (f x))
    rw [List.foldl_cons, List.forall_mem_cons]
    exact ⟨(le_max_left _ _).trans h0, (le_max_right _ _).trans h0, h⟩

theorem foldl_max_attained (f : Nat → Nat) (l : List Nat) (m : Nat) :
    l.foldl (fun m e => max m (f e)) m = m ∨ ∃ e ∈ l, l.foldl (fun m e => max m (f e)) m = f e := by
  induction l generalizing m with
  | nil => exact .inl rfl
  | cons x l ih =>
    rw [List.foldl_cons]
    rcases ih (max m (f x)) with h | ⟨e, he, h⟩
    · rw [h]
      rcases max_choice m (f x) with h | h
      · exact .inl h
      · exact .inr ⟨x, List.mem_cons_self, h⟩
    · exact .inr ⟨e, List.mem_cons_of_mem x he, h⟩

theorem magnitude_le_absMax (l : List Nat) : ∀ e ∈ l, magnitude e ≤ absMax l := (le_foldl_max magnitude l 0).2

theorem absMax_attained {l : List Nat} (hl : l ≠ []) : ∃ e ∈ l, absMax l = magnitude e := by
  rcases foldl_max_attained magnitude l 0 with h | h
  · obtain ⟨x, hx⟩ := List.exists_mem_of_ne_nil l hl
    have hle := magnitude_le_absMax l x hx
    rw [absMax_eq, h] at hle
    exact ⟨x, hx, h.trans (Nat.le_zero.1 hle).symm⟩
  · exact h

end Sys2Proof.Proofs

/-!
PROOFS. The matrix engine: the steps of a running call (O27).
-/

namespace Sys2Proof.Proofs
open Sys2Proof Sys2Proof.Machine Sys2Proof.Laws

/-! ## What a counted event leaves (R425) -/

theorem countEvent_cores (a : Agent) (e n : Nat) (s : State) : (countEvent a e n s).cores = s.cores := by
  rcases countEvent_cases a e n s with h | ⟨l, h⟩ <;> rw [h]
  rfl

theorem coreOf_countEvent (a : Agent) (e n : Nat) (s : State) (c : Nat) : coreOf (countEvent a e n s) c = coreOf s c := by
  rw [coreOf, countEvent_cores, coreOf]

theorem ctxOf_countEvent (a : Agent) (e n : Nat) (s : State) :
    ∃ l, ctxOf (countEvent a e n s) a = { ctxOf s a with evcnt := l } := by
  rcases countEvent_cases a e n s with h | ⟨l, h⟩
  · exact ⟨(ctxOf s a).evcnt, by rw [h]⟩
  · exact ⟨l, by rw [h, ctxOf_setCtx]⟩

theorem call_countEvent (a : Agent) (e n : Nat) (s : State) : (ctxOf (countEvent a e n s) a).call = (ctxOf s a).call := by
  obtain ⟨l, h⟩ := ctxOf_countEvent a e n s
  rw [h]

theorem pend_countEvent (a : Agent) (e n : Nat) (s : State) : (ctxOf (countEvent a e n s) a).pend = (ctxOf s a).pend := by
  obtain ⟨l, h⟩ := ctxOf_countEvent a e n s
  rw [h]

theorem lfsr_countEvent (a : Agent) (e n : Nat) (s : State) : (ctxOf (countEvent a e n s) a).lfsr = (ctxOf s a).lfsr := by
  obtain ⟨l, h⟩ := ctxOf_countEvent a e n s
  rw [h]

/-! ## The reads of a step in a cycle (R261, R262, R271) -/

/-- A call of agent `a` runs an item of its plan in a cycle that is not frozen, and no fault has stopped it (`test_hyp_matrix_step` has such
states). -/
structure CallRunning (s : State) (a : Agent) (call : MatCall) (it : PlanItem) : Prop where
  unfrozen : (ctxOf s a).frozen = false
  busy : callBusy (ctxOf s a) (ctxOf s a).clk = true
  inCall : (ctxOf s a).call = some call
  faultless : call.fault = none
  inItem : itemAt call.plan ((ctxOf s a).clk - call.t0) = some it

/-- The cycles since the item began. -/
def itemOffset (s : State) (a : Agent) (call : MatCall) (it : PlanItem) : Nat := (ctxOf s a).clk - call.t0 - it.start

theorem not_mac_of_drain {w : Nat} (h : stIsDrain w = true) : stIsMac w = false ∧ stKind w ≠ 3 := by
  rcases kind_of_drain h with h | h <;> simp [stIsMac, h]

section reads
variable {s : State} {a : Agent} {call : MatCall} {it : PlanItem} (h : CallRunning s a call it)
include h

theorem stepRead_folds (hm : stIsMac it.step = true) (ho : itemOffset s a call it % stepC it.step = 0) {j : Nat}
    (hj : itemOffset s a call it / stepC it.step = j) {k : Core} (hk : foldBlock (coreOf s (agIdx a)) call.mw it j = .ok k) :
    stepRead a s = modCore s (agIdx a) (fun _ => k) := by
  rw [itemOffset] at ho hj
  simp [stepRead, h.inCall, h.inItem, h.faultless, hm, ho, hj, hk]

theorem stepRead_misfit (hm : stIsMac it.step = true) (ho : itemOffset s a call it % stepC it.step = 0) {j : Nat}
    (hj : itemOffset s a call it / stepC it.step = j) {f : Nat} (hk : foldBlock (coreOf s (agIdx a)) call.mw it j = .error f) :
    stepRead a s = setCtx s a { ctxOf s a with call := some { call with fault := some f } } := by
  rw [itemOffset] at ho hj
  simp [stepRead, h.inCall, h.inItem, h.faultless, hm, ho, hj, hk]

theorem stepRead_between (hm : stIsMac it.step = true) (ho : itemOffset s a call it % stepC it.step ≠ 0) :
    stepRead a s = s := by
  rw [itemOffset] at ho
  simp [stepRead, h.inCall, h.inItem, h.faultless, hm, ho]

theorem stepRead_zero (hk : stKind it.step = 3) :
    stepRead a s = modCore s (agIdx a) (zeroBanks (· == stBank it.step)) := by
  have hm : stIsMac it.step = false := by simp [stIsMac, hk]
  simp [stepRead, h.inCall, h.inItem, h.faultless, hm, hk]

theorem stepRead_drain (hd : stIsDrain it.step = true) (ho : itemOffset s a call it = 0) :
    stepRead a s = setCtx s a { ctxOf s a with
      lfsr := (drawsFor (stMode it.step) 24576 (ctxOf s a).lfsr).2
      pend := (ctxOf s a).pend ++ [⟨(ctxOf s a).clk + stepCycles it.step - 1, (ctxOf s a).clk, 5,
        .store .dfile (cellsAt (stDoff it.step * 64) (drainBytes it.step (bankList (coreOf s (agIdx a)) (stBank it.step))
          (drawsFor (stMode it.step) 24576 (ctxOf s a).lfsr).1))⟩] } := by
  rw [itemOffset] at ho
  obtain ⟨hm, hk⟩ := not_mac_of_drain hd
  simp only [stepRead, h.inCall, h.inItem, h.faultless, hm, hk, ho, Option.isSome_none, Bool.false_eq_true, if_false, if_true]

theorem stepRead_draining (hd : stIsDrain it.step = true) (ho : itemOffset s a call it ≠ 0) : stepRead a s = s := by
  rw [itemOffset] at ho
  obtain ⟨hm, hk⟩ := not_mac_of_drain hd
  simp [stepRead, h.inCall, h.inItem, h.faultless, hm, hk, ho]

theorem exec_read_of_eq {t : State} (ht : stepRead a s = t) :
    exec (.stepExecution a .read) s = .next (countEvent a 0x06 1 t) :=
  ht ▸ (exec_stepExecution_busy h.unfrozen h.busy).1

/-- A cycle that reads nothing. -/
theorem exec_read_idle (hs : stepRead a s = s) : ∃ t, exec (.stepExecution a .read) s = .next t ∧ t.cores = s.cores ∧
    (ctxOf t a).call = some call ∧ (ctxOf t a).pend = (ctxOf s a).pend ∧ (ctxOf t a).lfsr = (ctxOf s a).lfsr :=
  ⟨_, exec_read_of_eq h hs, countEvent_cores _ _ _ _, (call_countEvent _ _ _ _).trans h.inCall, pend_countEvent _ _ _ _,
    lfsr_countEvent _ _ _ _⟩

/-- A cycle that changes the agent's core alone. -/
theorem exec_read_core {f : Core → Core} (hs : stepRead a s = modCore s (agIdx a) f) :
    ∃ t, exec (.stepExecution a .read) s = .next t ∧ (∀ c : Nat, c ≠ agIdx a → coreOf t c = coreOf s c) ∧
      coreOf t (agIdx a) = f (coreOf s (agIdx a)) ∧ (ctxOf t a).call = some call := by
  refine ⟨_, exec_read_of_eq h hs, fun c hc => ?_, ?_, (call_countEvent _ _ _ _).trans h.inCall⟩
  · rw [coreOf_countEvent, coreOf_modCore_other _ _ _ _ hc]
  · rw [coreOf_countEvent, coreOf_modCore]

/-- A cycle that records a call fault. -/
theorem exec_read_misfit (hm : stIsMac it.step = true) (ho : itemOffset s a call it % stepC it.step = 0) {j : Nat}
    (hj : itemOffset s a call it / stepC it.step = j) {f : Nat} (hk : foldBlock (coreOf s (agIdx a)) call.mw it j = .error f) :
    ∃ t, exec (.stepExecution a .read) s = .next t ∧ (∀ c : Nat, coreOf t c = coreOf s c) ∧
      (ctxOf t a).call = some { call with fault := some f } := by
  refine ⟨_, exec_read_of_eq h (stepRead_misfit h hm ho hj hk), fun c => ?_, ?_⟩
  · rw [coreOf_countEvent, coreOf_setCtx]
  · rw [call_countEvent, ctxOf_setCtx]

/-- What the read of a K-block does, the keep mask, the tags and the products of a cell given in any form. -/
theorem exec_read_block (hm : stIsMac it.step = true) (ho : itemOffset s a call it % stepC it.step = 0)
    {j : Nat} (hj : itemOffset s a call it / stepC it.step = j) {k : Core} (hk : coreOf s (agIdx a) = k)
    {kept fitA fitB : Prop} {products : Nat → Nat → List Val} (hkept : blockKept call.mw it j = true ↔ kept)
    (hA : blockFitsA k it j = true ↔ fitA) (hB : blockFitsB k it j = true ↔ fitB)
    (hp : ∀ r c, cellProducts k call.mw it.step (blockBaseA it.step it.n j) (blockBaseB it.step it.n j) r c = products r c) :
    ∃ t, exec (.stepExecution a .read) s = .next t ∧ (∀ c : Nat, c ≠ agIdx a → coreOf t c = coreOf s c) ∧
      { coreOf t (agIdx a) with accs := [] } = { k with accs := [] } ∧
      (¬ kept → (coreOf t (agIdx a)).accs = k.accs ∧ (ctxOf t a).call = some call) ∧
      (kept → ¬ fitA → (coreOf t (agIdx a)).accs = k.accs ∧
        (ctxOf t a).call = some { call with fault := some (0x11 * 2 ^ 24 + it.idx * 2 ^ 13 + (it.nb + j) % 8192) }) ∧
      (kept → fitA → ¬ fitB → (coreOf t (agIdx a)).accs = k.accs ∧
        (ctxOf t a).call = some { call with fault := some (0x12 * 2 ^ 24 + it.idx * 2 ^ 13 + (it.nb + j) % 8192) }) ∧
      (kept → fitA → fitB → (ctxOf t a).call = some call ∧
        (∀ r c : Nat, r < 96 → c < 256 → (bankList (coreOf t (agIdx a)) (stBank it.step)).getD (256 * r + c) 0 =
          foldCell ((bankList k (stBank it.step)).getD (256 * r + c) 0) (products r c) % 2 ^ 32) ∧
        (risingAccs k.accs → ∀ b : Nat, b ≠ stBank it.step → bankList (coreOf t (agIdx a)) b = bankList k b)) := by
  subst hk
  by_cases h1 : kept
  · by_cases h2 : fitA
    · by_cases h3 : fitB
      · obtain ⟨t, ht, hother, hcore, hcall⟩ := exec_read_core h
          (stepRead_folds h hm ho hj (foldBlock_folds (hkept.2 h1) (hA.2 h2) (hB.2 h3)))
        have hlen := length_foldedBank (coreOf s (agIdx a)) call.mw it.step (blockBaseA it.step it.n j) (blockBaseB it.step it.n j)
        refine ⟨t, ht, hother, by rw [hcore]; rfl, fun hn => absurd h1 hn, fun _ hn => absurd h2 hn,
          fun _ _ hn => absurd h3 hn, fun _ _ _ => ⟨hcall, fun r c hr hc => ?_, fun hk b hb => ?_⟩⟩
        · rw [hcore, bankList_setBank _ _ hlen, ← hp, ← getD_foldedBank _ _ _ _ _ hr hc]
          exact List.getD_map _ 0 (· % 2 ^ 32)
        · rw [hcore, bankList_setBank_other hk hlen hb]
      · obtain ⟨t, ht, hcore, hcall⟩ := exec_read_misfit h hm ho hj
          (foldBlock_misfitB (hkept.2 h1) (hA.2 h2) (Bool.eq_false_iff.2 fun hb => h3 (hB.1 hb)))
        exact ⟨t, ht, fun c _ => hcore c, by rw [hcore], fun hn => absurd h1 hn, fun _ hn => absurd h2 hn,
          fun _ _ _ => ⟨by rw [hcore], hcall⟩, fun _ _ hb => absurd hb h3⟩
    · obtain ⟨t, ht, hcore, hcall⟩ := exec_read_misfit h hm ho hj
        (foldBlock_misfitA (hkept.2 h1) (Bool.eq_false_iff.2 fun hb => h2 (hA.1 hb)))
      exact ⟨t, ht, fun c _ => hcore c, by rw [hcore], fun hn => absurd h1 hn, fun _ _ => ⟨by rw [hcore], hcall⟩,
        fun _ ha => absurd ha h2, fun _ ha => absurd ha h2⟩
  · obtain ⟨t, ht, hother, hcore, hcall⟩ := exec_read_core h
      (stepRead_folds h hm ho hj (foldBlock_dropped (Bool.eq_false_iff.2 fun hb => h1 (hkept.1 hb))))
    exact ⟨t, ht, hother, by rw [hcore], fun _ => ⟨by rw [hcore], hcall⟩, fun hk => absurd hk h1, fun hk => absurd hk h1,
      fun hk => absurd hk h1⟩

theorem exec_read_zero (hk : stKind it.step = 3) : ∃ t, exec (.stepExecution a .read) s = .next t ∧
    bankList (coreOf t (agIdx a)) (stBank it.step) = List.replicate 24576 0 ∧ ∀ c : Nat, c ≠ agIdx a → coreOf t c = coreOf s c := by
  obtain ⟨t, ht, hother, hcore, -⟩ := exec_read_core h (stepRead_zero h hk)
  exact ⟨t, ht, by rw [hcore, bankList_zeroBanks], hother⟩

end reads

/-! ## The end of a cycle (R272) -/

/-- The atomic of a drain in state `s` that takes its number and its cycle from `t`. -/
def drainAtomic (a : Agent) (call : MatCall) (w : Nat) (s t : State) : DrainAtomic :=
  ⟨t.nextId, a, (ctxOf s a).task.world, (ctxOf s a).task.launch, (ctxOf s a).task.gang, stAmx w, (call.params.getD (stAmp w) 0).toNat,
    absMax (bankList (coreOf s (agIdx a)) (stBank w)), t.gcyc + 1, true⟩

/-- Z zeroes the bank of a drain that ends. -/
def zeroDrained (a : Agent) (w : Nat) (s : State) : State :=
  if stZ w then modCore s (agIdx a) (zeroBanks (· == stBank w)) else s
/-- A drain ends: Z zeroes its bank, and AMX starts its atomic. -/
def endDrain (a : Agent) (call : MatCall) (w : Nat) (s : State) : State :=
  let t := zeroDrained a w s
  if stAmx w = 0 then t
  else { t with
    nextId := t.nextId + 1
    atomics := t.atomics ++ [drainAtomic a call w s t] }

/-- The last cycle of a call ends it. -/
def closeCall (a : Agent) (call : MatCall) (clk : Nat) (s : State) : State :=
  if call.t0 + call.cycles ≤ clk + 1 then endCall a s else s

section closing
variable (a : Agent) (call : MatCall) (clk w : Nat) (s : State)

theorem closeCall_cores : (closeCall a call clk s).cores = s.cores := by
  unfold closeCall
  split <;> rfl

theorem closeCall_nextId : (closeCall a call clk s).nextId = s.nextId := by
  unfold closeCall
  split <;> rfl

theorem closeCall_atomics_length : (closeCall a call clk s).atomics.length = s.atomics.length := by
  unfold closeCall
  split
  · exact List.length_map _
  · rfl

theorem closeCall_last_atomic {d : DrainAtomic} (h : s.atomics.getLast? = some d) :
    ∃ b, (closeCall a call clk s).atomics.getLast? = some { d with running := b } := by
  unfold closeCall
  split
  · refine ⟨if d.ag = a then false else d.running, ?_⟩
    have hm : (endCall a s).atomics = s.atomics.map (fun d => if d.ag = a then { d with running := false } else d) := rfl
    rw [hm, List.getLast?_map, h]
    by_cases ha : d.ag = a <;> simp [ha]
  · exact ⟨d.running, h⟩

theorem closeCall_call (h : (ctxOf s a).call = some call) :
    (ctxOf (closeCall a call clk s) a).call = none ↔ call.t0 + call.cycles ≤ clk + 1 := by
  unfold closeCall
  split
  · simp [ctxOf_endCall, *]
  · simp [*]

theorem zeroDrained_other {c : Nat} (h : c ≠ agIdx a) : coreOf (zeroDrained a w s) c = coreOf s c := by
  unfold zeroDrained
  split
  · exact coreOf_modCore_other _ _ _ _ h
  · rfl

theorem ctxOf_zeroDrained (b : Agent) : ctxOf (zeroDrained a w s) b = ctxOf s b := by
  unfold zeroDrained
  split <;> rfl

theorem zeroDrained_rest : (zeroDrained a w s).nextId = s.nextId ∧ (zeroDrained a w s).atomics = s.atomics ∧
    (zeroDrained a w s).gcyc = s.gcyc := by
  unfold zeroDrained
  split <;> exact ⟨rfl, rfl, rfl⟩

theorem endDrain_plain (h : stAmx w = 0) : endDrain a call w s = zeroDrained a w s := if_pos h

theorem endDrain_atomics (h : stAmx w ≠ 0) :
    (endDrain a call w s).atomics = s.atomics ++ [drainAtomic a call w s s] := by
  obtain ⟨hid, hat, hgc⟩ := zeroDrained_rest a w s
  rw [endDrain]
  simp only [h, if_false, hat, drainAtomic, hid, hgc]

theorem endDrain_cores : (endDrain a call w s).cores = (zeroDrained a w s).cores := by
  unfold endDrain
  simp only
  split <;> rfl

theorem ctxOf_endDrain (b : Agent) : ctxOf (endDrain a call w s) b = ctxOf s b := by
  rw [← ctxOf_zeroDrained a w s b]
  unfold endDrain
  simp only
  split <;> rfl

end closing

section writes
variable {s : State} {a : Agent} {call : MatCall} {it : PlanItem} (h : CallRunning s a call it)
include h

theorem item_started : it.start ≤ (ctxOf s a).clk - call.t0 := by
  have := List.find?_some h.inItem
  simp only [Bool.and_eq_true, decide_eq_true_eq] at this
  exact this.1

theorem stepWrite_drained (hd : stIsDrain it.step = true) (ho : itemOffset s a call it + 1 = stepCycles it.step) :
    stepWrite a s = closeCall a call (ctxOf s a).clk (endDrain a call it.step s) := by
  have hstart := item_started h
  have hend : (ctxOf s a).clk - call.t0 + 1 = it.start + stepCycles it.step := by
    rw [itemOffset] at ho
    omega
  have hgo : (call.fault.isSome || !stIsDrain it.step || (ctxOf s a).clk - call.t0 + 1 != it.start + stepCycles it.step) = false := by
    simp [h.faultless, hd, hend]
  simp only [stepWrite, h.inCall, h.inItem, hgo]
  rfl

theorem stepWrite_undrained (hn : stIsDrain it.step = false ∨ itemOffset s a call it + 1 ≠ stepCycles it.step) :
    stepWrite a s = closeCall a call (ctxOf s a).clk s := by
  have hstart := item_started h
  have hstop : (call.fault.isSome || !stIsDrain it.step || (ctxOf s a).clk - call.t0 + 1 != it.start + stepCycles it.step) = true := by
    rcases hn with hn | hn
    · simp [hn]
    · rw [itemOffset] at hn
      have hne : (ctxOf s a).clk - call.t0 + 1 ≠ it.start + stepCycles it.step := by omega
      simp [hne]
  simp only [stepWrite, h.inCall, h.inItem, hstop]
  rfl

/-- The end of a cycle of a running call. -/
theorem exec_write_closes : ∃ t, exec (.stepExecution a .write) s = .next t ∧
    ((ctxOf t a).call = none ↔ call.t0 + call.cycles ≤ (ctxOf s a).clk + 1) ∧
    (∀ c : Nat, c ≠ agIdx a → coreOf t c = coreOf s c) ∧
    ((stIsDrain it.step = false ∨ itemOffset s a call it + 1 ≠ stepCycles it.step) → t.cores = s.cores ∧ t.nextId = s.nextId) ∧
    (stIsDrain it.step = true → itemOffset s a call it + 1 = stepCycles it.step →
      (stZ it.step = true → bankList (coreOf t (agIdx a)) (stBank it.step) = List.replicate 24576 0) ∧
      (stZ it.step = false → t.cores = s.cores) ∧
      (stAmx it.step = 0 → t.nextId = s.nextId ∧ t.atomics.length = s.atomics.length) ∧
      (stAmx it.step ≠ 0 → t.atomics.length = s.atomics.length + 1 ∧
        ∃ b, t.atomics.getLast? = some { drainAtomic a call it.step s s with running := b })) := by
  have hexec := (exec_stepExecution_busy h.unfrozen h.busy).2
  by_cases hn : stIsDrain it.step = false ∨ itemOffset s a call it + 1 ≠ stepCycles it.step
  · rw [stepWrite_undrained h hn] at hexec
    refine ⟨_, hexec, closeCall_call _ _ _ _ h.inCall, fun c _ => ?_, fun _ => ⟨closeCall_cores _ _ _ _, closeCall_nextId _ _ _ _⟩,
      fun hd ho => ?_⟩
    · rw [coreOf, closeCall_cores, coreOf]
    · rcases hn with hn | hn
      · exact absurd (hd.symm.trans hn) (by decide)
      · exact absurd ho hn
  · obtain ⟨hd, ho⟩ : stIsDrain it.step = true ∧ itemOffset s a call it + 1 = stepCycles it.step := by simpa using hn
    rw [stepWrite_drained h hd ho] at hexec
    have hcores := (closeCall_cores a call (ctxOf s a).clk _).trans (endDrain_cores a call it.step s)
    obtain ⟨hid, hat, -⟩ := zeroDrained_rest a it.step s
    refine ⟨_, hexec, closeCall_call _ _ _ _ ((congrArg Ctx.call (ctxOf_endDrain _ _ _ _ _)).trans h.inCall), fun c hc => ?_,
      fun hn' => absurd hn' hn, fun _ _ => ⟨fun hz => ?_, fun hz => ?_, fun hx => ?_, fun hx => ?_⟩⟩
    · rw [coreOf, hcores, ← coreOf, zeroDrained_other _ _ _ hc]
    · rw [coreOf, hcores, ← coreOf, zeroDrained, if_pos hz, coreOf_modCore, bankList_zeroBanks]
    · rw [hcores, zeroDrained, if_neg (by simp [hz])]
    · rw [closeCall_nextId, closeCall_atomics_length, endDrain_plain _ _ _ _ hx, hid, hat]
      exact ⟨rfl, rfl⟩
    · rw [closeCall_atomics_length, endDrain_atomics _ _ _ _ hx]
      refine ⟨by simp, closeCall_last_atomic _ _ _ _ ?_⟩
      rw [endDrain_atomics _ _ _ _ hx, List.getLast?_concat]

end writes

/-! ## Forms of the operands of a K-block -/

theorem blockKept_iff (mw : Nat) (it : PlanItem) (j : Nat) : blockKept mw it j = true ↔ mw / 2 ^ (16 + (it.nb + j) % 16) % 2 = 1 := by
  simp [blockKept, bm]

theorem tagsFit_iff (tags : Tab (BitVec 14)) (f : Nat) (g : Bool) (lo n : Nat) : tagsFit tags f g lo n = true ↔
    ∀ i : Nat, i < n / 16 → let v := (tabGet 0 tags (lo / 16 + i)).toNat
      v / 2 ^ 10 = f ∧ (v / 2 ^ 8 % 4 = 0 ∨ v / 2 ^ 8 % 4 = g.toNat + 1) := by
  have htop : ∀ x : BitVec 14, x.toNat / 2 ^ 10 % 2 ^ 4 = x.toNat / 2 ^ 10 := fun x =>
    Nat.mod_eq_of_lt (by have := x.isLt; omega)
  simp only [tagsFit, List.all_eq_true, List.mem_range, Bool.and_eq_true, Bool.or_eq_true, beq_iff_eq, bits, bf,
    Nat.reduceAdd, Nat.reduceSub, htop]
  rfl

theorem segScale_eq (tags : Tab (BitVec 14)) (addr : Nat) :
    segScale tags addr = sext 8 ((tabGet 0 tags (addr / 16)).toNat % 256) := by
  simp [segScale, bits, bf]

theorem scale_rowHalf (k : Core) (mw w a0 r h : Nat) :
    (rowHalf k mw w a0 r h).scale = segScale k.atags (segAddr a0 (stFa w) (stGa w) r h) := by
  unfold rowHalf
  split <;> rfl

theorem rowHalf_position {k : Core} {mw w a0 r h : Nat} {p : Nat × Val} (hp : p ∈ (rowHalf k mw w a0 r h).vals) : p.1 < 16 := by
  unfold rowHalf at hp
  split at hp
  · exact sparseHalf_position hp
  · exact denseHalf_position hp

theorem exec_stepExecution_landing (a : Agent) (s : State) : exec (.stepExecution a .landing) s = .next s := by
  simp [exec_stepExecution, execStepExecution]

/-- In a cycle that is frozen, or in which no call runs, nothing happens. -/
theorem exec_stepExecution_idle {a : Agent} {s : State} (st : LandStage)
    (h : (ctxOf s a).frozen = true ∨ callBusy (ctxOf s a) (ctxOf s a).clk = false) : exec (.stepExecution a st) s = .next s := by
  have hidle : ((ctxOf s a).frozen || !callBusy (ctxOf s a) (ctxOf s a).clk) = true := by simpa using h
  simp [exec_stepExecution, execStepExecution, hidle]

/-- Settles O27: each read of a cycle by what `stepRead` leaves, and the end of a cycle by what `stepWrite` does. -/
theorem matrixStepResult : Obligations.MatrixStepResult := by
  unfold Obligations.MatrixStepResult
  intro a s x k
  refine ⟨⟨exec_stepExecution_landing a s, fun hidle => ⟨exec_stepExecution_idle .read hidle, exec_stepExecution_idle .write hidle⟩⟩,
    fun call it hfrozen hcall hbusy hfault hitem => ?_⟩
  intro o w bank
  have h : CallRunning s a call it := ⟨hfrozen, hbusy, hcall, hfault, hitem⟩
  refine ⟨fun hm ho => ?_, fun hm ho => ?_, fun hk => exec_read_zero h hk, fun hd ho => ?_, fun hd ho => ?_, ?_⟩
  · intro j nb kept a0 b0 fits fitsA fitsB seg bitsOf scale value denseA sparseA products
    refine exec_read_block h hm ho rfl rfl (blockKept_iff _ _ _) (tagsFit_iff _ _ _ _ _) (tagsFit_iff _ _ _ _ _) fun r c => ?_
    refine congrArg (fun f => [0, 1].flatMap f) (funext fun half => ?_)
    rw [colHalf, halfProducts_dense fun p hp => rowHalf_position hp, scale_rowHalf, segScale_eq, segScale_eq]
    by_cases hk : stKind w = 2
    · rw [rowHalf, if_pos hk, sparseHalf_vals]
      simp only [if_pos hk]
      rfl
    · rw [rowHalf, if_neg hk, denseHalf_vals]
      simp only [if_neg hk]
      rfl
  · obtain ⟨t, ht, hcores, hc, hp, -⟩ := exec_read_idle h (stepRead_between h hm ho)
    exact ⟨t, ht, hcores, hc, hp⟩
  · intro draws fm
    refine ⟨_, _, exec_read_of_eq h (stepRead_drain h hd ho), countEvent_cores _ _ _ _, ?_, length_drainBytes w (bankList k bank) draws.1, ?_,
      fun r c hr hc => elem_drainBytes hd _ (length_bankList k bank) hr hc rfl⟩
    · rw [lfsr_countEvent, ctxOf_setCtx]
    · rw [pend_countEvent, ctxOf_setCtx, ← stepCycles_drain hd]
  · obtain ⟨t, ht, hcores, -, hp, hl⟩ := exec_read_idle h (stepRead_draining h hd ho)
    exact ⟨t, ht, hcores, hp, hl⟩
  · obtain ⟨t, ht, hclose, hother, hidle, hend⟩ := exec_write_closes h
    refine ⟨t, ht, hclose, hother, hidle, fun hd ho => ?_⟩
    obtain ⟨hz, hnz, hplain, hatomic⟩ := hend hd ho
    refine ⟨hz, hnz, hplain, fun hx => ?_⟩
    obtain ⟨hlen, b, hlast⟩ := hatomic hx
    have hne : bankList k bank ≠ [] := List.ne_nil_of_length_pos (by rw [length_bankList]; decide)
    exact ⟨_, hlast, hlen, rfl, rfl, rfl, rfl, rfl, rfl, rfl, rfl, magnitude_le_absMax _, absMax_attained hne⟩

end Sys2Proof.Proofs

/-!
PROOFS. Loads, stores and atomics: what the operands of an L or Y word leave, and scalar loads and stores (O16).
-/

namespace Sys2Proof.Proofs
open Sys2Proof Sys2Proof.Machine Sys2Proof.Laws

/-! ## What the Source steps of a word leave (spec/06_fetch_and_issue.md R128) -/

/-- `t` is `s` but for scalar queues of the context that issues and vector queues, as far as L and Y words see. -/
structure QueuesOnly (s t : State) : Prop where
  cur : t.cur = s.cur
  ctx : curCtx t = { curCtx s with sregs := (curCtx t).sregs }
  core : ∀ c, coreOf t c = { coreOf s c with vqs := (coreOf t c).vqs }
  clusters : t.clusters = s.clusters
  stewMem : t.stewMem = s.stewMem

namespace QueuesOnly
variable {s t r : State} {u : Issue}

theorem refl (s : State) : QueuesOnly s s := ⟨rfl, rfl, fun _ => rfl, rfl, rfl⟩

theorem trans (h : QueuesOnly s t) (h' : QueuesOnly t r) : QueuesOnly s r where
  cur := h'.cur.trans h.cur
  ctx := by rw [h'.ctx, h.ctx]
  core c := by rw [h'.core, h.core]
  clusters := h'.clusters.trans h.clusters
  stewMem := h'.stewMem.trans h.stewMem

theorem agent (h : QueuesOnly s t) (hu : s.cur = some u) : curAgent t = u.ag := curAgent_of_cur (h.cur.trans hu)

theorem time (h : QueuesOnly s t) (hu : s.cur = some u) : curT t = u.t := curT_of_cur (h.cur.trans hu)

theorem task (h : QueuesOnly s t) : (curCtx t).task = (curCtx s).task := by rw [h.ctx]

theorem spool (h : QueuesOnly s t) (c : Nat) : (coreOf t c).spool = (coreOf s c).spool := by rw [h.core]

theorem spill (h : QueuesOnly s t) (c : Nat) : (coreOf t c).spill = (coreOf s c).spill := by rw [h.core]

theorem yarnReg (h : QueuesOnly s t) (c y : Nat) : Machine.yarnReg (coreOf t c) y = Machine.yarnReg (coreOf s c) y := by
  rw [h.core]
  rfl

theorem alloc (h : QueuesOnly s t) (k : Nat) (x : Task) : allocOf t k x = allocOf s k x := by
  simp only [allocOf, clusterOf, h.clusters]

end QueuesOnly

section operands
variable {s t : State} {x y : Word}

theorem source_queuesOnly {r : Nat} {pop : Bool} (h : source r pop s = .ok (x, t)) : QueuesOnly s t := by
  obtain ⟨q, rfl⟩ := source_ok h
  exact ⟨rfl, by simp [curCtx], fun _ => rfl, rfl, rfl⟩

theorem readsTwo_queuesOnly {a b : Nat} {m n : Bool} (h : readsTwo a m b n s x y t) : QueuesOnly s t := by
  obtain ⟨s1, h1, h2⟩ := h
  exact (source_queuesOnly h1).trans (source_queuesOnly h2)

theorem vsource_eq_modCore {f : VFile} {q : Nat} {pop : Bool} {v : Vec} (h : vsource f q pop s = .ok (v, t)) :
    ∃ r, t = modCore s (agIdx (curAgent s)) (fun k => setVq k f q r) := by
  simp only [vsource] at h
  split at h
  · cases h
  · split at h
    · cases h
    · cases h
      exact ⟨_, rfl⟩

theorem vsource_queuesOnly {f : VFile} {q : Nat} {pop : Bool} {v : Vec} (h : vsource f q pop s = .ok (v, t)) :
    QueuesOnly s t := by
  obtain ⟨r, rfl⟩ := vsource_eq_modCore h
  refine ⟨rfl, rfl, fun c => ?_, rfl, rfl⟩
  by_cases hc : c = agIdx (curAgent s)
  · rw [hc, coreOf_modCore]
    rfl
  · rw [coreOf_modCore_other _ _ _ _ hc]

end operands

/-! ## The checks of an address (R198, R199, R206, R76) -/

/-- An aligned access of a size that divides that of a block lies in one block. -/
theorem last_byte_block {a n b : Nat} (hn : 0 < n) (hb : n ∣ b) (ha : a % n = 0) : (a + n - 1) / b = a / b := by
  obtain ⟨k, rfl⟩ := Nat.dvd_of_mod_eq_zero ha
  obtain ⟨m, rfl⟩ := hb
  rw [← Nat.div_div_eq_div_mul, ← Nat.div_div_eq_div_mul, Nat.add_sub_assoc hn, Nat.mul_add_div hn,
    Nat.div_eq_of_lt (Nat.sub_lt hn Nat.one_pos), Nat.add_zero, Nat.mul_div_cancel_left _ hn]

theorem spoolCheck_ok {t : Task} {a : Word} {n g : Nat} (hlt : a.toNat < 0x1400000) (hg : a.toNat % g = 0)
    (hb : (a.toNat + n - 1) / 0x140000 = a.toNat / 0x140000) (hh : heldBlock t (a.toNat / 0x140000) = true) :
    spoolCheck t a n g = .ok a.toNat := by
  simp [spoolCheck, blockBytes, Nat.not_le.2 hlt, hg, hb, hh]

theorem spoolCheck_aligned {t : Task} {a : Word} {n : Nat} (hn : n ∣ 8) (hlt : a.toNat < 0x1400000) (ha : a.toNat % n = 0)
    (hh : heldBlock t (a.toNat / 0x140000) = true) : spoolCheck t a n n = .ok a.toNat :=
  spoolCheck_ok hlt ha (last_byte_block (Nat.pos_of_dvd_of_pos hn (by decide)) (hn.trans (by decide)) ha) hh

/-- The cause of a Spool access of `n` bytes at `a`: 0x09 beyond the Spool, 0x07 off its alignment, else 0x09 on a block that is
not held. -/
def spoolFault (t : Task) (n a cause : Nat) : Prop :=
  if 0x1400000 ≤ a then cause = 0x09 else if a % n ≠ 0 then cause = 0x07
  else cause = 0x09 ∧ heldBlock t (a / 0x140000) = false

theorem spoolCheck_fault {t : Task} {a : Word} {n c : Nat} (hn : n ∣ 8) (h : spoolFault t n a.toNat c) :
    spoolCheck t a n n = .error c := by
  unfold spoolFault at h
  unfold spoolCheck
  by_cases hlt : 0x1400000 ≤ a.toNat
  · rw [if_pos hlt] at h ⊢
    rw [h]
  by_cases ha : a.toNat % n ≠ 0
  · rw [if_neg hlt, if_pos ha] at h ⊢
    rw [h]
  rw [if_neg hlt, if_neg ha] at h
  obtain ⟨rfl, hh⟩ := h
  have hb : (a.toNat + n - 1) / blockBytes = a.toNat / blockBytes :=
    last_byte_block (Nat.pos_of_dvd_of_pos hn (by decide)) (hn.trans (by decide)) (not_not.1 ha)
  rw [if_neg hlt, if_neg ha, if_neg (not_not.2 hb)]
  exact if_neg (Bool.eq_false_iff.1 hh)

theorem stewCheck_ok {a : Word} {n : Nat} (hlt : a.toNat < 2 ^ 17) (ha : a.toNat % n = 0) : stewCheck a n = .ok a.toNat := by
  rw [stewCheck, if_neg (Nat.not_le.2 hlt), if_neg (not_not.2 ha)]

/-- The check of a scalar load or store of `n` bytes: of the Spool on a tile core, of the local store on a steward core. -/
def localCheck (a : Word) (n : Nat) (s : State) : Except Nat Nat :=
  match curAgent s with
  | .steward _ => stewCheck a n
  | _ => spoolCheck (curCtx s).task a n n

theorem localCheck_tile {a : Word} {n : Nat} {s : State} (h : agTile (curAgent s) = true) :
    localCheck a n s = spoolCheck (curCtx s).task a n n := by
  unfold localCheck
  split
  · rename_i ha
    rw [ha] at h
    cases h
  · rfl

theorem localCheck_steward {a : Word} {n k : Nat} {s : State} (h : curAgent s = .steward k) :
    localCheck a n s = stewCheck a n := by
  rw [localCheck, h]

/-! ## Scalar loads and stores, form by form (R204, R76) -/

/-- What a load does from its address on. -/
def loadFrom (o : RI) (n : Nat) (signed : Bool) (a : Word) (s : State) : Except Nat State :=
  match curAgent s with
  | .steward k => do
    let p ← stewCheck (ea a 10 o.i n) n
    writeReg 2 o.d o.q (extend n signed (memNat (tabGet [] s.stewMem k) p n)) s
  | ag => do
    let p ← spoolCheck (curCtx s).task (ea a 10 o.i n) n n
    writeReg (2 + ringDist (blockPos (p / blockBytes)) (stationPos 1)) o.d o.q
      (extend n signed (memNat (coreOf s (agIdx ag)).spool p n)) s

theorem loadFrom_tile {o : RI} {n : Nat} {signed : Bool} {a : Word} {s : State} (h : agTile (curAgent s) = true) :
    loadFrom o n signed a s = (spoolCheck (curCtx s).task (ea a 10 o.i n) n n >>= fun p =>
      writeReg (2 + ringDist (blockPos (p / blockBytes)) (stationPos 1)) o.d o.q
        (extend n signed (memNat (curCore s).spool p n)) s) := by
  unfold loadFrom
  split
  · rename_i ha
    rw [ha] at h
    cases h
  · rfl

theorem loadFrom_steward {o : RI} {n k : Nat} {signed : Bool} {a : Word} {s : State} (h : curAgent s = .steward k) :
    loadFrom o n signed a s = (stewCheck (ea a 10 o.i n) n >>= fun p =>
      writeReg 2 o.d o.q (extend n signed (memNat (tabGet [] s.stewMem k) p n)) s) := by
  rw [loadFrom, h]

/-- The body of a load: outside a handler, the address, then the rest. -/
theorem formLoad_eq (o : RI) (n : Nat) (signed : Bool) : formLoad o n signed = execSlot o.g (fun s => do
    notInHandler s
    let (a, s) ← source o.a o.m s
    loadFrom o n signed a s) := rfl

/-- The body of a store: outside a handler, the data, the address, then the check. -/
theorem formStore_eq (o : RI) (n : Nat) : formStore o n = execSlot o.g (fun s => do
    notInHandler s
    let (v, s) ← source o.d o.q s
    let (a, s) ← source o.a o.m s
    let p ← localCheck (ea a 10 o.i n) n s
    .ok (landAt (curT s) (.store .spool (cellsAt p (leBytes n v.toNat))) s)) := rfl

section forms
variable {o : RI} {n c : Nat} {signed : Bool} {s t t1 : State} {u : Issue} {v x : Word}

theorem formLoad_handler (hg : slotRuns o.g u s) (hh : (curCtx s).estatH = true) :
    formLoad o n signed s = .next (slotTrap 0x0D s) := by
  rw [formLoad_eq]
  exact slot_trap hg (bind_of_error (notInHandler_error hh) _)

theorem formStore_handler (hg : slotRuns o.g u s) (hh : (curCtx s).estatH = true) :
    formStore o n s = .next (slotTrap 0x0D s) := by
  rw [formStore_eq]
  exact slot_trap hg (bind_of_error (notInHandler_error hh) _)

theorem formLoad_ok (hg : slotRuns o.g u s) (hh : (curCtx s).estatH = false) (hs : source o.a o.m s = .ok (x, t))
    (h : loadFrom o n signed x t = .ok t1) : formLoad o n signed s = slotDone u t1 := by
  rw [formLoad_eq]
  exact slot_ok hg ((bind_of_ok (notInHandler_ok hh) _).trans ((bind_of_ok hs _).trans h))

theorem formLoad_trap (hg : slotRuns o.g u s) (hh : (curCtx s).estatH = false) (hs : source o.a o.m s = .ok (x, t))
    (h : loadFrom o n signed x t = .error c) : formLoad o n signed s = .next (slotTrap c s) := by
  rw [formLoad_eq]
  exact slot_trap hg ((bind_of_ok (notInHandler_ok hh) _).trans ((bind_of_ok hs _).trans h))

theorem formStore_ok {p : Nat} (hg : slotRuns o.g u s) (hh : (curCtx s).estatH = false)
    (hr : readsTwo o.d o.q o.a o.m s v x t) (h : localCheck (ea x 10 o.i n) n t = .ok p) :
    formStore o n s = slotDone u (landAt u.t (.store .spool (cellsAt p (leBytes n v.toNat))) t) := by
  rw [← (readsTwo_queuesOnly hr).time hg.1]
  obtain ⟨s1, h1, h2⟩ := hr
  rw [formStore_eq]
  exact slot_ok hg ((bind_of_ok (notInHandler_ok hh) _).trans ((bind_of_ok h1 _).trans ((bind_of_ok h2 _).trans
    (bind_of_ok h _))))

theorem formStore_trap (hg : slotRuns o.g u s) (hh : (curCtx s).estatH = false) (hr : readsTwo o.d o.q o.a o.m s v x t)
    (h : localCheck (ea x 10 o.i n) n t = .error c) : formStore o n s = .next (slotTrap c s) := by
  obtain ⟨s1, h1, h2⟩ := hr
  rw [formStore_eq]
  exact slot_trap hg ((bind_of_ok (notInHandler_ok hh) _).trans ((bind_of_ok h1 _).trans ((bind_of_ok h2 _).trans
    (bind_of_error h _))))

/-- A load of a held, aligned Spool address. -/
theorem formLoad_tile_lands {i : Instr} {a : Nat} {cell : Option Nat} {P : Word → Prop} (hi : exec i s = formLoad o n signed s)
    (hn : n ∣ 8) (hg : slotRuns o.g u s) (ht : agTile u.ag = true) (hh : (curCtx s).estatH = false)
    (hr : readsOne o.a o.m o.d o.q s x cell t) (ha : a = (ea x 10 o.i n).toNat) (hlt : a < 0x1400000) (hal : a % n = 0)
    (hb : heldBlock (curCtx s).task (a / 0x140000) = true)
    (hP : P (extend n signed (memNat (coreOf s (agIdx u.ag)).spool a n))) :
    landsWord i s u (2 + ringDist (blockPos (a / 0x140000)) (stationPos 1)) o.d cell t P := by
  obtain ⟨s1, h1, h2⟩ := hr
  have hq := source_queuesOnly h1
  have hag := hq.agent hg.1
  subst ha
  refine ⟨_, hi.trans (formLoad_ok hg hh h1 ?_), hP⟩
  rw [loadFrom_tile (hag ▸ ht), hq.task, bind_of_ok (spoolCheck_aligned hn hlt hal hb), curCore, hag, hq.spool]
  exact writeReg_ok h2

/-- A load from a steward's local store. -/
theorem formLoad_steward_lands {i : Instr} {a k : Nat} {cell : Option Nat} {P : Word → Prop}
    (hi : exec i s = formLoad o n signed s) (hg : slotRuns o.g u s) (hk : u.ag = .steward k) (hh : (curCtx s).estatH = false)
    (hr : readsOne o.a o.m o.d o.q s x cell t) (ha : a = (ea x 10 o.i n).toNat ∧ a < 2 ^ 17 ∧ a % n = 0)
    (hP : P (extend n signed (memNat (tabGet [] s.stewMem k) a n))) : landsWord i s u 2 o.d cell t P := by
  obtain ⟨rfl, hlt, hal⟩ := ha
  obtain ⟨s1, h1, h2⟩ := hr
  have hq := source_queuesOnly h1
  refine ⟨_, hi.trans (formLoad_ok hg hh h1 ?_), hP⟩
  rw [loadFrom_steward ((hq.agent hg.1).trans hk), bind_of_ok (stewCheck_ok hlt hal), hq.stewMem]
  exact writeReg_ok h2

theorem exec_store_tile {i : Instr} {a : Nat} (hi : exec i s = formStore o n s) (hn : n ∣ 8) (hg : slotRuns o.g u s)
    (ht : agTile u.ag = true) (hh : (curCtx s).estatH = false) (hr : readsTwo o.d o.q o.a o.m s v x t)
    (ha : a = (ea x 10 o.i n).toNat) (hlt : a < 0x1400000) (hal : a % n = 0)
    (hb : heldBlock (curCtx s).task (a / 0x140000) = true) :
    exec i s = slotDone u (landAt u.t (.store .spool (cellsAt a (leBytes n v.toNat))) t) := by
  have hq := readsTwo_queuesOnly hr
  subst ha
  refine hi.trans (formStore_ok hg hh hr ?_)
  rw [localCheck_tile (hq.agent hg.1 ▸ ht), hq.task]
  exact spoolCheck_aligned hn hlt hal hb

theorem exec_store_steward {i : Instr} {a k : Nat} (hi : exec i s = formStore o n s) (hg : slotRuns o.g u s)
    (hk : u.ag = .steward k) (hh : (curCtx s).estatH = false) (hr : readsTwo o.d o.q o.a o.m s v x t)
    (ha : a = (ea x 10 o.i n).toNat ∧ a < 2 ^ 17 ∧ a % n = 0) :
    exec i s = slotDone u (landAt u.t (.store .spool (cellsAt a (leBytes n v.toNat))) t) := by
  obtain ⟨rfl, hlt, hal⟩ := ha
  refine hi.trans (formStore_ok hg hh hr ?_)
  rw [localCheck_steward (((readsTwo_queuesOnly hr).agent hg.1).trans hk)]
  exact stewCheck_ok hlt hal

/-- A load and a store of one size on a tile core trap alike: in a handler, and at a faulty address. -/
theorem load_store_trap {l st : Instr} (hl : exec l s = formLoad o n signed s) (hst : exec st s = formStore o n s)
    (hn : n ∣ 8) (hg : slotRuns o.g u s) (ht : agTile u.ag = true) :
    ((curCtx s).estatH = true → slotTraps l s 0x0D ∧ slotTraps st s 0x0D) ∧
    ((curCtx s).estatH = false → ∀ (cause : Nat) (x : Word), spoolFault (curCtx s).task n (ea x 10 o.i n).toNat cause →
      (source o.a o.m s = .ok (x, t) → slotTraps l s cause) ∧
      (∀ v : Word, readsTwo o.d o.q o.a o.m s v x t → slotTraps st s cause)) := by
  refine ⟨fun hh => ⟨hl.trans (formLoad_handler hg hh), hst.trans (formStore_handler hg hh)⟩,
    fun hh cause x hf => ⟨fun hs => hl.trans (formLoad_trap hg hh hs ?_), fun v hr => hst.trans (formStore_trap hg hh hr ?_)⟩⟩
  · have hq := source_queuesOnly hs
    rw [loadFrom_tile (hq.agent hg.1 ▸ ht), hq.task, bind_of_error (spoolCheck_fault hn hf)]
  · have hq := readsTwo_queuesOnly hr
    rw [localCheck_tile (hq.agent hg.1 ▸ ht), hq.task]
    exact spoolCheck_fault hn hf

end forms

/-! ## The value of a load (R204) -/

theorem memNat_lt (m : Mem) (a n : Nat) : memNat m a n < 256 ^ n := by
  have h := leNat_lt (memBytes m a n)
  rwa [length_memBytes] at h

theorem toNat_wd_memNat {n : Nat} (hn : n ≤ 8) (m : Mem) (a : Nat) : (wd (memNat m a n)).toNat = memNat m a n :=
  toNat_wd_of_lt ((memNat_lt m a n).trans_le (Nat.pow_le_pow_right (by decide) hn))

theorem toInt_extend {n : Nat} (hn : 8 * n ≤ 32) (k : Nat) : (extend n true k).toInt = sext (8 * n) k := by
  obtain ⟨hlo, hhi⟩ := sext_bounds hn k
  exact toInt_ofInt_of_bounds hlo hhi

/-- Settles O16: each load and each store is its form, and the form its check on the memory that it reaches. -/
theorem loadStoreResult : Obligations.LoadStoreResult := by
  unfold Obligations.LoadStoreResult
  refine ⟨fun o s t u x c hg ht hh hr => ?_, fun o s t u v x hg ht hh hr => ?_, fun o s t u hg ht => ?_,
    fun o s t u k hg hk hh => ?_⟩
  · intro m loads
    have signed : ∀ {i : Instr} {n : Nat}, exec i s = formLoad o n true s → n ∣ 8 → 8 * n ≤ 32 →
        loads i n (fun k v => v.toInt = sext (8 * n) k) := fun hi hn hw _ ha hlt hal hb =>
      formLoad_tile_lands hi hn hg ht hh hr ha hlt hal hb (toInt_extend hw _)
    have unsigned : ∀ {i : Instr} {n : Nat}, exec i s = formLoad o n false s → n ∣ 8 →
        loads i n (fun k v => v.toNat = k) := fun hi hn _ ha hlt hal hb =>
      formLoad_tile_lands hi hn hg ht hh hr ha hlt hal hb (toNat_wd_memNat (Nat.le_of_dvd (by decide) hn) _ _)
    exact ⟨signed (exec_ldb o s) (by decide) (by decide), unsigned (exec_ldbu o s) (by decide),
      signed (exec_ldh o s) (by decide) (by decide), unsigned (exec_ldhu o s) (by decide),
      signed (exec_ldw o s) (by decide) (by decide), unsigned (exec_ldwu o s) (by decide),
      unsigned (exec_ldd o s) (by decide)⟩
  · exact ⟨fun _ => exec_store_tile (exec_stb o s) (by decide) hg ht hh hr,
      fun _ => exec_store_tile (exec_sth o s) (by decide) hg ht hh hr,
      fun _ => exec_store_tile (exec_stw o s) (by decide) hg ht hh hr,
      fun _ => exec_store_tile (exec_std o s) (by decide) hg ht hh hr⟩
  · exact ⟨load_store_trap (exec_ldb o s) (exec_stb o s) (by decide) hg ht,
      load_store_trap (exec_ldbu o s) (exec_stb o s) (by decide) hg ht,
      load_store_trap (exec_ldh o s) (exec_sth o s) (by decide) hg ht,
      load_store_trap (exec_ldhu o s) (exec_sth o s) (by decide) hg ht,
      load_store_trap (exec_ldw o s) (exec_stw o s) (by decide) hg ht,
      load_store_trap (exec_ldwu o s) (exec_stw o s) (by decide) hg ht,
      load_store_trap (exec_ldd o s) (exec_std o s) (by decide) hg ht⟩
  · intro m fits loads stores
    have signed : ∀ {i : Instr} {n : Nat}, exec i s = formLoad o n true s → 8 * n ≤ 32 →
        loads i n (fun k v => v.toInt = sext (8 * n) k) := fun hi hw _ _ _ hr ha =>
      formLoad_steward_lands hi hg hk hh hr ha (toInt_extend hw _)
    have unsigned : ∀ {i : Instr} {n : Nat}, exec i s = formLoad o n false s → n ≤ 8 →
        loads i n (fun k v => v.toNat = k) := fun hi hn _ _ _ hr ha =>
      formLoad_steward_lands hi hg hk hh hr ha (toNat_wd_memNat hn _ _)
    exact ⟨signed (exec_ldb o s) (by decide), unsigned (exec_ldbu o s) (by decide), signed (exec_ldh o s) (by decide),
      unsigned (exec_ldhu o s) (by decide), signed (exec_ldw o s) (by decide), unsigned (exec_ldwu o s) (by decide),
      unsigned (exec_ldd o s) (by decide),
      fun _ _ _ => exec_store_steward (exec_stb o s) hg hk hh,
      fun _ _ _ => exec_store_steward (exec_sth o s) hg hk hh,
      fun _ _ _ => exec_store_steward (exec_stw o s) hg hk hh,
      fun _ _ _ => exec_store_steward (exec_std o s) hg hk hh⟩

end Sys2Proof.Proofs

/-!
PROOFS. Loads, stores and atomics: the spill store, the constant table and pooled memory (O17), and vectors (O18).
-/

namespace Sys2Proof.Proofs
open Sys2Proof Sys2Proof.Machine Sys2Proof.Laws

/-! ## Spill, constants and pooled memory (R199, R205-R207) -/

theorem spillCheck_ok {t : Task} {off n : Nat} (h : off + n ≤ spillSize t) :
    spillCheck t off n = .ok ((if t.urgent then 0x70000 else 0) + off) := if_pos h

theorem pooledCheck_ok {s : State} {core : Nat} {t : Task} {a : Word}
    (hlt : a.toNat < (allocOf s (clusterOfCore core) t).length * 983040) (ha : a.toNat % 8 = 0) :
    pooledCheck s core t a = .ok a.toNat := (if_neg (Nat.not_le.2 hlt)).trans (if_neg (not_not.2 ha))

section scalars
variable {s t : State} {u : Issue} {x : Word}

/-- What an operand leaves does not change whether a pooled address is the task's. -/
theorem QueuesOnly.pooledCheck_ok {a : Word} (h : QueuesOnly s t) (hu : s.cur = some u)
    (hlt : a.toNat < (allocOf s (clusterOfCore (agIdx u.ag)) (curCtx s).task).length * 983040) (ha : a.toNat % 8 = 0) :
    pooledCheck t (agIdx (curAgent t)) (curCtx t).task a = .ok a.toNat := by
  rw [h.agent hu, h.task]
  refine Proofs.pooledCheck_ok ?_ ha
  rwa [h.alloc]

theorem QueuesOnly.spoolCheck_ok {a : Word} {n g : Nat} (h : QueuesOnly s t) (hlt : a.toNat < 0x1400000) (hg : a.toNat % g = 0)
    (hb : (a.toNat + n - 1) / 0x140000 = a.toNat / 0x140000)
    (hh : heldBlock (curCtx s).task (a.toNat / 0x140000) = true) : spoolCheck (curCtx t).task a n g = .ok a.toNat := by
  rw [h.task]
  exact Proofs.spoolCheck_ok hlt hg hb hh

theorem lds_lands {o : RL} {c : Option Nat} (hg : slotRuns o.g u s) (h : o.i * 8 + 8 ≤ spillSize (curCtx s).task)
    (hd : dest o.d o.q s = .ok (c, t)) : landsWord (.lds o) s u 1 o.d c t (fun v => v.toNat =
      memNat (coreOf s (agIdx u.ag)).spill ((if (curCtx s).task.urgent then 0x70000 else 0) + o.i * 8) 8) := by
  refine ⟨_, (exec_lds o s).trans (slot_ok hg ((bind_of_ok (spillCheck_ok h) _).trans (writeReg_ok hd))),
    (toNat_wd_memNat (by decide) _ _).trans ?_⟩
  rw [curCore, runs_agent hg]

theorem exec_sts_ok {o : RL} (hg : slotRuns o.g u s) (h : o.i * 8 + 8 ≤ spillSize (curCtx s).task)
    (hs : source o.d o.q s = .ok (x, t)) : exec (.sts o) s = slotDone u (landAt u.t (.store .spill
      (cellsAt ((if (curCtx s).task.urgent then 0x70000 else 0) + o.i * 8) (leBytes 8 x.toNat))) t) := by
  have hq := source_queuesOnly hs
  rw [← hq.task] at h ⊢
  rw [← hq.time hg.1]
  exact (exec_sts o s).trans (slot_ok hg ((bind_of_ok hs _).trans (bind_of_ok (spillCheck_ok h) _)))

theorem ldk_lands {o : RI} {c : Option Nat} {p : Nat} (hg : slotRuns o.g u s) (hr : readsOne o.a o.m o.d o.q s x c t)
    (hp : p = (ea x 10 o.i 8).toNat) (hid : (curCtx s).image.csid ≠ 0) (hlt : p < (curCtx s).image.kbytes) (h8 : p % 8 = 0) :
    landsWord (.ldk o) s u 6 o.d c t (fun v =>
      v = wd (bytesNat (sectionOpen (curCtx s).image.kenc (curCtx s).image.nonce (curCtx s).image.csid p
        (toNats (memBytes (curCtx s).ktab p 8))))) := by
  obtain ⟨s1, h1, h2⟩ := hr
  have himage : (curCtx s1).image = (curCtx s).image := by rw [(source_queuesOnly h1).ctx]
  have hktab : (curCtx s1).ktab = (curCtx s).ktab := by rw [(source_queuesOnly h1).ctx]
  subst hp
  rw [← himage] at hid hlt ⊢
  rw [← hktab]
  have h9 : ((curCtx s1).image.csid != 0 && decide ((ea x 10 o.i 8).toNat < (curCtx s1).image.kbytes)) = true := by
    simp [hid, hlt]
  refine ⟨_, (exec_ldk o s).trans (slot_ok hg ?_), rfl⟩
  exact (bind_of_ok h1 _).trans ((bind_of_ok (need_holds h9) _).trans
    ((bind_of_ok (need_holds (beq_iff_eq.2 h8)) _).trans (writeReg_ok h2)))

theorem exec_ldc_ok {o : RI} {t1 : State} {k : Nat} {c : Option Nat} (hg : slotRuns o.g u s) (hk : k = (ea x 10 o.i 8).toNat)
    (hlt : k < (allocOf s (clusterOfCore (agIdx u.ag)) (curCtx s).task).length * 983040) (h8 : k % 8 = 0)
    (hs : source o.a o.m s = .ok (x, t)) (hp : ldcPoison t k = false) (hd : dest o.d o.q t = .ok (c, t1)) :
    exec (.ldc o) s = slotDone u (landAt u.t (.ldc k o.d (c.getD 4)
      (curUndo (popped o.a o.m x) (grown (curCtx t) o.d o.q c) t)) t1) := by
  have hq := source_queuesOnly hs
  subst hk
  rw [← hq.time hg.1]
  have hn : need 0x0B (!ldcPoison t (ea x 10 o.i 8).toNat) = .ok () := need_holds (by rw [hp]; rfl)
  exact (exec_ldc o s).trans (slot_ok hg ((bind_of_ok hs _).trans ((bind_of_ok (hq.pooledCheck_ok hg.1 hlt h8) _).trans
    ((bind_of_ok hn _).trans (bind_of_ok hd _)))))

theorem exec_stc_ok {o : RI} {v : Word} {k : Nat} (hg : slotRuns o.g u s) (hk : k = (ea x 10 o.i 8).toNat)
    (hlt : k < (allocOf s (clusterOfCore (agIdx u.ag)) (curCtx s).task).length * 983040) (h8 : k % 8 = 0)
    (hr : readsTwo o.d o.q o.a o.m s v x t) : exec (.stc o) s = slotDone u (landAt u.t (.stc k v) t) := by
  have hq := readsTwo_queuesOnly hr
  obtain ⟨s1, h1, h2⟩ := hr
  subst hk
  rw [← hq.time hg.1]
  exact (exec_stc o s).trans (slot_ok hg ((bind_of_ok h1 _).trans ((bind_of_ok h2 _).trans
    (bind_of_ok (hq.pooledCheck_ok hg.1 hlt h8) _))))

end scalars

/-! ## LATOM (R209) -/

/-- The comparand of LATOM: the destination's word, peeked, where the operation compares, and else 0. -/
def comparand (o : Latom) (s : State) : Except Nat (Word × State) := if o.o = 7 then source o.d false s else .ok (0, s)

section atomics
variable {o : Latom} {s s2 s3 t : State} {u : Issue} {x y z : Word} {c : Option Nat}

theorem comparand_ok (h : if o.o = 7 then source o.d false s2 = .ok (z, s3) else z = 0 ∧ s3 = s2) :
    comparand o s2 = .ok (z, s3) := by
  unfold comparand
  split at h
  · rw [if_pos ‹_›, h]
  · rw [if_neg ‹_›, h.1, h.2]

theorem comparand_queuesOnly (h : comparand o s2 = .ok (z, s3)) : QueuesOnly s2 s3 := by
  unfold comparand at h
  split at h
  · exact source_queuesOnly h
  · cases h
    exact .refl _

/-- What LATOM does once its operands are read. -/
def latomFrom (o : Latom) (x y z : Word) (s : State) : Except Nat State :=
  if o.p then do
    let k ← pooledCheck s (agIdx (curAgent s)) (curCtx s).task x
    let (c, t) ← dest o.d o.q s
    .ok (landAt (curT s) (.latomPool k o.o y z o.d (c.getD 4)
      (curUndo (popped o.a o.m x ++ popped o.b o.n y) (grown (curCtx s) o.d o.q c) s)) t)
  else do
    let k ← spoolCheck (curCtx s).task x 8 8
    let (c, t) ← dest o.d o.q s
    .ok (land 3 (.latom k o.o y z o.d (c.getD 4) (1 + ringDist (blockPos (k / blockBytes)) (stationPos 1))) t)

theorem exec_latom_ok (hg : slotRuns o.g u s) (hh : o.p = true ∨ (curCtx s).estatH = false)
    (hr : readsTwo o.a o.m o.b o.n s x y s2) (hz : comparand o s2 = .ok (z, s3)) (h : latomFrom o x y z s3 = .ok t) :
    exec (.latom o) s = slotDone u t := by
  obtain ⟨s1, h1, h2⟩ := hr
  have hn : need 0x0D (o.p || !inHandler s) = .ok () := need_holds (by simpa [inHandler] using hh)
  exact (exec_latom o s).trans (slot_ok hg ((bind_of_ok hn _).trans ((bind_of_ok h1 _).trans ((bind_of_ok h2 _).trans
    ((bind_of_ok hz _).trans h)))))

theorem exec_latom_pooled (hg : slotRuns o.g u s) (hr : readsTwo o.a o.m o.b o.n s x y s2) (hz : comparand o s2 = .ok (z, s3))
    (hd : dest o.d o.q s3 = .ok (c, t)) (hp : o.p = true)
    (hlt : x.toNat < (allocOf s (clusterOfCore (agIdx u.ag)) (curCtx s).task).length * 983040) (h8 : x.toNat % 8 = 0) :
    exec (.latom o) s = slotDone u (landAt u.t (.latomPool x.toNat o.o y z o.d (c.getD 4)
      (curUndo (popped o.a o.m x ++ popped o.b o.n y) (grown (curCtx s3) o.d o.q c) s3)) t) := by
  have hq := (readsTwo_queuesOnly hr).trans (comparand_queuesOnly hz)
  rw [← hq.time hg.1]
  exact exec_latom_ok hg (.inl hp) hr hz ((if_pos hp).trans
    ((bind_of_ok (hq.pooledCheck_ok hg.1 hlt h8) _).trans (bind_of_ok hd _)))

theorem exec_latom_spool (hg : slotRuns o.g u s) (hr : readsTwo o.a o.m o.b o.n s x y s2) (hz : comparand o s2 = .ok (z, s3))
    (hd : dest o.d o.q s3 = .ok (c, t)) (hp : o.p = false) (hh : (curCtx s).estatH = false) (hlt : x.toNat < 0x1400000)
    (h8 : x.toNat % 8 = 0) (hb : heldBlock (curCtx s).task (x.toNat / 0x140000) = true) :
    exec (.latom o) s = slotDone u (land 3 (.latom x.toNat o.o y z o.d (c.getD 4)
      (1 + ringDist (blockPos (x.toNat / 0x140000)) (stationPos 1))) t) := by
  have hq := (readsTwo_queuesOnly hr).trans (comparand_queuesOnly hz)
  have hc := hq.spoolCheck_ok (n := 8) hlt h8 (last_byte_block (by decide) (by decide) h8) hb
  exact exec_latom_ok hg (.inr hh) hr hz ((if_neg (by simp [hp])).trans ((bind_of_ok hc _).trans (bind_of_ok hd _)))

end atomics

/-- Settles O17: each word by its check and its operands, LATOM by the memory that it names. -/
theorem spillConstantPooledResult : Obligations.SpillConstantPooledResult := by
  unfold Obligations.SpillConstantPooledResult
  refine ⟨⟨fun o s t u c hg h => ⟨lds_lands hg h, fun _ => exec_sts_ok hg h⟩, fun o s t u x c hg hr => ldk_lands hg hr rfl⟩,
    fun o s t t1 u v x k hg _ hk hlt h8 =>
      ⟨fun hs hp _ => exec_ldc_ok hg hk hlt h8 hs hp, exec_stc_ok hg hk hlt h8⟩,
    fun o s s2 s3 t u x y z c hg _ hr hz hd => ⟨exec_latom_pooled hg hr (comparand_ok hz) hd,
      exec_latom_spool hg hr (comparand_ok hz) hd⟩⟩

/-! ## Vectors and the gang network (R208, R210, R211) -/

section vectors
variable {s t t1 : State} {u : Issue} {x : Word} {v : Vec}

/-- The 256 bytes from `a` on lie in one held block of the Spool. -/
def lineHeld (t : Task) (a : Nat) : Prop :=
  a + 256 ≤ 0x1400000 ∧ a / 0x140000 = (a + 255) / 0x140000 ∧ heldBlock t (a / 0x140000) = true

theorem QueuesOnly.vectorCheck_ok {a : Word} {g : Nat} (h : QueuesOnly s t) (ha : lineHeld (curCtx s).task a.toNat)
    (hg : a.toNat % g = 0) : spoolCheck (curCtx t).task a 256 g = .ok a.toNat := by
  obtain ⟨hlt, hb, hh⟩ := ha
  exact h.spoolCheck_ok (by omega) hg hb.symm hh

theorem exec_vld_ok {o : VLd} {c : Nat} (hg : slotRuns o.g u s) (hh : (curCtx s).estatH = false)
    (hs : source o.a o.m s = .ok (x, t)) (ha : lineHeld (curCtx s).task (ea x 8 o.i 64).toNat)
    (h64 : (ea x 8 o.i 64).toNat % 64 = 0) (hd : vdest o.t t = .ok (c, t1)) :
    exec (.vld o) s = slotDone u (land (2 + ringDist (blockPos ((ea x 8 o.i 64).toNat / 0x140000))
      (stationPos (fileStation (routeFile o.t)))) (.vreg (routeFile o.t) (routeQueue o.t) c
        (vecOfBytes (memBytes (coreOf s (agIdx u.ag)).spool (ea x 8 o.i 64).toNat 256))) t1) := by
  have hq := source_queuesOnly hs
  rw [← hq.spool, ← hq.agent hg.1]
  exact (exec_vld o s).trans (slot_ok hg ((bind_of_ok (notInHandler_ok hh) _).trans ((bind_of_ok hs _).trans
    ((bind_of_ok (hq.vectorCheck_ok ha h64) _).trans (writeVec_ok hd)))))

theorem exec_vst_ok {o : VSt} (hg : slotRuns o.g u s) (hh : (curCtx s).estatH = false)
    (hv : vsource .vst o.s o.q s = .ok (v, t)) (hs : source o.a o.m t = .ok (x, t1))
    (ha : lineHeld (curCtx s).task (ea x 8 o.i 64).toNat) (h64 : (ea x 8 o.i 64).toNat % 64 = 0) :
    exec (.vst o) s = slotDone u (land (ringDist (blockPos ((ea x 8 o.i 64).toNat / 0x140000)) (stationPos 4))
      (.store .spool (cellsAt (ea x 8 o.i 64).toNat (vecBytes v))) t1) := by
  have hq := (vsource_queuesOnly hv).trans (source_queuesOnly hs)
  exact (exec_vst o s).trans (slot_ok hg ((bind_of_ok (notInHandler_ok hh) _).trans ((bind_of_ok hv _).trans
    ((bind_of_ok hs _).trans (bind_of_ok (hq.vectorCheck_ok ha h64) _)))))

theorem exec_vstm_ok {o : VStM} (hg : slotRuns o.g u s) (hh : (curCtx s).estatH = false)
    (hv : vsource .vst o.s o.q s = .ok (v, t)) (hs : source o.a o.m t = .ok (x, t1))
    (ha : lineHeld (curCtx s).task (ea x 8 o.i 1).toNat) :
    exec (.vstm o) s = slotDone u (land (ringDist (blockPos ((ea x 8 o.i 1).toNat / 0x140000)) (stationPos 4))
      (.store .spool (maskedCells (vpOf (curCtx s) o.p) (ea x 8 o.i 1).toNat (vecBytes v))) t1) := by
  have hq := (vsource_queuesOnly hv).trans (source_queuesOnly hs)
  have hvp : vpOf (curCtx t1) o.p = vpOf (curCtx s) o.p := by
    rw [hq.ctx]
    rfl
  rw [← hvp]
  exact (exec_vstm o s).trans (slot_ok hg ((bind_of_ok (notInHandler_ok hh) _).trans ((bind_of_ok hv _).trans
    ((bind_of_ok hs _).trans (bind_of_ok (hq.vectorCheck_ok ha (Nat.mod_one _)) _)))))

theorem exec_vlds_ok {o : VLdS} {c : Nat} (hg : slotRuns o.g u s) (h : o.i * 256 + 256 ≤ spillSize (curCtx s).task)
    (hd : vdest o.t s = .ok (c, t)) : exec (.vlds o) s = slotDone u (land 1 (.vreg (routeFile o.t) (routeQueue o.t) c
      (vecOfBytes (memBytes (coreOf s (agIdx u.ag)).spill
        ((if (curCtx s).task.urgent then 0x70000 else 0) + o.i * 256) 256))) t) := by
  rw [← runs_agent hg]
  exact (exec_vlds o s).trans (slot_ok hg ((bind_of_ok (spillCheck_ok h) _).trans (writeVec_ok hd)))

theorem exec_vsts_ok {o : VStS} (hg : slotRuns o.g u s) (h : o.i * 256 + 256 ≤ spillSize (curCtx s).task)
    (hv : vsource .vst o.s o.q s = .ok (v, t)) : exec (.vsts o) s = slotDone u (landAt u.t (.store .spill
      (cellsAt ((if (curCtx s).task.urgent then 0x70000 else 0) + o.i * 256) (vecBytes v))) t) := by
  have hq := vsource_queuesOnly hv
  rw [← hq.task] at h ⊢
  rw [← hq.time hg.1]
  exact (exec_vsts o s).trans (slot_ok hg ((bind_of_ok hv _).trans (bind_of_ok (spillCheck_ok h) _)))

/-- SENDT and RECVT need a timed task outside a handler. -/
theorem network_open (hh : (curCtx s).estatH = false) (ht : (curCtx s).task.timed = true) :
    need 0x0D (!inHandler s && (curCtx s).task.timed) = .ok () := need_holds (by simp [inHandler, hh, ht])

theorem exec_sendt_ok {o : SendT} (hg : slotRuns o.g u s) (hh : (curCtx s).estatH = false) (ht : (curCtx s).task.timed = true)
    (hv : vsource .vst o.s o.q s = .ok (v, t)) : exec (.sendt o) s = slotDone u (land 8 (.sendt o.c v) t) :=
  (exec_sendt o s).trans (slot_ok hg ((bind_of_ok (network_open hh ht) _).trans (bind_of_ok hv _)))

theorem exec_recvt_ok {o : RecvT} {c : Nat} (hg : slotRuns o.g u s) (hh : (curCtx s).estatH = false)
    (ht : (curCtx s).task.timed = true) (hf : (curCtx s).inbox.find? (fun p => p.1 = o.f) = some (o.f, v))
    (hd : vdest o.t (modCur s (fun x => { x with inbox := x.inbox.filter (fun q => q.1 != o.f) })) = .ok (c, t)) :
    exec (.recvt o) s = slotDone u (land 1 (.vreg (routeFile o.t) (routeQueue o.t) c v) t) := by
  refine (exec_recvt o s).trans (slot_ok hg ((bind_of_ok (network_open hh ht) _).trans ?_))
  rw [hf]
  exact writeVec_ok hd

end vectors

/-- Settles O18: each word by its check and its operands. -/
theorem vectorMemoryResult : Obligations.VectorMemoryResult := by
  unfold Obligations.VectorMemoryResult
  intro s t t1 u _
  exact ⟨fun o x c hg hh hs => exec_vld_ok hg hh hs, fun o v x hg hh hv hs => exec_vst_ok hg hh hv hs,
    fun o v x hg hh hv hs => exec_vstm_ok hg hh hv hs, ⟨fun o c hg h => exec_vlds_ok hg h, fun o v hg h => exec_vsts_ok hg h⟩,
    fun o v hg hh ht => exec_sendt_ok hg hh ht, fun o v c hg hh ht => exec_recvt_ok hg hh ht⟩

end Sys2Proof.Proofs

/-!
PROOFS. Yarns: YSET, YGET, YGO and YHALT (O29).
-/

namespace Sys2Proof.Proofs
open Sys2Proof Sys2Proof.Machine Sys2Proof.Laws

/-! ## Y words of yarns (spec/09_spool_yarns_and_cluster_memory.md R213, R220-R223) -/

/-- What YGO needs of a descriptor that is not empty: it is valid, its source and destinations are its own core's, and its
beats, and the scales of its blocks, are in range. -/
def yarnStartable (s : State) (a : Agent) (q : W256) (x z : Nat) : Prop :=
  yarnValid q = true ∧ isNetYarn q = false ∧ beatsCause s a q x z (yqBeats q) 0 = 0 ∧
    (yqGeom q = 0 ∨ scalesCause (yarnSrcTask s a q) q (streamBlocks q) 0 = 0)

/-- What YGO does with the descriptor `q`, its operands read and its yarn not open. -/
def startYarn (y : Nat) (q : W256) (x z : Nat) (s : State) : Except Nat State :=
  let a := curAgent s
  if yarnEmpty q then .ok s
  else do
    need 0x01 (yarnValid q)
    need 0x09 (!isNetYarn q || gangOk s a q)
    let c := beatsCause s a q x z (yqBeats q) 0
    need c (c == 0)
    let c := if yqGeom q = 0 then 0 else scalesCause (yarnSrcTask s a q) q (streamBlocks q) 0
    need c (c == 0)
    .ok (modCore s (agIdx a) (fun k => { k with open_ := k.open_ ++ [⟨y, a, q, x, z, curT s, 0, yqBeats q - 1⟩] }))

theorem startYarn_empty {y x z : Nat} {q : W256} (h : yarnEmpty q = true) (s : State) : startYarn y q x z s = .ok s := if_pos h

theorem startYarn_opens {y x z : Nat} {q : W256} {s : State} (he : yarnEmpty q = false)
    (h : yarnStartable s (curAgent s) q x z) : startYarn y q x z s = .ok (modCore s (agIdx (curAgent s)) (fun k => { k with
      open_ := k.open_ ++ [⟨y, curAgent s, q, x, z, curT s, 0, yqBeats q - 1⟩] })) := by
  obtain ⟨hv, hn, hb, hs⟩ := h
  have hscales : (if yqGeom q = 0 then 0 else scalesCause (yarnSrcTask s (curAgent s) q) q (streamBlocks q) 0) = 0 := by
    rcases hs with hs | hs
    · exact if_pos hs
    · rw [hs, ite_self]
  refine (if_neg (by simp [he])).trans ((bind_of_ok (need_holds hv) _).trans
    ((bind_of_ok (need_holds (by rw [hn]; rfl)) _).trans ((bind_of_ok (need_holds (beq_iff_eq.2 hb)) _).trans
      (bind_of_ok (need_holds (beq_iff_eq.2 hscales)) _))))

section yarnWords
variable {s t : State} {u : Issue} {x y : Word}

theorem exec_yset_ok {o : YSet} (hg : slotRuns o.g u s) (hy : yarnHeld (curCtx s).task o.y = true)
    (hr : readsTwo o.a o.m o.b o.n s x y t) : exec (.yset o) s = slotDone u (land 1 (.yset o.y o.h x y) t) := by
  obtain ⟨s1, h1, h2⟩ := hr
  exact (exec_yset o s).trans (slot_ok hg ((bind_of_ok (need_holds hy) _).trans ((bind_of_ok h1 _).trans (bind_of_ok h2 _))))

theorem yget_lands {o : YGet} {c : Option Nat} (hg : slotRuns o.g u s) (hy : yarnHeld (curCtx s).task o.y = true)
    (hd : dest o.d o.q s = .ok (c, t)) : landsWord (.yget o) s u 1 o.d c t
      (fun v => v.toNat = (yarnReg (coreOf s (agIdx u.ag)) o.y).toNat / 2 ^ (64 * o.w) % 2 ^ 64) := by
  rw [← runs_agent hg]
  exact ⟨_, (exec_yget o s).trans (slot_ok hg ((bind_of_ok (need_holds hy) _).trans (writeReg_ok hd))),
    toNat_wd_of_lt (elem_lt _ _ _)⟩

theorem exec_ygo_starts {o : YGo} {t1 : State} (hg : slotRuns o.g u s) (hy : yarnHeld (curCtx s).task o.y = true)
    (hh : (curCtx s).estatH = false) (hr : readsTwo o.a o.m o.b o.n s x y t) (ho : isOpen t (agIdx u.ag) o.y u.t = false)
    (h : startYarn o.y (yarnReg (coreOf s (agIdx u.ag)) o.y) (x.toNat % 2 ^ 32) (y.toNat % 2 ^ 32) t = .ok t1) :
    exec (.ygo o) s = slotDone u t1 := by
  have hq := readsTwo_queuesOnly hr
  rw [← hq.agent hg.1, ← hq.time hg.1] at ho
  rw [← hq.yarnReg, ← hq.agent hg.1] at h
  have hn : need 0x04 (!isOpen t (agIdx (curAgent t)) o.y (curT t)) = .ok () := need_holds (by rw [ho]; rfl)
  obtain ⟨s1, h1, h2⟩ := hr
  exact (exec_ygo o s).trans (slot_ok hg ((bind_of_ok (need_holds hy) _).trans ((bind_of_ok (notInHandler_ok hh) _).trans
    ((bind_of_ok h1 _).trans ((bind_of_ok h2 _).trans ((bind_of_ok hn _).trans h))))))

theorem exec_yhalt_ok {o : YHalt} (hg : slotRuns o.g u s) (hy : yarnHeld (curCtx s).task o.y = true)
    (hh : (curCtx s).estatH = false) : exec (.yhalt o) s = slotDone u (haltYarn (agIdx u.ag) o.y u.t s) := by
  rw [← runs_agent hg, ← runs_time hg]
  exact (exec_yhalt o s).trans (slot_ok hg ((bind_of_ok (need_holds hy) _).trans (bind_of_ok (notInHandler_ok hh) _)))

theorem exec_yhaltAll_ok {o : G} (hg : slotRuns o.g u s) (hh : (curCtx s).estatH = false) :
    exec (.yhaltAll o) s = slotDone u (haltAll u.ag u.t s) := by
  rw [← runs_agent hg, ← runs_time hg]
  exact (exec_yhaltAll o s).trans (slot_ok hg (bind_of_ok (notInHandler_ok hh) _))

end yarnWords

/-- Settles O29: each word by its checks, YGO by the descriptor that it reads. -/
theorem yarnResult : Obligations.YarnResult := by
  unfold Obligations.YarnResult
  intro s u c held q
  refine ⟨fun o x y t hg hy hr => exec_yset_ok hg hy hr, fun o cell t hg hy hd => yget_lands hg hy hd,
    fun o x y t hg hy hh hr ho => ?_, fun o hg hy hh => exec_yhalt_ok hg hy hh, fun o hg hh => exec_yhaltAll_ok hg hh⟩
  have starts := fun {t1} => exec_ygo_starts (t1 := t1) hg hy hh hr ho
  refine ⟨fun he => starts (startYarn_empty he t), fun he hv hn hb hs => starts ?_⟩
  rw [← (readsTwo_queuesOnly hr).time hg.1]
  have hag := (readsTwo_queuesOnly hr).agent hg.1
  rw [← hag] at hb hs
  exact (startYarn_opens he ⟨hv, hn, hb, hs⟩).trans (by rw [hag])

end Sys2Proof.Proofs

/-!
PROOFS. The steps of the engines, drain atomics, pooled grants and taken work (O46).
-/

namespace Sys2Proof.Proofs
open Sys2Proof Sys2Proof.Machine Sys2Proof.Laws

/-! ## An operation at its time (spec/15_async_and_synchronisation_instructions.md R345, R346) -/

/-- The state after the free value that says whether an operation acts. -/
def drawn (s : State) : State := { s with freeCtr := s.freeCtr + 1 }

/-- The outcome of an operation whose step leaves `f`, if it acts: else it tries again in the next cycle. -/
def actsOr (e n : Nat) (s f : State) : Out := .next (if Config.freeNat s.freeCtr % 2 = 0 then f else again e n (drawn s))

theorem engineActs_eq (s : State) : engineActs s = (Config.freeNat s.freeCtr % 2 == 0, drawn s) := rfl

section running
variable {s : State} {e n : Nat} {op : EngOp} {kinds : List EngKind} {start act : EngOp → State → State}

theorem runOp_stopped (h : opOf s e n = some op) (hat : op.at_ ≤ s.gcyc) (hk : kinds.elem op.kind = true)
    (hs : op.stopped = true) : runOp e n kinds start act s = .next (endOp e n (drawn s)) := by
  simp only [runOp, h, hk, Nat.not_lt.2 hat, hs, engineActs_eq, decide_false, Bool.not_true, Bool.or_false, if_true,
    Bool.false_eq_true, if_false]

/-- An operation that has not stopped acts or tries again: it starts, where it may, or goes on. -/
theorem runOp_running (h : opOf s e n = some op) (hat : op.at_ ≤ s.gcyc) (hk : kinds.elem op.kind = true)
    (hs : op.stopped = false) : runOp e n kinds start act s = actsOr e n s (if op.todoSet then act op (drawn s)
      else if mayStart (drawn s) e op || op.taken.isSome then start op (drawn s) else again e n (drawn s)) := by
  simp only [runOp, h, hk, Nat.not_lt.2 hat, hs, engineActs_eq, actsOr, decide_false, Bool.not_true, Bool.or_false,
    Bool.false_eq_true, if_false]
  by_cases hf : Config.freeNat s.freeCtr % 2 = 0
  · cases op.todoSet <;> simp [hf]
  · simp [hf]

theorem runOp_starts (h : opOf s e n = some op) (hat : op.at_ ≤ s.gcyc) (hk : kinds.elem op.kind = true)
    (hs : op.stopped = false) (ht : op.todoSet = false) (hm : mayStart (drawn s) e op = true ∨ op.taken.isSome = true) :
    runOp e n kinds start act s = actsOr e n s (start op (drawn s)) := by
  rw [runOp_running h hat hk hs, if_neg (by simp [ht]), if_pos (by simpa using hm)]

theorem runOp_goesOn (h : opOf s e n = some op) (hat : op.at_ ≤ s.gcyc) (hk : kinds.elem op.kind = true)
    (hs : op.stopped = false) (ht : op.todoSet = true) : runOp e n kinds start act s = actsOr e n s (act op (drawn s)) := by
  rw [runOp_running h hat hk hs, if_pos ht]

end running

/-! ## Copies and reductions (R345, R350) -/

section copies
variable {s : State} {e n : Nat} {op : EngOp}

theorem exec_copyComplete_copy (h : opOf s e n = some op) (hk : op.kind ≠ .red) :
    exec (.copyComplete e n) s = runOp e n [.cpy, .cpyr] (copyStart e) (copyAct e) s := by
  simp only [exec_copyComplete, execCopyComplete, h, if_neg hk]

theorem copyAct_finished (s : State) (e : Nat) (ht : op.todo = []) (hh : op.held = none) :
    copyAct e op s = endOp e op.num s := by
  simp only [copyAct, hh, ht]

theorem exec_copyComplete_red (h : opOf s e n = some op) (hat : op.at_ ≤ s.gcyc) (hk : op.kind = .red) :
    exec (.copyComplete e n) s = .next (if op.stopped then endOp e n (drawn s)
      else if Config.freeNat s.freeCtr % 2 == 0 && op.queued then redAct e op (drawn s) else again e n (drawn s)) := by
  simp only [exec_copyComplete, execCopyComplete, h, if_pos hk, if_neg (Nat.not_lt.2 hat)]
  rfl

theorem exec_copyComplete_red_acts (h : opOf s e n = some op) (hat : op.at_ ≤ s.gcyc) (hk : op.kind = .red)
    (hs : op.stopped = false) (hq : op.queued = true) :
    exec (.copyComplete e n) s = actsOr e n s (redAct e op (drawn s)) := by
  rw [exec_copyComplete_red h hat hk, if_neg (by simp [hs])]
  simp only [hq, Bool.and_true, beq_iff_eq, actsOr]

theorem exec_copyComplete_red_stopped (h : opOf s e n = some op) (hat : op.at_ ≤ s.gcyc) (hk : op.kind = .red)
    (hs : op.stopped = true) : exec (.copyComplete e n) s = .next (endOp e n (drawn s)) := by
  rw [exec_copyComplete_red h hat hk, if_pos hs]

end copies

/-! ## Home-slice atomics (R349) -/

/-- HATOM may operate on its home word, with its return word to write: its turn has come, its home die is there, the bank is
free and its gang's, and the line is not poisoned. -/
structure HatomReady (s : State) (e : Nat) (op : EngOp) (cl : Nat) : Prop where
  kind : op.kind = .hatom
  stopped : op.stopped = false
  performed : op.performed = false
  queued : op.queued = true
  die : s.cutDies.elem (cl / 4) = false
  turn : atomBehind s e op = false
  free : bankTaken s cl (placeBank op.aux) = false
  held : (opBanks s op cl).elem (placeBank op.aux) = true
  clean : linePoisoned (takeBank cl (placeBank op.aux) s) cl op.aux = false
  ret : op.ret = true

/-- The home word has been operated on, and its old value kept. -/
def hatomDone (s : State) (e : Nat) (op : EngOp) (cl : Nat) : State :=
  let s2 := takeBank cl (placeBank op.aux) s
  let m := wd (leNat (pooledBytes s2 cl op.aux 8))
  setOp (pooledWrite s2 cl op.aux (leBytes 8 (atomicOp op.op m op.z op.cmp).toNat)) e
    { op with z := m, performed := true, at_ := s.gcyc + 1 }

theorem exec_hatomPerform_ready {s : State} {e n : Nat} {op : EngOp} (h : opOf s e n = some op) (hat : op.at_ ≤ s.gcyc)
    (hr : HatomReady (drawn s) e op (bits op.x 29 26)) :
    exec (.hatomPerform e n) s = actsOr e n s (hatomDone (drawn s) e op (bits op.x 29 26)) := by
  simp only [exec_hatomPerform, execHatomPerform, h]
  refine (if_neg (by simp [hr.kind, hat])).trans ((if_neg (Bool.eq_false_iff.1 hr.stopped)).trans
    ((if_neg (Bool.eq_false_iff.1 hr.performed)).trans ((if_neg (Bool.eq_false_iff.1 hr.die)).trans ?_)))
  by_cases hf : Config.freeNat s.freeCtr % 2 = 0
  · refine (if_neg (by simp [engineActs_eq, hf, hr.queued, hr.turn, hr.free])).trans ?_
    refine (if_neg (by simpa [engineActs_eq] using hr.held)).trans ((if_neg (Bool.eq_false_iff.1 hr.clean)).trans ?_)
    rw [actsOr, if_pos hf]
    exact congrArg Host.Outcome.next (if_pos hr.ret)
  · rw [actsOr, if_neg hf]
    exact if_pos (by simp [engineActs_eq, hf])

/-! ## Drain atomics, pooled grants and taken work (R272, R200, R347) -/

theorem exec_drainAtomicPerform_spool {s : State} {id : Nat} {d : DrainAtomic} (h : s.atomics.find? (fun q => q.id = id) = some d)
    (hat : d.at_ ≤ s.gcyc) (hx : d.amx = 1) (hl : (ctxOf s d.ag).live = true) (hn : (ctxOf s d.ag).task.launch = d.launch)
    (hw : (ctxOf s d.ag).task.world = d.world) : exec (.drainAtomicPerform id) s =
      .next { spoolWrite (agIdx d.ag) d.addr
        (leBytes 8 (max (memNat (coreOf s (agIdx d.ag)).spool d.addr 8) d.value)) s with
          atomics := s.atomics.filter (fun q => q.id != id) } := by
  simp only [exec_drainAtomicPerform, execDrainAtomicPerform, h, if_neg (Nat.not_lt.2 hat), hx, hl, hn, hw, if_true,
    beq_self_eq_true, Bool.and_self]
  rfl

theorem spool_spoolWrite (c a : Nat) (l : List Byte) (s : State) :
    (coreOf (spoolWrite c a l s) c).spool = memWrite (coreOf s c).spool a l := by
  rw [spoolWrite, coreOf_modCore]
  rfl

/-- An engine that runs a copy, or has one of its own to start, takes none. -/
theorem exec_copyTake_busy {s : State} {c : Nat} (h : engineRuns s c = true ∨ unstarted s c ≠ []) :
    exec (.copyTake c) s = .next s := by
  rw [exec_copyTake, execCopyTake, if_pos (by simpa [List.isEmpty_iff] using h)]

theorem exec_copyTake_takes {s : State} {c j : Nat} {op : EngOp} (hr : engineRuns s c = false) (hu : unstarted s c = [])
    (hj : (sortBy (fun j => (1000 - (unstarted s j).length) * 4 + j % 4) (((clusterCores c).filter (· != c)).filter (fun j =>
      !(unstarted s j).isEmpty))).head? = some j)
    (hop : (unstarted s j).find? (fun op => op.kind == .cpyr && heldByWorld s c op.world) = some op) :
    exec (.copyTake c) s = .next (setOp s j { op with taken := some c, at_ := s.gcyc + 1 }) := by
  rw [exec_copyTake, execCopyTake, if_neg (by simp [hr, hu])]
  simp only [hj, hop]

/-- Settles O46: each event by the step that its operation is due. -/
theorem engineSteps : Obligations.EngineSteps := by
  unfold Obligations.EngineSteps
  refine ⟨fun s e n op h hat => ?_, ?_, fun s cl => rfl, fun s c => exec_copyTake_busy, fun s c j op => exec_copyTake_takes⟩
  · intro s1 acts starts goesOn
    have begins : ∀ {i : Instr} {k : EngKind} {kinds : List EngKind} {f g : EngOp → State → State},
        (op.kind = k → exec i s = runOp e n kinds f g s) → kinds.elem k = true → starts i k (f op s1) :=
      fun hi hm hk hs ht hmay => (hi hk).trans (runOp_starts h hat (hk ▸ hm) hs ht hmay)
    have continues : ∀ {i : Instr} {k : EngKind} {kinds : List EngKind} {f g : EngOp → State → State},
        (op.kind = k → exec i s = runOp e n kinds f g s) → kinds.elem k = true → goesOn i k (g op s1) :=
      fun hi hm hk hs ht => (hi hk).trans (runOp_goesOn h hat (hk ▸ hm) hs ht)
    have copies : ∀ {k : EngKind}, k ≠ .red → op.kind = k →
        exec (.copyComplete e n) s = runOp e n [.cpy, .cpyr] (copyStart e) (copyAct e) s :=
      fun hr hk => exec_copyComplete_copy h (hk ▸ hr)
    refine ⟨begins (copies (by decide)) rfl, begins (copies (by decide)) rfl, continues (copies (by decide)) rfl,
      continues (copies (by decide)) rfl, copyAct_finished s1 e, exec_copyComplete_red_acts h hat,
      exec_copyComplete_red_stopped h hat, begins (fun _ => exec_krotComplete e n s) rfl,
      continues (fun _ => exec_krotComplete e n s) rfl, begins (fun _ => exec_sealComplete e n s) rfl,
      continues (fun _ => exec_sealComplete e n s) rfl, begins (fun _ => exec_unsealComplete e n s) rfl,
      continues (fun _ => exec_unsealComplete e n s) rfl, begins (fun _ => exec_scrubComplete e n s) rfl,
      continues (fun _ => exec_scrubComplete e n s) rfl, fun hs i hi => ?_,
      fun hk hs hp hq hd hb ht hh hc hr => exec_hatomPerform_ready h hat ⟨hk, hs, hp, hq, hd, hb, ht, hh, hc, hr⟩⟩
    rcases hi with ⟨rfl, hk⟩ | ⟨rfl, hk⟩ | ⟨rfl, hk⟩ | ⟨rfl, hk⟩ | ⟨rfl, hk⟩
    · have hr : op.kind ≠ .red := by rcases hk with hk | hk <;> simp [hk]
      exact (exec_copyComplete_copy h hr).trans (runOp_stopped h hat (by rcases hk with hk | hk <;> simp [hk]) hs)
    · exact (exec_krotComplete e n s).trans (runOp_stopped h hat (by simp [hk]) hs)
    · exact (exec_sealComplete e n s).trans (runOp_stopped h hat (by simp [hk]) hs)
    · exact (exec_unsealComplete e n s).trans (runOp_stopped h hat (by simp [hk]) hs)
    · exact (exec_scrubComplete e n s).trans (runOp_stopped h hat (by simp [hk]) hs)
  · intro s id d h hat hx hl hn hw
    exact ⟨_, exec_drainAtomicPerform_spool h hat hx hl hn hw, rfl, spool_spoolWrite _ _ _ s⟩

end Sys2Proof.Proofs

/-!
PROOFS. Vectors: lane words of two sources (O20).
-/

namespace Sys2Proof.Proofs
open Sys2Proof Sys2Proof.Machine Sys2Proof.Laws

/-! ## Words of two vectors, lane by lane (spec/10_vector_instructions.md R232-R240) -/

section twoVectors
variable {s t : State} {u : Issue} {x y : Vec}

/-- An arithmetic word of two vectors: the operation on each pair of lanes, with the draw of the lane. -/
theorem formV2_lands_drawn {i : Instr} {o : VAB} {L : Nat} {f : VType → Nat → Nat → Nat → Nat}
    (hi : exec i s = formV2 o L anyType laneDraws (fun t m a b ds => zipLanes t m a b ds (f t)) s)
    (hg : slotRuns o.g u s) (hr : readsV2 o.a o.m o.b o.n o.t s x y t) :
    let ty := curVType s
    let d := takeDraws ty.mode (laneDraws ty) t
    landsLanes i s u L o.t ty false ty.w d.2 (lanesAre ty (vpOf (curCtx s) o.l) (fun k =>
      f ty (elem ty.w x.toNat k) (elem ty.w y.toNat k) (drawAt d.1 k))) :=
  formV2_lands hi hg rfl hr (lanesAre_zipLanes fun _ => rfl)

/-- A selection that the predicate makes lane by lane; no lane is zeroed. -/
theorem vsel_lands {o : VAB} (hg : slotRuns o.g u s) (hr : readsV2 o.a o.m o.b o.n o.t s x y t) :
    let ty := curVType s
    landsLanes (.vsel o) s u 3 o.t ty false ty.w (takeDraws ty.mode 0 t).2 (fun l => l.length = ty.nl ∧
      ∀ i : Nat, i < ty.nl → l.getD i 0 =
        if governs (vpOf (curCtx s) o.l) ty.w i then elem ty.w x.toNat i else elem ty.w y.toNat i) :=
  formV2_lands (draws := noDraws) (exec_vsel o s) hg rfl hr ⟨by simp, fun _ hi => getD_map_range _ 0 hi⟩

/-- A permutation takes lane `b i` of the first vector, where there is one. -/
theorem vperm_lands {o : VAB} (hg : slotRuns o.g u s) (hr : readsV2 o.a o.m o.b o.n o.t s x y t) :
    let ty := curVType s
    landsLanes (.vperm o) s u 5 o.t ty false ty.w (takeDraws ty.mode 0 t).2 (lanesAre ty (vpOf (curCtx s) o.l) (fun i =>
      if elem ty.w y.toNat i < ty.nl then elem ty.w x.toNat (elem ty.w y.toNat i) else 0)) :=
  formV2_lands (draws := noDraws) (exec_vperm o s) hg rfl hr (lanesAre_zipLanes fun _ => rfl)

end twoVectors

/-- Settles O20: each word is its form applied to its operation, lane by lane. -/
theorem vectorTwoSource : Obligations.VectorTwoSource := by
  unfold Obligations.VectorTwoSource
  intro o s t u x y hg hr ty m a b lands
  refine ⟨?_, ?_, ?_, ?_, ?_, ?_, ?_, ?_, ?_, ?_, ?_, ?_, ?_⟩
  · exact formV2_lands_drawn (f := addLane) (exec_vadd o s) hg hr
  · exact formV2_lands_drawn (f := fun t => arithLane t (· - ·) (fun r p q => addV r p (negV q))) (exec_vsub o s) hg hr
  · exact formV2_lands_drawn (f := fun t => arithLane t (· * ·) (fun _ => mulV)) (exec_vmul o s) hg hr
  · exact formV2_lands_zip (exec_vmin o s) hg hr fun _ => rfl
  · exact formV2_lands_zip (exec_vmax o s) hg hr fun _ => rfl
  · exact formV2_lands_zip (exec_vand o s) hg hr fun _ => rfl
  · exact formV2_lands_zip (exec_vor o s) hg hr fun _ => rfl
  · exact formV2_lands_zip (exec_vxor o s) hg hr fun _ => rfl
  · exact formV2_lands_zip (f := fun t x y => x &&& (2 ^ t.w - 1 - y)) (exec_vandn o s) hg hr fun _ => rfl
  · exact formV2_lands_zip (exec_vfsl o s) hg hr fun _ => rfl
  · exact formV2_lands_zip (exec_vfsr o s) hg hr fun _ => rfl
  · exact vperm_lands hg hr
  · exact vsel_lands hg hr

end Sys2Proof.Proofs

/-!
PROOFS. Vectors: lane words of one source, and of a count (O21).
-/

namespace Sys2Proof.Proofs
open Sys2Proof Sys2Proof.Machine Sys2Proof.Laws

/-! ## Words of one vector, lane by lane (spec/10_vector_instructions.md R234, R238, R248, R249) -/

section oneVectorLanes
variable {s t : State} {u : Issue} {x : Vec}

/-- A word of one vector that takes no draw, its operation made of each lane. -/
theorem formV1_lands_map {i : Instr} {o : VA} {L : Nat} {f : VType → Nat → Nat}
    (hi : exec i s = formV1 o L anyType noDraws false (fun t m a ds => mapLanes t m a ds (fun x _ => f t x)) s)
    (hg : slotRuns o.g u s) (hr : readsV1 o.a o.m o.t s x t) :
    let ty := curVType s
    landsLanes i s u L o.t ty false ty.w (takeDraws ty.mode 0 t).2
      (lanesAre ty (vpOf (curCtx s) o.l) (fun k => f ty (elem ty.w x.toNat k))) :=
  formV1_lands (draws := noDraws) hi hg rfl hr (lanesAre_zeroFalse _ _ _)

/-- A transcendental word of a float type: each lane is rounded once, with its draw. -/
theorem formVFun_lands {i : Instr} {o : VA} {f : Val → Val} (hi : exec i s = formVFun o f s) (hg : slotRuns o.g u s)
    (hf : (curVType s).isFloat = true) (hr : readsV1 o.a o.m o.t s x t) :
    let ty := curVType s
    let d := takeDraws ty.mode ty.nl t
    landsLanes i s u 8 o.t ty false ty.w d.2 (lanesAre ty (vpOf (curCtx s) o.l) (fun k =>
      ty.elem.round ty.mode ty.sat (drawAt d.1 k) (f (ty.elem.val (elem ty.w x.toNat k))))) :=
  formV1_lands (ok := floatType) (draws := fun t => t.nl) hi hg hf hr (lanesAre_zeroFalse _ _ _)

/-- The lanes of a governed vector that holds `f` of each element of `v`. -/
theorem lanesAre_elems (ty : VType) (m : W256) (w v : Nat) (f : Nat → Nat) :
    lanesAre ty m (fun k => f (elem w v k)) (zeroFalse m ty.w ((elems w ty.nl v).map f)) := by
  rw [elems, List.map_map]
  exact lanesAre_zeroFalse _ _ _

/-- R248: a field of lane `i` is extended to the lane by its signedness. -/
theorem vunpk_lands {o : VA} (hg : slotRuns o.g u s) (hr : readsV1 o.a o.m o.t s x t) :
    let ty := curVType s
    landsLanes (.vunpk o) s u 5 o.t ty false ty.w (takeDraws ty.mode 0 t).2 (lanesAre ty (vpOf (curCtx s) o.l) (fun k =>
      if ty.u then elem ty.field x.toNat k else intCode ty.w (sext ty.field (elem ty.field x.toNat k)))) :=
  formV1_lands (draws := noDraws) (exec_vunpk o s) hg rfl hr
    (lanesAre_elems _ _ _ _ fun v => if (curVType s).u then v else intCode (curVType s).w (sext (curVType s).field v))

/-- R248: the low bits of each lane, side by side in the width of the field. -/
theorem vpack_lands {o : VA} (hg : slotRuns o.g u s) (hr : readsV1 o.a o.m o.t s x t) (hd : dstScalar o.t = false) :
    let ty := curVType s
    landsLanes (.vpack o) s u 5 o.t ty false ty.field t (lanesAre ty (vpOf (curCtx s) o.l) (fun k =>
      elem ty.w x.toNat k % 2 ^ ty.field)) := by
  intro ty
  refine ⟨_, lanesAre_elems ty _ _ _ (· % 2 ^ ty.field), fun t1 ht1 => (exec_vpack o s).trans (slot_ok hg ?_)⟩
  rw [routeLanes_vector hd, ← readsV1_curCtx hr] at ht1
  obtain ⟨ha, hroute, hv⟩ := hr
  have hq : (qHeld o.a s && routeHeld o.t s) = true := by rw [ha, hroute]; rfl
  exact (bind_of_ok (need_holds hq) _).trans ((bind_of_ok hv _).trans ht1)

end oneVectorLanes

/-! ## Words with a count from a vector or from an immediate (R239, R247) -/

/-- The operands of a word with an immediate form: of its second source it reads the vector `b`, or nothing. -/
def readsVImm (qa : Nat) (m : Bool) (qb : Nat) (n : Bool) (dst : Nat) (imm : Bool) (s : State) (x : Vec) (b : Option Nat)
    (t : State) : Prop :=
  if imm then b = none ∧ readsV1 qa m dst s x t else ∃ y : Vec, b = some y.toNat ∧ readsV2 qa m qb n dst s x y t

section counts
variable {s t : State} {u : Issue} {x : Vec} {b : Option Nat}

theorem readsVImm_true {qa qb dst : Nat} {m n : Bool} :
    readsVImm qa m qb n dst true s x b t ↔ b = none ∧ readsV1 qa m dst s x t := by simp [readsVImm]

theorem readsVImm_false {qa qb dst : Nat} {m n : Bool} :
    readsVImm qa m qb n dst false s x b t ↔ ∃ y : Vec, b = some y.toNat ∧ readsV2 qa m qb n dst s x y t := by
  simp [readsVImm]

/-- A word with an immediate form completes with the lanes of its operation, wherever they are routed. -/
theorem formVImm_lands {i : Instr} {g dst qa qb l L : Nat} {m n imm : Bool}
    {op : VType → W256 → Nat → Option Nat → Nat → List Nat} {P : List Nat → Prop}
    (hi : exec i s = formVImm g dst m qa n qb l imm L op s) (hg : slotRuns g u s)
    (hr : readsVImm qa m qb n dst imm s x b t)
    (hP : P (op (curVType s) (vpOf (curCtx s) l) x.toNat b (n.toNat * 16 + qb))) :
    landsLanes i s u L dst (curVType s) false (curVType s).w t P := by
  refine ⟨_, hP, fun t1 ht1 => hi.trans (slot_ok hg ?_)⟩
  cases imm with
  | true =>
    obtain ⟨rfl, h⟩ := readsVImm_true.1 hr
    rw [← readsV1_curCtx h] at ht1
    obtain ⟨ha, hroute, hv⟩ := h
    have hq : (qHeld qa s && (true || qHeld qb s) && routeHeld dst s) = true := by rw [ha, hroute]; rfl
    exact (bind_of_ok (need_holds hq) _).trans ((bind_of_ok hv _).trans ht1)
  | false =>
    obtain ⟨y, rfl, h⟩ := readsVImm_false.1 hr
    rw [← readsV2_curCtx h] at ht1
    obtain ⟨hb, s1, ⟨ha, hroute, h1⟩, h2⟩ := h
    have hq : (qHeld qa s && (false || qHeld qb s) && routeHeld dst s) = true := by rw [ha, hb, hroute]; rfl
    refine (bind_of_ok (need_holds hq) _).trans ((bind_of_ok h1 _).trans ?_)
    simp only [h2]
    exact ht1

/-- R239: a shift of each lane, by the lane of the second vector or by the immediate. -/
theorem formVShift_lands {i : Instr} {o : VABI} {k : Nat} (hi : exec i s = formVShift o k s) (hg : slotRuns o.g u s)
    (hr : readsVImm o.a o.m o.b o.n o.t o.i s x b t) :
    let ty := curVType s
    landsLanes i s u 3 o.t ty false ty.w t (lanesAre ty (vpOf (curCtx s) o.l) (fun j =>
      shiftLane ty.w k (elem ty.w x.toNat j) (b.elim (o.n.toNat * 16 + o.b) (fun v => elem ty.w v j)))) :=
  formVImm_lands hi hg hr (lanesAre_zeroFalse _ _ _)

/-- R247: lane `i` reads the lane that lies the count above it, or below it, around the vector. -/
theorem vrot_lands {o : VABUI} (hg : slotRuns o.g u s) (hr : readsVImm o.a o.m o.b o.n o.t o.i s x b t) :
    let ty := curVType s
    let k := laneIndex ty b (o.n.toNat * 16 + o.b)
    landsLanes (.vrot o) s u 5 o.t ty false ty.w t (lanesAre ty (vpOf (curCtx s) o.l) (fun j =>
      if o.u then elem ty.w x.toNat ((j + ty.nl - k) % ty.nl) else elem ty.w x.toNat ((j + k) % ty.nl))) := by
  refine formVImm_lands (exec_vrot o s) hg hr ?_
  simp only [apply_ite (elem _ _)]
  exact lanesAre_zeroFalse _ _ _

theorem vbcast_lands {o : VABI} (hg : slotRuns o.g u s) (hr : readsVImm o.a o.m o.b o.n o.t o.i s x b t) :
    let ty := curVType s
    landsLanes (.vbcast o) s u 3 o.t ty false ty.w t (lanesAre ty (vpOf (curCtx s) o.l) (fun _ =>
      elem ty.w x.toNat (laneIndex ty b (o.n.toNat * 16 + o.b)))) := by
  intro ty
  have hmap : ∀ v : Nat, List.replicate ty.nl v = (List.range ty.nl).map (fun _ => v) := fun v => by simp
  refine formVImm_lands (exec_vbcast o s) hg hr ?_
  rw [hmap]
  exact lanesAre_zeroFalse _ _ _

theorem nl_pos (ty : VType) : 0 < ty.nl := by
  rw [VType.nl, VType.w, VType.elem]
  split <;> norm_num [Elem.width, Fmt.width]

/-- One lane padded with zeros, lane by lane. -/
theorem padLanes_singleton (ty : VType) (v : Nat) :
    padLanes ty [v] = (List.range ty.nl).map (fun i => if i = 0 then v else 0) := by
  obtain ⟨n, hn⟩ : ∃ n, ty.nl = n + 1 := ⟨ty.nl - 1, by have := nl_pos ty; omega⟩
  simp [padLanes, hn, List.range_succ_eq_map, Function.comp_def]

theorem vextr_lands {o : VABI} (hg : slotRuns o.g u s) (hr : readsVImm o.a o.m o.b o.n o.t o.i s x b t) :
    let ty := curVType s
    landsLanes (.vextr o) s u 3 o.t ty false ty.w t (lanesAre ty (vpOf (curCtx s) o.l) (fun j =>
      if j = 0 then elem ty.w x.toNat (laneIndex ty b (o.n.toNat * 16 + o.b)) else 0)) := by
  refine formVImm_lands (exec_vextr o s) hg hr ?_
  rw [padLanes_singleton]
  exact lanesAre_zeroFalse _ _ _

end counts

/-- Settles O21: each word is its form applied to its operation, lane by lane; a count by where it is read. The `:)` has the
operands fix a lemma before its result is compared with the goal. -/
theorem vectorOneSource : Obligations.VectorOneSource := by
  unfold Obligations.VectorOneSource
  refine ⟨fun o s t u x hg hr => ?_, fun s t u x b => ?_⟩
  · intro ty m a plain rounds
    refine ⟨?_, ?_, ?_, ?_, ?_, fun hf => ⟨?_, ?_, ?_, ?_⟩, fun hd => ?_⟩
    · exact formV1_lands_map (exec_vabs o s) hg hr
    · exact formV1_lands_map (exec_vneg o s) hg hr
    · exact formV1_lands_map (f := fun t x => clzFrom x t.w) (exec_vclz o s) hg hr
    · exact formV1_lands_map (f := fun t x => popCount x t.w) (exec_vpopc o s) hg hr
    · exact vunpk_lands hg hr
    · exact formVFun_lands (exec_vexp2 o s) hg hf hr
    · exact formVFun_lands (exec_vlog2 o s) hg hf hr
    · exact formVFun_lands (exec_vrcp o s) hg hf hr
    · exact formVFun_lands (exec_vrsq o s) hg hf hr
    · exact vpack_lands hg hr hd
  · intro ty a reads
    refine ⟨fun o h => ?_, fun o h => ?_⟩
    · obtain ⟨hg, (hr : readsVImm o.a o.m o.b o.n o.t o.i s x b t)⟩ := h
      cases b with
      | none | some v =>
        exact ⟨(formVShift_lands (k := 0) (exec_vshl o s) hg hr :), (formVShift_lands (k := 1) (exec_vshr o s) hg hr :),
          (formVShift_lands (k := 2) (exec_vsra o s) hg hr :), (vbcast_lands hg hr :), (vextr_lands hg hr :)⟩
    · obtain ⟨hg, (hr : readsVImm o.a o.m o.b o.n o.t o.i s x b t)⟩ := h
      cases b with
      | none | some v => exact (vrot_lands hg hr :)

end Sys2Proof.Proofs

/-!
PROOFS. Vectors: the accumulators and VCMP (O24).
-/

namespace Sys2Proof.Proofs
open Sys2Proof Sys2Proof.Machine Sys2Proof.Laws

/-! ## The unit and the accumulators of a vector slot (spec/10_vector_instructions.md R225, R235) -/

section operands
variable {s s1 t : State} {x y : Vec} {a b : Nat} {m n : Bool}

theorem curUnit_of_cur (h : t.cur = s.cur) : curUnit t = curUnit s := by
  unfold curUnit curSlot
  rw [h]

theorem vdest_cur {d c : Nat} (h : vdest d s = .ok (c, t)) : t.cur = s.cur := by
  simp only [vdest] at h
  split at h
  · cases h
  · split at h
    · cases h
    · cases h
      rfl

theorem vaccOf_takeDraws (mode n k j : Nat) (s : State) :
    vaccOf (curCtx (takeDraws mode n s).2) k j = vaccOf (curCtx s) k j := by
  rw [takeDraws, curCtx_modCur]
  rfl

/-- A word that routes no result reads two vectors, from queues of the task's profile. -/
structure ReadsPair (a : Nat) (m : Bool) (b : Nat) (n : Bool) (s s1 : State) (x y : Vec) (t : State) : Prop where
  held : (qHeld a s && qHeld b s) = true
  first : vsource (fileA s) a m s = .ok (x, s1)
  second : vsource (fileB s1) b n s1 = .ok (y, t)

theorem ReadsPair.curCtx (h : ReadsPair a m b n s s1 x y t) : curCtx t = curCtx s :=
  (vsource_keeps h.second).trans (vsource_keeps h.first)

theorem ReadsPair.curUnit (h : ReadsPair a m b n s s1 x y t) : curUnit t = curUnit s :=
  curUnit_of_cur ((vsource_queuesOnly h.first).trans (vsource_queuesOnly h.second)).cur

end operands

/-! ## VFMA, VFMS, VACCR and VCMP (R235-R237, R241) -/

section accumulators
variable {s s1 t : State} {u : Issue} {x y : Vec}

theorem formFma_ok {o : VAB} {neg : Bool} (hg : slotRuns o.g u s) (hr : ReadsPair o.a o.m o.b o.n s s1 x y t) :
    let ty := curVType s
    let n := fmaLanes ty
    let d := takeDraws ty.mode (if ty.isFloat then n else 0) t
    let m := vpOf (curCtx s) o.l
    let acc := (vaccOf (curCtx s) (curUnit s) (o.t % 4)).toNat
    formFma o neg s = slotDone u (land 5 (.vacc (curUnit s) (o.t % 4)
      (BitVec.ofNat 128 (joinElems 1 ((List.range n).map (fun i => (fmaWrites ty m i).toNat))))
      (BitVec.ofNat 4096 (joinElems 32 ((List.range n).map (fun i =>
        fmaLane ty m neg x.toNat y.toNat acc i (drawAt d.1 i)))))) d.2) := by
  intro ty n d m acc
  have hm : vpOf (curCtx d.2) o.l = m := by rw [vpOf_takeDraws, hr.curCtx]
  have hu : curUnit d.2 = curUnit s := hr.curUnit
  have ha : (vaccOf (curCtx d.2) (curUnit d.2) (o.t % 4)).toNat = acc := by rw [vaccOf_takeDraws, hr.curCtx, hu]
  rw [← ha, ← hm, ← hu]
  exact slot_ok hg ((bind_of_ok (need_holds hr.held) _).trans ((bind_of_ok hr.first _).trans (bind_of_ok hr.second _)))

/-- The half of the accumulator that VACCR reads, governed in lanes of 32 bits whatever the type. -/
def accHalf (o : VAccR) (s : State) : Vec :=
  lanesVec 32 (zeroFalse (vpOf (curCtx s) o.l) 32 ((List.range 64).map (fun i =>
    elem 32 (vaccOf (curCtx s) (curUnit s) o.k).toNat (64 * o.h.toNat + i))))

/-- With Z all of the accumulator, of vector unit `k`, is zeroed after one cycle. -/
def accZeroed (o : VAccR) (k : Nat) (t : State) : State :=
  if o.z then land 1 (.vacc k o.k (BitVec.allOnes 128) 0) t else t

theorem exec_vaccr_discards {o : VAccR} (hg : slotRuns o.g u s) (hq : routeHeld o.t s = true) (hd : dstAcc o.t = true) :
    exec (.vaccr o) s = slotDone u (accZeroed o (curUnit s) s) :=
  (exec_vaccr o s).trans (slot_ok hg ((bind_of_ok (need_holds hq) _).trans (bind_of_ok (if_pos hd) _)))

theorem exec_vaccr_reads {o : VAccR} {c : Nat} (hg : slotRuns o.g u s) (hq : routeHeld o.t s = true)
    (hd : dstAcc o.t = false) (hv : vdest o.t s = .ok (c, t)) : exec (.vaccr o) s = slotDone u
      (accZeroed o (curUnit s) (land 3 (.vreg (routeFile o.t) (routeQueue o.t) c (accHalf o s)) t)) := by
  have hu : curUnit (land 3 (.vreg (routeFile o.t) (routeQueue o.t) c (accHalf o s)) t) = curUnit s :=
    curUnit_of_cur (s := s) (t := t) (vdest_cur hv)
  rw [← hu]
  exact (exec_vaccr o s).trans (slot_ok hg ((bind_of_ok (need_holds hq) _).trans
    (bind_of_ok ((if_neg (Bool.eq_false_iff.1 hd)).trans (writeVec_ok hv)) _)))

theorem exec_vcmp_ok {o : VABC} (hg : slotRuns o.g u s) (hr : ReadsPair o.a o.m o.b o.n s s1 x y t) :
    let ty := curVType s
    let cs := (List.range ty.nl).map (fun i => (governs (vpOf (curCtx s) o.l) ty.w i,
      vcmpLane ty o.c (elem ty.w x.toNat i) (elem ty.w y.toNat i)))
    exec (.vcmp o) s = slotDone u (land 3 (.vp (o.t % 8 + 1) (predLanes ty.w (cs.map (fun p => p.1 && !p.2))))
      (land 3 (.vp (o.t % 8) (predLanes ty.w (cs.map (fun p => p.1 && p.2)))) t)) := by
  intro ty cs
  refine (exec_vcmp o s).trans (slot_ok hg ((bind_of_ok (need_holds hr.held) _).trans ((bind_of_ok hr.first _).trans
    ((bind_of_ok hr.second _).trans ?_))))
  simp only [hr.curCtx]
  rfl

end accumulators

/-- Settles O24: each word by its operands and the results that it puts in flight. -/
theorem vectorAccumulate : Obligations.VectorAccumulate := by
  unfold Obligations.VectorAccumulate
  refine ⟨fun o s t u x y neg hg ha hb hr => ?_, fun o s u hg hq => ?_, fun o s t u x y hg ha hb hr => ?_⟩
  · obtain ⟨s1, h1, h2⟩ := hr
    have hp : ReadsPair o.a o.m o.b o.n s s1 x y t := ⟨by rw [ha, hb]; rfl, h1, h2⟩
    have he : exec (if neg then .vfms o else .vfma o) s = formFma o neg s := by
      cases neg with
      | false => exact exec_vfma o s
      | true => exact exec_vfms o s
    exact he.trans (formFma_ok hg hp)
  · exact ⟨exec_vaccr_discards hg hq, fun hd c t hv => exec_vaccr_reads hg hq hd hv⟩
  · obtain ⟨s1, h1, h2⟩ := hr
    exact exec_vcmp_ok hg ⟨by rw [ha, hb]; rfl, h1, h2⟩

end Sys2Proof.Proofs

/-!
PROOFS. Memory channels: the commands of a row (O34), and the writes of DINIT that monitors observe (O35).
-/

namespace Sys2Proof.Proofs
open Sys2Proof Sys2Proof.Machine Sys2Proof.Laws

/-! ## Rows by the word and by a register (spec/13_memory_channels_and_segmented_banks.md R308) -/

section rowForms
variable {g a bank rib : Nat} {m : Bool} {u : Issue} {s t r : State}

theorem needWorld_holds (hw : (curCtx s).task.world ≠ 0) : needWorld s = .ok () := need_holds (bne_iff_ne.2 hw)

theorem ok_of_bind {α β : Type} {x : Except Nat α} {f : α → Except Nat β} {b : β} (h : (x >>= f) = .ok b) :
    ∃ y, x = .ok y ∧ f y = .ok b := by
  cases x with
  | error c => cases h
  | ok y => exact ⟨y, rfl, h⟩

theorem rowOperand_cur (h : rowOperand a m s = .ok (rib, t)) : t.cur = s.cur := by
  obtain ⟨⟨v, s1⟩, hs, h1⟩ := ok_of_bind h
  obtain ⟨-, -, h2⟩ := ok_of_bind h1
  cases h2
  exact (source_keeps hs).2.1

/-- A row in the word: the body's outcome is the slot's. -/
theorem rowInWord_ok {body : State → Except Nat State} (hg : slotRuns g u s) (hw : (curCtx s).task.world ≠ 0)
    (hb : curChan s = agIdx u.ag → body s = .ok r) :
    execSlot g (fun s => do needWorld s; body s) s = slotDone u r :=
  slot_ok hg ((bind_of_ok (needWorld_holds hw) _).trans (hb (congrArg agIdx (runs_agent hg))))

/-- A row in a register: so it is after the Source step. -/
theorem rowInRegister_ok {body : Nat → State → Except Nat State} (hg : slotRuns g u s) (hw : (curCtx s).task.world ≠ 0)
    (hr : rowOperand a m s = .ok (rib, t)) (hb : curChan t = agIdx u.ag → body rib t = .ok r) :
    execSlot g (fun s => do
      needWorld s
      let (x, s) ← rowOperand a m s
      body x s) s = slotDone u r :=
  slot_ok hg ((bind_of_ok (needWorld_holds hw) _).trans ((bind_of_ok hr _).trans
    (hb (congrArg agIdx (curAgent_of_cur ((rowOperand_cur hr).trans hg.1))))))

end rowForms

/-! ## DACT, DPROM and DCLEAN past their checks (R309, R314, R315) -/

section rowBodies
variable {ch bank rib : Nat} {t : State} (hc : curChan t = ch) (ho : needRowOwner bank rib t = .ok ())
  (hi : bankIdle (chanOf t ch) bank (nowChc t) = true)
include hc ho hi

theorem bodyAct_ok (hv : isCacheRow t (rowNumber ch bank rib) = false ∨ cacheValid t (rowNumber ch bank rib) = true)
    (hgap : gapsOk (chanOf t ch) .act bank (nowChc t) = true) :
    bodyAct bank rib t = .ok (noteCmd (setBankState (noteNode t (rowRef t (rowNumber ch bank rib)).ql) ch bank
      (.opened rib [] [] false)) ch .act bank (nearRow rib) (nowChc t)) := by
  subst hc
  refine (bind_of_ok ho _).trans ((bind_of_ok (need_holds ?_) _).trans (bind_of_ok (need_holds hgap) _))
  rw [hi]
  rcases hv with hv | hv <;> simp [hv]

theorem bodyProm_ok (hn : nearRow rib = false) (hp : (chanOf t ch).pin ≠ 15)
    (hgap : gapsOk (chanOf t ch) .prom bank (nowChc t) = true) :
    let v := rowNumber ch bank (512 * (rib / 512) + victimOf (chanOf t ch) bank (rib / 512))
    let n := if (chanOf t ch).valid.elem v ∧ (chanOf t ch).dirty.elem v then 80 else 44
    bodyProm bank rib t = .ok (noteCmd (setBankState
      (promote (noteNode (noteNode t (rowNumber ch bank rib)) (rowRef t v).ql) ch bank rib) ch bank (.busy (nowChc t + n)))
      ch .prom bank false (nowChc t)) := by
  subst hc
  intro v n
  refine (bind_of_ok ho _).trans ((bind_of_ok (need_holds ?_) _).trans ((bind_of_ok (need_holds hgap) _).trans ?_))
  · have hp' : (chanOf t (curChan t)).pin.toNat ≠ 15 := fun h => hp (BitVec.eq_of_toNat_eq h)
    simp [hi, hn, hp']
  · simp only [n, v, Bool.and_eq_true]

theorem bodyClean_ok (v : Bool) (hr : isCacheRow t (rowNumber ch bank rib) = true)
    (hgap : gapsOk (chanOf t ch) .clean bank (nowChc t) = true) :
    let q := rowNumber ch bank rib
    let written := writeBack (noteNode t (rowRef t q).ql) ch q
    bodyClean bank rib v t = .ok (noteCmd (setBankState (if v then invalidateRow written ch q else written) ch bank
      (.busy (nowChc t + 36))) ch .clean bank true (nowChc t)) := by
  subst hc
  refine (bind_of_ok ho _).trans ((bind_of_ok (need_holds ?_) _).trans (bind_of_ok (need_holds hgap) _))
  rw [hi, hr]
  rfl

end rowBodies

/-- Settles O34: each form runs its body on its row, and the body's checks hold. -/
theorem channelRowResult : Obligations.ChannelRowResult := by
  intro s t u bank rib ch c now q byWord byReg hw ho hi
  refine ⟨fun hv hgap => ⟨?_, ?_⟩, fun hn hp hgap => ⟨?_, ?_⟩, fun hr hgap v => ⟨?_, ?_⟩⟩
  · rintro ⟨g, k, r⟩ ⟨hg, rfl, rfl, rfl⟩
    exact (exec_dact _ _).trans (rowInWord_ok hg hw fun hc => bodyAct_ok hc ho hi hv hgap)
  · rintro ⟨g, k, a, m⟩ ⟨hg, rfl, hx⟩
    exact (exec_dactReg _ _).trans (rowInRegister_ok hg hw hx fun hc => bodyAct_ok hc ho hi hv hgap)
  · rintro ⟨g, k, r⟩ ⟨hg, rfl, rfl, rfl⟩
    exact (exec_dprom _ _).trans (rowInWord_ok hg hw fun hc => bodyProm_ok hc ho hi hn hp hgap)
  · rintro ⟨g, k, a, m⟩ ⟨hg, rfl, hx⟩
    exact (exec_dpromReg _ _).trans (rowInRegister_ok hg hw hx fun hc => bodyProm_ok hc ho hi hn hp hgap)
  · rintro ⟨g, k, x, r⟩ rfl ⟨hg, rfl, rfl, rfl⟩
    exact (exec_dclean _ _).trans (rowInWord_ok hg hw fun hc => bodyClean_ok hc ho hi _ hr hgap)
  · rintro ⟨g, k, x, a, m⟩ rfl ⟨hg, rfl, hx⟩
    exact (exec_dcleanReg _ _).trans
      (rowInRegister_ok (body := fun r => bodyClean k r x) hg hw hx fun hc => bodyClean_ok hc ho hi x hr hgap)

/-! ## The writes of DINIT that monitors observe (R316; spec/04_launch_and_scheduling.md R77) -/

/-- The channel command slot of channel core 3 is being issued. -/
def dinitIssue : Issue :=
  { ag := .channel 3, pc := 0x100, succ := 0x108, t := 10, hdr := ⟨0x40, false, false, 0⟩, hword := 0, slot := .l, word := 0
    rest := [], before := 0, mask := 0, ev := [], shadow := false, taken := false, trapped := false }

/-- A task of world 1 on channel 3, whose bank 2 has the cleared row 100 open; no monitored write waits in this cycle. -/
def dinitState : State :=
  { setCtx State.reset (.channel 3) { Ctx.reset with live := true, task := { Task.none with world := 1 } } with
    cur := some dinitIssue
    chans := [(3, { Chan.reset with owner := 1, banks := [(2, .opened 100 [] [] false)] })] }

/-- The lines whose writes the outcome has for the monitors of this cycle, in the order of the list. -/
def observedWrites : Out → List Nat
  | .next s => s.monWrites
  | _ => []

/-- The last line written comes first: each write that performs is put before the ones noted already. -/
theorem exec_dinit_observed : observedWrites (exec (.dinit ⟨0, 2⟩) dinitState) =
    ((List.range 28).map (lineAddr (openRef dinitState 3 2))).reverse := rfl

/-- Refutes O35, in its clause on DINIT's writes. The statement has the 28 lines follow, in order, the writes that monitors
observe in this cycle; the step puts each write before those noted already (and leaves out a line that is noted, and marks the
monitors that watch it). In `dinitState`, which meets the clause's hypotheses, the list has line 27 of the row first and not
line 0. -/
theorem not_channelColumnAndBankResult : ¬ Obligations.ChannelColumnAndBankResult := by
  rintro ⟨h, -⟩
  obtain ⟨-, -, hbank⟩ := h dinitState dinitIssue
  obtain ⟨-, hinit⟩ := hbank ⟨0, 2⟩ ⟨rfl, rfl⟩ (by decide)
  have he := congrArg (fun r => (observedWrites r).head?) (hinit rfl (by decide) (by decide))
  rw [exec_dinit_observed] at he
  exact absurd he (by decide)

end Sys2Proof.Proofs

/-!
PROOFS. Memory channels, records and logs: what falls due on a channel, slub records, log entries, the governor, and the counts
of an egress interval (O47).
-/

namespace Sys2Proof.Proofs
open Sys2Proof Sys2Proof.Machine Sys2Proof.Laws

/-! ## A refresh falls due (spec/13_memory_channels_and_segmented_banks.md R313) -/

theorem tabGet_foldl_tabMod_range (f : Int → Int) (t : Tab Int) (b n : Nat) :
    tabGet 0 ((List.range n).foldl (fun t b => tabMod 0 t b f) t) b = if b < n then f (tabGet 0 t b) else tabGet 0 t b := by
  induction n with
  | zero => rfl
  | succ n ih =>
    rw [List.range_succ, List.foldl_append, List.foldl_cons, List.foldl_nil]
    by_cases hb : b = n
    · subst hb
      simp [ih]
    · rw [tabGet_tabMod_other _ _ _ _ _ hb, ih]
      exact if_congr (by omega) rfl rfl

/-- The debts of a channel after a tick: one more stands against each bank. -/
def tickedDebts (c : Chan) : Tab Int := (List.range 32).foldl (fun t b => tabMod 0 t b (· + 1)) c.debt

theorem tickedDebts_bank (c : Chan) {b : Nat} (hb : b < 32) : tabGet 0 (tickedDebts c) b = debtOf c b + 1 :=
  (tabGet_foldl_tabMod_range (· + 1) c.debt b 32).trans (if_pos hb)

/-- A channel after a tick; a debt of 9 is a fault. -/
def tickedChan (c : Chan) : Chan :=
  { c with
    ticks := c.ticks + 1
    debt := tickedDebts c
    refreshFault := c.refreshFault || (List.range 32).any (fun b => decide (9 ≤ tabGet 0 (tickedDebts c) b)) }

theorem tickedChan_debt (c : Chan) {b : Nat} (hb : b < 32) : debtOf (tickedChan c) b = debtOf c b + 1 := by
  rw [debtOf, tickedChan, tickedDebts_bank c hb]

theorem tickedChan_refreshFault (c : Chan) :
    (tickedChan c).refreshFault = true ↔ c.refreshFault = true ∨ ∃ b : Nat, b < 32 ∧ 8 ≤ debtOf c b := by
  rw [tickedChan, Bool.or_eq_true, List.any_eq_true]
  refine or_congr_right (exists_congr fun b => ?_)
  rw [List.mem_range, decide_eq_true_iff]
  exact and_congr_right fun hb => by rw [tickedDebts_bank c hb]; omega

/-- A change of a channel is what it makes of the channel as it stands. -/
theorem modChan_congr {s : State} {n : Nat} {f g : Chan → Chan} (h : f (chanOf s n) = g (chanOf s n)) :
    modChan s n f = modChan s n g := by
  rw [modChan, h, modChan]

/-- R313: the next refresh of an owned channel that is not being zeroed falls due in this chc. -/
def refreshFalls (s : State) (ch : Nat) : Prop :=
  (chanOf s ch).owner ≠ 0 ∧ (chanOf s ch).zeroUntil = none ∧
    nowChc s = (chanOf s ch).refBase + 7800 * ((chanOf s ch).ticks + 1)

section channel
variable {s : State} {ch : Nat}

theorem exec_refreshTick_falls (h : refreshFalls s ch) : exec (.refreshTick ch) s = .next (modChan s ch tickedChan) := by
  obtain ⟨howner, hzero, hnow⟩ := h
  refine ((exec_refreshTick ch s).trans (if_pos (by simp [howner, hzero, hnow]))).trans
    (congrArg Host.Outcome.next (modChan_congr ?_))
  rfl

theorem exec_refreshTick_stays (h : ¬ refreshFalls s ch) : exec (.refreshTick ch) s = .next s := by
  refine (exec_refreshTick ch s).trans (if_neg fun hb => h ?_)
  simpa [refreshFalls, and_assoc] using hb

theorem exec_bankBusyEnd_busy {b n : Nat} (h : bankOf (chanOf s ch) b = .busy n) :
    exec (.bankBusyEnd ch b) s = .next (if n ≤ nowChc s then setBankState s ch b .idle else s) := by
  rw [exec_bankBusyEnd, execBankBusyEnd, h]

theorem exec_bankBusyEnd_not_busy {b : Nat} (h : ∀ n : Nat, bankOf (chanOf s ch) b ≠ .busy n) :
    exec (.bankBusyEnd ch b) s = .next s := by
  rw [exec_bankBusyEnd, execBankBusyEnd]
  cases hb : bankOf (chanOf s ch) b with
  | busy n => exact absurd hb (h n)
  | idle | opened => rfl

/-! ## The end of a burst (R303, R318) -/

theorem endBurst_bursts {b : DBurst} (h : (chanOf s ch).bursts = [b]) : (chanOf (endBurst ch b s) ch).bursts = [] := by
  unfold endBurst
  split <;> simp [completeChan, h]

theorem endBurst_slice (b : DBurst) : (chanOf (endBurst ch b s) ch).slice = (chanOf s ch).slice := by
  unfold endBurst
  split <;> simp [completeChan]

/-! ## A burst puts its lines into the row and keeps the bursts in flight (R311) -/

theorem noteNode_chans (s : State) (q : Nat) : (noteNode s q).chans = s.chans := by
  rw [noteNode]
  split <;> rfl

theorem writeLine_chans (s : State) (r : RowRef) (mv : List Nat) (i : Nat) (l : List Byte) (p : Bool) :
    (writeLine s r mv i l p).1.chans = s.chans := by
  rw [writeLine]
  split <;> rfl

theorem modOpen_bursts (s : State) (ch b : Nat) (f : Nat → List Nat → List Nat → Bool → Bank) :
    (chanOf (modOpen s ch b f) ch).bursts = (chanOf s ch).bursts := by
  rw [modOpen]
  split <;> simp [setBankState]

theorem putLines_bursts (ch : Nat) (b : DBurst) (l : List (Nat × Bool)) (s : State) :
    (chanOf (putLines ch b l s) ch).bursts = (chanOf s ch).bursts := by
  refine (modOpen_bursts _ ch _ _).trans (congrArg (fun t => (tabGet Chan.reset t ch).bursts) ?_)
  refine (foldl_keeps (fun acc : State × List Nat => acc.1.chans) (fun acc p => ?_) _ _).trans (noteNode_chans s _)
  refine (apply_ite State.chans _ _ _).trans (ite_eq_iff'.2 ⟨fun _ => ?_, fun _ => ?_⟩) <;> exact writeLine_chans _ _ _ _ _ _

theorem burstIntoRow_bursts {b : DBurst} (h : (chanOf s ch).bursts = [b]) :
    (chanOf (burstIntoRow ch b s) ch).bursts = [] := by
  refine endBurst_bursts ?_
  have hnote (l : List Nat) (t : State) : (l.foldl (fun t n => noteWrite n t) t).chans = t.chans :=
    foldl_keeps State.chans (f := fun t n => noteWrite n t) (fun _ _ => rfl) l t
  rw [chanOf, hnote]
  split
  · exact h
  · exact (putLines_bursts ch b _ s).trans h

/-! ## The one burst of a channel moves (R311, R318; log entry 64) -/

section burst
variable {b : DBurst} (hb : (chanOf s ch).bursts = [b])
include hb

theorem exec_drdLanding_single : exec (.drdLanding ch) s = .next (if !b.write && burstDue s ch b then
    if b.ds then landSlice ch b s else landPooled ch b s else s) := by
  rw [exec_drdLanding, execDrdLanding, hb, List.filter_cons, List.filter_nil]
  split <;> rfl

theorem exec_dwrComplete_single : exec (.dwrComplete ch) s = .next (if b.write && burstDue s ch b then
    if b.step = 4 then if s.phase = 3 then s else burstIntoRow ch b s
    else if b.ds then gatherLine ch 0 (memBytes (chanOf s ch).slice (b.addr + 64 * b.step) 64)
      ((chanOf s ch).slicePoison.elem ((b.addr + 64 * b.step) / 64)) s
    else s else s) := by
  have hidx : (chanOf s ch).bursts.idxOf b = 0 := by rw [hb, List.idxOf_cons_self]
  rw [exec_dwrComplete, execDwrComplete, hb, List.filter_cons, List.filter_nil]
  split
  · dsimp only [List.foldl_cons, List.foldl_nil]
    rw [hidx]
  · rfl

theorem landSlice_burst : (chanOf (landSlice ch b s) ch).bursts = [] ∧ (chanOf (landSlice ch b s) ch).slice =
    memWrite (chanOf s ch).slice b.addr (b.lines.flatMap (fun x => leBytes 64 x.1)) := by
  refine ⟨endBurst_bursts ((congrArg Chan.bursts (chanOf_modChan _ _ _)).trans hb), (endBurst_slice b).trans ?_⟩
  rw [chanOf_modChan]
  rfl

end burst

theorem exec_drdLanding_none (h : (chanOf s ch).bursts = []) : exec (.drdLanding ch) s = .next s := by
  rw [exec_drdLanding, execDrdLanding, h]
  rfl

theorem exec_dwrComplete_none (h : (chanOf s ch).bursts = []) : exec (.dwrComplete ch) s = .next s := by
  rw [exec_dwrComplete, execDwrComplete, h]
  rfl

/-! ## The service program of a channel (R300, R305; log entry 67) -/

theorem exec_serviceRequest_stops (h : stopReady s ch = true) : exec (.serviceRequest ch) s = .next (giveBack ch s) :=
  (exec_serviceRequest ch s).trans (congrArg Host.Outcome.next (if_pos h))

theorem exec_serviceRequest_none (h : stopReady s ch = false) (hr : (chanOf s ch).reqs = []) :
    exec (.serviceRequest ch) s = .next s := by
  rw [exec_serviceRequest, execServiceRequest, if_neg (by simp [h]), hr]

theorem exec_serviceRequest_oldest {r : SvcReq} {l : List SvcReq} (h : stopReady s ch = false)
    (hr : (chanOf s ch).reqs = r :: l) : exec (.serviceRequest ch) s =
      .next (if behindWrite s r then s else serveReq r (modChan s ch (fun c => { c with reqs := l }))) := by
  rw [exec_serviceRequest, execServiceRequest, if_neg (by simp [h]), hr]

end channel

/-! ## Slub records (spec/20_observation_and_bring_up.md R422) -/

section slub
variable {s t : State} {k : Nat} {r : Slub} {l : List Slub} {q : Except Nat Unit}

theorem exec_slubWrite_none (h : (tabGet ⟨[], 0⟩ s.slubs k).recs = []) : exec (.slubWrite k) s = .next s := by
  rw [exec_slubWrite, execSlubWrite]
  simp only [h]

variable (hr : (tabGet ⟨[], 0⟩ s.slubs k).recs = r :: l)
include hr

theorem exec_slubWrite_no_base (hb : (worldOf s r.world).slubBase = 0) : exec (.slubWrite k) s = .next s := by
  rw [exec_slubWrite, execSlubWrite]
  simp only [hr, hb, if_true]

variable (hb : (worldOf s r.world).slubBase ≠ 0)
  (hw : writeVirt s (slubDie k) r.world ((worldOf s r.world).slubBase + 64 * ((worldOf s r.world).slubSeq % 65536))
    (slubBytes (worldOf s r.world).slubSeq (tabGet ⟨[], 0⟩ s.slubs k).lost r) = (q, t))
include hb hw

theorem exec_slubWrite_walks (h : walksFirst (slubDie k) s t = true) :
    exec (.slubWrite k) s = .next (awaitWalks (slubDie k) s t) := by
  rw [exec_slubWrite, execSlubWrite]
  simp only [hr, hb, hw, h, if_true, if_false]

theorem exec_slubWrite_written (h : walksFirst (slubDie k) s t = false) (hq : q.toBool = true) :
    exec (.slubWrite k) s = .next (modWorld { t with slubs := tabSet t.slubs k ⟨l, 0⟩ } r.world (fun x =>
      { x with slubSeq := (x.slubSeq + 1) % 2 ^ 64 })) := by
  rw [exec_slubWrite, execSlubWrite]
  cases q with
  | error c => cases hq
  | ok x => simp [hr, hb, hw, h]

theorem exec_slubWrite_dropped (h : walksFirst (slubDie k) s t = false) (hq : q.toBool = false) :
    exec (.slubWrite k) s = .next (dropSlub k r l s) := by
  rw [exec_slubWrite, execSlubWrite]
  cases q with
  | error c => simp [hr, hb, hw, h]
  | ok x => cases hq

end slub

/-! ## Log entries (spec/16_fabric_and_switch_trust.md R381, R384) -/

theorem exec_logEntryWrite_none {s : State} (h : s.log.held = []) : exec .logEntryWrite s = .next s := by
  rw [exec_logEntryWrite, execLogEntryWrite]
  simp only [h]

section log
variable {s : State} {e : LogEntry} {l : List LogEntry} (h : s.log.held = e :: l)
include h

theorem exec_logEntryWrite_full (hr : logRoom s = false) : exec .logEntryWrite s = .next s := by
  rw [exec_logEntryWrite, execLogEntryWrite]
  simp [h, hr]

theorem exec_logEntryWrite_room (hr : logRoom s = true) :
    let t : State := { dmaWrite s 1 (s.log.base + 64 * (e.seq % s.log.size)) (logBytes e) false with
      log := { s.log with head := e.seq + 1, held := l } }
    exec .logEntryWrite s =
      .next (if e.seq % 4096 = 4095 then signHead e.seq (sha256W (toNats (logBytes e))) t else t) := by
  rw [exec_logEntryWrite, execLogEntryWrite]
  simp only [h, hr, if_true]

end log

/-! ## The governor (spec/16_fabric_and_switch_trust.md R380) -/

/-- A change of every record that leaves the record where none is listed. -/
theorem tabGet_map {α : Type} {d : α} {f : α → α} (hd : f d = d) (t : Tab α) (k : Nat) :
    tabGet d (t.map (fun p => (p.1, f p.2))) k = f (tabGet d t k) := by
  induction t with
  | nil => exact hd.symm
  | cons p t ih =>
    rw [List.map_cons, tabGet, tabGet, ih]
    split_ifs <;> simp [hd]

/-- The bucket of each region of a world takes its rate, up to its burst. -/
def fillRegions (x : World) : World :=
  { x with regions := x.regions.map (fun r => { r with tokens := min r.burst (r.tokens + r.rate) }) }

/-- The buckets of every world are filled. -/
def fillWorlds (s : State) : State := { s with worlds := s.worlds.map (fun p => (p.1, fillRegions p.2)) }

theorem worldOf_fillWorlds (s : State) (w : Nat) : worldOf (fillWorlds s) w = fillRegions (worldOf s w) :=
  tabGet_map (f := fillRegions) rfl s.worlds w

theorem exec_governorTick_fills (s : State) :
    exec .governorTick s = .next (clearGoverned (admitHeld s.governed (fillWorlds s))) := rfl

/-! ## The end of an egress interval (R383) -/

/-- R383: the log entry of a count. -/
def logCount (e : Egress) (s : State) : State :=
  logEvent 0x02 e.world (leBytes 1 e.region ++ leBytes 1 e.port ++ leBytes 8 e.bytes ++ leBytes 4 e.stalled) s

theorem logEgress_full {s : State} (e : Egress) (l : List Egress) (h : logFull s = true) :
    logEgress (e :: l) s = { s with egressDone := e :: l } := if_pos h

theorem logEgress_room {s : State} (e : Egress) (l : List Egress) (h : logFull s = false) :
    logEgress (e :: l) s = logEgress l (logCount e s) := if_neg (Bool.eq_false_iff.1 h)

/-- An interval ends: the counts that are not 0 follow those that wait. -/
theorem exec_egressInterval_ends {s : State} (h : isInterval s = true) : exec .egressInterval s =
    .next (logEgress (s.egressDone ++ s.egress.filter (fun e => e.bytes != 0 || e.stalled != 0)) { s with egress := [] }) := by
  rw [exec_egressInterval, execEgressInterval, if_pos h, if_pos h]

theorem exec_egressInterval_goes_on {s : State} (h : isInterval s = false) :
    exec .egressInterval s = .next (logEgress s.egressDone s) := by
  rw [exec_egressInterval, execEgressInterval, if_neg (by simp [h]), if_neg (by simp [h]), List.append_nil]

theorem exec_egressInterval_zeros {s : State} (h : isInterval s = true) (hd : s.egressDone = [])
    (hz : ∀ e ∈ s.egress, e.bytes = 0 ∧ e.stalled = 0) :
    exec .egressInterval s = .next { s with egress := [], egressDone := [] } := by
  have hf : s.egress.filter (fun e => e.bytes != 0 || e.stalled != 0) = [] :=
    List.filter_eq_nil_iff.2 fun e he => by simp [hz e he]
  rw [exec_egressInterval_ends h, hd, hf]
  rfl

theorem exec_egressInterval_one {s : State} {e : Egress} (h : isInterval s = true) (hd : s.egressDone = [])
    (he : s.egress = [e]) (hn : e.bytes ≠ 0 ∨ e.stalled ≠ 0) :
    exec .egressInterval s = .next (logEgress [e] { s with egress := [] }) := by
  have hf : [e].filter (fun e => e.bytes != 0 || e.stalled != 0) = [e] := List.filter_eq_self.2 (by simpa using hn)
  rw [exec_egressInterval_ends h, hd, he, hf, List.nil_append]

/-- Settles O47: each event is its equation, and the parts of the state that it names are read back. -/
theorem channelAndRecordEvents : Obligations.ChannelAndRecordEvents := by
  refine ⟨fun ch s => ⟨fun h => ?_, exec_refreshTick_stays, fun b => ⟨fun n => exec_bankBusyEnd_busy,
      exec_bankBusyEnd_not_busy⟩, fun b hb => ?_, fun h => ⟨exec_drdLanding_none h, exec_dwrComplete_none h⟩,
      exec_serviceRequest_stops, exec_serviceRequest_none, fun r l => exec_serviceRequest_oldest⟩,
    fun s k => ⟨exec_slubWrite_none, fun r l hr => ⟨exec_slubWrite_no_base hr, fun hb q t hw =>
      ⟨exec_slubWrite_walks hr hb hw, fun h hq => ?_, exec_slubWrite_dropped hr hb hw⟩⟩⟩,
    fun s => ⟨exec_logEntryWrite_none, fun e l h => ⟨exec_logEntryWrite_full h, exec_logEntryWrite_room h⟩,
      ⟨fillWorlds s, rfl, exec_governorTick_fills s, fun w => congrArg World.regions (worldOf_fillWorlds s w)⟩,
      exec_egressInterval_zeros, fun e hi hd he hn => ?_, fun e l hd hi => ?_⟩⟩
  · exact ⟨_, _, exec_refreshTick_falls h, rfl, rfl, fun b => tickedChan_debt _, tickedChan_refreshFault _⟩
  · have hread := exec_drdLanding_single hb
    have hwrite := exec_dwrComplete_single hb
    refine ⟨fun h => ?_, fun h => ?_, fun hd hw => ⟨fun he => ?_, fun he => ?_⟩, fun hd hw => ⟨fun h4 hp => ?_,
      fun h4 hp => ?_, fun h4 he => ?_, fun h4 he => ?_⟩⟩
    · rw [hread, if_neg (by rcases h with h | h <;> simp [h])]
    · rw [hwrite, if_neg (by rcases h with h | h <;> simp [h])]
    · obtain ⟨hdone, hslice⟩ := landSlice_burst hb
      exact ⟨_, by simp [hread, hd, hw, he], hdone, hslice⟩
    · simp [hread, hd, hw, he]
    · exact ⟨by simp [hwrite, hd, hw, h4, hp], burstIntoRow_bursts hb⟩
    · simp [hwrite, hd, hw, h4, hp]
    · simp [hwrite, hd, hw, h4, he]
    · simp [hwrite, hd, hw, h4, he]
  · refine ⟨_, exec_slubWrite_written hr hb hw h hq, ?_, ?_⟩
    · rw [modWorld_slubs, tabGet_tabSet_same]
    · rw [worldOf_modWorld]
      rfl
  · rw [exec_egressInterval_one hi hd he hn]
    exact ⟨fun hf => congrArg Host.Outcome.next (logEgress_room e [] hf),
      fun hf => congrArg Host.Outcome.next (logEgress_full e [] hf)⟩
  · rw [exec_egressInterval_goes_on hi, hd]
    refine ⟨fun hf => congrArg Host.Outcome.next ((logEgress_full e l hf).trans ?_),
      fun hf => congrArg Host.Outcome.next (logEgress_room e l hf)⟩
    rw [← hd]

end Sys2Proof.Proofs

/-!
PROOFS. Engine instructions: each issues one numbered operation (O30).
-/

namespace Sys2Proof.Proofs
open Sys2Proof Sys2Proof.Machine Sys2Proof.Laws

/-! ## What the Source and Dest steps of a Y word leave (spec/06_fetch_and_issue.md R128) -/

theorem readsTwo_setCtx {a b : Nat} {m n : Bool} {s t : State} {x y : Word} (h : readsTwo a m b n s x y t) :
    ∃ q : Tab (Machine.Ring Word), t = setCtx s (curAgent s) { curCtx s with sregs := q } := by
  obtain ⟨s1, h1, h2⟩ := h
  obtain ⟨q1, rfl⟩ := source_ok h1
  obtain ⟨q2, rfl⟩ := source_ok h2
  exact ⟨q2, by simp [curCtx]⟩

theorem engineOf_readsTwo {a b : Nat} {m n : Bool} {s t : State} {x y : Word} (h : readsTwo a m b n s x y t) (e : Nat) :
    engineOf t e = engineOf s e := by
  obtain ⟨q, rfl⟩ := readsTwo_setCtx h
  rfl

theorem engineOf_dest {d : Nat} {push : Bool} {s t : State} {c : Option Nat} (h : dest d push s = .ok (c, t)) (e : Nat) :
    engineOf t e = engineOf s e := by
  obtain ⟨q, rfl⟩ := dest_ok h
  rfl

theorem worldOf_dest {d : Nat} {push : Bool} {s t : State} {c : Option Nat} (h : dest d push s = .ok (c, t)) (w : Nat) :
    worldOf t w = worldOf s w := by
  obtain ⟨q, rfl⟩ := dest_ok h
  rfl

theorem engineOf_landReg (L r : Nat) (c : Option Nat) (v : Word) (s : State) (e : Nat) :
    engineOf (landReg L r c v s) e = engineOf s e := by
  cases c <;> rfl

/-! ## A numbered operation that finds room (spec/15_async_and_synchronisation_instructions.md R340, R344, R346) -/

/-- The queue for copies, or for atomics and reductions, takes a further operation at once. -/
def hasRoom (k : Engine) (copies : Bool) : Prop := queueLoad k copies < if copies then 16 else 64

theorem enqueueOp_of_hasRoom {s : State} {op : EngOp} (h : hasRoom (engineOf s (agEngine op.ag)) (queueKind op.kind)) :
    enqueueOp op s = issueOp { op with queued := true } s := by
  have hf : queueFull (engineOf s (agEngine op.ag)) (queueKind op.kind) = false := decide_eq_false (Nat.not_le.2 h)
  simp [enqueueOp, hf]

theorem issueOp_of_eq {op : EngOp} {num e : Nat} (hn : op.num = num) (he : agEngine op.ag = e) (s : State) :
    issueOp op s = modEngine s e (fun k => { k with issued := num, ops := k.ops ++ [op] }) := by
  rw [issueOp, hn, he]

theorem takeNumber_of_hasRoom {d num : Nat} {c : Option Nat} {t t1 : State} {op : EngOp} (hd : dest d false t = .ok (c, t1))
    (h : hasRoom (engineOf t (agEngine op.ag)) (queueKind op.kind)) (hn : op.num = num) :
    takeNumber d op t = .ok (issueOp { op with queued := true } (landReg 1 d c (wd num) t1)) := by
  subst hn
  rw [← engineOf_dest hd, ← engineOf_landReg 1 d c (wd op.num)] at h
  rw [takeNumber, bind_of_ok (writeReg_ok hd), enqueueOp_of_hasRoom h]

/-- The operation that a word issues from `t`, with its operands and what its kind adds. -/
def opFrom (t : State) (kind : EngKind) (desc : W256) (x z : Word) (p aux : Nat) : EngOp :=
  { newOp t kind with desc := desc, x := x, z := z, op := p, aux := aux }

/-- Wherever the destination `d` takes the number, `i` completes by issuing an operation of the next number with the operands
`x`, `y` and `desc`, and `q` holds of it. -/
def issuesNumbered (u : Issue) (s t : State) (x y : Word) (i : Instr) (kind : EngKind) (d : Nat) (desc : W256)
    (q : EngOp → Prop) : Prop :=
  ∀ (c : Option Nat) (t1 : State), dest d false t = .ok (c, t1) → ∃ op : EngOp,
    q op ∧ op.num = (engineOf s (agEngine u.ag)).issued + 1 ∧ op.kind = kind ∧ op.ag = u.ag ∧ op.x = x ∧ op.z = y ∧
      op.desc = desc ∧ op.queued = true ∧
      exec i s = slotDone u (modEngine (landReg 1 d c (wd ((engineOf s (agEngine u.ag)).issued + 1)) t1) (agEngine u.ag)
        (fun k => { k with issued := (engineOf s (agEngine u.ag)).issued + 1, ops := k.ops ++ [op] }))

section issues
variable {g : Nat} {u : Issue} {s t : State} {x y : Word} {a b : Nat} {m n : Bool} (hg : slotRuns g u s)
  (hr : readsTwo a m b n s x y t)
include hg hr

theorem newOp_num (kind : EngKind) : (newOp t kind).num = (engineOf s (agEngine u.ag)).issued + 1 := by
  rw [newOp, nextOpNum, (readsTwo_queuesOnly hr).agent hg.1, engineOf_readsTwo hr]

theorem newOp_ag (kind : EngKind) : (newOp t kind).ag = u.ag := (readsTwo_queuesOnly hr).agent hg.1

theorem hasRoom_newOp {kind : EngKind} {copies : Bool} (h : hasRoom (engineOf s (agEngine u.ag)) copies) :
    hasRoom (engineOf t (agEngine (newOp t kind).ag)) copies := by
  rwa [newOp_ag hg hr, engineOf_readsTwo hr]

theorem issuesNumbered_of_takeNumber {i : Instr} {kind : EngKind} {d p aux : Nat} {desc : W256} {q : EngOp → Prop}
    {body : State → Except Nat State} (hi : exec i s = execSlot g body s)
    (hb : body s = takeNumber d (opFrom t kind desc x y p aux) t) (hroom : hasRoom (engineOf s (agEngine u.ag)) (queueKind kind))
    (hq : q { opFrom t kind desc x y p aux with queued := true }) : issuesNumbered u s t x y i kind d desc q := by
  intro c t1 hd
  have hn := newOp_num hg hr kind
  have ha := newOp_ag hg hr kind
  have hbody := hb.trans (takeNumber_of_hasRoom hd (hasRoom_newOp (kind := kind) hg hr hroom) hn)
  exact ⟨_, hq, hn, rfl, ha, rfl, rfl, rfl, rfl,
    hi.trans ((slot_ok hg hbody).trans (congrArg (slotDone u) (issueOp_of_eq (op := { opFrom t kind desc x y p aux with queued := true }) hn (congrArg agEngine ha) _)))⟩

end issues

/-! ## The words (R344, R349, R350, R404-R408) -/

section words
variable {u : Issue} {s t : State} {x y : Word}

/-- The descriptor that yarn `k` holds for a bundle of `a`; a steward's is zero. -/
def yarnDesc (s : State) (a : Agent) (k : Nat) : W256 := if agTile a then yarnReg (coreOf s (agIdx a)) k else 0

theorem curYarn_readsTwo {a b k : Nat} {m n : Bool} (hu : s.cur = some u) (hr : readsTwo a m b n s x y t) :
    curYarn t k = yarnDesc s u.ag k := by
  have hq := readsTwo_queuesOnly hr
  rw [yarnDesc, curYarn, curCore, hq.agent hu, hq.yarnReg]
  cases u.ag <;> rfl

theorem formCopy_issues {o : Cpy} {reloc : Bool} {i : Instr} (hi : exec i s = formCopy o reloc s) (hg : slotRuns o.g u s)
    (hr : readsTwo o.a o.m o.b o.n s x y t) (hy : yarnHeld (curCtx s).task o.y = true)
    (hroom : hasRoom (engineOf s (agEngine u.ag)) true) (hrows : rowsOk t (yarnDesc s u.ag o.y) x y = true)
    (hal : cpMode (yarnDesc s u.ag o.y) = 0 ∨ x.toNat % 256 = 0)
    (hv : copyValid (yarnDesc s u.ag o.y) reloc (kindOf u.ag == .steward) = true) :
    issuesNumbered u s t x y i (if reloc then .cpyr else .cpy) o.d (yarnDesc s u.ag o.y) (fun _ => True) := by
  have hroom' : hasRoom (engineOf s (agEngine u.ag)) (queueKind (if reloc then .cpyr else .cpy)) := by cases reloc <;> exact hroom
  refine issuesNumbered_of_takeNumber (p := 0) (aux := 0) hg hr hi ?_ hroom' trivial
  have hag := (readsTwo_queuesOnly hr).agent hg.1
  rw [← curYarn_readsTwo hg.1 hr] at hrows hal hv ⊢
  rw [← hag] at hv
  have hal : (cpMode (curYarn t o.y) == 0 || x.toNat % 256 == 0) = true := by simpa using hal
  obtain ⟨s1, h1, h2⟩ := hr
  exact (bind_of_ok (need_holds hy) _).trans ((bind_of_ok h1 _).trans ((bind_of_ok h2 _).trans
    ((bind_of_ok (need_holds hv) _).trans ((bind_of_ok (need_holds hrows) _).trans (bind_of_ok (need_holds hal) _)))))

theorem exec_krot_issues {o : Krot} (hg : slotRuns o.g u s) (hr : readsTwo o.a o.m o.b o.n s x y t)
    (hroom : hasRoom (engineOf s (agEngine u.ag)) true) (hx : x.toNat % 2 ^ 16 = 0) (hlt : x.toNat < 2 ^ 56)
    (hy : 1 ≤ y.toNat) (hy' : y.toNat ≤ 2 ^ 20) :
    issuesNumbered u s t x y (.krot o) .krot o.d 0 (fun _ => True) := by
  refine issuesNumbered_of_takeNumber (p := 0) (aux := 0) hg hr (exec_krot o s) ?_ hroom trivial
  have hal : (bits x 15 0 == 0) = true := by simpa [bits, bf] using hx
  have hrange : (bits x 63 56 == 0 && decide (1 ≤ y.toNat) && decide (y.toNat ≤ 2 ^ 20)) = true := by
    simp only [(bits_63_56_eq_zero x).2 hlt, hy, hy', decide_true, BEq.rfl, Bool.and_true]
  obtain ⟨s1, h1, h2⟩ := hr
  exact (bind_of_ok h1 _).trans ((bind_of_ok h2 _).trans ((bind_of_ok (need_holds hal) _).trans
    (bind_of_ok (need_holds hrange) _)))

theorem exec_scrub_issues {o : Scrub} (hg : slotRuns o.g u s) (hr : readsTwo o.a o.m o.b o.n s x y t)
    (hroom : hasRoom (engineOf s (agEngine u.ag)) true) (hx : x.toNat % 64 = 0) (hy : y.toNat % 64 = 0) (hlo : 64 ≤ y.toNat)
    (hhi : y.toNat ≤ 0x1400000) (hok : scrubOk t o.p x y = true) :
    issuesNumbered u s t x y (.scrub o) .scrub o.d 0 (fun op => op.op = o.p) := by
  refine issuesNumbered_of_takeNumber (aux := 0) hg hr (exec_scrub o s) ?_ hroom rfl
  have hal : (bits x 5 0 == 0 && bits y 5 0 == 0) = true := by simp [bits, bf, hx, hy]
  have hrange : (decide (64 ≤ y.toNat) && decide (y.toNat ≤ 0x1400000)) = true := by simp [hlo, hhi]
  obtain ⟨s1, h1, h2⟩ := hr
  exact (bind_of_ok h1 _).trans ((bind_of_ok h2 _).trans ((bind_of_ok (need_holds hal) _).trans
    ((bind_of_ok (need_holds hrange) _).trans (bind_of_ok (need_holds hok) _))))

theorem exec_unseal_issues {o : Cpy} (hg : slotRuns o.g u s)
    (hr : readsTwo o.a o.m o.b o.n s x y t) (hy : yarnHeld (curCtx s).task o.y = true)
    (hroom : hasRoom (engineOf s (agEngine u.ag)) true) (hv : unsealValid (yarnDesc s u.ag o.y) = true) (hx : x.toNat % 256 = 0)
    (hl : localOk t u.ag (cpDsp (yarnDesc s u.ag o.y)) y.toNat (cpLen (yarnDesc s u.ag o.y)) = true) :
    issuesNumbered u s t x y (.unseal o) .unseal o.d (yarnDesc s u.ag o.y) (fun op => op.aux = cpMac (yarnDesc s u.ag o.y)) := by
  refine issuesNumbered_of_takeNumber (p := 0) hg hr (exec_unseal o s) ?_ hroom rfl
  have hal : (bits x 7 0 == 0) = true := by simpa [bits, bf] using hx
  have hag := (readsTwo_queuesOnly hr).agent hg.1
  rw [← curYarn_readsTwo hg.1 hr] at hv hl ⊢
  rw [← hag] at hl
  obtain ⟨s1, h1, h2⟩ := hr
  exact (bind_of_ok (need_holds hy) _).trans ((bind_of_ok h1 _).trans ((bind_of_ok h2 _).trans
    ((bind_of_ok (need_holds hv) _).trans ((bind_of_ok (need_holds hal) _).trans (bind_of_ok (need_holds hl) _)))))

theorem exec_hatom_issues {o : HAtom} (hg : slotRuns o.g u s) (hr : readsTwo o.a o.m o.b o.n s x y t)
    (hroom : hasRoom (engineOf s (agEngine u.ag)) false) (hown : hatomOwned t o.r x = true) (hx : x.toNat % 8 = 0)
    (hret : bits x 34 32 = 0) : ∃ op : EngOp, exec (.hatom o) s = slotDone u (issueOp op t) ∧
      op.num = (engineOf s (agEngine u.ag)).issued + 1 ∧ op.kind = .hatom ∧ op.x = x ∧ op.z = y ∧ op.op = o.o ∧ op.scope = o.s ∧
      op.ret = o.r ∧ op.queued = true := by
  have hn := newOp_num hg hr .hatom
  have hroom' := hasRoom_newOp (kind := .hatom) hg hr hroom
  have hal : (bits x 2 0 == 0 && bits x 34 32 == 0) = true := by rw [hret]; simp [bits, bf, hx]
  obtain ⟨s1, h1, h2⟩ := hr
  exact ⟨_, (exec_hatom o s).trans (slot_ok hg ((bind_of_ok h1 _).trans ((bind_of_ok h2 _).trans
    ((bind_of_ok (need_holds hown) _).trans ((bind_of_ok (need_holds hal) _).trans
      (congrArg Except.ok (enqueueOp_of_hasRoom hroom'))))))), hn, rfl, rfl, rfl, rfl, rfl, rfl, rfl⟩

theorem exec_red_issues {o : Red} (hg : slotRuns o.g u s) (hr : readsTwo o.a o.m o.b o.n s x y t)
    (hroom : hasRoom (engineOf s (agEngine u.ag)) false) (hx : x.toNat % 8 = 0) :
    ∃ op : EngOp, exec (.red o) s = slotDone u (issueOp op t) ∧
      op.num = (engineOf s (agEngine u.ag)).issued + 1 ∧ op.kind = .red ∧ op.x = x ∧ op.z = y ∧ op.op = o.o ∧
      op.queued = true := by
  have hn := newOp_num hg hr .red
  have hroom' := hasRoom_newOp (kind := .red) hg hr hroom
  have hal : (bits x 2 0 == 0) = true := by simp [bits, bf, hx]
  obtain ⟨s1, h1, h2⟩ := hr
  exact ⟨_, (exec_red o s).trans (slot_ok hg ((bind_of_ok h1 _).trans ((bind_of_ok h2 _).trans
    ((bind_of_ok (need_holds hal) _).trans (congrArg Except.ok (enqueueOp_of_hasRoom hroom')))))), hn, rfl, rfl, rfl, rfl, rfl⟩

/-- The state in which SEAL takes its destination: it has used a random value and the checkpoint number `k` of its world. -/
def sealing (w k : Nat) (t : State) : State :=
  { (modWorld t w (fun v => { v with ckptCtr := k })) with freeCtr := t.freeCtr + 1 }

theorem ckptCtr_sealing (w k : Nat) (t : State) : (worldOf (sealing w k t) w).ckptCtr = k :=
  congrArg World.ckptCtr (worldOf_modWorld t w (fun v => { v with ckptCtr := k }))

/-- The operation of a SEAL in that state. -/
def sealOp (w k : Nat) (desc : W256) (x z : Word) (t : State) : EngOp :=
  { newOp (sealing w k t) .seal with desc := desc, x := x, z := z, aux := k, nonce := Config.freeKey t.freeCtr }

theorem exec_seal_issues {o : Cpy} {k : Nat} {c : Option Nat} {t1 : State} (hg : slotRuns o.g u s)
    (hr : readsTwo o.a o.m o.b o.n s x y t) (hy : yarnHeld (curCtx s).task o.y = true)
    (hroom : hasRoom (engineOf s (agEngine u.ag)) true) (hv : sealValid (yarnDesc s u.ag o.y) = true)
    (hl : localOk t u.ag (cpSsp (yarnDesc s u.ag o.y)) x.toNat (cpLen (yarnDesc s u.ag o.y)) = true)
    (hz : y.toNat % 256 = 0) (hk : ((worldOf s (curCtx s).task.world).ckptCtr + 1) % 2 ^ 56 = k)
    (hd : dest o.d false (sealing (curCtx s).task.world k t) = .ok (c, t1)) :
    ∃ op : EngOp, exec (.seal o) s = slotDone u (issueOp op (landReg 1 o.d c (wd op.num) t1)) ∧
      op.num = (engineOf s (agEngine u.ag)).issued + 1 ∧ op.kind = .seal ∧ op.desc = yarnDesc s u.ag o.y ∧ op.x = x ∧
      op.z = y ∧ op.aux = k ∧ op.nonce = Config.freeKey s.freeCtr ∧ (worldOf t1 (curCtx s).task.world).ckptCtr = k := by
  obtain ⟨hag, htask, hworld⟩ := readsTwo_leaves hr
  rw [← htask, ← hworld] at hk
  rw [← htask] at hd ⊢
  have hfree : t.freeCtr = s.freeCtr := by
    obtain ⟨q, rfl⟩ := readsTwo_setCtx hr
    rfl
  have hroom' := hasRoom_newOp (kind := .seal) hg hr hroom
  have hn := newOp_num hg hr .seal
  have hal : (bits y 7 0 == 0) = true := by simpa [bits, bf] using hz
  rw [← curYarn_readsTwo hg.1 hr] at hv hl ⊢
  rw [← (readsTwo_queuesOnly hr).agent hg.1] at hl
  have hbody := takeNumber_of_hasRoom (op := sealOp (curCtx t).task.world k (curYarn t o.y) x y t) hd hroom' rfl
  subst hk
  obtain ⟨s1, h1, h2⟩ := hr
  refine ⟨_, (exec_seal o s).trans (slot_ok hg ((bind_of_ok (need_holds hy) _).trans ((bind_of_ok h1 _).trans
    ((bind_of_ok h2 _).trans ((bind_of_ok (need_holds hv) _).trans ((bind_of_ok (need_holds hl) _).trans
      ((bind_of_ok (need_holds hal) _).trans hbody))))))), hn, rfl, rfl, rfl, rfl, rfl, congrArg _ hfree, ?_⟩
  rw [worldOf_dest hd, ckptCtr_sealing]

end words

/-- Settles O30: each word makes its checks in order and issues its operation into a queue that has room. -/
theorem engineIssueResult : Obligations.EngineIssueResult := by
  unfold Obligations.EngineIssueResult
  refine ⟨fun s u x y t => ⟨fun o h hr hy hroom hrows hal => ⟨?_, ?_⟩, fun o h hr hroom => exec_krot_issues h hr hroom,
    fun o h hr hroom => exec_scrub_issues h hr hroom, fun o h hr hy hroom => exec_unseal_issues h hr hy hroom,
    fun o h hr hroom => exec_hatom_issues h hr hroom, fun o h hr hroom => exec_red_issues h hr hroom⟩, ?_⟩
  · exact formCopy_issues (reloc := false) (exec_cpy o s) h hr hy hroom hrows hal
  · exact formCopy_issues (reloc := true) (exec_cpyr o s) h hr hy hroom hrows hal
  · intro o s u x y t c t1 h ht hr hy q e w k hroom hv hl hz hd
    have hq : yarnDesc s u.ag o.y = q := if_pos ht
    rw [← hq] at hv hl ⊢
    exact exec_seal_issues h hr hy hroom hv hl hz rfl hd

end Sys2Proof.Proofs

/-!
PROOFS. Timelines and monitors: TLADD, TLPOLL, TLWAIT, TLRD and WAITA (O31).
-/

namespace Sys2Proof.Proofs
open Sys2Proof Sys2Proof.Machine Sys2Proof.Laws

/-! ## A word that may wait (spec/15_async_and_synchronisation_instructions.md R352; spec/17_interruption_and_preemption.md R393, R395) -/

/-- The slot runs, and it may wait: in no handler, on a tile core in a bundle with Q set, and not issued again after a wait that
was given up. -/
structure MayWait (g : Nat) (u : Issue) (s : State) : Prop where
  runs : slotRuns g u s
  user : (curCtx s).estatH = false
  quiet : kindOf u.ag ≠ .tile ∨ curQuiet s = true
  fresh : (curCtx s).kept = none

section mayWait
variable {g : Nat} {u : Issue} {s t : State} {x y : Word} {a b : Nat} {m n : Bool}

theorem MayWait.needQuiet_ok (h : MayWait g u s) : needQuiet s = .ok () := by
  refine need_holds ?_
  rw [runs_agent h.runs]
  simpa using h.quiet

theorem readsTwo_fields (hr : readsTwo a m b n s x y t) : t.trans = s.trans ∧ t.funcs = s.funcs ∧ t.monitors = s.monitors := by
  obtain ⟨s1, h1, h2⟩ := hr
  obtain ⟨q1, rfl⟩ := source_ok h1
  obtain ⟨q2, rfl⟩ := source_ok h2
  exact ⟨rfl, rfl, rfl⟩

end mayWait

/-! ## Timelines (spec/15_async_and_synchronisation_instructions.md R351-R353) -/

section timelines
variable {s t : State} {u : Issue} {x : Word} {h : Nat}

theorem exec_tladd_ok {o : TlAdd} (hg : slotRuns o.g u s) (hs : source o.b o.n s = .ok (x, t)) (hh : handle o.k 1 1 t = .ok h) :
    exec (.tladd o) s = slotDone u { t with
      nextId := t.nextId + 1
      tladds := t.tladds ++ [{ id := t.nextId, ag := u.ag, tid := tidOf (curCtx t), entry := (curCtx t).entryAt
                               world := (curCtx s).task.world, idx := tlIndex h, amount := x.toNat
                               ops := taskOps t u.ag, due := u.t }] } := by
  have hq := source_queuesOnly hs
  rw [← hq.agent hg.1, ← hq.time hg.1, ← hq.task]
  exact (exec_tladd o s).trans (slot_ok hg ((bind_of_ok hs _).trans (bind_of_ok hh _)))

theorem exec_tlpoll_ok {o : TlWait} (hg : slotRuns o.g u s) (hs : source o.b o.n s = .ok (x, t)) (hh : handle o.k 1 5 t = .ok h) :
    exec (.tlpoll o) s = slotDone u (land 1 (.pair o.p (tlOk t u.ag (curCtx s).task.world h x.toNat)) t) := by
  have hq := source_queuesOnly hs
  rw [← hq.agent hg.1, ← hq.task]
  exact (exec_tlpoll o s).trans (slot_ok hg ((bind_of_ok hs _).trans (bind_of_ok hh _)))

/-- The wait of TLWAIT on timeline `h` to reach `x`, its operands read. -/
def timelineWait (o : TlWait) (h : Nat) (x : Word) (t : State) : Wait :=
  ⟨.timeline h x.toNat o.p false, curWord t, 0, x, curUndo (popped 0 false 0 ++ popped o.b o.n x) none t, false, none⟩

theorem exec_tlwait_eq {o : TlWait} (hg : MayWait o.g u s) (hr : readsTwo 0 false o.b o.n s 0 x t)
    (hh : handle o.k 1 5 t = .ok h) : exec (.tlwait o) s = slotDone u (
      if tlMet t u.ag (curCtx s).task.world h x.toNat
      then land 1 (.pair o.p (tlOk t u.ag (curCtx s).task.world h x.toNat)) t
      else beginWait u.ag .timeline (timelineWait o h x t) t) := by
  have hq := readsTwo_queuesOnly hr
  rw [← hq.agent hg.runs.1, ← hq.task]
  refine (exec_tlwait o s).trans (slot_ok hg.runs ((bind_of_ok (notInHandler_ok hg.user) _).trans
    ((bind_of_ok hg.needQuiet_ok _).trans ((bind_of_ok (waitOperands_fresh hg.fresh hr) _).trans
      ((bind_of_ok hh _).trans ?_)))))
  exact (apply_ite Except.ok _ _ _).symm

/-- What TLRD reads of a timeline (R353). -/
def timelineWord (s : State) (a : Agent) (w e h : Nat) : Nat :=
  match e with
  | 0 => tlValue s w h
  | 1 => (engineOf s (tlIndex h)).issued
  | _ => failWord (tlFail s a w h) (tlDead s h)

theorem exec_tlrd_ok {o : TlRd} {c : Option Nat} (hg : slotRuns o.g u s)
    (hh : handle o.k (if o.e = 1 then 5 else 1) 5 s = .ok h) (hd : dest o.d false s = .ok (c, t)) :
    let w := (curCtx s).task.world
    let v := wd (timelineWord s u.ag w o.e h)
    exec (.tlrd o) s = slotDone u (if o.e = 3 then clearFail u.ag w h (landReg 1 o.d c v t) else landReg 1 o.d c v t) := by
  rw [← runs_agent hg]
  exact (exec_tlrd o s).trans (slot_ok hg ((bind_of_ok hh _).trans (bind_of_ok (writeReg_ok hd) _)))

theorem timelineWord_fail {a : Agent} {w e : Nat} (he : 2 ≤ e) :
    timelineWord s a w e h = failWord (tlFail s a w h) (tlDead s h) := by
  obtain ⟨k, rfl⟩ := Nat.exists_eq_add_of_le' he
  rfl

end timelines

/-! ## A read that its node's check counts (spec/13_memory_channels_and_segmented_banks.md R291) -/

theorem tabGet_map_or {α : Type} {d : α} {f : Nat × α → Nat × α} {g : α → α} (hf : ∀ p, f p = p ∨ f p = (p.1, g p.2))
    (t : Tab α) (k : Nat) : tabGet d (t.map f) k = tabGet d t k ∨ tabGet d (t.map f) k = g (tabGet d t k) := by
  induction t with
  | nil => exact .inl rfl
  | cons p t ih =>
    simp only [List.map_cons, tabGet]
    have hk : (f p).1 = p.1 := by rcases hf p with h | h <;> rw [h]
    rw [hk]
    split
    · exact (hf p).imp (congrArg Prod.snd) (congrArg Prod.snd)
    · split
      · exact .inl rfl
      · exact ih

theorem countIn_eq (s : State) (x : Ctx) (e n : Nat) : countIn s x e n = { x with evcnt := (countIn s x e n).evcnt } := by
  simp only [countIn]
  split <;> rfl

theorem ctxOf_countDie (d e n : Nat) (s : State) (a : Agent) :
    ctxOf (countDie d e n s) a = { ctxOf s a with evcnt := (ctxOf (countDie d e n s) a).evcnt } := by
  have h : ctxOf (countDie d e n s) a = ctxOf s a ∨ ctxOf (countDie d e n s) a = countIn s (ctxOf s a) e n :=
    tabGet_map_or (g := fun x => countIn s x e n) (fun p => by split <;> simp) s.ctxs (agentId a)
  rcases h with h | h
  · rw [h]
  · rw [h]
    exact countIn_eq s _ e n

/-- What a read that is noted leaves as it was, as far as WAITA sees. -/
theorem noteSoft_keeps (s : State) (pa : Nat) : (noteSoft s pa).cur = s.cur ∧ (noteSoft s pa).trans = s.trans ∧
    (noteSoft s pa).funcs = s.funcs ∧ (noteSoft s pa).monitors = s.monitors ∧
    curCtx (noteSoft s pa) = { curCtx s with evcnt := (curCtx (noteSoft s pa)).evcnt } := by
  rw [noteSoft, noteNode]
  split
  · exact ⟨rfl, rfl, rfl, rfl, ctxOf_countDie _ _ _ _ _⟩
  · exact ⟨rfl, rfl, rfl, rfl, rfl⟩

theorem MayWait.noteSoft {g : Nat} {u : Issue} {s : State} (h : MayWait g u s) (pa : Nat) : MayWait g u (noteSoft s pa) := by
  obtain ⟨hcur, -, -, -, hctx⟩ := noteSoft_keeps s pa
  obtain ⟨⟨hu, hg⟩, huser, hquiet, hfresh⟩ := h
  refine ⟨⟨hcur.trans hu, ?_⟩, ?_, ?_, ?_⟩
  · rw [guardTrue, hctx]
    exact hg
  · rw [hctx]
    exact huser
  · rw [curQuiet, hcur]
    exact hquiet
  · rw [hctx]
    exact hfresh

/-! ## WAITA (spec/04_launch_and_scheduling.md R77-R80) -/

section waita

/-- The wait of WAITA for the walk of the page `m`, its operands `x` and `c` read (R114). -/
def walkWait (o : WaitA) (m : Miss) (x c : Word) (t : State) : Wait :=
  ⟨.xlate true o.c o.p (if o.t = 0 then 0 else 1024 * 2 ^ o.t) [m], curWord t, x, c,
    curUndo (popped o.a o.m x ++ popped o.b o.n c) none t, false, none⟩

/-- What WAITA does once its operands `x` and `c` are read. -/
def watch (o : WaitA) (x c : Word) (t : State) : Except Nat State := do
  need 0x08 (bits x 63 56 == 0)
  need 0x07 (bits x 2 0 == 0)
  let a := curAgent t
  let w := (curCtx t).task.world
  let m : Miss := ⟨dieOf a, w, bits x 55 16⟩
  if (transLookup t (dieOf a) w x.toNat).isNone then .ok (beginWait a .monitor (walkWait o m x c t) (addMisses [m] t))
  else do
    let (v, t) ← armWaita a o.c o.p (if o.t = 0 then 0 else 1024 * 2 ^ o.t) (walkWait o m x c t) t
    .ok (v.elim t (fun v => writePair o.p v t))

variable {o : WaitA} {s t : State} {u : Issue} {x c : Word}

theorem waitaBody_eq_watch (hg : MayWait o.g u s) (hr : readsTwo o.a o.m o.b o.n s x c t) :
    waitaBody o s = watch o x c t :=
  (bind_of_ok (notInHandler_ok hg.user) _).trans ((bind_of_ok hg.needQuiet_ok _).trans
    (bind_of_ok (waitOperands_fresh hg.fresh hr) _))

theorem bits_2_0_eq_zero (x : Word) : (bits x 2 0 == 0) = decide (x.toNat % 8 = 0) := by
  rw [Bool.eq_iff_iff]
  simp [bits, bf]

/-- WAITA may look at the word of the address `x` (R78). -/
def Watchable (x : Word) : Prop := x.toNat < 2 ^ 56 ∧ x.toNat % 8 = 0

theorem noteWatch_reads (hg : MayWait o.g u s) (hr : readsTwo o.a o.m o.b o.n s x c t) (hx : Watchable x) :
    noteWatch o s = (watchPlace s u.ag o.c x.toNat).elim s (noteSoft s) := by
  have hal : need 0x07 (bits x 63 56 == 0 && bits x 2 0 == 0) = .ok () :=
    need_holds (by simp [(bits_63_56_eq_zero x).2 hx.1, bits_2_0_eq_zero, hx.2])
  simp [noteWatch, hg.runs.2, notInHandler_ok hg.user, hg.needQuiet_ok, waitOperands_fresh hg.fresh hr, hal, bind, Except.bind,
    runs_agent hg.runs]

theorem noteWatch_unwatchable (hg : MayWait o.g u s) (hr : readsTwo o.a o.m o.b o.n s x c t) (hx : ¬ Watchable x) :
    noteWatch o s = s := by
  have hal : need 0x07 (bits x 63 56 == 0 && bits x 2 0 == 0) = .error 0x07 := by
    refine need_fails (Bool.eq_false_iff.2 fun h => hx ?_)
    simpa [Watchable, bits_63_56_eq_zero, bits_2_0_eq_zero] using h
  simp [noteWatch, hg.runs.2, notInHandler_ok hg.user, hg.needQuiet_ok, waitOperands_fresh hg.fresh hr, hal, bind, Except.bind]

/-! ### The place of the word -/

/-- The physical address that an entry gives. -/
def placeOf (e : TransEnt) (va : Nat) : Nat := e.frame * 65536 + va % 65536

theorem targetOf_placeOf (e : TransEnt) (va : Nat) : targetOf (e.frame * 65536) = targetOf (placeOf e va) := by
  simp only [targetOf, bf, placeOf]
  omega

theorem translate_place {die w va : Nat} {e : TransEnt} (hva : va < 2 ^ 56) (hl : transLookup t die w va = some e) :
    translate t die w va false = (.ok (placeOf e va), t) := translate_cached false hva hl

theorem transLookup_of_trans {r : State} (h : r.trans = s.trans) (die w va : Nat) : transLookup r die w va = transLookup s die w va := by
  rw [transLookup, h, transLookup]

theorem monitorsFull_of_fields {r : State} (hf : r.funcs = s.funcs) (hm : r.monitors = s.monitors) (die w : Nat) :
    monitorsFull r die w = monitorsFull s die w := by
  simp only [monitorsFull, funcOf, hf, hm]
  rfl

theorem watchPlace_cached {a : Agent} {w cond va : Nat} {e : TransEnt} (hw : (ctxOf s a).task.world = w)
    (hl : transLookup s (dieOf a) w va = some e) : watchPlace s a cond va =
      if cond = 4 ∨ targetOf (placeOf e va) ≠ 0 ∨ monitorsFull s (dieOf a) w = true then none else some (placeOf e va) := by
  subst hw
  simp only [watchPlace, hl, targetOf_placeOf e va, bne_iff_ne, Bool.or_eq_true, decide_eq_true_eq, or_assoc]
  rfl

/-! ### What it then does -/

section armWaita
variable {a : Agent} {cond k tmo pa w : Nat} {wt : Wait} (hw : (ctxOf t a).task.world = w)
  (htr : translate t (dieOf a) w wt.opA.toNat false = (.ok pa, t))
include hw htr

theorem armWaita_noHbm (ht : targetOf pa ≠ 0) : armWaita a cond k tmo wt t = .error 0x08 := by
  simp [armWaita, hw, htr, ht, need, bind, Except.bind]

variable (ht : targetOf pa = 0)
include ht

theorem armWaita_full (hf : monitorsFull t (dieOf a) w = true) :
    armWaita a cond k tmo wt t = .ok (some false, noteNotArmed (dieOf a) t) := by
  simp [armWaita, hw, htr, ht, hf, need, bind, Except.bind]

variable (hf : monitorsFull t (dieOf a) w = false)
include hf

theorem armWaita_unread {e : Nat} (hc : cond ≠ 4) (hm : readWatch t w pa = .error e) :
    armWaita a cond k tmo wt t = .error e := by
  simp [armWaita, hw, htr, ht, hf, hc, hm, need, bind, Except.bind, Except.map]

theorem armWaita_holds {m : Word} (hc : cond ≠ 4) (hm : readWatch t w pa = .ok m) (hh : condHolds cond m wt.opB = true) :
    armWaita a cond k tmo wt t = .ok (some true, t) := by
  simp [armWaita, hw, htr, ht, hf, hc, hm, hh, need, bind, Except.bind, Except.map]

/-- The line of `pa` watched for `a` from this cycle on (R79). -/
def armed (a : Agent) (w pa : Nat) (t : State) : State :=
  { t with monitors := t.monitors ++ [⟨dieOf a, w, pa / 64, a, if t.monWrites.elem (pa / 64) then some t.gcyc else none⟩] }

theorem armWaita_waits (h : cond = 4 ∨ ∃ m : Word, readWatch t w pa = .ok m ∧ condHolds cond m wt.opB = false) :
    armWaita a cond k tmo wt t = .ok (none, beginWait a .monitor
      { wt with what := .monitor pa cond wt.opB k t.gcyc tmo false (dieOf a) } (armed a w pa t)) := by
  by_cases hc : cond = 4
  · simp [armWaita, hw, htr, ht, hf, hc, need, bind, Except.bind, armed]
  · obtain ⟨m, hm, hh⟩ := h.resolve_left hc
    simp [armWaita, hw, htr, ht, hf, hc, hm, hh, need, bind, Except.bind, Except.map, armed]

end armWaita

theorem watch_beyond (hx : 2 ^ 56 ≤ x.toNat) : watch o x c t = .error 0x08 := bind_of_error (need_address_beyond hx) _

theorem watch_misaligned (hx : x.toNat < 2 ^ 56) (hal : x.toNat % 8 ≠ 0) : watch o x c t = .error 0x07 :=
  (bind_of_ok (need_address hx) _).trans (bind_of_error (need_fails (by simpa [bits_2_0_eq_zero] using hal)) _)

section page
variable {a : Agent} {w : Nat} (hx : Watchable x) (ha : curAgent t = a) (hw : (ctxOf t a).task.world = w)
include hx ha hw

theorem watch_walks (hl : transLookup t (dieOf a) w x.toNat = none) : watch o x c t = .ok (beginWait a .monitor
    (walkWait o ⟨dieOf a, w, x.toNat / 65536⟩ x c t) (addMisses [⟨dieOf a, w, x.toNat / 65536⟩] t)) := by
  have hpage : bits x 55 16 = x.toNat / 65536 := by
    have := hx.1
    simp only [bits, bf]
    omega
  subst ha hw
  rw [← hpage]
  refine (bind_of_ok (need_address hx.1) _).trans ((bind_of_ok (need_holds ?_) _).trans (if_pos ?_))
  · simpa [bits_2_0_eq_zero] using hx.2
  · exact Option.isNone_iff_eq_none.2 hl

theorem watch_cached {e : TransEnt} (hl : transLookup t (dieOf a) w x.toNat = some e) : watch o x c t =
    (armWaita a o.c o.p (if o.t = 0 then 0 else 1024 * 2 ^ o.t) (walkWait o ⟨dieOf a, w, bits x 55 16⟩ x c t) t >>= fun p =>
      .ok (p.1.elim p.2 (fun v => writePair o.p v p.2))) := by
  subst ha hw
  refine (bind_of_ok (need_address hx.1) _).trans ((bind_of_ok (need_holds ?_) _).trans (if_neg ?_))
  · simpa [bits_2_0_eq_zero] using hx.2
  · exact fun h => Option.some_ne_none e (hl.symm.trans (Option.isNone_iff_eq_none.1 h))

end page

/-! ### WAITA as a whole -/

theorem exec_waita_ok {r r' : State} (hg : MayWait o.g u r) (hn : noteWatch o s = r)
    (hr : readsTwo o.a o.m o.b o.n r x c t) (hw : watch o x c t = .ok r') : exec (.waita o) s = slotDone u r' := by
  rw [exec_waita, execWaita, hn]
  exact slot_ok hg.runs ((waitaBody_eq_watch hg hr).trans hw)

theorem exec_waita_trap {r : State} {e : Nat} (hg : MayWait o.g u r) (hn : noteWatch o s = r)
    (hr : readsTwo o.a o.m o.b o.n r x c t) (hw : watch o x c t = .error e) : exec (.waita o) s = .next (slotTrap e r) := by
  rw [exec_waita, execWaita, hn]
  exact slot_trap hg.runs ((waitaBody_eq_watch hg hr).trans hw)

/-- `t` has the translations, the monitors and the issuing task of `s`. -/
structure WatchesAs (u : Issue) (s t : State) : Prop where
  agent : curAgent t = u.ag
  world : (ctxOf t u.ag).task.world = (ctxOf s u.ag).task.world
  lookup : ∀ die w va, transLookup t die w va = transLookup s die w va
  full : ∀ die w, monitorsFull t die w = monitorsFull s die w

theorem WatchesAs.trans {r : State} (h : WatchesAs u s r) (h' : WatchesAs u r t) : WatchesAs u s t :=
  ⟨h'.agent, h'.world.trans h.world, fun d w v => (h'.lookup d w v).trans (h.lookup d w v),
    fun d w => (h'.full d w).trans (h.full d w)⟩

theorem watchesAs_reads {g : Nat} (hg : MayWait g u s) (hr : readsTwo o.a o.m o.b o.n s x c t) : WatchesAs u s t := by
  have hq := readsTwo_queuesOnly hr
  have hag := hq.agent hg.runs.1
  have htask := hq.task
  obtain ⟨htrans, hfuncs, hmons⟩ := readsTwo_fields hr
  rw [curCtx, curCtx, hag, runs_agent hg.runs] at htask
  exact ⟨hag, congrArg Task.world htask, transLookup_of_trans htrans, monitorsFull_of_fields hfuncs hmons⟩

theorem watchesAs_noteSoft {g : Nat} (hg : MayWait g u s) (pa : Nat) : WatchesAs u s (Machine.noteSoft s pa) := by
  obtain ⟨-, htrans, hfuncs, hmons, hctx⟩ := noteSoft_keeps s pa
  have hag := runs_agent (hg.noteSoft pa).runs
  rw [curCtx, curCtx, hag, runs_agent hg.runs] at hctx
  exact ⟨hag, by rw [hctx], transLookup_of_trans htrans, monitorsFull_of_fields hfuncs hmons⟩

section reads
variable (hg : MayWait o.g u s) (hr : readsTwo o.a o.m o.b o.n s x c t)
include hg hr

theorem exec_waita_beyond (hx : 2 ^ 56 ≤ x.toNat) : slotTraps (.waita o) s 0x08 :=
  exec_waita_trap hg (noteWatch_unwatchable hg hr fun h => Nat.not_lt.2 hx h.1) hr (watch_beyond hx)

theorem exec_waita_misaligned (hx : x.toNat < 2 ^ 56) (hal : x.toNat % 8 ≠ 0) : slotTraps (.waita o) s 0x07 :=
  exec_waita_trap hg (noteWatch_unwatchable hg hr fun h => hal h.2) hr (watch_misaligned hx hal)

variable {w : Nat} (hx : Watchable x) (hw : (ctxOf s u.ag).task.world = w)
include hx hw

theorem exec_waita_walks (hl : transLookup t (dieOf u.ag) w x.toNat = none) : exec (.waita o) s =
    slotDone u (beginWait u.ag .monitor (walkWait o ⟨dieOf u.ag, w, x.toNat / 65536⟩ x c t)
      (addMisses [⟨dieOf u.ag, w, x.toNat / 65536⟩] t)) := by
  have ht := watchesAs_reads hg hr
  refine exec_waita_ok hg ((noteWatch_reads hg hr hx).trans ?_) hr (watch_walks hx ht.agent (ht.world.trans hw) hl)
  rw [ht.lookup, ← hw] at hl
  simp only [watchPlace, hl, Option.elim_none]

variable {pa : Nat} {e : TransEnt} (hl : transLookup s (dieOf u.ag) w x.toNat = some e) (hpa : placeOf e x.toNat = pa)
include hl hpa

theorem noteWatch_cached : noteWatch o s =
    if o.c = 4 ∨ targetOf pa ≠ 0 ∨ monitorsFull s (dieOf u.ag) w = true then s else noteSoft s pa := by
  rw [noteWatch_reads hg hr hx, watchPlace_cached hw hl, hpa]
  split <;> rfl

theorem exec_waita_noHbm (ht : targetOf pa ≠ 0) : slotTraps (.waita o) s 0x08 := by
  have hwt := watchesAs_reads hg hr
  rw [← hwt.lookup] at hl
  have htr := translate_place hx.1 hl
  rw [hpa] at htr
  refine exec_waita_trap hg ((noteWatch_cached hg hr hx hw (hwt.lookup _ _ _ ▸ hl) hpa).trans (if_pos (.inr (.inl ht)))) hr ?_
  exact (watch_cached hx hwt.agent (hwt.world.trans hw) hl).trans (bind_of_error (armWaita_noHbm (hwt.world.trans hw) htr ht) _)

variable (ht : targetOf pa = 0)
include ht

theorem exec_waita_full (hf : monitorsFull s (dieOf u.ag) w = true) :
    exec (.waita o) s = slotDone u (land 1 (.pair o.p false) (noteNotArmed (dieOf u.ag) t)) := by
  have hwt := watchesAs_reads hg hr
  refine exec_waita_ok hg ((noteWatch_cached hg hr hx hw hl hpa).trans (if_pos (.inr (.inr hf)))) hr ?_
  rw [← hwt.lookup] at hl
  rw [← hwt.full] at hf
  have htr := translate_place hx.1 hl
  rw [hpa] at htr
  exact (watch_cached hx hwt.agent (hwt.world.trans hw) hl).trans (bind_of_ok (armWaita_full (hwt.world.trans hw) htr ht hf) _)

end reads

/-- The state from which WAITA reads its word at `pa`: a condition that looks at the word has the read noted (R291). -/
def watchFrom (o : WaitA) (s : State) (pa : Nat) : State := if o.c = 4 then s else noteSoft s pa

theorem MayWait.watchFrom (hg : MayWait o.g u s) (pa : Nat) : MayWait o.g u (watchFrom o s pa) := by
  unfold Proofs.watchFrom
  split
  · exact hg
  · exact hg.noteSoft pa

theorem watchesAs_watchFrom (hg : MayWait o.g u s) (pa : Nat) : WatchesAs u s (watchFrom o s pa) := by
  unfold watchFrom
  split
  · exact ⟨runs_agent hg.runs, rfl, fun _ _ _ => rfl, fun _ _ => rfl⟩
  · exact watchesAs_noteSoft hg pa

section word
variable {w pa : Nat} {e : TransEnt} {t2 : State} (hg : MayWait o.g u s) (hr : readsTwo o.a o.m o.b o.n s x c t) (hx : Watchable x)
  (hw : (ctxOf s u.ag).task.world = w) (hl : transLookup s (dieOf u.ag) w x.toNat = some e) (hpa : placeOf e x.toNat = pa)
  (ht : targetOf pa = 0) (hf : monitorsFull s (dieOf u.ag) w = false)
  (hr2 : readsTwo o.a o.m o.b o.n (watchFrom o s pa) x c t2)
include hg hr hx hw hl hpa ht hf

theorem noteWatch_watchFrom : noteWatch o s = watchFrom o s pa := by
  simp only [noteWatch_cached hg hr hx hw hl hpa, ht, hf, ne_eq, not_true_eq_false, Bool.false_eq_true, or_false, watchFrom]

include hr2

omit hr ht in
/-- From its operands on, WAITA arms for the place that its address is translated to. -/
theorem watch_arms : (ctxOf t2 u.ag).task.world = w ∧ translate t2 (dieOf u.ag) w x.toNat false = (.ok pa, t2) ∧
    monitorsFull t2 (dieOf u.ag) w = false ∧ watch o x c t2 =
      (armWaita u.ag o.c o.p (if o.t = 0 then 0 else 1024 * 2 ^ o.t) (walkWait o ⟨dieOf u.ag, w, bits x 55 16⟩ x c t2) t2 >>=
        fun p => .ok (p.1.elim p.2 (fun v => writePair o.p v p.2))) := by
  have hwt := (watchesAs_watchFrom hg pa).trans (watchesAs_reads (hg.watchFrom pa) hr2)
  rw [← hwt.lookup] at hl
  refine ⟨hwt.world.trans hw, ?_, (hwt.full _ _).trans hf, watch_cached hx hwt.agent (hwt.world.trans hw) hl⟩
  rw [translate_place hx.1 hl, hpa]

theorem exec_waita_holds {m : Word} (hc : o.c ≠ 4) (hm : readWatch t2 w pa = .ok m) (hh : condHolds o.c m c = true) :
    exec (.waita o) s = slotDone u (land 1 (.pair o.p true) t2) := by
  obtain ⟨hw2, htr, hf2, hwatch⟩ := watch_arms hg hx hw hl hpa hf hr2
  exact exec_waita_ok (hg.watchFrom pa) (noteWatch_watchFrom hg hr hx hw hl hpa ht hf) hr2
    (hwatch.trans (bind_of_ok (armWaita_holds hw2 htr ht hf2 hc hm hh) _))

theorem exec_waita_unread {cause : Nat} (hc : o.c ≠ 4) (hm : readWatch t2 w pa = .error cause) :
    exec (.waita o) s = .next (slotTrap cause (noteSoft s pa)) := by
  obtain ⟨hw2, htr, hf2, hwatch⟩ := watch_arms hg hx hw hl hpa hf hr2
  have htrap := exec_waita_trap (hg.watchFrom pa) (noteWatch_watchFrom hg hr hx hw hl hpa ht hf) hr2
    (hwatch.trans (bind_of_error (armWaita_unread hw2 htr ht hf2 hc hm) _))
  rwa [watchFrom, if_neg hc] at htrap

theorem exec_waita_waits (h : o.c = 4 ∨ ∃ m : Word, readWatch t2 w pa = .ok m ∧ condHolds o.c m c = false) :
    ∃ wt : Wait, exec (.waita o) s = slotDone u (beginWait u.ag .monitor wt (armed u.ag w pa t2)) ∧
      wt.what = .monitor pa o.c c o.p t2.gcyc (if o.t = 0 then 0 else 1024 * 2 ^ o.t) false (dieOf u.ag) := by
  obtain ⟨hw2, htr, hf2, hwatch⟩ := watch_arms hg hx hw hl hpa hf hr2
  exact ⟨_, exec_waita_ok (hg.watchFrom pa) (noteWatch_watchFrom hg hr hx hw hl hpa ht hf) hr2
    (hwatch.trans (bind_of_ok (armWaita_waits hw2 htr ht hf2 h) _)), rfl⟩

end word
end waita

/-- Settles O31: the timelines by their checks; WAITA by its checks, the place of its word, and what it finds there. -/
theorem timelineAndMonitorResult : Obligations.TimelineAndMonitorResult := by
  unfold Obligations.TimelineAndMonitorResult
  refine ⟨fun s t u => ⟨fun o x h hg hs hh => exec_tladd_ok hg hs hh, fun o x h hg hs hh => ⟨exec_tlpoll_ok hg hs hh, ?_⟩,
    fun o h c hg hh hd => ⟨_, exec_tlrd_ok hg hh hd, ?_, ?_, ?_⟩⟩, ?_⟩
  · intro huser hquiet hfresh z hz hs2
    have heq := exec_tlwait_eq ⟨hg, huser, hquiet, hfresh⟩ ⟨z, hz, hs2⟩ hh
    exact ⟨fun hm => heq.trans (congrArg (slotDone u) (if_pos hm)), fun hm => heq.trans (congrArg (slotDone u) (if_neg (by simp [hm])))⟩
  · intro he
    rw [he]
    rfl
  · intro he
    rw [he]
    rfl
  · exact fun he => congrArg wd (timelineWord_fail he)
  · intro o s t u x c hruns huser hquiet hfresh hr w die tmo miss
    have hg : MayWait o.g u s := ⟨hruns, huser, hquiet, hfresh⟩
    have hw : (ctxOf s u.ag).task.world = w := by rw [← runs_agent hruns]; rfl
    have hwt := watchesAs_reads hg hr
    refine ⟨exec_waita_beyond hg hr, exec_waita_misaligned hg hr, fun hlt hal => ⟨fun hl => ?_, fun pa t1 hl htr => ?_⟩⟩
    · exact ⟨_, exec_waita_walks hg hr ⟨hlt, hal⟩ hw hl, rfl, rfl, rfl⟩
    · obtain ⟨e, he⟩ := Option.ne_none_iff_exists'.1 hl
      have htr2 := (translate_place hlt he).symm.trans htr
      simp only [Prod.mk.injEq, Except.ok.injEq] at htr2
      obtain ⟨hpa, rfl⟩ := htr2
      rw [hwt.lookup] at he
      refine ⟨exec_waita_noHbm hg hr ⟨hlt, hal⟩ hw he hpa, fun ht hf => ?_, fun t2 ht hf hr2 => ?_⟩
      · rw [hwt.full] at hf
        exact exec_waita_full hg hr ⟨hlt, hal⟩ hw he hpa ht hf
      · rw [hwt.full] at hf
        have hr2' : readsTwo o.a o.m o.b o.n (watchFrom o s pa) x c t2 := by
          by_cases hc : o.c = 4
          · rw [if_pos hc] at hr2
            rwa [watchFrom, if_pos hc, hr2]
          · rw [if_neg hc] at hr2
            rwa [watchFrom, if_neg hc]
        exact ⟨fun m => exec_waita_holds hg hr ⟨hlt, hal⟩ hw he hpa ht hf hr2',
          fun cause => exec_waita_unread hg hr ⟨hlt, hal⟩ hw he hpa ht hf hr2',
          exec_waita_waits hg hr ⟨hlt, hal⟩ hw he hpa ht hf hr2'⟩

end Sys2Proof.Proofs

/-!
PROOFS. Barriers and fences: BAR, BARA, BARD and FENCE (O32).
-/

namespace Sys2Proof.Proofs
open Sys2Proof Sys2Proof.Machine Sys2Proof.Laws

/-! ## Barriers (spec/15_async_and_synchronisation_instructions.md R354, R355; spec/17_interruption_and_preemption.md R393) -/

section barriers
variable {o : G} {s : State} {u : Issue}

/-- A task that may arrive at its domain: in no handler, of a domain, and not dropped from it. -/
def InDomain (x : Ctx) : Prop := x.estatH = false ∧ x.task.level ≠ 0 ∧ x.dropped = false

theorem barrierCheck_ok (h : InDomain (curCtx s)) : barrierCheck s = .ok () := by
  obtain ⟨huser, hlevel, hdropped⟩ := h
  exact (bind_of_ok (notInHandler_ok huser) _).trans (need_holds (by simp [hlevel, hdropped]))

theorem barrierCheck_error (h : ¬ InDomain (curCtx s)) : barrierCheck s = .error 0x0D := by
  cases hh : (curCtx s).estatH
  case true => exact bind_of_error (notInHandler_error hh) _
  case false =>
    refine (bind_of_ok (notInHandler_ok hh) _).trans (need_fails (Bool.eq_false_iff.2 fun hd => h ?_))
    simp only [Bool.and_eq_true, bne_iff_ne, Bool.not_eq_true'] at hd
    exact ⟨hh, hd.1, hd.2⟩

theorem exec_barriers_trap (hg : slotRuns o.g u s) (h : ¬ InDomain (curCtx s)) :
    slotTraps (.bar o) s 0x0D ∧ slotTraps (.bara o) s 0x0D ∧ slotTraps (.bard o) s 0x0D :=
  ⟨(exec_bar o s).trans (slot_trap hg (bind_of_error (barrierCheck_error h) _)),
    (exec_bara o s).trans (slot_trap hg (bind_of_error (barrierCheck_error h) _)),
    (exec_bard o s).trans (slot_trap hg (bind_of_error (barrierCheck_error h) _))⟩

variable (hg : slotRuns o.g u s) (h : InDomain (curCtx s))
include hg h

theorem exec_bard_drops : exec (.bard o) s = slotDone u (domDrop s u.ag) := by
  rw [← runs_agent hg]
  exact (exec_bard o s).trans (slot_ok hg (bind_of_ok (barrierCheck_ok h) _))

theorem exec_bar_waits : exec (.bar o) s =
    slotDone u (barrierWait false (if domPending s u.ag then s else domSend s u.ag s.gcyc false false)) := by
  rw [← runs_agent hg]
  exact (exec_bar o s).trans (slot_ok hg (bind_of_ok (barrierCheck_ok h) _))

theorem exec_bara_arrives : exec (.bara o) s =
    slotDone u (if domPending s u.ag then barrierWait true s else domSend s u.ag s.gcyc false false) := by
  rw [← runs_agent hg]
  exact (exec_bara o s).trans (slot_ok hg (bind_of_ok (barrierCheck_ok h) _))

end barriers

/-! ## Fences (R331, R359) -/

section fences
variable {o : Fence} {s : State} {u : Issue}

/-- The operations that a fence has to wait for (R331). -/
def fencedOps (o : Fence) (s : State) (a : Agent) : List (Nat × Nat) := (fenceOps s a).filter (fenceBusy s o.s (o.k == 1))

/-- The wait of a fence for the operations `ops`. -/
def fenceWait (o : Fence) (ops : List (Nat × Nat)) (s : State) : Wait :=
  ⟨.fence ops o.s (o.k == 1), curWord s, 0, 0, curUndo [] none s, false, none⟩

theorem exec_fence_eq (hg : slotRuns o.g u s) : exec (.fence o) s = slotDone u (if fencedOps o s u.ag = [] ∨ o.s ≤ 2 then s
    else beginWait u.ag .fence (fenceWait o (fencedOps o s u.ag) s) s) := by
  rw [← runs_agent hg]
  refine (exec_fence o s).trans (slot_ok hg ?_)
  rw [apply_ite Except.ok]
  exact if_congr (by simp [fencedOps]) rfl rfl

end fences

/-- Settles O32: the barriers by their one check and what is pending; a fence by the operations that it has to wait for. -/
theorem barrierAndFenceResult : Obligations.BarrierAndFenceResult := by
  unfold Obligations.BarrierAndFenceResult
  refine ⟨fun o s u hg => ⟨exec_barriers_trap hg, fun h => ⟨exec_bard_drops hg h, fun hp => ?_, fun hp => ?_⟩⟩,
    fun o s u hg => ⟨fun h => ?_, fun hops hs => ?_⟩⟩
  · rw [exec_bar_waits hg h, exec_bara_arrives hg h, hp]
    exact ⟨rfl, rfl⟩
  · rw [exec_bar_waits hg h, exec_bara_arrives hg h, hp]
    exact ⟨rfl, rfl⟩
  · exact (exec_fence_eq hg).trans (congrArg (slotDone u) (if_pos h))
  · refine ⟨_, (exec_fence_eq hg).trans (congrArg (slotDone u) (if_neg ?_)), rfl⟩
    rintro (h | h)
    · exact hops h
    · exact Nat.not_lt.2 h hs

end Sys2Proof.Proofs

/-!
PROOFS. Taking a trap and returning from one (O38).
-/

namespace Sys2Proof.Proofs
open Sys2Proof Sys2Proof.Machine Sys2Proof.Laws

/-! ## Stage predicates (spec/07_scalar_and_control_instructions.md R148, R166) -/

theorem stage_setStage (x : Ctx) {g : Nat} (hg : g < 256) : bits (setStage x g).preds 15 8 = g := by
  have hlt : x.preds.toNat < 65536 := x.preds.isLt
  simp only [setStage, bits, bf, setBits, BitVec.toNat_ofNat]
  omega

/-! ## Causes of a freeze (spec/06_fetch_and_issue.md R135) -/

theorem ctxOf_addCause (a : Agent) (c : Freeze) (s : State) : ∃ l, l.elem c = true ∧
    ctxOf (addCause a c s) a = { ctxOf s a with causes := l } := by
  by_cases h : (ctxOf s a).causes.elem c = true
  · exact ⟨(ctxOf s a).causes, h, by rw [addCause, modCtx_eq, ctxOf_setCtx, if_pos h]⟩
  · exact ⟨(ctxOf s a).causes ++ [c], by simp, by rw [addCause, modCtx_eq, ctxOf_setCtx, if_neg h]⟩

theorem ctxOf_dropCause (a : Agent) (c : Freeze) (s : State) : ∃ l, l.elem c = false ∧
    ctxOf (dropCause a c s) a = { ctxOf s a with causes := l } :=
  ⟨(ctxOf s a).causes.filter (· != c), by simp, by simp [dropCause]⟩

/-! ## Entry (spec/17_interruption_and_preemption.md R390-R392) -/

theorem terminates_iff (x : Ctx) (a : Agent) (cause : Nat) (late : Bool) : terminates x a cause late = true ↔
    cause = 0x06 ∨ x.tvec = 0 ∨ x.estatH = true ∨ late = true ∨ kindOf a = .channel := by
  simp [terminates, or_assoc]

/-- The context `x` with the fault registers of a trap, its events counted. -/
def faulted (x : Ctx) (evs : Tab Word) (cause pc slot word done : Nat) : Ctx :=
  { x with evcnt := evs, faultCause := cause, faultPc := pc, faultSlot := slot, faultWord := word, doneMask := done }

/-- The suspended state `p` keeps the time and what is in flight of the context `x`. -/
def Suspends (x : Ctx) (p : Susp) : Prop := p.tau = x.clk ∧ p.pend = x.pend ∧ p.branch = x.branch ∧ p.call = x.call

/-- The context `y` is at the start of its handler, entered from `x`: LC and the stage predicates are saved and cleared, what
was in flight is suspended, and the first bundle issues four cycles later. -/
structure EntersHandler (x y : Ctx) : Prop where
  estatH : y.estatH = true
  elc : y.elc = x.lc
  lc : y.lc = 0
  saved : y.estatStage = BitVec.ofNat 8 (bits x.preds 15 8)
  stage : bits y.preds 15 8 = 0
  pend : y.pend = []
  branch : y.branch = none
  call : y.call = none
  pc : y.seqPc = x.tvec
  time : y.seqAt = x.clk + 4
  ended : y.ended = x.ended
  issuing : y.issuing = x.issuing
  frozen : y.causes.elem .handler = true
  susp : ∃ p : Susp, y.susp = some p ∧ Suspends x p

/-- The context `y` has the fault registers of a trap of `x`, and its queues. -/
structure LogsFault (x y : Ctx) (cause pc slot word done : Nat) : Prop where
  cause : y.faultCause = cause
  pc : y.faultPc = pc
  slot : y.faultSlot = slot
  word : y.faultWord = word
  done : y.doneMask = done
  sregs : y.sregs = x.sregs

section entry
variable {a : Agent} {cause pc slot word done : Nat} {late : Bool} {cont : Option (Nat × Nat)} {s : State}

theorem trapEntry_terminates (h : terminates (ctxOf s a) a cause late = true) : ∃ evs,
    ctxOf (trapEntry a cause pc slot word done late cont s) a =
      { faulted (ctxOf s a) evs cause pc slot word done with ended := some cause, issuing := false } := by
  obtain ⟨l, hl⟩ := countFrozen_eq s (ctxOf s a) 0
  refine ⟨l, ?_⟩
  simp only [trapEntry, h, Bool.not_true, Bool.toNat_false, if_true, ctxOf_setCtx, hl]
  rfl

theorem trapEntry_enters (h : terminates (ctxOf s a) a cause late = false) :
    EntersHandler (ctxOf s a) (ctxOf (trapEntry a cause pc slot word done late cont s) a) ∧
      LogsFault (ctxOf s a) (ctxOf (trapEntry a cause pc slot word done late cont s) a) cause pc slot word done := by
  obtain ⟨l, hl⟩ := countFrozen_eq s (ctxOf s a) 1
  simp only [trapEntry, h, Bool.not_false, Bool.toNat_true, Bool.false_eq_true, if_false, freezeSiblings_frame, hl]
  obtain ⟨k, hk, hctx⟩ := ctxOf_addCause a .handler (setCtx s a _)
  rw [hctx, ctxOf_setCtx]
  exact ⟨⟨rfl, rfl, rfl, rfl, stage_setStage _ (by decide), rfl, rfl, rfl, rfl, rfl, rfl, rfl, hk,
    ⟨_, rfl, rfl, rfl, rfl, rfl⟩⟩, ⟨rfl, rfl, rfl, rfl, rfl, rfl⟩⟩

theorem trapEntry_logs : LogsFault (ctxOf s a) (ctxOf (trapEntry a cause pc slot word done late cont s) a) cause pc slot word done := by
  cases h : terminates (ctxOf s a) a cause late
  case false => exact (trapEntry_enters h).2
  case true =>
    obtain ⟨evs, hy⟩ := trapEntry_terminates (pc := pc) (slot := slot) (word := word) (done := done) (cont := cont) h
    rw [hy]
    exact ⟨rfl, rfl, rfl, rfl, rfl, rfl⟩

end entry

/-! ## A slot trap (R390) -/

/-- Before a slot trap is taken, only the event counters of its context change. -/
theorem slotTrap_eq {s : State} {u : Issue} (cause : Nat) (hu : s.cur = some u) :
    ∃ (r : State) (evs : Tab Word) (cont : Option (Nat × Nat)), ctxOf r u.ag = { ctxOf s u.ag with evcnt := evs } ∧
      slotTrap cause s = { trapEntry u.ag cause u.pc u.slot.num u.word (u.mask ||| u.before) false cont r with
        cur := some { u with rest := [], trapped := true } } := by
  refine ⟨if terminates (ctxOf s u.ag) u.ag cause false then countEvent u.ag 0x02 1 s
    else modCtx s u.ag (fun x => { x with evcnt := u.ev }), ?_⟩
  simp only [slotTrap, slotTrapWith, hu, Nat.or_zero]
  split
  · rcases countEvent_cases u.ag 0x02 1 s with h | ⟨l, h⟩
    · exact ⟨_, _, by rw [h], rfl⟩
    · exact ⟨_, _, by rw [h, ctxOf_setCtx], rfl⟩
  · exact ⟨_, _, by rw [modCtx_eq, ctxOf_setCtx], rfl⟩

section slotTrap
variable {cause : Nat} {s : State} {u : Issue} (hu : s.cur = some u)
include hu

theorem slotTrap_logs : LogsFault (ctxOf s u.ag) (ctxOf (slotTrap cause s) u.ag) cause u.pc u.slot.num u.word (u.mask ||| u.before) ∧
    (slotTrap cause s).cur = some { u with rest := [], trapped := true } := by
  obtain ⟨r, evs, cont, hr, ht⟩ := slotTrap_eq cause hu
  have hlogs : LogsFault (ctxOf r u.ag) _ _ _ _ _ _ := trapEntry_logs (a := u.ag) (cause := cause) (pc := u.pc) (slot := u.slot.num)
    (word := u.word) (done := u.mask ||| u.before) (late := false) (cont := cont) (s := r)
  rw [ht]
  refine ⟨{ hlogs with sregs := ?_ }, rfl⟩
  exact hlogs.sregs.trans (by rw [hr])

theorem slotTrap_enters (h : terminates (ctxOf s u.ag) u.ag cause false = false) :
    EntersHandler (ctxOf s u.ag) (ctxOf (slotTrap cause s) u.ag) := by
  obtain ⟨r, evs, cont, hr, ht⟩ := slotTrap_eq cause hu
  have hterm : terminates (ctxOf r u.ag) u.ag cause false = false := by
    rw [hr]
    exact h
  have henters := (trapEntry_enters (pc := u.pc) (slot := u.slot.num) (word := u.word) (done := u.mask ||| u.before)
    (cont := cont) hterm).1
  rw [ht]
  rw [hr] at henters
  exact { henters with }

end slotTrap

/-! ## The return (R394) -/

section trapReturn
variable {a : Agent} {s : State} {p : Susp}

theorem ctxOf_shiftYarns (b : Agent) (d : Nat) (q : Nat → Bool) (s : State) : ctxOf (shiftYarns a d q s) b = ctxOf s b := rfl

/-- The context that a return leaves: that of the trap with its suspended state resumed `d` cycles later. -/
def resumed (x : Ctx) (p : Susp) : Ctx :=
  { setStage x x.estatStage.toNat with
    susp := none
    estatH := false
    lc := x.elc
    pend := shiftPend (x.clk - p.tau) p.pend ++ x.pend
    branch := shiftBranch (x.clk - p.tau) p.branch
    call := p.call.map (fun c => { c with t0 := c.t0 + (x.clk - p.tau) })
    texit := p.texit
    cont := p.cont.map (fun c => (c.1, x.clk + c.2))
    kept := p.kept
    ttOff := x.ttOff + (x.clk - p.tau)
    seqPc := x.faultPc
    seqAt := x.clk
    resumeMask := x.doneMask }

theorem ctxOf_trapReturn (h : (ctxOf s a).susp = some p) : ∃ l, l.elem .handler = false ∧
    ctxOf (trapReturn a s) a = { resumed (ctxOf s a) p with causes := l } := by
  obtain ⟨l, hl, hdrop⟩ := ctxOf_dropCause a .handler (setCtx s a (resumed (ctxOf s a) p))
  refine ⟨l, hl, ?_⟩
  rw [ctxOf_setCtx] at hdrop
  rw [← hdrop]
  simp only [trapReturn, h]
  split
  · rfl
  · rfl

end trapReturn

/-- Settles O38: the entry by whether it terminates, the slot trap by the entry that it is, and the return by the context that it
leaves. -/
theorem trapEntryAndReturn : Obligations.TrapEntryAndReturn := by
  unfold Obligations.TrapEntryAndReturn
  refine ⟨fun cause s u hu hcause => ?_, fun a s p hp => ?_, fun a cause pc slot word done late cont s => ⟨fun h => ?_, fun h => ?_⟩⟩
  · obtain ⟨⟨h1, h2, h3, h4, h5, h6⟩, hcur⟩ := slotTrap_logs (cause := cause) hu
    obtain ⟨honly, hother, -⟩ := ownFrame_slotTrapWith 0 cause hu
    refine ⟨h1, h2, h3, h4, h5, hcur, h6, honly, hother, fun htv hh hk => ?_⟩
    have hterm : terminates (ctxOf s u.ag) u.ag cause false = false := by
      rw [Bool.eq_false_iff, ne_eq, terminates_iff]
      simp [hcause, htv, hh, hk]
    obtain ⟨e1, e2, e3, e4, e5, e6, e7, e8, e9, e10, e11, -, e13, e14⟩ := slotTrap_enters hu hterm
    exact ⟨e1, e2, e3, e4, e5, e6, e7, e8, e9, e10, e11, e13, e14⟩
  · obtain ⟨l, hl, hy⟩ := ctxOf_trapReturn hp
    intro x d y
    have hy : y = _ := hy
    rw [hy]
    exact ⟨rfl, rfl, stage_setStage _ (BitVec.isLt _), rfl, rfl, rfl, rfl, rfl, rfl, hl, rfl⟩
  · obtain ⟨evs, hy⟩ := trapEntry_terminates (pc := pc) (slot := slot) (word := word) (done := done) (cont := cont)
      ((terminates_iff _ _ _ _).2 h)
    rw [hy]
    exact ⟨rfl, rfl, rfl, rfl, rfl⟩
  · have hterm := Bool.eq_false_iff.2 (mt (terminates_iff (ctxOf s a) a cause late).1 h)
    have henters := (trapEntry_enters (pc := pc) (slot := slot) (word := word) (done := done) (cont := cont) hterm).1
    exact ⟨henters.ended, henters.issuing, henters.estatH⟩

end Sys2Proof.Proofs

/-!
PROOFS. Fabric messages (O51).
-/

namespace Sys2Proof.Proofs
open Sys2Proof Sys2Proof.Machine Sys2Proof.Laws

/-! ## A message that no check drops (spec/16_fabric_and_switch_trust.md R366-R368) -/

/-- The state in which a message of world `w` is served: its sender's counter is taken. -/
def counted (m : FabMsg) (w : Nat) (s : State) : State :=
  modWorld s w (fun x => { x with job := x.job.map (fun j => { j with lastCtr := tabSet j.lastCtr m.src m.ctr }) })

/-- The message with its body in plaintext. -/
def opened (m : FabMsg) (j : Job) : FabMsg := { m with body := (openMsg j.kt m).getD [] }

section messages
variable {m b : FabMsg} {s s1 : State} {w : Nat} {j : Job} (hm : some m.dst = s.pkg) (hj : jobWorld s m.djob = some (w, j))
  (hs1 : s1 = counted m w s) (hb : b = opened m j)
include hm hj hs1 hb

theorem receive_accepted {row : Nat} (h : dropStatus s m row = none) (k : Nat → Job → FabMsg → State → State) :
    receive row m k s = .next (k w j b s1) := by
  rw [receive, if_neg (by simp [hm]), h, hj, hs1, hb]
  rfl

/-! ## WRITE and READ (R371) -/

theorem exec_fabWrite_refused (h : dropStatus s m 1 = none) (hs : lineStatus s1 w b ≠ 0) :
    exec (.fabWrite m) s =
      .next (reply w b (lineStatus s1 w b) s1) := by
  rw [exec_fabWrite, execFabWrite, receive_accepted hm hj hs1 hb h]
  exact congrArg Host.Outcome.next (if_pos (bne_iff_ne.2 hs))

theorem exec_fabWrite_line (h : dropStatus s m 1 = none) (hs : lineStatus s1 w b = 0)
    (hn : b.nline = 1) : exec (.fabWrite m) s = .next (reply w b 0 (writeMasked (msgOff b + 64 * 0)
      (leNat ((b.body.drop (64 * 1 + 8 * 0)).take 8)) ((b.body.drop (64 * 0)).take 64)
      (bm b.op 0) s1)) := by
  rw [exec_fabWrite, execFabWrite, receive_accepted hm hj hs1 hb h]
  simp only [hs, hn, bne_self_eq_false, Bool.false_eq_true, if_false, List.range_one, List.foldl_cons, List.foldl_nil]

theorem exec_fabRead_refused (h : dropStatus s m 2 = none) (hs : lineStatus s1 w b ≠ 0) :
    exec (.fabRead m) s =
      .next (reply w b (lineStatus s1 w b) s1) := by
  rw [exec_fabRead, execFabRead, receive_accepted hm hj hs1 hb h]
  exact congrArg Host.Outcome.next (if_pos (bne_iff_ne.2 hs))

theorem exec_fabRead_lines (h : dropStatus s m 2 = none) (hs : lineStatus s1 w b = 0) :
    exec (.fabRead m) s = .next (sendLines w ((portFor s1 b.src).elim 0 (· + 1))
      ((msgLines b).map (fun o => if o < hbmBytes then some (pageOfAddr o) else none))
      (.fabric { newMsg 0x82 b.src 0 with
        rid := b.rid, nline := b.nline, op := (readMsgLines s1 b).2
        body := (readMsgLines s1 b).1 }) none
      ((msgLines b).foldl (fun s o => if o < hbmBytes then noteRows s o 64 else s) s1)) := by
  rw [exec_fabRead, execFabRead, receive_accepted hm hj hs1 hb h]
  simp only [hs, bne_self_eq_false, Bool.false_eq_true, if_false]

/-! ## RED and MERGE (R376, R377) -/

theorem exec_redMessage_noWord (h : dropStatus s m 3 = none) (hM : bm b.op 3 = false)
    (ha : redAddrOk b = false) :
    exec (.redMessage m) s = .next (reply w b 1 s1) := by
  rw [exec_redMessage, execRedMessage, receive_accepted hm hj hs1 hb h]
  simp only [hM, ha, Bool.not_false, Bool.and_self, if_true]

theorem exec_redMessage_merging (h : dropStatus s m 3 = none) (hM : bm b.op 3 = true) :
    exec (.redMessage m) s = .next (reply w b 4 s1) := by
  rw [exec_redMessage, execRedMessage, receive_accepted hm hj hs1 hb h]
  cases redPlace s1 w b <;> simp [hM]

theorem exec_redMessage_merges (h : dropStatus s m 3 = none) (ha : redAddrOk b = true) {o : Nat} {d : WinDesc}
    (hp : redPlace s1 w b = some (o, d)) (hd : d.mode = 0) (hM : bm b.op 3 = false) :
    exec (.redMessage m) s = .next (reply w b 0
      (mergeWord d o (b.op % 8) (wd (leNat (b.body.take 8))) 1 s1)) := by
  rw [exec_redMessage, execRedMessage, receive_accepted hm hj hs1 hb h]
  simp [hM, ha, hp, hd]

theorem exec_mergeMessage_noWord (h : dropStatus s m 4 = none) (ha : redAddrOk b = false) :
    exec (.mergeMessage m) s = .next (reply w b 4 s1) := by
  rw [exec_mergeMessage, execMergeMessage, receive_accepted hm hj hs1 hb h]
  cases redPlace s1 w b <;> simp [ha]

theorem exec_mergeMessage_merges (h : dropStatus s m 4 = none) (ha : redAddrOk b = true) {o : Nat} {d : WinDesc}
    (hp : redPlace s1 w b = some (o, d)) (hd : d.mode = 1) (hn : namesSwitch d b.src = true)
    (hk : b.addr / 2 ^ 48 ≠ 0) : exec (.mergeMessage m) s = .next (reply w b 0
      (mergeWord d o (b.op % 8) (wd (leNat (b.body.take 8))) (b.addr / 2 ^ 48) s1)) := by
  rw [exec_mergeMessage, execMergeMessage, receive_accepted hm hj hs1 hb h]
  simp only [ha, hp, hd, hn, bne_iff_ne.2 hk, decide_true, Bool.and_self, if_true]

/-! ## Job domains (R356, R378) -/

theorem exec_arrive_leads (h : dropStatus s m 6 = none) (hl : some j.leader = s1.pkg) {k : Nat}
    (hk : countFrom (domOf s1 (jobDom w j)) b.src (b.addr % 2 ^ 32) = k) :
    exec (.arrive m) s = .next (applyLandings (jobDom w j) k (b.addr / 2 ^ 32)
      (modDom (reply w b 0 s1) (jobDom w j) (fun d => { d with
        came := tabMod 0 d.came b.src (fun c => (c + k) % 2 ^ 32) }))) := by
  rw [exec_arrive, execArrive, receive_accepted hm hj hs1 hb h, ← hk, if_pos hl]

theorem exec_arrive_member (h : dropStatus s m 6 = none) (hl : some j.leader ≠ s1.pkg) :
    exec (.arrive m) s = .next (reply w b 2 s1) := by
  rw [exec_arrive, execArrive, receive_accepted hm hj hs1 hb h, if_neg hl]

theorem exec_completeMessage_finishes (h : dropStatus s m 7 = none) (hsrc : b.src = j.leader)
    (hl : some j.leader ≠ s1.pkg)
    {d : Dom} (hd : domOf (reply w b 0 s1) (jobDom w j) = some d) (hp : d.phase = b.addr) :
    exec (.completeMessage m) s = .next (finishPhase (jobDom w j) (reply w b 0 s1)) := by
  rw [exec_completeMessage, execCompleteMessage, receive_accepted hm hj hs1 hb h]
  simp [hsrc, hl, hd, hp]

theorem exec_mergeAck_accepted (h : dropStatus s m 0x84 = none) : exec (.mergeAck m) s = .next s1 := by
  rw [exec_mergeAck, execMergeAck, receive_accepted hm hj hs1 hb h]

/-! ## Responses (R369) -/

theorem response_accepted {opc : Nat} {r : FabReq} (h : dropStatus s m (0x80 + opc) = none)
    (hr : requestOf s1 w opc b = some r) (k : FabReq → FabMsg → State → State) :
    response opc m k s = .next (if b.status = 0 then k r b (endRequest r s1)
      else failRequest r (causeOf b.status) s1) := by
  rw [response, receive_accepted hm hj hs1 hb h, hr]

theorem response_ok {opc : Nat} {r : FabReq} (h : dropStatus s m (0x80 + opc) = none)
    (hr : requestOf s1 w opc b = some r) (hs : b.status = 0) (k : FabReq → FabMsg → State → State) :
    response opc m k s = .next (k r b (endRequest r s1)) :=
  (response_accepted hm hj hs1 hb h hr k).trans (congrArg Host.Outcome.next (if_pos hs))

theorem exec_writeAck_fails {r : FabReq} (h : dropStatus s m 0x81 = none)
    (hr : requestOf s1 w 1 b = some r) (hs : b.status ≠ 0) :
    exec (.writeAck m) s = .next (failRequest r (causeOf b.status) s1) := by
  rw [exec_writeAck, execWriteAck, response_accepted hm hj hs1 hb h hr, if_neg hs]

end messages

/-- Settles O51: each row is a `receive`, and a message that no check drops has its row's effect. -/
theorem fabricMessages : Obligations.FabricMessages := by
  unfold Obligations.FabricMessages
  intro m s w j hm hj s1 b
  have hs1 : s1 = counted m w s := rfl
  have hb : b = opened m j := rfl
  refine ⟨?_, ?_, ?_, ?_, ?_, ?_, ?_, ?_, ?_, ?_, ?_, ?_, ?_, ?_, ?_⟩
  · exact exec_fabWrite_refused hm hj hs1 hb
  · exact exec_fabWrite_line hm hj hs1 hb
  · exact exec_fabRead_refused hm hj hs1 hb
  · exact exec_fabRead_lines hm hj hs1 hb
  · exact exec_redMessage_noWord hm hj hs1 hb
  · exact exec_redMessage_merging hm hj hs1 hb
  · exact exec_mergeMessage_noWord hm hj hs1 hb
  · intro o d h ha hp hd hM
    exact exec_redMessage_merges hm hj hs1 hb h ha hp hd hM
  · intro o d h ha hp hd hlo hhi hbit hk
    refine exec_mergeMessage_merges hm hj hs1 hb h ha hp hd ?_ hk
    simp only [namesSwitch, Bool.and_eq_true, decide_eq_true_eq]
    exact ⟨⟨hlo, hhi⟩, hbit⟩
  · exact fun h hl => exec_arrive_leads hm hj hs1 hb h hl rfl
  · exact exec_arrive_member hm hj hs1 hb
  · exact fun h hsrc hl d hd hp => exec_completeMessage_finishes hm hj hs1 hb h hsrc hl hd hp
  · exact exec_mergeAck_accepted hm hj hs1 hb
  · refine fun r hs => ⟨fun h hr => ?_, fun h hr => ?_, fun h hr => ?_, fun h hr => ?_, fun h hr => ?_⟩
    · rw [exec_writeAck, execWriteAck]
      exact response_ok hm hj hs1 hb h hr hs _
    · rw [exec_redAck, execRedAck]
      exact response_ok hm hj hs1 hb h hr hs _
    · rw [exec_arriveAck, execArriveAck]
      exact response_ok hm hj hs1 hb h hr hs _
    · rw [exec_completeAck, execCompleteAck]
      exact response_ok hm hj hs1 hb h hr hs _
    · rw [exec_readData, execReadData]
      exact response_ok hm hj hs1 hb h hr hs _
  · exact fun r row hs _ h hr => exec_writeAck_fails hm hj hs1 hb h hr hs

end Sys2Proof.Proofs

/-!
PROOFS. Fabric management (O52).
-/

namespace Sys2Proof.Proofs
open Sys2Proof Sys2Proof.Machine Sys2Proof.Laws

/-! ## Ports (spec/16_fabric_and_switch_trust.md R362, R370) -/

/-- The mask of port `p` has that bit alone. -/
theorem getLsbD_portBit {p k : Nat} (hk : k < 32) : (BitVec.ofNat 32 (2 ^ p)).getLsbD k = decide (p = k) := by
  rw [BitVec.getLsbD_ofNat, Nat.testBit_two_pow, decide_eq_true hk, Bool.true_and]

theorem exec_portUp_enabled {s : State} {p : Nat} (hp : s.ports.getLsbD p = true) :
    exec (.portUp p) s = .next { s with portsUp := s.portsUp ||| BitVec.ofNat 32 (2 ^ p) } := by
  rw [exec_portUp, execPortUp, bm_toNat, hp, if_pos rfl]

theorem exec_portUp_disabled {s : State} {p : Nat} (hp : s.ports.getLsbD p = false) : exec (.portUp p) s = .next s := by
  rw [exec_portUp, execPortUp, bm_toNat, hp, if_neg Bool.false_ne_true]

/-- A port that carries nothing, and for which nothing is held, goes down alone. -/
theorem exec_portDown_idle {s : State} {p : Nat} (hr : ∀ r ∈ s.fabReqs, r.port ≠ p) (hg : ∀ g ∈ s.governed, g.port ≠ p + 1) :
    ∃ t, exec (.portDown p) s = .next t ∧ t.portsUp = s.portsUp &&& ~~~(BitVec.ofNat 32 (2 ^ p)) := by
  have hreqs : s.fabReqs.filter (fun r => r.port = p) = [] :=
    List.filter_eq_nil_iff.2 fun r h => by simpa using hr r h
  have hheld : s.governed.filter (fun g => g.port == p + 1) = [] :=
    List.filter_eq_nil_iff.2 fun g h => by simpa using hg g h
  rw [exec_portDown, execPortDown, hreqs]
  simp only [List.foldl_nil, failHeld, hheld]
  exact ⟨_, rfl, rfl⟩

theorem ports_change_alone (s : State) {p : Nat} (hp : p < 32) :
    (s.ports.getLsbD p = true → ∃ t, exec (.portUp p) s = .next t ∧ t.portsUp.getLsbD p = true ∧
        ∀ k : Nat, k < 32 → k ≠ p → t.portsUp.getLsbD k = s.portsUp.getLsbD k) ∧
      (s.ports.getLsbD p = false → exec (.portUp p) s = .next s) ∧
      ((∀ r ∈ s.fabReqs, r.port ≠ p) → (∀ g ∈ s.governed, g.port ≠ p + 1) → ∃ t, exec (.portDown p) s = .next t ∧
        t.portsUp.getLsbD p = false ∧
        ∀ k : Nat, k < 32 → k ≠ p → t.portsUp.getLsbD k = s.portsUp.getLsbD k) := by
  refine ⟨fun he => ⟨_, exec_portUp_enabled he, ?_, fun k hk hne => ?_⟩, exec_portUp_disabled, fun hr hg => ?_⟩
  · simp only [BitVec.getLsbD_or, getLsbD_portBit hp, decide_true, Bool.or_true]
  · simp only [BitVec.getLsbD_or, getLsbD_portBit hk, decide_eq_false hne.symm, Bool.or_false]
  · obtain ⟨t, ht, hup⟩ := exec_portDown_idle hr hg
    refine ⟨t, ht, ?_, fun k hk hne => ?_⟩
    · simp only [hup, BitVec.getLsbD_and, BitVec.getLsbD_not, getLsbD_portBit hp, decide_true, Bool.not_true, Bool.and_false]
    · simp only [hup, BitVec.getLsbD_and, BitVec.getLsbD_not, getLsbD_portBit hk, hk, decide_eq_false hne.symm, decide_true,
        Bool.not_false, Bool.and_true]

/-! ## Leaving a job (R365) -/

/-- Every RED of world `w` has performed. -/
def redsDone (w : Nat) (s : State) : Prop :=
  ∀ p ∈ s.engines, ∀ op ∈ p.2.ops, op.kind = .red → op.world = w → op.performed = true

theorem stopReds_done (w : Nat) (s : State) : redsDone w (stopReds w s) := by
  intro p hp op hop hk hw
  obtain ⟨q, -, rfl⟩ := List.mem_map.1 hp
  obtain ⟨o, -, rfl⟩ := List.mem_map.1 hop
  by_cases h : o.kind = .red ∧ o.world = w ∧ !o.performed
  · rw [if_pos h]
  · rw [if_neg h] at hk hw ⊢
    simpa [hk, hw] using h

theorem answerAdmit_admissions (w n st d : Nat) (s : State) : (answerAdmit w n st d s).admissions = s.admissions := rfl

theorem answerAdmit_engines (w n st d : Nat) (s : State) : (answerAdmit w n st d s).engines = s.engines := rfl

theorem leaveJob_leaves {s : State} {w : Nat} {j : Job} (hj : (worldOf s w).job = some j) :
    (worldOf (leaveJob w s) w).job = none ∧ (∀ a ∈ (leaveJob w s).admissions, a.world ≠ w) ∧ redsDone w (leaveJob w s) := by
  simp only [leaveJob, hj]
  refine ⟨?_, fun a ha => ?_, ?_⟩
  · rw [worldOf_modWorld]
  · rw [modWorld_admissions, zeroWindows, foldl_keeps State.admissions fun _ _ => answerAdmit_admissions _ _ _ _ _] at ha
    exact bne_iff_ne.1 (List.mem_filter.1 ha).2
  · rw [redsDone, modWorld_engines, zeroWindows, foldl_keeps State.engines fun _ _ => answerAdmit_engines _ _ _ _ _]
    exact stopReds_done w _

/-! ## The requests of a manager (R364, R365, R372, R374) -/

section manager

variable {s : State} {n : Nat} {x : Session} (h : s.ready = true) (hv : s.mailVersion = 0x13) (hx : sessionOf s n = some x)
  (hf : x.finished = true)
include h hv hx hf

/-- A request that the log has room for has the effect of its body. -/
theorem loggedManagerReq_accepted {name : String} {body : Session → State → State} (hl : logFull s = false) :
    loggedReq name s (inSession name n body) = .next (body x s) := by
  rw [loggedReq_room h hl, inSession_finished hv hx hf]

theorem exec_jobJoin_badKey {q : JobJoinReq} (hl : logFull s = false) (hc : joinCheck s x q = 0)
    (hb : notBound s x q.function = false) (hu : unwrapJob q = none) : exec (.jobJoin n q) s =
      .next (answer "JOB_JOIN" 6 (logJob (worldOfFunc q.function) q.djob 0 6 q.leader s)) := by
  rw [exec_jobJoin, execJobJoin, loggedManagerReq_accepted h hv hx hf hl]
  simp only [hc, hb, hu, bne_self_eq_false, Bool.false_eq_true, if_false]

theorem exec_jobJoin_joins {q : JobJoinReq} (hl : logFull s = false) (hc : joinCheck s x q = 0)
    (hb : notBound s x q.function = false) {key : List Nat} (hu : unwrapJob q = some key) : exec (.jobJoin n q) s =
      .next (answer "JOB_JOIN" 0 (logJob (worldOfFunc q.function) q.djob 0 0 q.leader (joinJob q key s))) := by
  rw [exec_jobJoin, execJobJoin, loggedManagerReq_accepted h hv hx hf hl]
  simp only [hc, hb, hu, bne_self_eq_false, Bool.false_eq_true, if_false]

theorem exec_jobLeave_leaves {f : Nat} {j : Job} (hl : logFull s = false) (hc : startCheck s x f = 0)
    (hj : (worldOf s (worldOfFunc f)).job = some j) : ∃ t, exec (.jobLeave n f j.djob) s = .next (answer "JOB_LEAVE" 0 t) ∧
      (worldOf t (worldOfFunc f)).job = none ∧ (∀ a ∈ t.admissions, a.world ≠ worldOfFunc f) ∧ redsDone (worldOfFunc f) t := by
  refine ⟨_, ?_, leaveJob_leaves (s := logJob (if notBound s x f then 0 else worldOfFunc f) j.djob 1 0 j.leader s) hj⟩
  rw [exec_jobLeave, execJobLeave, loggedManagerReq_accepted h hv hx hf hl]
  simp only [hc, hj, Option.bind_some, if_true, bne_self_eq_false, Bool.false_eq_true, if_false, Option.isNone_some, Option.elim_some]

theorem exec_switchAdmit_asks {q : SwitchReq} (hl : logFull s = false) (hc : admitCheck s x q = 0)
    (hb : notBound s x q.function = false) : exec (.switchAdmit n q) s = .next (askSwitch
      ⟨worldOfFunc q.function, q.ordinal, q.swid, 1, s.gcyc + switchTime, q.root, q.policy, q.mask, 0⟩
      { s with admissions := s.admissions ++
        [⟨worldOfFunc q.function, q.ordinal, q.swid, 1, s.gcyc + switchTime, q.root, q.policy, q.mask, 0⟩] }) := by
  rw [exec_switchAdmit, execSwitchAdmit, loggedManagerReq_accepted h hv hx hf hl]
  simp only [hc, hb, bne_self_eq_false, Bool.false_eq_true, if_false]

/-! ## Reduction windows (R374) -/

variable {f : Nat} {d : WinDesc} {j : Job} (hb : notBound s x f = false) (hj : (worldOf s (worldOfFunc f)).job = some j)
include hb hj

theorem exec_windowSetMake_refused (hok : makeOk s j d = false) :
    exec (.windowSetMake n f ⟨0, d⟩) s = .next (answer "WINDOW_SET_MAKE" 0x14 s) := by
  rw [exec_windowSetMake, execWindowSetMake, managerReq_accepted h hv hx hf]
  simp only [hb, hj, hok, Bool.and_false, Bool.false_eq_true, if_false]

theorem exec_windowSetMake_made (hok : makeOk s j d = true) {d2 : WinDesc}
    (hd : d2 = { d with mode := winMode j d, mac := winMac j.kd { d with mode := winMode j d } }) :
    exec (.windowSetMake n f ⟨0, d⟩) s =
      .next (emit (tellWindow (worldOfFunc f) d2 s) (.status "WINDOW_SET_MAKE" 0 (descBytes d2))) := by
  rw [exec_windowSetMake, execWindowSetMake, managerReq_accepted h hv hx hf, hd]
  simp only [hb, hj, hok, decide_true, Bool.and_self, Bool.false_eq_true, if_false, if_true]

theorem exec_windowSetInstall_installs (hl : logFull s = false) (hok : installOk s j d = true) :
    exec (.windowSetInstall n f ⟨0, d⟩) s = .next (answer "WINDOW_SET_INSTALL" 0
      (logEvent 0x0A (worldOfFunc f) (leBytes 4 d.djob ++ leBytes 1 d.window ++ leBytes 1 d.mode ++ leBytes 2 d.home)
        (installWindow (worldOfFunc f) d s))) := by
  rw [exec_windowSetInstall, execWindowSetInstall, loggedManagerReq_accepted h hv hx hf hl]
  simp only [hb, hj, hok, decide_true, Bool.and_self, Bool.false_eq_true, if_false, if_true]

end manager

/-! ## Timeouts and messages of management (R367, R369, R373) -/

theorem exec_fabricTimeout_fails {s : State} {rid : Nat} {r : FabReq}
    (hr : s.fabReqs.find? (fun q => q.rid = rid && decide (q.deadline ≤ s.gcyc)) = some r) :
    exec (.fabricTimeout rid) s = .next (failRequest r 0x0C s) := by
  rw [exec_fabricTimeout, execFabricTimeout, hr]

theorem exec_switchAdmitTimeout_ends {s : State} {k : Nat} {a : Admission}
    (ha : s.admissions.find? (fun q => q.ordinal = k && decide (q.deadline ≤ s.gcyc)) = some a) :
    exec (.switchAdmitTimeout k) s = .next (endAdmission a 0x10 s) := by
  rw [exec_switchAdmitTimeout, execSwitchAdmitTimeout, ha]

theorem exec_mgmt_steps {s : State} {m : FabMsg} {a : Admission} (hm : some m.dst = s.pkg) (hc : m.opc = 5)
    (ha : s.admissions.find? (fun q => q.swid = m.src) = some a) : exec (.mgmt m) s = .next (stepAdmission a m s) := by
  rw [exec_mgmt, execMgmt, if_neg (by simp [hm]), if_neg (by simp [hc]), ha]

theorem exec_mgmt_elsewhere {s : State} {m : FabMsg} (hm : some m.dst ≠ s.pkg) : exec (.mgmt m) s = .next s := by
  rw [exec_mgmt, execMgmt, if_pos (bne_iff_ne.2 hm)]

theorem exec_fabWrite_elsewhere {s : State} {m : FabMsg} (hm : some m.dst ≠ s.pkg) : exec (.fabWrite m) s = .next s := by
  rw [exec_fabWrite, execFabWrite, receive, if_pos (bne_iff_ne.2 hm)]

/-- Settles O52: a port's mask has one bit, a deadline and an admission are found by their `find?`, a membership that ends stops
every RED of its world, and the requests of a manager have the effect of their bodies. -/
theorem fabricManagement : Obligations.FabricManagement := by
  unfold Obligations.FabricManagement
  intro s
  refine ⟨fun p hp => ports_change_alone s hp, fun rid r => exec_fabricTimeout_fails, fun k a => exec_switchAdmitTimeout_ends,
    fun m a => exec_mgmt_steps, fun m hm => ⟨exec_mgmt_elsewhere hm, exec_fabWrite_elsewhere hm⟩, fun n x h hv hx hf => ?_⟩
  refine ⟨fun q hl hc hb => ?_, fun f j hl hc hj => exec_jobLeave_leaves h hv hx hf hl hc hj,
    fun q hl hc hb => exec_switchAdmit_asks h hv hx hf hl hc hb, fun f d j hb hj =>
    ⟨exec_windowSetMake_refused h hv hx hf hb hj, fun hok => exec_windowSetMake_made h hv hx hf hb hj hok rfl,
      exec_windowSetInstall_installs h hv hx hf hb hj⟩⟩
  cases hu : unwrapJob q with
  | none => exact exec_jobJoin_badKey h hv hx hf hl hc hb hu
  | some key => exact exec_jobJoin_joins h hv hx hf hl hc hb hu

end Sys2Proof.Proofs
